-- ==== Sys2Proof/Word.lean ====
section
/-! DEFINITION. The word types of the Solzia Thiath (R40, R41). -/

namespace Sys2Proof

/-- A scalar, predicate or stream register, an instruction word (R40, R45). -/
abbrev Word := BitVec 64

/-- A byte of memory, the smallest addressable unit (R176). -/
abbrev Byte := BitVec 8

/-- A vector register: 64 bytes, byte 0 in bits [7:0] (R41). -/
abbrev VWord := BitVec 512

end Sys2Proof
end

