-- ==== Sys2Proof/Syntax.lean ====
section
/-! DEFINITION. The syntax: operand fields (R45, R48, R55), the four formats, the operands of the
device's own events, and `Instr`, one constructor per row of the opcode table. -/

namespace Sys2Proof

/-- The type codes 0 to 14 of R55, in the order of their codes. Code 15 is reserved. -/
inductive Ty where
  | i8 | i16 | i32 | i64 | n8 | n16 | n32 | n64
  | fp32 | bf16 | fp16 | e4m3 | e5m2 | e2m1 | x
  deriving DecidableEq, Repr

/-- The guard field (R49): invert bit and predicate number. -/
structure Guard where
  inv : Bool
  p : BitVec 3
  deriving DecidableEq, Repr

/-- An 8-bit operand field (R48): a register number in the class the opcode fixes, or a stream with or
without post-increment. Small literals (a condition code, a source type code, the value of `CSET`)
stand in the same field and are read as the number of a `reg`. -/
inductive Opnd where
  | reg (n : BitVec 5)
  | inc (q : BitVec 3)
  | str (q : BitVec 3)
  deriving DecidableEq, Repr

/-- One pair of MODS bits (R45, R50). -/
structure SrcMod where
  neg : Bool
  abs : Bool
  deriving DecidableEq, Repr

/-- CLAMP (R45). -/
inductive Clamp where
  | none | sat | c01 | c11
  deriving DecidableEq, Repr

/-- SPACE (R45). -/
inductive Space where
  | gm | cm | sp | tcm
  deriving DecidableEq, Repr

/-- ORDER (R45). -/
inductive Order where
  | plain | acq | rel | both
  deriving DecidableEq, Repr

/-- SCOPE (R45). -/
inductive Scope where
  | cl | die | part | sys
  deriving DecidableEq, Repr

/-- The fields of a format 00 word (R45). -/
structure RegForm where
  g : Guard
  t : Ty
  dst : Opnd
  clamp : Clamp
  scale : BitVec 4
  s1 : Opnd
  s2 : Opnd
  s3 : Opnd
  m1 : SrcMod
  m2 : SrcMod
  m3 : SrcMod
  deriving DecidableEq, Repr

/-- The fields of a format 01 word (R45). -/
structure ImmForm where
  g : Guard
  t : Ty
  dst : Opnd
  src : Opnd
  imm : BitVec 28
  deriving DecidableEq, Repr

/-- The fields of a format 10 word (R45). -/
structure MemForm where
  g : Guard
  t : Ty
  data : Opnd
  base : Opnd
  off : BitVec 22
  space : Space
  order : Order
  scope : Scope
  deriving DecidableEq, Repr

/-- The fields of a format 11 word (R45). -/
structure CtlForm where
  g : Guard
  table : BitVec 6
  key : BitVec 5
  ind : BitVec 5
  subop : BitVec 32
  deriving DecidableEq, Repr

/-- A context of a partition. -/
structure CtxId where
  part : Nat
  ctx : Nat
  deriving DecidableEq, Repr

/-- A task, named by its creation number (R153). -/
structure TaskId where
  part : Nat
  ctx : Nat
  task : Nat
  deriving DecidableEq, Repr

/-- A thread, named by its task and its index in it (R16, R83). -/
structure TId where
  part : Nat
  ctx : Nat
  task : Nat
  thread : Nat
  deriving DecidableEq, Repr

/-- A seat of a logical core of a logical cluster of a context (R14, R16). -/
structure SeatId where
  part : Nat
  ctx : Nat
  cluster : Nat
  core : Nat
  seat : Nat
  deriving DecidableEq, Repr

/-- A group handle; `cluster` counts for the cluster-local handles only (R20). -/
structure GroupId where
  part : Nat
  ctx : Nat
  cluster : Nat
  handle : Nat
  deriving DecidableEq, Repr

/-- A training block: group 0 to 95 of stack 0 to 11 (R308). -/
structure BlockId where
  stack : Nat
  group : Nat
  deriving DecidableEq, Repr

/-- A page walk made for a logical cluster of a context (R229). -/
structure WalkId where
  ctx : Nat
  cluster : Nat
  va : Nat
  deriving DecidableEq, Repr

/-- What an ATS translation completion says (R231). -/
inductive AtsAnswer where
  | grant (hostPage : Nat) (rd wr : Bool)
  | denied
  | absent
  deriving DecidableEq, Repr

/-- What a PRI page response says (R231). -/
inductive PriAnswer where
  | success | invalid | failure
  deriving DecidableEq, Repr

/-- A command of the anchor mailbox (R319): the function whose mailbox it stands in (0 the physical
function, p + 1 the virtual function of partition p), command byte 1, and the arguments by their
place in R319's table. The spec gives the arguments no bit positions, so they stand by name. -/
structure MailCmd where
  fn : Nat
  part : Nat
  slot : Nat
  cluster : Nat
  unit : Nat
  rights : Nat
  ctx : Nat
  pattern : BitVec 64
  nonce : BitVec 256
  addr : Nat
  monitor : Nat
  base : Nat
  limit : Nat
  flag : Bool
  deriving DecidableEq, Repr

/-- What the physical function asks the scan path for (R330). -/
inductive ScanItem where
  | keySlot (slot : Nat)
  | doorSecret
  | attestationKey
  | scalar (t : TId) (n : BitVec 5)
  | vector (t : TId) (n : BitVec 5)
  | pc (t : TId)
  | tcmByte (ctx cluster core addr : Nat)
  | spByte (ctx cluster addr : Nat)
  | fullBit (ctx cluster : Nat) (core : Option Nat) (addr : Nat)
  | accWord (ctx cluster row col : Nat)
  | jobStatus (t : TId) (job : Nat)
  | cacheByte (k : TaskId) (cluster addr : Nat)
  | predicate (t : TId) (n : BitVec 3)
  | conditions (t : TId)
  | parameter (t : TId) (n : BitVec 2)
  | stream (t : TId) (n : BitVec 3)
  | status (t : TId) (reg : Nat)
  /-- The thread in a seat: its task and its index. -/
  | seat (x : SeatId)
  /-- The held ranges of a thread's scoreboard: space, address and length of each. -/
  | scoreboard (t : TId)
  /-- The jobs of an engine of a cluster that have not ended, queued, running and held, in order of issue, each as its
  issuer, its state and its command. -/
  | queue (ctx cluster unit : Nat)
  /-- A clean line of a cluster's window cache, by virtual line: is it forwarded, and its bytes. -/
  | cacheLine (ctx cluster line : Nat)
  | weight (ctx cluster : Nat) (shadow : Bool) (row col : Nat)
  | planeTag (ctx cluster : Nat) (shadow : Bool)
  | blockScale (ctx cluster : Nat) (shadow : Bool) (block col : Nat)
  deriving DecidableEq, Repr

/-- A signed image as ROM finds it (R312): its bytes, the public key and the signature (log entry 74). -/
structure BootImage where
  data : List (BitVec 8)
  modulus : Nat
  exponent : Nat
  signature : Nat
  deriving DecidableEq, Repr

/-- The images that ROM checks (R312): the anchor patch and the service firmware. -/
structure BootImages where
  patch : BootImage
  service : BootImage
  deriving DecidableEq, Repr

/-- A Span flit (R345): header, payload, and whether its CRC checks. -/
structure SpanFlit where
  header : BitVec 128
  payload : BitVec 1856
  crcGood : Bool
  deriving DecidableEq, Repr

/-- One constructor per row of the opcode table: first the instruction words, in the formats R58 gives
them, then the events by which the device and the outside world act. The docstring of a constructor
is its row's rule and summary. -/
inductive Instr where
  /-- R66. Adds two scalar registers at width w, wrapping or saturating under the destination clamp. -/
  | add (x : RegForm)
  /-- R66. Subtracts two scalar registers at width w, wrapping or saturating under the destination clamp. -/
  | sub (x : RegForm)
  /-- R66. Writes the low w bits of the product of two scalar registers. -/
  | mul (x : RegForm)
  /-- R66. Writes the high w bits of the exact 2w-bit product, signed for i types and unsigned for n types. -/
  | mulh (x : RegForm)
  /-- R67. Writes the quotient truncated toward zero, all ones on division by zero, without trapping. -/
  | div (x : RegForm)
  /-- R67. Writes the remainder with the sign of the dividend, the dividend itself on division by zero. -/
  | rem (x : RegForm)
  /-- R66. Writes the smaller of two scalar values, signed for i types and unsigned for n types. -/
  | min (x : RegForm)
  /-- R66. Writes the larger of two scalar values, signed for i types and unsigned for n types. -/
  | max (x : RegForm)
  /-- R66. Writes the bitwise and of two scalar registers. -/
  | and (x : RegForm)
  /-- R66. Writes the bitwise or of two scalar registers. -/
  | or (x : RegForm)
  /-- R66. Writes the bitwise xor of two scalar registers. -/
  | xor (x : RegForm)
  /-- R66. Writes a and not b. -/
  | andn (x : RegForm)
  /-- R66. Shifts a left by b mod w. -/
  | shl (x : RegForm)
  /-- R66. Shifts a right logically by b mod w. -/
  | shr (x : RegForm)
  /-- R66. Shifts a right arithmetically by b mod w. -/
  | sra (x : RegForm)
  /-- R66. Rotates a left by b mod w. -/
  | rot (x : RegForm)
  /-- R66. Counts the leading zeros of the w-bit source. -/
  | clz (x : RegForm)
  /-- R66. Counts the one bits of the w-bit source. -/
  | popc (x : RegForm)
  /-- R66. Reverses the bytes of the w-bit source. -/
  | bswap (x : RegForm)
  /-- R68. Extracts a bit field described by a descriptor register, sign- or zero-extended. -/
  | extb (x : RegForm)
  /-- R68. Replaces a bit field of a with the low bits of b under a descriptor register. -/
  | insb (x : RegForm)
  /-- R66. Writes s[A] plus s[B] times the type's byte size, modulo 2^64. -/
  | lea (x : RegForm)
  /-- R77. Adds two scalar floating-point values with one rounding. -/
  | fadd (x : RegForm)
  /-- R77. Subtracts two scalar floating-point values with one rounding. -/
  | fsub (x : RegForm)
  /-- R77. Multiplies two scalar floating-point values with one rounding. -/
  | fmul (x : RegForm)
  /-- R77. Forms a times b plus c with one rounding. -/
  | fma (x : RegForm)
  /-- R78. Writes the smaller of two floating-point values, ignoring a single NaN. -/
  | fmin (x : RegForm)
  /-- R78. Writes the larger of two floating-point values, ignoring a single NaN. -/
  | fmax (x : RegForm)
  /-- R79. Compares two floating-point values and writes one condition bit. -/
  | fcmp (x : RegForm)
  /-- R80. Converts a scalar between float and integer types. -/
  | fcvt (x : RegForm)
  /-- R81. Writes a one-hot class mask of a floating-point value. -/
  | fclass (x : RegForm)
  /-- R71. Compares two integer registers and writes one condition bit. -/
  | cmp (x : RegForm)
  /-- R72. Writes a boolean function of two condition bits to a condition bit. -/
  | cbit (x : RegForm)
  /-- R73. Writes 0 or 1 to one condition bit. -/
  | cset (x : RegForm)
  /-- R74. Selects one of two scalar registers by a condition bit. -/
  | sel (x : RegForm)
  /-- R75. Copies a scalar register to a scalar register. -/
  | movSS (x : RegForm)
  /-- R75. Copies a parameter register, zero-extended, to a scalar register. -/
  | movSA (x : RegForm)
  /-- R75. Copies the whole condition register to a scalar register. -/
  | movSC (x : RegForm)
  /-- R75. Writes all sixteen condition bits from a scalar register. -/
  | movCS (x : RegForm)
  /-- R75. Copies a predicate register to a scalar register. -/
  | movSP (x : RegForm)
  /-- R75. Copies a scalar register to a predicate register. -/
  | movPS (x : RegForm)
  /-- R75. Copies a stream pointer to a scalar register. -/
  | movSQ (x : RegForm)
  /-- R75. Copies a scalar register to a stream pointer. -/
  | movQS (x : RegForm)
  /-- R82. Reads a status register into a scalar register. -/
  | gets (x : RegForm)
  /-- R82. Writes a status register from a scalar register, effective for the next instruction. -/
  | puts (x : RegForm)
  /-- R69. Adds a sign-extended immediate to a scalar register. -/
  | addi (x : ImmForm)
  /-- R69. Ands a scalar register with an immediate. -/
  | andi (x : ImmForm)
  /-- R69. Ors a scalar register with an immediate. -/
  | ori (x : ImmForm)
  /-- R69. Xors a scalar register with an immediate. -/
  | xori (x : ImmForm)
  /-- R69. Shifts a scalar register left by an immediate. -/
  | shli (x : ImmForm)
  /-- R69. Shifts a scalar register right logically by an immediate. -/
  | shri (x : ImmForm)
  /-- R69. Shifts a scalar register right arithmetically by an immediate. -/
  | srai (x : ImmForm)
  /-- R69. Writes a sign-extended immediate to a scalar register. -/
  | movi (x : ImmForm)
  /-- R70. Replaces one 16-bit quarter of a scalar register with an immediate. -/
  | movhi (x : ImmForm)
  /-- R127. Adds vector elements per active element. -/
  | vadd (x : RegForm)
  /-- R127. Subtracts vector elements per active element. -/
  | vsub (x : RegForm)
  /-- R127. Multiplies vector elements per active element. -/
  | vmul (x : RegForm)
  /-- R127. Forms a times b plus c per active element with one rounding. -/
  | vfma (x : RegForm)
  /-- R128. Writes the per-element minimum. -/
  | vmin (x : RegForm)
  /-- R128. Writes the per-element maximum. -/
  | vmax (x : RegForm)
  /-- R128. Divides per element, correctly rounded. -/
  | vdiv (x : RegForm)
  /-- R128. Writes the per-element reciprocal, correctly rounded. -/
  | vrcp (x : RegForm)
  /-- R128. Writes the per-element reciprocal square root, correctly rounded. -/
  | vrsq (x : RegForm)
  /-- R128. Writes the per-element square root, correctly rounded. -/
  | vsqrt (x : RegForm)
  /-- R127. Writes the high half of the per-element integer product. -/
  | vmulh (x : RegForm)
  /-- R129. Writes the per-element bitwise and. -/
  | vand (x : RegForm)
  /-- R129. Writes the per-element bitwise or. -/
  | vor (x : RegForm)
  /-- R129. Writes the per-element bitwise xor. -/
  | vxor (x : RegForm)
  /-- R129. Shifts each element left by b mod w. -/
  | vshl (x : RegForm)
  /-- R129. Shifts each element right logically by b mod w. -/
  | vshr (x : RegForm)
  /-- R129. Shifts each element right arithmetically by b mod w. -/
  | vsra (x : RegForm)
  /-- R129. Counts the one bits of each element. -/
  | vpopc (x : RegForm)
  /-- R129. Counts the leading zeros of each element. -/
  | vclz (x : RegForm)
  /-- R130. Compares elements and writes each element's predicate bits. -/
  | vcmp (x : RegForm)
  /-- R131. Selects each element from a or b by a predicate. -/
  | vsel (x : RegForm)
  /-- R132. Rounds each element to an integral value in its own format. -/
  | frint (x : RegForm)
  /-- R133. Writes 2^f per element, rounded to nearest even. -/
  | fexf (x : RegForm)
  /-- R134. Writes y times 2^n per element with one rounding. -/
  | finsx (x : RegForm)
  /-- R135. Writes the floor of log2 of each element's magnitude. -/
  | fgetx (x : RegForm)
  /-- R136. Converts elements between two types of equal size. -/
  | vcvt (x : RegForm)
  /-- R137. Converts one register's elements exactly into a register group of wider elements. -/
  | vwiden (x : RegForm)
  /-- R138. Converts a register group's elements into one register of narrower elements. -/
  | vnarrow (x : RegForm)
  /-- R139. Broadcasts a scalar into every active element. -/
  | vbcast (x : RegForm)
  /-- R139. Extracts one element into a scalar register. -/
  | vext (x : RegForm)
  /-- R139. Inserts a scalar into one element. -/
  | vins (x : RegForm)
  /-- R139. Permutes elements of two registers by an index vector. -/
  | vperm (x : RegForm)
  /-- R139. Slides elements of two registers by a scalar amount. -/
  | vslide (x : RegForm)
  /-- R140. Interleaves two registers into a pair. -/
  | vzip (x : RegForm)
  /-- R140. De-interleaves a pair into two registers. -/
  | vunzip (x : RegForm)
  /-- R141. Packs the active elements to the low end. -/
  | vcompress (x : RegForm)
  /-- R141. Spreads consecutive elements into the active positions. -/
  | vexpand (x : RegForm)
  /-- R141. Writes the running count of active elements. -/
  | viota (x : RegForm)
  /-- R142. Sums the active elements by the fixed pairwise tree into a scalar. -/
  | vredadd (x : RegForm)
  /-- R142. Writes the largest active element into a scalar. -/
  | vredmax (x : RegForm)
  /-- R142. Writes the smallest active element into a scalar. -/
  | vredmin (x : RegForm)
  /-- R142. Writes the value and index of the largest active element. -/
  | vargmax (x : RegForm)
  /-- R118. Writes prefix sums in ascending element order. -/
  | vscan (x : RegForm)
  /-- R143. Writes the and of two predicates under the guard. -/
  | pand (x : RegForm)
  /-- R143. Writes the or of two predicates under the guard. -/
  | por (x : RegForm)
  /-- R143. Writes the xor of two predicates under the guard. -/
  | pxor (x : RegForm)
  /-- R143. Writes the complement of a predicate under the guard. -/
  | pnot (x : RegForm)
  /-- R144. Marks only the first active set element. -/
  | pfirst (x : RegForm)
  /-- R144. Sets the predicate bits of active elements below a count. -/
  | psetn (x : RegForm)
  /-- R144. Counts active elements whose predicate bit is set. -/
  | pcount (x : RegForm)
  /-- R144. Writes a condition bit for any or all active elements set. -/
  | ptest (x : RegForm)
  /-- R197. Loads one scalar element from memory. -/
  | ld (x : MemForm)
  /-- R197. Stores one scalar element to memory or the task's buffer. -/
  | st (x : MemForm)
  /-- R198. Loads 64 bytes into a vector register element by element. -/
  | ldv (x : MemForm)
  /-- R198. Stores a vector register's active elements. -/
  | stv (x : MemForm)
  /-- R199. Loads vector elements at a fixed stride. -/
  | ldvs (x : MemForm)
  /-- R199. Stores vector elements at a fixed stride. -/
  | stvs (x : MemForm)
  /-- R200. Gathers vector elements by an index vector. -/
  | ldg (x : MemForm)
  /-- R200. Scatters vector elements by an index vector. -/
  | stg (x : MemForm)
  /-- R201. Atomically adds and returns the old value. -/
  | aadd (x : MemForm)
  /-- R201. Atomically takes the minimum and returns the old value. -/
  | amin (x : MemForm)
  /-- R201. Atomically takes the maximum and returns the old value. -/
  | amax (x : MemForm)
  /-- R201. Atomically ands and returns the old value. -/
  | aand (x : MemForm)
  /-- R201. Atomically ors and returns the old value. -/
  | aor (x : MemForm)
  /-- R201. Atomically xors and returns the old value. -/
  | axor (x : MemForm)
  /-- R201. Atomically swaps and returns the old value. -/
  | aswap (x : MemForm)
  /-- R202. Atomically compares and swaps, reporting failure in c15. -/
  | acas (x : MemForm)
  /-- R120. Atomically adds an FP32 value exactly into a fixed-point cell. -/
  | aaddf (x : MemForm)
  /-- R121. Reads a fixed-point cell atomically and rounds it to FP32. -/
  | cellrd (x : MemForm)
  /-- R207. Orders the thread's accesses as an acquire, release or full fence at a scope. -/
  | fence (x : MemForm)
  /-- R208. Fences only the thread's accesses within an address range. -/
  | fencer (x : MemForm)
  /-- R204. Waits until a word's full bit is full and reads it, leaving the bit full. -/
  | ldf (x : MemForm)
  /-- R204. Waits until a word is full, reads it and sets it empty in one atomic action. -/
  | ldfEmpty (x : MemForm)
  /-- R205. Stores a word and sets its full bit as one release. -/
  | stf (x : MemForm)
  /-- R206. Sets empty the full bits of a word range. -/
  | clre (x : MemForm)
  /-- R210. Writes a fresh TCB image header and detaches it from any task. -/
  | tnew (x : MemForm)
  /-- R211. Writes a window record into a TCB slot and, for a live task, derives its edges. -/
  | twin (x : MemForm)
  /-- R212. Submits a TCB image, creating a task and deriving its dependences, or refuses it with a status. -/
  | tsubmit (x : MemForm)
  /-- R213. Waits until a task is DONE, FAILED or ABORTED and returns its state. -/
  | twait (x : MemForm)
  /-- R214. Returns a task's state fields without waiting. -/
  | tstat (x : MemForm)
  /-- R215. Aborts the attached task with its cascade. -/
  | tcancel (x : MemForm)
  /-- R216. Returns a FAILED task to WAITING or READY for a new run. -/
  | tretry (x : MemForm)
  /-- R217. Aborts the speculative tasks of a sequence from a position onward. -/
  | tabort (x : MemForm)
  /-- R218. Waits until a fence counter reaches a value, as an acquire. -/
  | fcwait (x : MemForm)
  /-- R219. Adds to a fence counter at home as a release. -/
  | fcadd (x : MemForm)
  /-- R245. Commands a copy-unit job that copies rows. -/
  | cpy (x : MemForm)
  /-- R245. Commands a copy job that takes each source word only when full and empties it. -/
  | cpyf (x : MemForm)
  /-- R235. Commands a copy job that gathers rows by an index list. -/
  | gath (x : MemForm)
  /-- R245. Commands a copy job that scatters rows by an index list. -/
  | scat (x : MemForm)
  /-- R245. Commands a copy job that fills rows with a pattern. -/
  | fill (x : MemForm)
  /-- R236. Waits until a job of the thread has finished and reports error in c15. -/
  | jwait (x : MemForm)
  /-- R242. Reports a job's status and progress without waiting. -/
  | jstat (x : MemForm)
  /-- R254. Commands a producer job that puts one record into a byte ring. -/
  | rput (x : MemForm)
  /-- R255. Takes the next data record of a byte ring, waiting while it is empty. -/
  | rgetTake (x : MemForm)
  /-- R255. Takes the next data record of a byte ring, or reports c15 when empty. -/
  | rgetPoll (x : MemForm)
  /-- R255. Releases the record at the ring's tail. -/
  | rgetDone (x : MemForm)
  /-- R256. Starts a load or store feed between a global window and a TCM ring. -/
  | feed (x : MemForm)
  /-- R258. Stops an active feed of the thread. -/
  | unfeed (x : MemForm)
  /-- R259. Contributes to a collective round across a partition-wide group. -/
  | coll (x : MemForm)
  /-- R276. Commands a load of a weight tile into the shadow plane. -/
  | mwld (x : MemForm)
  /-- R277. Commands the exchange of the active and shadow planes. -/
  | mwswap (x : MemForm)
  /-- R278. Commands zeroing of accumulator rows. -/
  | mzero (x : MemForm)
  /-- R279. Commands conversion of accumulator rows to memory. -/
  | mdrain (x : MemForm)
  /-- R278. Streams BF16 activation rows past BF16 weights into the accumulator. -/
  | mstreamBf16Bf16 (x : MemForm)
  /-- R278. Streams FP16 activation rows past FP16 weights into the accumulator. -/
  | mstreamFp16Fp16 (x : MemForm)
  /-- R278. Streams E4M3 activations past E4M3 weights. -/
  | mstreamE4m3E4m3 (x : MemForm)
  /-- R278. Streams E4M3 activations past E5M2 weights. -/
  | mstreamE4m3E5m2 (x : MemForm)
  /-- R278. Streams E5M2 activations past E4M3 weights. -/
  | mstreamE5m2E4m3 (x : MemForm)
  /-- R278. Streams E5M2 activations past E5M2 weights. -/
  | mstreamE5m2E5m2 (x : MemForm)
  /-- R278. Streams MXFP8 activations past MXFP8 weights with a tensor scale. -/
  | mstreamMxe4m3Mxe4m3 (x : MemForm)
  /-- R278. Streams MXFP4 activations past MXFP4 weights with a tensor scale. -/
  | mstreamMxe2m1Mxe2m1 (x : MemForm)
  /-- R278. Streams MXFP4 activations past MXFP8 weights with a tensor scale. -/
  | mstreamMxe2m1Mxe4m3 (x : MemForm)
  /-- R116. Streams i8 activations past i8 weights into integer accumulators. -/
  | mstreamI8I8 (x : MemForm)
  /-- R291. Opens a sequence with zero map entries and an empty snapshot ring. -/
  | ssopen (x : MemForm)
  /-- R292. Copies a range of a sequence's state into scratchpad or TCM. -/
  | ssload (x : MemForm)
  /-- R292. Writes a range of state, copying shared pages before writing. -/
  | sssave (x : MemForm)
  /-- R293. Records the current map as the snapshot for a position. -/
  | ssnap (x : MemForm)
  /-- R264. Restores a sequence's map to a snapshot and drops later snapshots. -/
  | ssrewind (x : MemForm)
  /-- R294. Creates a new sequence from a snapshot of another. -/
  | ssfork (x : MemForm)
  /-- R295. Releases a sequence's pages and closes it. -/
  | ssclose (x : MemForm)
  /-- R265. Opens a combine id for n contributions with the issuer as owner. -/
  | smopen (x : MemForm)
  /-- R265. Contributes a value-index pair to a combine, waiting while it cannot be counted. -/
  | smpost (x : MemForm)
  /-- R265. Waits for all contributions and returns the combine's winner, closing it. -/
  | smtake (x : MemForm)
  /-- R299. Adds reproducible Gumbel noise keyed by token index to each element. -/
  | smnoise (x : MemForm)
  /-- R268. Sets to minus infinity the elements whose mask bit is clear. -/
  | gmask (x : MemForm)
  /-- R267. Waits for a word's full bit up to a deadline. -/
  | gwait (x : MemForm)
  /-- R304. Turns input bytes into token ids by longest match in a trie table. -/
  | tkstep (x : MemForm)
  /-- R270. Atomically moves a descriptor to the tail of a list. -/
  | lmove (x : MemForm)
  /-- R305. Atomically removes the first descriptor of a list. -/
  | lpop (x : MemForm)
  /-- R305. Atomically appends a descriptor that is on no list. -/
  | lpush (x : MemForm)
  /-- R85. Ends a block and looks up the key c:sK in a match table. -/
  | next (x : CtlForm)
  /-- R86. Makes a table lookup and delivers the result as data. -/
  | matchT (x : CtlForm)
  /-- R88. Writes one entry or the header of a table's back shutter on every cluster. -/
  | tbw (x : CtlForm)
  /-- R89. Reads an entry or header of the back or front shutter of its own cluster. -/
  | tbr (x : CtlForm)
  /-- R32. Clears every entry of a table's back shutter. -/
  | tbclr (x : CtlForm)
  /-- R32. Copies a table's front shutter to its back shutter. -/
  | tbcopy (x : CtlForm)
  /-- R33. Publishes the back shutter as the next generation on every cluster. -/
  | tbflip (x : CtlForm)
  /-- R35. Pins the current generation of a table for the thread. -/
  | tbpin (x : CtlForm)
  /-- R35. Releases the thread's pin on a table. -/
  | tbunpin (x : CtlForm)
  /-- R94. Parks the thread with cause 0x07 and a code. -/
  | trap (x : CtlForm)
  /-- R95. Restarts a parked thread of the task in one of three modes. -/
  | resume (x : CtlForm)
  /-- R94. Parks the thread with cause 0x0F and a code. -/
  | brk (x : CtlForm)
  /-- R96. Does nothing. -/
  | nop (x : CtlForm)
  /-- R97. Waits for a job completion of the thread or a cycle count, using the event latch. -/
  | waite (x : CtlForm)
  /-- R21. Joins a group, waiting while another task's group holds the handle. -/
  | gjoin (x : CtlForm)
  /-- R21. Leaves a group, counting as arrival in an open phase. -/
  | gleave (x : CtlForm)
  /-- R92. Arrives at the group's barrier and waits for the phase to complete. -/
  | gbar (x : CtlForm)
  /-- R93. Returns a group's member count. -/
  | gsize (x : CtlForm)
  /-- R234. Shoots down translations of a range, context or partition; firmware only. -/
  | xinv (x : CtlForm)
  /-- R28. A table lookup's three-cycle wait ends and its outcome acts on the thread. -/
  | lookupComplete (t : TId)
  /-- R13. A WAITING thread's stall ends and it becomes READY. -/
  | stallResolves (t : TId)
  /-- R43. An allocated vector bank enters retention after its thread has waited 256 cycles. -/
  | bankRetention (t : TId) (bank : Nat)
  /-- R14. The core's power policy gates a free seat. -/
  | seatGate (x : SeatId)
  /-- R17. A freed seat is bound to the first claimant, a pending thread or a waiting gang task. -/
  | threadBind (x : SeatId)
  /-- R13. A YIELDED thread returns to its own seat once it is free. -/
  | yieldReturn (t : TId)
  /-- R162. The head of the ready queue is granted clusters and a log reservation and becomes RUNNING. -/
  | dispatch (part : Nat)
  /-- R172. A COMMITTING task is granted commit through its commit-queue segment and its flush begins. -/
  | commitGrant (k : TaskId)
  /-- R170. A task's flush completes, its fence counter is added and it becomes DONE. -/
  | flushComplete (k : TaskId)
  /-- R165. All threads of a FAULTED task have stopped and it becomes FAILED. -/
  | taskStopComplete (k : TaskId)
  /-- R164. ENERGYUSED is updated and CURCLASS rises at each multiple of ENERGY. -/
  | energyMeterUpdate (k : TaskId) (mj : Nat)
  /-- R32. A cluster applies a directory message for a table write, clear, copy or flip between lookups. -/
  | tableOpApply (k : CtxId) (cluster : Nat)
  /-- R31. The table directory's reply returns to the issuing seat with the result or refusal. -/
  | tableDirectoryReply (t : TId)
  /-- R22. Every current member has arrived and the members become READY. -/
  | barrierPhaseComplete (g : GroupId)
  /-- R95. A resume message reaches the target's cluster controller and restarts a parked thread. -/
  | resumeMessage (t : TId)
  /-- R249. An engine command message reaches the controller, is checked at the door and queued. -/
  | engineCommandArrive (t : TId) (job : Nat)
  /-- R237. A job queue entry frees and a waiting command takes it. -/
  | jobQueueEntryFree (t : TId)
  /-- R237. An engine starts a queued job by CURCLASS then arrival. -/
  | jobStart (t : TId) (job : Nat)
  /-- R239. A job reaches a final status and sets the issuer's event latch. -/
  | jobComplete (t : TId) (job : Nat)
  /-- R239. A HELD job can run again when its word fills, ring room appears or a round completes. -/
  | heldJobRelease (t : TId) (job : Nat)
  /-- R260. Every member of a collective round has issued and all jobs finish DONE. -/
  | roundComplete (g : GroupId)
  /-- R285. Every 4,096 cycles the matrix engine's current slot changes. -/
  | matrixSlotChange
  /-- R267. A GWAIT's deadline expires with c15 set. -/
  | gwaitTimeout (t : TId)
  /-- R97. A WAITE's cycle count expires with c15 clear. -/
  | waiteTimeout (t : TId)
  /-- R341. A context's slice ends and it is quiesced and saved. -/
  | sliceEnd (k : CtxId)
  /-- R337. The next context is restored onto the freed clusters. -/
  | contextLoad (k target : CtxId) (clusters : List Nat)
  /-- R342. An absent register granule of a restored thread is filled. -/
  | granuleFill (t : TId) (granule : Nat)
  /-- R225. A held parked or replayable record is written when its ring has room. -/
  | heldRecordWrite (part : Nat)
  /-- R227. The reporting port serves virtual functions' records in weighted rounds. -/
  | reportRound
  /-- R229. A page walk finishes, caching a translation or raising a fault, and checks a prediction. -/
  | translationWalkComplete (part : Nat) (w : WalkId)
  /-- R232. Every cluster has removed matching entries and squashed walks, completing a shoot-down. -/
  | shootdownComplete (part : Nat)
  /-- R231. An ATS translation completion arrives and is cached or denies the access. -/
  | atsCompletion (k : CtxId) (page : Nat) (r : AtsAnswer)
  /-- R231. A PRI page response arrives and repeats or faults the held access. -/
  | priResponse (k : CtxId) (page : Nat) (r : PriAnswer)
  /-- R231. A host ATS invalidation request is applied as a shoot-down and completed. -/
  | atsInvalidation (part : Nat) (pasid : Nat) (page : Nat) (pages : Nat)
  /-- R338. Host command OP 0x01 opens a context from its descriptor. -/
  | openContext (part : Nat) (img : BitVec 256)
  /-- R338. Host command OP 0x02 closes a context with an empty tracker. -/
  | closeContext (part : Nat) (img : BitVec 256)
  /-- R338. Host command OP 0x03 resumes a parked thread as RESUME does. -/
  | resumeThread (part : Nat) (img : BitVec 256)
  /-- R338. Host command OP 0x04 cancels a task as TCANCEL does. -/
  | cancelTask (part : Nat) (img : BitVec 256)
  /-- R338. Host command OP 0x05 retries a task as TRETRY does. -/
  | retryTask (part : Nat) (img : BitVec 256)
  /-- R338. Host command OP 0x06 shoots down translations as XINV does. -/
  | shootDown (part : Nat) (img : BitVec 256)
  /-- R339. Host command OP 0x07 loads a Privin object into a context and submits its launches. -/
  | loadObject (part : Nat) (img : BitVec 256)
  /-- R241. Host command OP 0x08 restarts a job HELD on an absent page. -/
  | resumeJob (part : Nat) (img : BitVec 256)
  /-- R340. The host raises a queue's HEAD, making new entries available for execution. -/
  | hostQueueHeadWrite (part q : Nat) (head : BitVec 32)
  /-- R340. A SUBMIT entry submits a TCB as TSUBMIT does, or stops the queue on refusal. -/
  | hostQueueSubmit (part q : Nat)
  /-- R340. A WAIT entry holds the queue until a fence counter reaches a value. -/
  | hostQueueWait (part q : Nat)
  /-- R340. Writing 1 to STOPPED clears it and restarts the queue at TAIL. -/
  | hostQueueRestart (part q : Nat)
  /-- R224. The host advances a fault ring's TAIL, freeing room. -/
  | faultRingTailWrite (part : Nat) (terminal : Bool) (tail : BitVec 32)
  /-- R226. Writing 1 to STOPPED clears the overflow slot and count and restarts dispatch. -/
  | overflowStoppedClear (part : Nat)
  /-- R343. At the end of a launch window the percentiles are compared with their bounds. -/
  | qosWindowEnd (part : Nat)
  /-- R333. A PARTREQ write with GO forms a partition node. -/
  | partitionRequest (img : BitVec 64)
  /-- R333. A PARTREQ write with GO and DISSOLVE makes an idle node unformed. -/
  | dissolve (img : BitVec 64)
  /-- R320. Mailbox command fills an empty key slot with a fresh key. -/
  | keygen (c : MailCmd)
  /-- R320. Mailbox command zeroes a key slot after squashing accesses using it. -/
  | keyerase (c : MailCmd)
  /-- R322. Mailbox command returns a door key for the partition's own door. -/
  | mint (c : MailCmd)
  /-- R248. Mailbox command raises a door's epoch, redrawing the door secret on wrap. -/
  | epoch (c : MailCmd)
  /-- R323. Mailbox command overwrites a closed context's resources and writes a signed receipt. -/
  | scrub (c : MailCmd)
  /-- R325. Mailbox command sets and enables an access monitor's range and clears its counts. -/
  | logcfg (c : MailCmd)
  /-- R326. Mailbox command takes all monitors at one instant and writes a signed log. -/
  | logexport (c : MailCmd)
  /-- R330. Mailbox command from a virtual function permits scan of its partition. -/
  | allowscan (c : MailCmd)
  /-- R329. Mailbox command gates every clock of a partition in one cycle. -/
  | freeze (c : MailCmd)
  /-- R329. Mailbox command resumes a frozen partition. -/
  | thaw (c : MailCmd)
  /-- R330. The physical function reads a frozen partition's state through the scan path. -/
  | scanRead (part : Nat) (what : ScanItem)
  /-- R331. The anchor firmware sends marker tokens to every unit to take a consistent cut. -/
  | markerCut
  /-- R331. A unit's first marker records its state and forwards markers on its channels. -/
  | markerReceive (unit chan : Nat)
  /-- R309. A training-block command word with OP 0 is ignored. -/
  | noCommand (b : BlockId) (word : BitVec 64)
  /-- R309. OP 1 sets RDTAP and runs a tap test. -/
  | readTapTest (b : BlockId) (word : BitVec 64)
  /-- R309. OP 2 sets WRTAP and runs a tap test. -/
  | writeTapTest (b : BlockId) (word : BitVec 64)
  /-- R310. OP 3 makes the spare lane carry a lane until stack reset. -/
  | laneRepair (b : BlockId) (word : BitVec 64)
  /-- R309. OP 4 runs the long pattern test at the current taps. -/
  | patternTest (b : BlockId) (word : BitVec 64)
  /-- R315. An atomic setting ENTER puts a group in service after a passing pattern test, releasing held HBM accesses. -/
  | enter (b : BlockId)
  /-- R315. Service firmware writes FAILED to give up on a stack. -/
  | stackFailedWrite (stack : Nat)
  /-- R328. Writing 1 to the alarm register returns level 1 to 0. -/
  | alarmClear
  /-- R334. A write to a device register that has no behaviour of its own. -/
  | registerWrite (fn : Nat) (offset : Nat) (value : BitVec 64)
  /-- R344. A posted host write to device memory takes effect in link order. -/
  | hostWrite (fn : Nat) (addr : Nat) (data : List (BitVec 8))
  /-- R344. A host read returns after every earlier posted write of its function. -/
  | hostRead (fn : Nat) (addr : Nat) (n : Nat)
  /-- R345. A Span flit arrives and is delivered or replayed on CRC failure. -/
  | flitReceive (port : Nat) (flit : SpanFlit)
  /-- R345. A failing Span port is removed from its direction. -/
  | spanPortFail (port : Nat)
  /-- R312. Power-on starts the module in stage 0. -/
  | powerOn
  /-- R312. Module reset returns the module to stage 0. -/
  | moduleReset
  /-- R312. ROM finishes reading the fuses, ending stage 0. -/
  | fusesRead
  /-- R312. The anchor patch and service image signatures are checked, ending stage 1 or raising a failure. -/
  | signatureCheck (images : BootImages) (erasepol : Bool)
  /-- R312. The host link finishes training, ending stage 2. -/
  | hostLinkUp
  /-- R317. A die's stacks are in service, starting reduced service or closing its bring-up context. -/
  | dieTrained (die : Nat)
  /-- R314. The anchor firmware closes a trained die's bring-up context and scrubs it. -/
  | bringupContextClose (die : Nat)
  /-- R313. Every die is trained and the clock changes to 1.7 GHz in one step. -/
  | fullServiceEntry
  /-- R327. A voltage or clock glitch raises the alarm level. -/
  | voltageGlitch
  /-- R327. A tamper-mesh break raises the alarm to at least 2. -/
  | tamperMeshBreak
  /-- R347. Above the power or temperature limit the clock falls in steps. -/
  | clockThrottle (sixteenths : Nat)
  /-- R309. A training block finishes a tap test, repair or pattern test some cycles after it began, writes RESULT, and starts the next queued command and any held RESULT load or ENTER. -/
  | trainingCommandComplete (b : BlockId)
  /-- R310. A stack reset clears a repair, INSERVICE and returns RDTAP and WRTAP to their reset values. -/
  | stackReset (stack : Nat)
  deriving DecidableEq, Repr

end Sys2Proof
end

