-- ==== Sys2Proof/WellFormed.lean ====
section
/-! DEFINITION. Which operands an instruction word may have: decode steps 2 and 3 of R57, from the
field tables of R47 to R56, R66, R69 to R82, R85 to R97, R126, R192, R209, R234, R243, R255, R262,
R265, R267, R268, R270, R274, R290, R299, R302, R305. -/

namespace Sys2Proof

/-- An instruction's format, opcode and fields (R45). -/
inductive Code where
  | reg (op : Nat) (x : RegForm)
  | imm (op : Nat) (x : ImmForm)
  | mem (op : Nat) (x : MemForm)
  | ctl (op : Nat) (x : CtlForm)
  deriving DecidableEq, Repr

/-- The opcode map of R58. An event of the device has no word. -/
def Instr.code : Instr → Option Code
  | .add x => some (.reg 0x001 x)
  | .sub x => some (.reg 0x002 x)
  | .mul x => some (.reg 0x003 x)
  | .mulh x => some (.reg 0x004 x)
  | .div x => some (.reg 0x005 x)
  | .rem x => some (.reg 0x006 x)
  | .min x => some (.reg 0x007 x)
  | .max x => some (.reg 0x008 x)
  | .and x => some (.reg 0x009 x)
  | .or x => some (.reg 0x00A x)
  | .xor x => some (.reg 0x00B x)
  | .andn x => some (.reg 0x00C x)
  | .shl x => some (.reg 0x00D x)
  | .shr x => some (.reg 0x00E x)
  | .sra x => some (.reg 0x00F x)
  | .rot x => some (.reg 0x010 x)
  | .clz x => some (.reg 0x011 x)
  | .popc x => some (.reg 0x012 x)
  | .bswap x => some (.reg 0x013 x)
  | .extb x => some (.reg 0x014 x)
  | .insb x => some (.reg 0x015 x)
  | .lea x => some (.reg 0x016 x)
  | .fadd x => some (.reg 0x040 x)
  | .fsub x => some (.reg 0x041 x)
  | .fmul x => some (.reg 0x042 x)
  | .fma x => some (.reg 0x043 x)
  | .fmin x => some (.reg 0x044 x)
  | .fmax x => some (.reg 0x045 x)
  | .fcmp x => some (.reg 0x046 x)
  | .fcvt x => some (.reg 0x047 x)
  | .fclass x => some (.reg 0x048 x)
  | .cmp x => some (.reg 0x060 x)
  | .cbit x => some (.reg 0x061 x)
  | .cset x => some (.reg 0x062 x)
  | .sel x => some (.reg 0x063 x)
  | .movSS x => some (.reg 0x064 x)
  | .movSA x => some (.reg 0x065 x)
  | .movSC x => some (.reg 0x066 x)
  | .movCS x => some (.reg 0x067 x)
  | .movSP x => some (.reg 0x068 x)
  | .movPS x => some (.reg 0x069 x)
  | .movSQ x => some (.reg 0x06A x)
  | .movQS x => some (.reg 0x06B x)
  | .gets x => some (.reg 0x06C x)
  | .puts x => some (.reg 0x06D x)
  | .addi x => some (.imm 0x001 x)
  | .andi x => some (.imm 0x002 x)
  | .ori x => some (.imm 0x003 x)
  | .xori x => some (.imm 0x004 x)
  | .shli x => some (.imm 0x005 x)
  | .shri x => some (.imm 0x006 x)
  | .srai x => some (.imm 0x007 x)
  | .movi x => some (.imm 0x008 x)
  | .movhi x => some (.imm 0x009 x)
  | .vadd x => some (.reg 0x100 x)
  | .vsub x => some (.reg 0x101 x)
  | .vmul x => some (.reg 0x102 x)
  | .vfma x => some (.reg 0x103 x)
  | .vmin x => some (.reg 0x104 x)
  | .vmax x => some (.reg 0x105 x)
  | .vdiv x => some (.reg 0x106 x)
  | .vrcp x => some (.reg 0x107 x)
  | .vrsq x => some (.reg 0x108 x)
  | .vsqrt x => some (.reg 0x109 x)
  | .vmulh x => some (.reg 0x10A x)
  | .vand x => some (.reg 0x10B x)
  | .vor x => some (.reg 0x10C x)
  | .vxor x => some (.reg 0x10D x)
  | .vshl x => some (.reg 0x10E x)
  | .vshr x => some (.reg 0x10F x)
  | .vsra x => some (.reg 0x110 x)
  | .vpopc x => some (.reg 0x111 x)
  | .vclz x => some (.reg 0x112 x)
  | .vcmp x => some (.reg 0x113 x)
  | .vsel x => some (.reg 0x114 x)
  | .frint x => some (.reg 0x180 x)
  | .fexf x => some (.reg 0x181 x)
  | .finsx x => some (.reg 0x182 x)
  | .fgetx x => some (.reg 0x183 x)
  | .vcvt x => some (.reg 0x184 x)
  | .vwiden x => some (.reg 0x185 x)
  | .vnarrow x => some (.reg 0x186 x)
  | .vbcast x => some (.reg 0x1C0 x)
  | .vext x => some (.reg 0x1C1 x)
  | .vins x => some (.reg 0x1C2 x)
  | .vperm x => some (.reg 0x1C3 x)
  | .vslide x => some (.reg 0x1C4 x)
  | .vzip x => some (.reg 0x1C5 x)
  | .vunzip x => some (.reg 0x1C6 x)
  | .vcompress x => some (.reg 0x1C7 x)
  | .vexpand x => some (.reg 0x1C8 x)
  | .viota x => some (.reg 0x1C9 x)
  | .vredadd x => some (.reg 0x1CA x)
  | .vredmax x => some (.reg 0x1CB x)
  | .vredmin x => some (.reg 0x1CC x)
  | .vargmax x => some (.reg 0x1CD x)
  | .vscan x => some (.reg 0x1CE x)
  | .pand x => some (.reg 0x1CF x)
  | .por x => some (.reg 0x1D0 x)
  | .pxor x => some (.reg 0x1D1 x)
  | .pnot x => some (.reg 0x1D2 x)
  | .pfirst x => some (.reg 0x1D3 x)
  | .psetn x => some (.reg 0x1D4 x)
  | .pcount x => some (.reg 0x1D5 x)
  | .ptest x => some (.reg 0x1D6 x)
  | .ld x => some (.mem 0x001 x)
  | .st x => some (.mem 0x002 x)
  | .ldv x => some (.mem 0x003 x)
  | .stv x => some (.mem 0x004 x)
  | .ldvs x => some (.mem 0x005 x)
  | .stvs x => some (.mem 0x006 x)
  | .ldg x => some (.mem 0x007 x)
  | .stg x => some (.mem 0x008 x)
  | .aadd x => some (.mem 0x040 x)
  | .amin x => some (.mem 0x041 x)
  | .amax x => some (.mem 0x042 x)
  | .aand x => some (.mem 0x043 x)
  | .aor x => some (.mem 0x044 x)
  | .axor x => some (.mem 0x045 x)
  | .aswap x => some (.mem 0x046 x)
  | .acas x => some (.mem 0x047 x)
  | .aaddf x => some (.mem 0x048 x)
  | .cellrd x => some (.mem 0x049 x)
  | .fence x => some (.mem 0x060 x)
  | .fencer x => some (.mem 0x061 x)
  | .ldf x => some (.mem 0x062 x)
  | .ldfEmpty x => some (.mem 0x062 x)
  | .stf x => some (.mem 0x063 x)
  | .clre x => some (.mem 0x064 x)
  | .tnew x => some (.mem 0x080 x)
  | .twin x => some (.mem 0x081 x)
  | .tsubmit x => some (.mem 0x082 x)
  | .twait x => some (.mem 0x083 x)
  | .tstat x => some (.mem 0x084 x)
  | .tcancel x => some (.mem 0x085 x)
  | .tretry x => some (.mem 0x086 x)
  | .tabort x => some (.mem 0x087 x)
  | .fcwait x => some (.mem 0x088 x)
  | .fcadd x => some (.mem 0x089 x)
  | .cpy x => some (.mem 0x0C0 x)
  | .cpyf x => some (.mem 0x0C1 x)
  | .gath x => some (.mem 0x0C2 x)
  | .scat x => some (.mem 0x0C3 x)
  | .fill x => some (.mem 0x0C4 x)
  | .jwait x => some (.mem 0x0C5 x)
  | .jstat x => some (.mem 0x0C6 x)
  | .rput x => some (.mem 0x0C7 x)
  | .rgetTake x => some (.mem 0x0C8 x)
  | .rgetPoll x => some (.mem 0x0C8 x)
  | .rgetDone x => some (.mem 0x0C8 x)
  | .feed x => some (.mem 0x0C9 x)
  | .unfeed x => some (.mem 0x0CA x)
  | .coll x => some (.mem 0x0CB x)
  | .mwld x => some (.mem 0x100 x)
  | .mwswap x => some (.mem 0x101 x)
  | .mzero x => some (.mem 0x102 x)
  | .mdrain x => some (.mem 0x103 x)
  | .mstreamBf16Bf16 x => some (.mem 0x110 x)
  | .mstreamFp16Fp16 x => some (.mem 0x111 x)
  | .mstreamE4m3E4m3 x => some (.mem 0x112 x)
  | .mstreamE4m3E5m2 x => some (.mem 0x113 x)
  | .mstreamE5m2E4m3 x => some (.mem 0x114 x)
  | .mstreamE5m2E5m2 x => some (.mem 0x115 x)
  | .mstreamMxe4m3Mxe4m3 x => some (.mem 0x116 x)
  | .mstreamMxe2m1Mxe2m1 x => some (.mem 0x117 x)
  | .mstreamMxe2m1Mxe4m3 x => some (.mem 0x118 x)
  | .mstreamI8I8 x => some (.mem 0x119 x)
  | .ssopen x => some (.mem 0x180 x)
  | .ssload x => some (.mem 0x181 x)
  | .sssave x => some (.mem 0x182 x)
  | .ssnap x => some (.mem 0x183 x)
  | .ssrewind x => some (.mem 0x184 x)
  | .ssfork x => some (.mem 0x185 x)
  | .ssclose x => some (.mem 0x186 x)
  | .smopen x => some (.mem 0x188 x)
  | .smpost x => some (.mem 0x189 x)
  | .smtake x => some (.mem 0x18A x)
  | .smnoise x => some (.mem 0x18B x)
  | .gmask x => some (.mem 0x190 x)
  | .gwait x => some (.mem 0x191 x)
  | .tkstep x => some (.mem 0x198 x)
  | .lmove x => some (.mem 0x1A0 x)
  | .lpop x => some (.mem 0x1A1 x)
  | .lpush x => some (.mem 0x1A2 x)
  | .next x => some (.ctl 0x000 x)
  | .matchT x => some (.ctl 0x010 x)
  | .tbw x => some (.ctl 0x011 x)
  | .tbr x => some (.ctl 0x012 x)
  | .tbclr x => some (.ctl 0x013 x)
  | .tbcopy x => some (.ctl 0x014 x)
  | .tbflip x => some (.ctl 0x015 x)
  | .tbpin x => some (.ctl 0x016 x)
  | .tbunpin x => some (.ctl 0x017 x)
  | .trap x => some (.ctl 0x020 x)
  | .resume x => some (.ctl 0x021 x)
  | .brk x => some (.ctl 0x022 x)
  | .nop x => some (.ctl 0x023 x)
  | .waite x => some (.ctl 0x024 x)
  | .gjoin x => some (.ctl 0x028 x)
  | .gleave x => some (.ctl 0x029 x)
  | .gbar x => some (.ctl 0x02A x)
  | .gsize x => some (.ctl 0x02B x)
  | .xinv x => some (.ctl 0x03F x)
  | .lookupComplete _ => none
  | .stallResolves _ => none
  | .bankRetention _ _ => none
  | .seatGate _ => none
  | .threadBind _ => none
  | .yieldReturn _ => none
  | .dispatch _ => none
  | .commitGrant _ => none
  | .flushComplete _ => none
  | .taskStopComplete _ => none
  | .energyMeterUpdate _ _ => none
  | .tableOpApply _ _ => none
  | .tableDirectoryReply _ => none
  | .barrierPhaseComplete _ => none
  | .resumeMessage _ => none
  | .engineCommandArrive _ _ => none
  | .jobQueueEntryFree _ => none
  | .jobStart _ _ => none
  | .jobComplete _ _ => none
  | .heldJobRelease _ _ => none
  | .roundComplete _ => none
  | .matrixSlotChange => none
  | .gwaitTimeout _ => none
  | .waiteTimeout _ => none
  | .sliceEnd _ => none
  | .contextLoad _ _ _ => none
  | .granuleFill _ _ => none
  | .heldRecordWrite _ => none
  | .reportRound => none
  | .translationWalkComplete _ _ => none
  | .shootdownComplete _ => none
  | .atsCompletion _ _ _ => none
  | .priResponse _ _ _ => none
  | .atsInvalidation _ _ _ _ => none
  | .openContext _ _ => none
  | .closeContext _ _ => none
  | .resumeThread _ _ => none
  | .cancelTask _ _ => none
  | .retryTask _ _ => none
  | .shootDown _ _ => none
  | .loadObject _ _ => none
  | .resumeJob _ _ => none
  | .hostQueueHeadWrite _ _ _ => none
  | .hostQueueSubmit _ _ => none
  | .hostQueueWait _ _ => none
  | .hostQueueRestart _ _ => none
  | .faultRingTailWrite _ _ _ => none
  | .overflowStoppedClear _ => none
  | .qosWindowEnd _ => none
  | .partitionRequest _ => none
  | .dissolve _ => none
  | .keygen _ => none
  | .keyerase _ => none
  | .mint _ => none
  | .epoch _ => none
  | .scrub _ => none
  | .logcfg _ => none
  | .logexport _ => none
  | .allowscan _ => none
  | .freeze _ => none
  | .thaw _ => none
  | .scanRead _ _ => none
  | .markerCut => none
  | .markerReceive _ _ => none
  | .noCommand _ _ => none
  | .readTapTest _ _ => none
  | .writeTapTest _ _ => none
  | .laneRepair _ _ => none
  | .patternTest _ _ => none
  | .enter _ => none
  | .stackFailedWrite _ => none
  | .alarmClear => none
  | .registerWrite _ _ _ => none
  | .hostWrite _ _ _ => none
  | .hostRead _ _ _ => none
  | .flitReceive _ _ => none
  | .spanPortFail _ => none
  | .powerOn => none
  | .moduleReset => none
  | .fusesRead => none
  | .signatureCheck _ _ => none
  | .hostLinkUp => none
  | .dieTrained _ => none
  | .bringupContextClose _ => none
  | .fullServiceEntry => none
  | .voltageGlitch => none
  | .tamperMeshBreak => none
  | .clockThrottle _ => none
  | .trainingCommandComplete _ => none
  | .stackReset _ => none

/-- i8 to i64 (R55). -/
def Ty.isI : Ty → Bool
  | .i8 | .i16 | .i32 | .i64 => true
  | _ => false

/-- n8 to n64 (R55). -/
def Ty.isN : Ty → Bool
  | .n8 | .n16 | .n32 | .n64 => true
  | _ => false

/-- The type set I of R126. -/
def Ty.isInt (t : Ty) : Bool := t.isI || t.isN

/-- The type set F of R126: fp32, bf16, fp16. -/
def Ty.isF : Ty → Bool
  | .fp32 | .bf16 | .fp16 => true
  | _ => false

/-- Any of the floating-point formats of R100. -/
def Ty.isFloat : Ty → Bool
  | .fp32 | .bf16 | .fp16 | .e4m3 | .e5m2 | .e2m1 => true
  | _ => false

/-- The type set M of R126: codes 0 to 12. -/
def Ty.isM (t : Ty) : Bool := t != .e2m1 && t != .x

/-- The code of a type (R55). -/
def Ty.num : Ty → Nat
  | .i8 => 0 | .i16 => 1 | .i32 => 2 | .i64 => 3 | .n8 => 4 | .n16 => 5 | .n32 => 6 | .n64 => 7
  | .fp32 => 8 | .bf16 => 9 | .fp16 => 10 | .e4m3 => 11 | .e5m2 => 12 | .e2m1 => 13 | .x => 14

/-- The type of a code; code 15 is reserved (R55). -/
def Ty.ofNum : Nat → Option Ty
  | 0 => some .i8 | 1 => some .i16 | 2 => some .i32 | 3 => some .i64
  | 4 => some .n8 | 5 => some .n16 | 6 => some .n32 | 7 => some .n64
  | 8 => some .fp32 | 9 => some .bf16 | 10 => some .fp16 | 11 => some .e4m3
  | 12 => some .e5m2 | 13 => some .e2m1 | 14 => some .x | _ => none

/-- Element width in bits (R65, R123, R197). -/
def Ty.bits : Ty → Nat
  | .i8 | .n8 | .e4m3 | .e5m2 => 8
  | .i16 | .n16 | .bf16 | .fp16 => 16
  | .i32 | .n32 | .fp32 => 32
  | .i64 | .n64 => 64
  | .e2m1 => 4
  | .x => 8

/-- The number in a field read as a literal or a register number; streams read as none. -/
def Opnd.num? : Opnd → Option Nat
  | .reg n => some n.toNat
  | _ => none

def Opnd.isReg : Opnd → Bool
  | .reg _ => true
  | _ => false

/-- What an operand position holds (R47, R48, R126). -/
inductive Pos where
  | zero                 -- must be zero
  | s | p | c | a | q    -- a register of the class, register mode
  | v                    -- a vector register or a stream
  | grp (g : Nat)        -- a group of g vector registers, or a stream (R44)
  | upTo (k : Nat)       -- a literal from 0 to k
  | oneOf (ks : List Nat) -- a literal or number among ks
  deriving DecidableEq, Repr

/-- R48: the numbers a position accepts. -/
def Pos.ok : Pos → Opnd → Bool
  | .zero, o => o == .reg 0
  | .s, o => o.isReg
  | .p, o => match o with | .reg n => n.toNat < 8 | _ => false
  | .q, o => match o with | .reg n => n.toNat < 8 | _ => false
  | .c, o => match o with | .reg n => n.toNat < 16 | _ => false
  | .a, o => match o with | .reg n => n.toNat < 4 | _ => false
  | .v, _ => true
  | .grp _, _ => true
  | .upTo k, o => match o with | .reg n => n.toNat ≤ k | _ => false
  | .oneOf ks, o => match o with | .reg n => ks.contains n.toNat | _ => false

/-- Which CLAMP and SCALE a row accepts (R51, R66, R126, R136 to R138). -/
inductive DstMod where
  | no           -- neither
  | sat          -- saturate only, no SCALE
  | full         -- float types: any CLAMP and SCALE; integer types: saturate (R51)
  | clampOnly    -- any CLAMP, no SCALE
  | cvt          -- R136: float destination any; integer destination saturate from integer source
  | fcvt         -- R80: float destination any; integer destination none
  | narrow       -- R138: float destination any; integer destination saturate
  deriving DecidableEq, Repr

/-- A row of the field tables of R66, R71 to R82 and R126. -/
structure RegSpec where
  ty : Ty → Bool
  dst : Pos
  s1 : Pos
  s2 : Pos
  s3 : Pos
  mods : Bool
  dm : DstMod

/-- The size of the group on the wide side of R137's pairs (`d` from `s`). -/
def widenGroup (d s : Ty) : Option Nat :=
  match s, d with
  | .e4m3, .fp16 | .e4m3, .bf16 | .e5m2, .fp16 | .e5m2, .bf16 => some 2
  | .fp16, .fp32 | .bf16, .fp32 => some 2
  | .i8, .i16 | .i8, .n16 | .i8, .fp16 | .i8, .bf16 => some 2
  | .n8, .i16 | .n8, .n16 | .n8, .fp16 | .n8, .bf16 => some 2
  | .i16, .i32 | .i16, .n32 | .i16, .fp32 | .n16, .i32 | .n16, .n32 | .n16, .fp32 => some 2
  | .i32, .i64 | .i32, .n64 | .n32, .i64 | .n32, .n64 => some 2
  | .e2m1, .fp16 | .e2m1, .bf16 => some 4
  | .e4m3, .fp32 | .e5m2, .fp32 | .i8, .fp32 | .n8, .fp32 => some 4
  | .i8, .i32 | .i8, .n32 | .n8, .i32 | .n8, .n32 => some 4
  | .i16, .i64 | .i16, .n64 | .n16, .i64 | .n16, .n64 => some 4
  | _, _ => none

/-- The source type of a two-type instruction, in SRC3 (R56). -/
def RegForm.srcTy (x : RegForm) : Option Ty := x.s3.num?.bind Ty.ofNum

def isFcvtTy : Ty → Bool
  | .fp32 | .bf16 | .fp16 | .i32 | .i64 | .n32 | .n64 => true
  | _ => false

/-- The pairs of the two-type instructions: R80, R136, R137, R138. -/
def pairOk (op : Nat) (d s : Ty) : Bool :=
  match op with
  | 0x047 => isFcvtTy d && isFcvtTy s && d != s
  | 0x184 => d.isM && s.isM && d.bits == s.bits && d != s
  | 0x185 => (widenGroup d s).isSome
  | 0x186 => (widenGroup s d).isSome
  | _ => true

def Ty.isArith (t : Ty) : Bool := t.isF || t.isInt

/-- The rows of R66, R71 to R82, R126. -/
def regSpec (op : Nat) : RegSpec :=
  match op with
  | 0x001 | 0x002 | 0x003 => ⟨Ty.isInt, .s, .s, .s, .zero, true, .sat⟩
  | 0x004 | 0x005 | 0x006 | 0x007 | 0x008 | 0x009 | 0x00A | 0x00B | 0x00C
  | 0x00D | 0x00E | 0x00F | 0x010 => ⟨Ty.isInt, .s, .s, .s, .zero, true, .no⟩
  | 0x011 | 0x012 | 0x013 => ⟨Ty.isInt, .s, .s, .zero, .zero, true, .no⟩
  | 0x014 => ⟨fun t => t == .i64 || t == .n64, .s, .s, .s, .zero, true, .no⟩
  | 0x015 => ⟨fun t => t == .x, .s, .s, .s, .s, false, .no⟩
  | 0x016 => ⟨Ty.isInt, .s, .s, .s, .zero, false, .no⟩
  | 0x040 | 0x041 | 0x042 => ⟨Ty.isF, .s, .s, .s, .zero, true, .full⟩
  | 0x043 => ⟨Ty.isF, .s, .s, .s, .s, true, .full⟩
  | 0x044 | 0x045 => ⟨Ty.isF, .s, .s, .s, .zero, true, .no⟩
  | 0x046 => ⟨Ty.isF, .c, .s, .s, .upTo 6, true, .no⟩
  | 0x047 => ⟨isFcvtTy, .s, .s, .zero, .upTo 14, true, .fcvt⟩
  | 0x048 => ⟨Ty.isF, .s, .s, .zero, .zero, false, .no⟩
  | 0x060 => ⟨Ty.isInt, .c, .s, .s, .upTo 5, true, .no⟩
  | 0x061 => ⟨fun t => t == .i8, .c, .c, .c, .upTo 5, false, .no⟩
  | 0x062 => ⟨fun t => t == .i8, .c, .upTo 1, .zero, .zero, false, .no⟩
  | 0x063 => ⟨fun t => t == .x, .s, .s, .s, .c, false, .no⟩
  | 0x064 => ⟨fun t => t == .x, .s, .s, .zero, .zero, false, .no⟩
  | 0x065 => ⟨fun t => t == .x, .s, .a, .zero, .zero, false, .no⟩
  | 0x066 => ⟨fun t => t == .x, .s, .zero, .zero, .zero, false, .no⟩
  | 0x067 => ⟨fun t => t == .x, .zero, .s, .zero, .zero, false, .no⟩
  | 0x068 => ⟨fun t => t == .x, .s, .p, .zero, .zero, false, .no⟩
  | 0x069 => ⟨fun t => t == .x, .p, .s, .zero, .zero, false, .no⟩
  | 0x06A => ⟨fun t => t == .x, .s, .q, .zero, .zero, false, .no⟩
  | 0x06B => ⟨fun t => t == .x, .q, .s, .zero, .zero, false, .no⟩
  | 0x06C => ⟨fun t => t == .i8, .s, .upTo 21, .zero, .zero, false, .no⟩
  | 0x06D => ⟨fun t => t == .i8, .oneOf [13, 14, 15, 19, 21], .s, .zero, .zero, false, .no⟩
  | 0x100 | 0x101 | 0x102 => ⟨Ty.isArith, .v, .v, .v, .zero, true, .full⟩
  | 0x103 => ⟨Ty.isArith, .v, .v, .v, .v, true, .full⟩
  | 0x104 | 0x105 => ⟨Ty.isArith, .v, .v, .v, .zero, true, .no⟩
  | 0x106 => ⟨Ty.isF, .v, .v, .v, .zero, true, .full⟩
  | 0x107 | 0x108 | 0x109 => ⟨Ty.isF, .v, .v, .zero, .zero, true, .full⟩
  | 0x10A => ⟨Ty.isInt, .v, .v, .v, .zero, true, .no⟩
  | 0x10B | 0x10C | 0x10D | 0x10E | 0x10F | 0x110 => ⟨Ty.isInt, .v, .v, .v, .zero, false, .no⟩
  | 0x111 | 0x112 => ⟨Ty.isInt, .v, .v, .zero, .zero, false, .no⟩
  | 0x113 => ⟨Ty.isArith, .p, .v, .v, .upTo 6, true, .no⟩
  | 0x114 => ⟨Ty.isM, .v, .v, .v, .p, false, .no⟩
  | 0x180 => ⟨Ty.isF, .v, .v, .zero, .upTo 4, true, .clampOnly⟩
  | 0x181 => ⟨Ty.isF, .v, .v, .zero, .zero, true, .full⟩
  | 0x182 => ⟨Ty.isF, .v, .v, .v, .zero, true, .full⟩
  | 0x183 => ⟨Ty.isF, .v, .v, .zero, .zero, true, .clampOnly⟩
  | 0x184 => ⟨Ty.isM, .v, .v, .zero, .upTo 14, true, .cvt⟩
  | 0x185 => ⟨fun _ => true, .grp 0, .v, .zero, .upTo 14, true, .no⟩
  | 0x186 => ⟨fun _ => true, .v, .grp 0, .zero, .upTo 14, true, .narrow⟩
  | 0x1C0 => ⟨Ty.isM, .v, .s, .zero, .zero, false, .no⟩
  | 0x1C1 => ⟨Ty.isM, .s, .v, .s, .zero, false, .no⟩
  | 0x1C2 => ⟨Ty.isM, .v, .s, .s, .zero, false, .no⟩
  | 0x1C3 => ⟨Ty.isM, .v, .v, .v, .v, false, .no⟩
  | 0x1C4 => ⟨Ty.isM, .v, .v, .v, .s, false, .no⟩
  | 0x1C5 => ⟨Ty.isM, .grp 2, .v, .v, .zero, false, .no⟩
  | 0x1C6 => ⟨Ty.isM, .grp 2, .grp 2, .zero, .zero, false, .no⟩
  | 0x1C7 | 0x1C8 => ⟨Ty.isM, .v, .v, .zero, .zero, false, .no⟩
  | 0x1C9 => ⟨Ty.isInt, .v, .zero, .zero, .zero, false, .no⟩
  | 0x1CA | 0x1CB | 0x1CC => ⟨Ty.isArith, .s, .v, .zero, .zero, true, .no⟩
  | 0x1CD => ⟨fun t => t.isArith && t != .i64 && t != .n64, .s, .v, .zero, .zero, true, .no⟩
  | 0x1CE => ⟨Ty.isArith, .v, .v, .zero, .zero, true, .no⟩
  | 0x1CF | 0x1D0 | 0x1D1 => ⟨fun t => t == .i8, .p, .p, .p, .zero, false, .no⟩
  | 0x1D2 => ⟨fun t => t == .i8, .p, .p, .zero, .zero, false, .no⟩
  | 0x1D3 => ⟨Ty.isM, .p, .p, .zero, .zero, false, .no⟩
  | 0x1D4 => ⟨Ty.isM, .p, .s, .zero, .zero, false, .no⟩
  | 0x1D5 => ⟨Ty.isM, .s, .p, .zero, .zero, false, .no⟩
  | 0x1D6 => ⟨Ty.isM, .c, .p, .zero, .upTo 1, false, .no⟩
  | _ => ⟨fun _ => false, .zero, .zero, .zero, .zero, false, .no⟩

def SrcMod.isZero (m : SrcMod) : Bool := !m.neg && !m.abs

/-- R50: modifiers on i types and float types only, in positions that hold a value. -/
def modOk (allowed : Bool) (t : Ty) (p : Pos) (m : SrcMod) : Bool :=
  m.isZero || (allowed && (t.isI || t.isFloat) &&
    (match p with | .s | .v | .grp _ => true | _ => false))

/-- R51 and the rows' CLAMP and SCALE columns. -/
def dstModOk (d : DstMod) (t : Ty) (src : Option Ty) (cl : Clamp) (sc : BitVec 4) : Bool :=
  match d with
  | .no => cl == .none && sc == 0
  | .sat => (cl == .none || cl == .sat) && sc == 0
  | .full => t.isFloat || ((cl == .none || cl == .sat) && sc == 0)
  | .clampOnly => sc == 0
  | .cvt => t.isFloat || (sc == 0 &&
      (cl == .none || (cl == .sat && (src.map Ty.isInt).getD false)))
  | .fcvt => t.isFloat || (cl == .none && sc == 0)
  | .narrow => t.isFloat || ((cl == .none || cl == .sat) && sc == 0)

/-- Is the source type in SRC3 (R56)? -/
def isTwoType (op : Nat) : Bool := op == 0x047 || op == 0x184 || op == 0x185 || op == 0x186

/-- The q registers named with post-increment (R53). -/
def RegForm.incs (x : RegForm) : List (BitVec 3) :=
  [x.dst, x.s1, x.s2, x.s3].filterMap fun o => match o with | .inc q => some q | _ => none

def noRepeat : List (BitVec 3) → Bool
  | [] => true
  | q :: qs => !qs.contains q && noRepeat qs

/-- Decode step 2 of R57 for a format 00 word. -/
def regOk (op : Nat) (x : RegForm) : Bool :=
  let sp := regSpec op
  let src := x.srcTy
  let mt := if isTwoType op then src.getD .x else x.t
  sp.ty x.t && sp.dst.ok x.dst && sp.s1.ok x.s1 && sp.s2.ok x.s2 && sp.s3.ok x.s3
    && (!isTwoType op || (match src with | some s => pairOk op x.t s | none => false))
    && modOk sp.mods mt sp.s1 x.m1
    && modOk (sp.mods && op != 0x014) mt sp.s2 x.m2
    && modOk sp.mods mt sp.s3 x.m3
    && dstModOk sp.dm x.t src x.clamp x.scale
    && noRepeat x.incs
    && !(op == 0x113 && x.t.isInt && x.s3 == .reg 6)

/-- Decode step 2 for a format 01 word (R69, R70). -/
def immOk (op : Nat) (x : ImmForm) : Bool :=
  x.dst.isReg && x.src.isReg &&
  match op with
  | 0x001 | 0x002 | 0x003 | 0x004 => x.t.isInt
  | 0x005 | 0x006 | 0x007 => x.t.isInt && x.imm.toNat < x.t.bits
  | 0x008 => x.t.isInt && x.src == .reg 0
  | 0x009 => x.t == .x && x.imm.toNat < 0x40000
  | _ => false

/-- What DATA and BASE hold in a format 10 row. -/
inductive DPos where
  | zero | s | sEven | sEvenNZ | v
  deriving DecidableEq, Repr

def DPos.ok : DPos → Opnd → Bool
  | .zero, o => o == .reg 0
  | .s, o => o.isReg
  | .sEven, o => match o with | .reg n => n.toNat % 2 == 0 | _ => false
  | .sEvenNZ, o => match o with | .reg n => n.toNat % 2 == 0 && n.toNat != 0 | _ => false
  | .v, o => o.isReg

/-- How OFFSET is used (R46, R193, R235, R262, R274, R290, R299, R302). -/
inductive OffRule where
  | any        -- a signed byte offset
  | zero
  | carvedV    -- [27:14] a signed offset, [13:6] a vector register
  | carvedS    -- [27:14] a signed offset, [13:6] a scalar register
  | onlyS      -- [27:14] zero, [13:6] a scalar register
  | carvedZ    -- [27:14] a signed offset, [13:6] zero
  | layout     -- R272: [13:6] LAYOUT
  | drain      -- R262: [9:6] source type, [13:10] zero
  deriving DecidableEq, Repr

/-- The low 8 bits of OFFSET, word bits [13:6]. -/
def MemForm.low8 (x : MemForm) : BitVec 8 := x.off.truncate 8

/-- R48 on a carved operand: register mode, reserved bit zero. -/
def regMode (b : BitVec 8) : Bool := b.toNat < 32

def OffRule.ok (r : OffRule) (x : MemForm) : Bool :=
  match r with
  | .any => true
  | .zero => x.off == 0
  | .carvedV | .carvedS => regMode x.low8
  | .onlyS => x.off.toNat < 256 && regMode x.low8
  | .carvedZ => x.low8 == 0
  | .layout => x.low8 == 0 || x.low8 == 1
  | .drain => x.low8.toNat < 16

/-- A row of R192, R209, R243, R255, R262, R265, R267, R268, R270, R274, R290, R299, R302, R305. -/
structure MemSpec where
  data : DPos
  ty : Ty → Bool
  base : DPos
  off : OffRule
  spaces : List Space
  orders : List Order
  anyScope : Bool

def allSpaces : List Space := [.gm, .cm, .sp, .tcm]
def allOrders : List Order := [.plain, .acq, .rel, .both]
def tyZero (t : Ty) : Bool := t == .i8

def memSpec (op : Nat) : MemSpec :=
  match op with
  | 0x001 => ⟨.s, fun t => t.num ≤ 10, .s, .any, allSpaces, [.plain, .acq], true⟩
  | 0x002 => ⟨.s, fun t => t.num ≤ 10, .s, .any, allSpaces, [.plain, .rel], true⟩
  | 0x003 => ⟨.v, fun _ => true, .s, .any, allSpaces, [.plain, .acq], true⟩
  | 0x004 => ⟨.v, fun _ => true, .s, .any, allSpaces, [.plain, .rel], true⟩
  | 0x005 => ⟨.v, fun t => t != .e2m1, .s, .any, allSpaces, [.plain, .acq], true⟩
  | 0x006 => ⟨.v, fun t => t != .e2m1, .s, .any, allSpaces, [.plain, .rel], true⟩
  | 0x007 => ⟨.v, Ty.isM, .s, .carvedV, allSpaces, [.plain, .acq], true⟩
  | 0x008 => ⟨.v, Ty.isM, .s, .carvedV, allSpaces, [.plain, .rel], true⟩
  | 0x040 | 0x041 | 0x042 | 0x043 | 0x044 | 0x045 | 0x046 =>
      ⟨.s, fun t => t == .i32 || t == .i64 || t == .n32 || t == .n64, .s, .any, allSpaces, allOrders, true⟩
  | 0x047 => ⟨.sEven, fun t => t == .i32 || t == .i64 || t == .n32 || t == .n64, .s, .any, allSpaces, allOrders, true⟩
  | 0x048 => ⟨.s, fun t => t == .fp32, .s, .any, allSpaces, allOrders, true⟩
  | 0x049 => ⟨.s, fun t => t == .fp32, .s, .any, allSpaces, [.plain, .acq], true⟩
  | 0x060 => ⟨.zero, tyZero, .zero, .zero, [.gm], [.acq, .rel, .both], true⟩
  | 0x061 => ⟨.s, tyZero, .s, .any, allSpaces, [.acq, .rel, .both], true⟩
  | 0x062 => ⟨.s, fun t => t == .i32 || t == .n32 || t == .fp32, .s, .any, [.sp, .tcm], [.plain, .acq], true⟩
  | 0x063 => ⟨.s, fun t => t == .i32 || t == .n32 || t == .fp32, .s, .any, [.sp, .tcm], [.plain], true⟩
  | 0x064 => ⟨.s, tyZero, .s, .any, [.sp, .tcm], [.plain], true⟩
  | 0x080 | 0x081 => ⟨.v, tyZero, .s, .any, [.gm], [.plain], false⟩
  | 0x082 | 0x083 | 0x084 => ⟨.s, tyZero, .s, .any, [.gm], [.plain], false⟩
  | 0x085 | 0x086 => ⟨.zero, tyZero, .s, .any, [.gm], [.plain], false⟩
  | 0x087 => ⟨.s, tyZero, .s, .zero, [.gm], [.plain], false⟩
  | 0x088 | 0x089 => ⟨.s, tyZero, .s, .any, [.gm], [.plain], false⟩
  | 0x0C0 | 0x0C2 | 0x0C3 | 0x0C4 | 0x0C7 => ⟨.s, tyZero, .s, .carvedV, allSpaces, [.plain], true⟩
  | 0x0C1 => ⟨.s, tyZero, .s, .carvedV, [.sp, .tcm], [.plain], true⟩
  | 0x0C5 | 0x0CA => ⟨.s, tyZero, .zero, .zero, [.gm], [.plain], false⟩
  | 0x0C6 => ⟨.s, tyZero, .s, .zero, [.gm], [.plain], false⟩
  | 0x0C8 => ⟨.s, tyZero, .s, .any, [.sp, .tcm], [.acq, .rel, .both], true⟩
  | 0x0C9 => ⟨.s, tyZero, .s, .carvedV, [.tcm], [.plain], true⟩
  | 0x0CB => ⟨.s, tyZero, .s, .carvedV, [.gm, .cm], [.plain], true⟩
  | 0x100 => ⟨.s, fun t => t == .i8 || t == .bf16 || t == .fp16 || t == .e4m3 || t == .e5m2 || t == .e2m1,
      .s, .layout, [.sp], [.plain, .acq], true⟩
  | 0x101 | 0x102 => ⟨.s, tyZero, .zero, .zero, [.gm], [.plain, .acq], true⟩
  | 0x103 => ⟨.s, fun _ => true, .s, .drain, [.sp, .tcm], [.plain, .acq], true⟩
  | 0x110 | 0x111 | 0x112 | 0x113 | 0x114 | 0x115 | 0x119 =>
      ⟨.s, tyZero, .s, .carvedZ, [.sp], [.plain, .acq], true⟩
  | 0x116 | 0x117 | 0x118 => ⟨.s, tyZero, .s, .carvedS, [.sp], [.plain, .acq], true⟩
  | 0x180 => ⟨.s, tyZero, .s, .zero, [.gm], [.plain], false⟩
  | 0x181 | 0x182 => ⟨.sEven, tyZero, .s, .any, [.sp, .tcm], [.plain], true⟩
  | 0x183 | 0x184 => ⟨.s, tyZero, .s, .zero, [.gm], [.plain], false⟩
  | 0x185 => ⟨.s, tyZero, .s, .onlyS, [.gm], [.plain], false⟩
  | 0x186 => ⟨.s, tyZero, .zero, .zero, [.gm], [.plain], false⟩
  | 0x188 | 0x189 | 0x18A => ⟨.s, tyZero, .s, .zero, [.gm], [.plain], false⟩
  | 0x18B => ⟨.v, fun t => t == .fp32, .s, .onlyS, [.gm], [.plain], false⟩
  | 0x190 => ⟨.v, Ty.isF, .s, .any, allSpaces, [.plain, .acq], true⟩
  | 0x191 => ⟨.s, tyZero, .s, .any, [.sp, .tcm], [.plain], true⟩
  | 0x198 => ⟨.v, tyZero, .s, .carvedS, [.sp, .tcm], [.plain], false⟩
  | 0x1A0 | 0x1A1 | 0x1A2 => ⟨.s, tyZero, .s, .any, [.gm, .cm], allOrders, true⟩
  | _ => ⟨.zero, fun _ => false, .zero, .zero, [], [], false⟩

/-- The accepted pairs of `MDRAIN` (R279): destination from source. -/
def drainPair (d : Ty) (s : Nat) : Bool :=
  match s with
  | 8 => d == .fp32 || d == .bf16 || d == .fp16 || d == .e4m3 || d == .e5m2
  | 2 => d == .fp32 || d == .bf16 || d == .fp16 || d == .i32 || d == .i8
  | _ => false

/-- Decode step 2 of R57 for a format 10 word. -/
def memOk (op : Nat) (x : MemForm) : Bool :=
  let sp := memSpec op
  sp.data.ok x.data && sp.ty x.t && sp.base.ok x.base && sp.off.ok x
    && sp.spaces.contains x.space && sp.orders.contains x.order
    && (sp.anyScope || x.scope == .cl)
    && (match op with
        | 0x0C8 => if x.order == .rel then x.data == .reg 0 else DPos.sEvenNZ.ok x.data
        | 0x100 => (if x.low8 == 1 then x.t == .e4m3 || x.t == .e2m1 else x.t != .e2m1)
            && (x.order == .plain || DPos.sEvenNZ.ok x.data)
        | 0x103 => drainPair x.t x.low8.toNat && (x.order == .plain || DPos.sEvenNZ.ok x.data)
        | 0x101 | 0x102 | 0x110 | 0x111 | 0x112 | 0x113 | 0x114 | 0x115 | 0x116 | 0x117 | 0x118 | 0x119 =>
            x.order == .plain || DPos.sEvenNZ.ok x.data
        | _ => true)

/-- Decode step 2 of R57 for a format 11 word (R85 to R97, R234). -/
def ctlOk (op : Nat) (x : CtlForm) : Bool :=
  match op with
  | 0x000 => x.g == ⟨false, 0⟩ && x.subop == 0
  | 0x010 => x.subop.toNat < 32 && (x.ind != x.subop.truncate 5 || x.ind == 0)
  | 0x011 => x.subop == 0
  | 0x012 => x.subop.toNat < 2
  | 0x013 | 0x014 | 0x015 | 0x016 | 0x017 => x.key == 0 && x.ind == 0 && x.subop == 0
  | 0x020 | 0x022 => x.table == 0 && x.key == 0 && x.ind == 0 && x.subop.toNat < 0x10000
  | 0x021 => x.table == 0 && x.subop.toNat < 3 && (x.ind == 0 || x.subop == 2)
  | 0x023 => x.table == 0 && x.key == 0 && x.ind == 0 && x.subop == 0
  | 0x024 => x.table == 0 && x.key == 0 && x.ind == 0 && x.subop.toNat < 0x1000000
  | 0x028 | 0x029 | 0x02A => x.table == 0 && x.ind == 0 && x.subop.toNat < 0x10000
  | 0x02B => x.table == 0 && x.subop.toNat < 0x10000
  | 0x03F => x.table == 0 && x.subop.toNat < 0x10000
      && (let span := x.subop.toNat % 4
          let stage := x.subop.toNat / 4 % 4
          span != 3 && stage != 0 && (span != 2 || x.subop.toNat / 16 == 0)
            && (span == 0 || (x.key == 0 && x.ind == 0)))
  | _ => false

/-- Decode step 2 of R57: every reserved field zero, every operand of its class, every type, modifier,
clamp and scale accepted. -/
def Code.fieldsOk : Code → Bool
  | .reg op x => regOk op x
  | .imm op x => immOk op x
  | .mem op x => memOk op x
  | .ctl op x => ctlOk op x

/-- A vector operand in register mode: its first register and group size (1 for a single register),
in the order of the fields from bit 63 downward (R57). -/
def vecOf (g : Nat) : Opnd → List (Nat × Nat)
  | .reg n => [(n.toNat, g)]
  | _ => []

def Pos.vecs (p : Pos) (o : Opnd) (g : Nat) : List (Nat × Nat) :=
  match p with
  | .v => vecOf 1 o
  | .grp 0 => vecOf g o
  | .grp k => vecOf k o
  | _ => []

/-- The group size of R137 and R138 that a two-type word takes on its wide side. -/
def RegForm.wide (op : Nat) (x : RegForm) : Nat :=
  match x.srcTy with
  | some s => ((if op == 0x185 then widenGroup x.t s else widenGroup s x.t).getD 1)
  | none => 1

/-- The vector registers and groups an instruction word names (R44, R57 steps 3 and 4). -/
def Code.vecs : Code → List (Nat × Nat)
  | .reg op x =>
      let sp := regSpec op
      let g := x.wide op
      sp.dst.vecs x.dst g ++ sp.s1.vecs x.s1 g ++ sp.s2.vecs x.s2 g ++ sp.s3.vecs x.s3 g
  | .imm _ _ => []
  | .mem op x =>
      (if (memSpec op).data == .v then vecOf 1 x.data else [])
        ++ (if (memSpec op).off == .carvedV then [(x.low8.toNat % 32, 1)] else [])
  | .ctl op x => if op == 0x011 || op == 0x012 then [(x.ind.toNat, 1)] else []

/-- The first group that is not aligned to its size (step 3 of R57). -/
def Code.misaligned (c : Code) : Option Nat :=
  (c.vecs.find? fun v => v.1 % v.2 != 0).map (·.1)

/-- ORDER selects among the instructions that share an opcode (R192, R255). -/
def Instr.orderOk : Instr → Bool
  | .ldf x => x.order == .plain
  | .ldfEmpty x => x.order == .acq
  | .rgetTake x => x.order == .acq
  | .rgetPoll x => x.order == .both
  | .rgetDone x => x.order == .rel
  | _ => true

/-- A well-formed instruction: one that passes steps 2 and 3 of R57. The events of the device have no
word and are well formed. -/
def Instr.wf (i : Instr) : Bool :=
  match i.code with
  | some c => c.fieldsOk && c.misaligned.isNone && i.orderOk
  | none => true

end Sys2Proof
end

