-- ==== Sys2Proof/Decode.lean ====
section
/-! DEFINITION. Words and instructions: the four formats of R45, the operand field of R48, the opcode
map of R58, decode steps 1 to 3 of R57; then the encoder, from the same tables. -/

namespace Sys2Proof

/-- Why a word is not an instruction (R57): step 1 (cause 0x01), step 2 (0x02), step 3 (0x04, with the
first register number of the misaligned group). -/
inductive DecErr where
  | opcode
  | field
  | group (first : Nat)
  deriving DecidableEq, Repr

/-- Bits [lo + n - 1 : lo] of a word. -/
def field (w : Word) (lo n : Nat) : BitVec n := w.extractLsb' lo n

def parseGuard (b : BitVec 4) : Guard := ⟨b.getLsbD 3, b.truncate 3⟩

/-- R48. MODE 0b11, bit 5 and stream numbers 8 to 31 are reserved. -/
def parseOpnd (b : BitVec 8) : Option Opnd :=
  if b.getLsbD 5 then none
  else match (b.extractLsb' 6 2).toNat with
    | 0 => some (.reg (b.truncate 5))
    | 1 => if (b.extractLsb' 3 2) == 0 then some (.inc (b.truncate 3)) else none
    | 2 => if (b.extractLsb' 3 2) == 0 then some (.str (b.truncate 3)) else none
    | _ => none

def parseMod (b : BitVec 2) : SrcMod := ⟨b.getLsbD 1, b.getLsbD 0⟩

def parseClamp (b : BitVec 2) : Clamp :=
  match b.toNat with | 0 => .none | 1 => .sat | 2 => .c01 | _ => .c11

def parseSpace (b : BitVec 2) : Space :=
  match b.toNat with | 0 => .gm | 1 => .cm | 2 => .sp | _ => .tcm

def parseOrder (b : BitVec 2) : Order :=
  match b.toNat with | 0 => .plain | 1 => .acq | 2 => .rel | _ => .both

def parseScope (b : BitVec 2) : Scope :=
  match b.toNat with | 0 => .cl | 1 => .die | 2 => .part | _ => .sys

/-- Format 00 (R45). -/
def parseReg (w : Word) : Option RegForm := do
  let t ← Ty.ofNum (field w 44 4).toNat
  let dst ← parseOpnd (field w 36 8)
  let s1 ← parseOpnd (field w 22 8)
  let s2 ← parseOpnd (field w 14 8)
  let s3 ← parseOpnd (field w 6 8)
  return ⟨parseGuard (field w 48 4), t, dst, parseClamp (field w 34 2), field w 30 4, s1, s2, s3,
    parseMod (field w 4 2), parseMod (field w 2 2), parseMod (field w 0 2)⟩

/-- Format 01 (R45). -/
def parseImm (w : Word) : Option ImmForm := do
  let t ← Ty.ofNum (field w 44 4).toNat
  let dst ← parseOpnd (field w 36 8)
  let src ← parseOpnd (field w 28 8)
  return ⟨parseGuard (field w 48 4), t, dst, src, field w 0 28⟩

/-- Format 10 (R45). -/
def parseMem (w : Word) : Option MemForm := do
  let t ← Ty.ofNum (field w 44 4).toNat
  let data ← parseOpnd (field w 36 8)
  let base ← parseOpnd (field w 28 8)
  return ⟨parseGuard (field w 48 4), t, data, base, field w 6 22,
    parseSpace (field w 4 2), parseOrder (field w 2 2), parseScope (field w 0 2)⟩

/-- Format 11 (R45). -/
def parseCtl (w : Word) : CtlForm :=
  ⟨parseGuard (field w 48 4), field w 42 6, field w 37 5, field w 32 5, field w 0 32⟩

/-- Class 00 of R58. -/
def ofReg (op : Nat) (x : RegForm) : Option Instr :=
  match op with
  | 0x001 => some (.add x)
  | 0x002 => some (.sub x)
  | 0x003 => some (.mul x)
  | 0x004 => some (.mulh x)
  | 0x005 => some (.div x)
  | 0x006 => some (.rem x)
  | 0x007 => some (.min x)
  | 0x008 => some (.max x)
  | 0x009 => some (.and x)
  | 0x00A => some (.or x)
  | 0x00B => some (.xor x)
  | 0x00C => some (.andn x)
  | 0x00D => some (.shl x)
  | 0x00E => some (.shr x)
  | 0x00F => some (.sra x)
  | 0x010 => some (.rot x)
  | 0x011 => some (.clz x)
  | 0x012 => some (.popc x)
  | 0x013 => some (.bswap x)
  | 0x014 => some (.extb x)
  | 0x015 => some (.insb x)
  | 0x016 => some (.lea x)
  | 0x040 => some (.fadd x)
  | 0x041 => some (.fsub x)
  | 0x042 => some (.fmul x)
  | 0x043 => some (.fma x)
  | 0x044 => some (.fmin x)
  | 0x045 => some (.fmax x)
  | 0x046 => some (.fcmp x)
  | 0x047 => some (.fcvt x)
  | 0x048 => some (.fclass x)
  | 0x060 => some (.cmp x)
  | 0x061 => some (.cbit x)
  | 0x062 => some (.cset x)
  | 0x063 => some (.sel x)
  | 0x064 => some (.movSS x)
  | 0x065 => some (.movSA x)
  | 0x066 => some (.movSC x)
  | 0x067 => some (.movCS x)
  | 0x068 => some (.movSP x)
  | 0x069 => some (.movPS x)
  | 0x06A => some (.movSQ x)
  | 0x06B => some (.movQS x)
  | 0x06C => some (.gets x)
  | 0x06D => some (.puts x)
  | 0x100 => some (.vadd x)
  | 0x101 => some (.vsub x)
  | 0x102 => some (.vmul x)
  | 0x103 => some (.vfma x)
  | 0x104 => some (.vmin x)
  | 0x105 => some (.vmax x)
  | 0x106 => some (.vdiv x)
  | 0x107 => some (.vrcp x)
  | 0x108 => some (.vrsq x)
  | 0x109 => some (.vsqrt x)
  | 0x10A => some (.vmulh x)
  | 0x10B => some (.vand x)
  | 0x10C => some (.vor x)
  | 0x10D => some (.vxor x)
  | 0x10E => some (.vshl x)
  | 0x10F => some (.vshr x)
  | 0x110 => some (.vsra x)
  | 0x111 => some (.vpopc x)
  | 0x112 => some (.vclz x)
  | 0x113 => some (.vcmp x)
  | 0x114 => some (.vsel x)
  | 0x180 => some (.frint x)
  | 0x181 => some (.fexf x)
  | 0x182 => some (.finsx x)
  | 0x183 => some (.fgetx x)
  | 0x184 => some (.vcvt x)
  | 0x185 => some (.vwiden x)
  | 0x186 => some (.vnarrow x)
  | 0x1C0 => some (.vbcast x)
  | 0x1C1 => some (.vext x)
  | 0x1C2 => some (.vins x)
  | 0x1C3 => some (.vperm x)
  | 0x1C4 => some (.vslide x)
  | 0x1C5 => some (.vzip x)
  | 0x1C6 => some (.vunzip x)
  | 0x1C7 => some (.vcompress x)
  | 0x1C8 => some (.vexpand x)
  | 0x1C9 => some (.viota x)
  | 0x1CA => some (.vredadd x)
  | 0x1CB => some (.vredmax x)
  | 0x1CC => some (.vredmin x)
  | 0x1CD => some (.vargmax x)
  | 0x1CE => some (.vscan x)
  | 0x1CF => some (.pand x)
  | 0x1D0 => some (.por x)
  | 0x1D1 => some (.pxor x)
  | 0x1D2 => some (.pnot x)
  | 0x1D3 => some (.pfirst x)
  | 0x1D4 => some (.psetn x)
  | 0x1D5 => some (.pcount x)
  | 0x1D6 => some (.ptest x)
  | _ => none

/-- Class 01 of R58. -/
def ofImm (op : Nat) (x : ImmForm) : Option Instr :=
  match op with
  | 0x001 => some (.addi x)
  | 0x002 => some (.andi x)
  | 0x003 => some (.ori x)
  | 0x004 => some (.xori x)
  | 0x005 => some (.shli x)
  | 0x006 => some (.shri x)
  | 0x007 => some (.srai x)
  | 0x008 => some (.movi x)
  | 0x009 => some (.movhi x)
  | _ => none

/-- Class 10 of R58. `LDF` and `RGET` select their form by ORDER (R192, R255). -/
def ofMem (op : Nat) (x : MemForm) : Option Instr :=
  match op with
  | 0x001 => some (.ld x)
  | 0x002 => some (.st x)
  | 0x003 => some (.ldv x)
  | 0x004 => some (.stv x)
  | 0x005 => some (.ldvs x)
  | 0x006 => some (.stvs x)
  | 0x007 => some (.ldg x)
  | 0x008 => some (.stg x)
  | 0x040 => some (.aadd x)
  | 0x041 => some (.amin x)
  | 0x042 => some (.amax x)
  | 0x043 => some (.aand x)
  | 0x044 => some (.aor x)
  | 0x045 => some (.axor x)
  | 0x046 => some (.aswap x)
  | 0x047 => some (.acas x)
  | 0x048 => some (.aaddf x)
  | 0x049 => some (.cellrd x)
  | 0x060 => some (.fence x)
  | 0x061 => some (.fencer x)
  | 0x063 => some (.stf x)
  | 0x064 => some (.clre x)
  | 0x080 => some (.tnew x)
  | 0x081 => some (.twin x)
  | 0x082 => some (.tsubmit x)
  | 0x083 => some (.twait x)
  | 0x084 => some (.tstat x)
  | 0x085 => some (.tcancel x)
  | 0x086 => some (.tretry x)
  | 0x087 => some (.tabort x)
  | 0x088 => some (.fcwait x)
  | 0x089 => some (.fcadd x)
  | 0x0C0 => some (.cpy x)
  | 0x0C1 => some (.cpyf x)
  | 0x0C2 => some (.gath x)
  | 0x0C3 => some (.scat x)
  | 0x0C4 => some (.fill x)
  | 0x0C5 => some (.jwait x)
  | 0x0C6 => some (.jstat x)
  | 0x0C7 => some (.rput x)
  | 0x0C9 => some (.feed x)
  | 0x0CA => some (.unfeed x)
  | 0x0CB => some (.coll x)
  | 0x100 => some (.mwld x)
  | 0x101 => some (.mwswap x)
  | 0x102 => some (.mzero x)
  | 0x103 => some (.mdrain x)
  | 0x110 => some (.mstreamBf16Bf16 x)
  | 0x111 => some (.mstreamFp16Fp16 x)
  | 0x112 => some (.mstreamE4m3E4m3 x)
  | 0x113 => some (.mstreamE4m3E5m2 x)
  | 0x114 => some (.mstreamE5m2E4m3 x)
  | 0x115 => some (.mstreamE5m2E5m2 x)
  | 0x116 => some (.mstreamMxe4m3Mxe4m3 x)
  | 0x117 => some (.mstreamMxe2m1Mxe2m1 x)
  | 0x118 => some (.mstreamMxe2m1Mxe4m3 x)
  | 0x119 => some (.mstreamI8I8 x)
  | 0x180 => some (.ssopen x)
  | 0x181 => some (.ssload x)
  | 0x182 => some (.sssave x)
  | 0x183 => some (.ssnap x)
  | 0x184 => some (.ssrewind x)
  | 0x185 => some (.ssfork x)
  | 0x186 => some (.ssclose x)
  | 0x188 => some (.smopen x)
  | 0x189 => some (.smpost x)
  | 0x18A => some (.smtake x)
  | 0x18B => some (.smnoise x)
  | 0x190 => some (.gmask x)
  | 0x191 => some (.gwait x)
  | 0x198 => some (.tkstep x)
  | 0x1A0 => some (.lmove x)
  | 0x1A1 => some (.lpop x)
  | 0x1A2 => some (.lpush x)
  | 0x062 => some (if x.order == .acq then .ldfEmpty x else .ldf x)
  | 0x0C8 => some (match x.order with | .both => .rgetPoll x | .rel => .rgetDone x | _ => .rgetTake x)
  | _ => none

/-- Class 11 of R58. -/
def ofCtl (op : Nat) (x : CtlForm) : Option Instr :=
  match op with
  | 0x000 => some (.next x)
  | 0x010 => some (.matchT x)
  | 0x011 => some (.tbw x)
  | 0x012 => some (.tbr x)
  | 0x013 => some (.tbclr x)
  | 0x014 => some (.tbcopy x)
  | 0x015 => some (.tbflip x)
  | 0x016 => some (.tbpin x)
  | 0x017 => some (.tbunpin x)
  | 0x020 => some (.trap x)
  | 0x021 => some (.resume x)
  | 0x022 => some (.brk x)
  | 0x023 => some (.nop x)
  | 0x024 => some (.waite x)
  | 0x028 => some (.gjoin x)
  | 0x029 => some (.gleave x)
  | 0x02A => some (.gbar x)
  | 0x02B => some (.gsize x)
  | 0x03F => some (.xinv x)
  | _ => none

def zeroReg : RegForm :=
  ⟨⟨false, 0⟩, .i8, .reg 0, .none, 0, .reg 0, .reg 0, .reg 0, ⟨false, false⟩, ⟨false, false⟩, ⟨false, false⟩⟩
def zeroImm : ImmForm := ⟨⟨false, 0⟩, .i8, .reg 0, .reg 0, 0⟩
def zeroMem : MemForm := ⟨⟨false, 0⟩, .i8, .reg 0, .reg 0, 0, .gm, .plain, .cl⟩
def zeroCtl : CtlForm := ⟨⟨false, 0⟩, 0, 0, 0, 0⟩

/-- Step 1 of R57: is the opcode defined in its class (R58)? -/
def opDefined (cls op : Nat) : Bool :=
  match cls with
  | 0 => (ofReg op zeroReg).isSome
  | 1 => (ofImm op zeroImm).isSome
  | 2 => (ofMem op zeroMem).isSome
  | _ => (ofCtl op zeroCtl).isSome

/-- Steps 2 and 3 of R57 on the parsed fields, then the opcode's instruction. -/
def finish (c : Option Code) (i : Option Instr) : Except DecErr Instr :=
  match c, i with
  | some c, some i =>
    if c.fieldsOk then
      match c.misaligned with
      | some n => .error (.group n)
      | none => .ok i
    else .error .field
  | _, _ => .error .field

/-- The decoder, total on every word: R57 steps 1 to 3. -/
def decode (w : Word) : Except DecErr Instr :=
  let cls := (field w 62 2).toNat
  let op := (field w 52 10).toNat
  if opDefined cls op then
    match cls with
    | 0 => let x := parseReg w; finish (x.map (.reg op)) (x.bind (ofReg op))
    | 1 => let x := parseImm w; finish (x.map (.imm op)) (x.bind (ofImm op))
    | 2 => let x := parseMem w; finish (x.map (.mem op)) (x.bind (ofMem op))
    | _ => finish (some (.ctl op (parseCtl w))) (ofCtl op (parseCtl w))
  else .error .opcode

/-- A word from its eight bytes, lowest address first: instruction words are little-endian (R3). -/
def wordOfBytes : List Byte → Word
  | [] => 0
  | b :: bs => (wordOfBytes bs <<< 8) ||| b.zeroExtend 64

/-- The eight bytes of a word, lowest address first (R3). -/
def bytesOfWord (w : Word) : List Byte := (List.range 8).map fun i => w.extractLsb' (8 * i) 8

/-- The decoder on bytes: eight of them give a word, fewer are no instruction; the rest is returned. -/
def decodeBytes (bs : List Byte) : Except DecErr (Instr × List Byte) :=
  if bs.length < 8 then .error .opcode
  else match decode (wordOfBytes (bs.take 8)) with
    | .ok i => .ok (i, bs.drop 8)
    | .error e => .error e

/-- The instruction the decoder reads from the numbered bits `w` of an opcode-table row; every bit at
or above `nbits` is zero. A Privin instruction is one 64-bit word (R45). -/
def decodeTableWord (nbits w : Nat) : Option Instr :=
  match decodeBytes (bytesOfWord (BitVec.ofNat 64 (w % 2 ^ min nbits 64))) with
  | .ok (i, _) => some i
  | .error _ => none

/-! The encoder. -/

def Guard.enc (g : Guard) : Nat := (if g.inv then 8 else 0) + g.p.toNat

def Opnd.enc : Opnd → Nat
  | .reg n => n.toNat
  | .inc q => 0x40 + q.toNat
  | .str q => 0x80 + q.toNat

def SrcMod.enc (m : SrcMod) : Nat := (if m.neg then 2 else 0) + (if m.abs then 1 else 0)

def Clamp.enc : Clamp → Nat
  | .none => 0 | .sat => 1 | .c01 => 2 | .c11 => 3

def Space.enc : Space → Nat
  | .gm => 0 | .cm => 1 | .sp => 2 | .tcm => 3

def Order.enc : Order → Nat
  | .plain => 0 | .acq => 1 | .rel => 2 | .both => 3

def Scope.enc : Scope → Nat
  | .cl => 0 | .die => 1 | .part => 2 | .sys => 3

/-- The word of a format, opcode and fields (R45). -/
def Code.word : Code → Word
  | .reg op x => BitVec.ofNat 64 (op * 2 ^ 52 + x.g.enc * 2 ^ 48 + x.t.num * 2 ^ 44 + x.dst.enc * 2 ^ 36
      + x.clamp.enc * 2 ^ 34 + x.scale.toNat * 2 ^ 30 + x.s1.enc * 2 ^ 22 + x.s2.enc * 2 ^ 14
      + x.s3.enc * 2 ^ 6 + x.m1.enc * 16 + x.m2.enc * 4 + x.m3.enc)
  | .imm op x => BitVec.ofNat 64 (2 ^ 62 + op * 2 ^ 52 + x.g.enc * 2 ^ 48 + x.t.num * 2 ^ 44
      + x.dst.enc * 2 ^ 36 + x.src.enc * 2 ^ 28 + x.imm.toNat)
  | .mem op x => BitVec.ofNat 64 (2 * 2 ^ 62 + op * 2 ^ 52 + x.g.enc * 2 ^ 48 + x.t.num * 2 ^ 44
      + x.data.enc * 2 ^ 36 + x.base.enc * 2 ^ 28 + x.off.toNat * 2 ^ 6
      + x.space.enc * 16 + x.order.enc * 4 + x.scope.enc)
  | .ctl op x => BitVec.ofNat 64 (3 * 2 ^ 62 + op * 2 ^ 52 + x.g.enc * 2 ^ 48 + x.table.toNat * 2 ^ 42
      + x.key.toNat * 2 ^ 37 + x.ind.toNat * 2 ^ 32 + x.subop.toNat)

/-- The word of a well-formed instruction; an event of the device has none. -/
def encode (i : Instr) : Option Word := i.code.map Code.word

end Sys2Proof
end

