-- ==== Sys2Proof/Machine/Flags.lean ====
section
/-! DEFINITION. The sticky flags of R84 and R111 as bits of `%fflags`. -/

namespace Sys2Proof.Machine

/-- A set of sticky flags, in the places R84 gives them. -/
abbrev Flags := BitVec 64

namespace Fl

/-- No flag. -/
def none : Flags := 0
/-- Invalid. -/
def nv : Flags := 1
/-- Divide by zero. -/
def dz : Flags := 2
/-- Overflow. -/
def of : Flags := 4
/-- Underflow. -/
def uf : Flags := 8
/-- Inexact. -/
def nx : Flags := 16
/-- Accumulator underflow. -/
def au : Flags := 32

end Fl

/-- A flag raised on a condition. -/
def Flags.when (b : Bool) (f : Flags) : Flags := if b then f else 0

/-- R111: an instruction that raises several ORs all of them together. -/
def Flags.all (fs : List Flags) : Flags := fs.foldl (· ||| ·) 0

end Sys2Proof.Machine
end

