-- ==== Sys2Proof/Machine/Float.lean ====
section
/-! DEFINITION. The number formats of R100 to R103, rounding and conversion (R51, R106 to R109), and the
exact arithmetic under every floating-point instruction (R76 to R81, R112, R127, R128, R132 to R135). -/

namespace Sys2Proof.Machine

/-- The parameters of a float format (R100): bits of mantissa, bias, largest finite code, code of +∞,
canonical NaN, bit width, and whether a clear top mantissa bit makes a NaN signalling. -/
structure Fmt where
  mant : Nat
  bias : Int
  maxFin : Nat
  inf : Option Nat
  nan : Option Nat
  width : Nat
  sig : Bool
  deriving DecidableEq, Repr

namespace Fmt
def fp32 : Fmt := ⟨23, 127, 0x7F7FFFFF, some 0x7F800000, some 0x7FC00000, 32, true⟩
def bf16 : Fmt := ⟨7, 127, 0x7F7F, some 0x7F80, some 0x7FC0, 16, true⟩
def fp16 : Fmt := ⟨10, 15, 0x7BFF, some 0x7C00, some 0x7E00, 16, true⟩
def e4m3 : Fmt := ⟨3, 7, 0x7E, none, some 0x7F, 8, false⟩
def e5m2 : Fmt := ⟨2, 15, 0x7B, some 0x7C, some 0x7E, 8, false⟩
def e2m1 : Fmt := ⟨1, 1, 0x7, none, none, 4, false⟩
end Fmt

/-- The float format a type code names; a type that is no float type stands for fp32 and is never asked. -/
def fmtOf (t : Ty) : Fmt :=
  match t with
  | .bf16 => .bf16
  | .fp16 => .fp16
  | .e4m3 => .e4m3
  | .e5m2 => .e5m2
  | .e2m1 => .e2m1
  | _ => .fp32

/-- The exponent of the smallest normal. -/
def Fmt.emin (f : Fmt) : Int := 1 - f.bias

/-- The weight of the last mantissa bit of a subnormal. -/
def Fmt.lsbMin (f : Fmt) : Int := f.emin - f.mant

def Fmt.signBit (f : Fmt) : Nat := 2 ^ (f.width - 1)

/-- A value read from a format: a NaN (signalling or quiet), an infinity, or ±m·2^e exactly. -/
inductive FVal where
  | nan (sig : Bool)
  | inf (neg : Bool)
  | fin (neg : Bool) (m : Nat) (e : Int)
  deriving DecidableEq, Repr

namespace FVal
def isNan : FVal → Bool
  | nan _ => true
  | _ => false
def isSig : FVal → Bool
  | nan s => s
  | _ => false
def isZero : FVal → Bool
  | fin _ m _ => m == 0
  | _ => false
def isInf : FVal → Bool
  | inf _ => true
  | _ => false
def sign : FVal → Bool
  | nan _ => false
  | inf n => n
  | fin n _ _ => n
def neg : FVal → FVal
  | nan s => nan s
  | inf n => inf (!n)
  | fin n m e => fin (!n) m e
/-- Multiplication by 2^k, exact. -/
def scale (k : Int) : FVal → FVal
  | fin n m e => fin n m (e + k)
  | v => v
/-- An integer as a value; zero is +0. -/
def ofInt (i : Int) : FVal := fin (i < 0) i.natAbs 0
end FVal

/-- `decode` of R100: the value of a code. -/
def Fmt.decode (f : Fmt) (w : Nat) : FVal :=
  let neg := w / f.signBit % 2 == 1
  let mag := w % f.signBit
  if mag > f.maxFin then
    if f.inf == some mag then .inf neg
    else .nan (f.sig && mag / 2 ^ (f.mant - 1) % 2 == 0)
  else
    let ef := mag / 2 ^ f.mant
    let mf := mag % 2 ^ f.mant
    if ef == 0 then .fin neg mf f.lsbMin
    else .fin neg (2 ^ f.mant + mf) (f.lsbMin + ef - 1)

/-- The rounding modes: R84's four, and stochastic rounding with its 32-bit draw (R109). -/
inductive RM where
  | rne | rz | rd | ru
  | sr (u : Nat)
  deriving DecidableEq, Repr

/-- %rmode[1:0] (R84). -/
def RM.ofBits (b : BitVec 64) : RM :=
  match (b.toNat % 4) with
  | 0 => .rne
  | 1 => .rz
  | 2 => .rd
  | _ => .ru

/-- Does a magnitude between two grid points, with remainder r of d units, round away from zero? -/
def RM.up (mode : RM) (neg : Bool) (odd : Bool) (r d : Nat) : Bool :=
  match mode with
  | .rne => 2 * r > d || (2 * r == d && odd)
  | .rz => false
  | .rd => neg && r != 0
  | .ru => !neg && r != 0
  | .sr u => r != 0 && r * 2 ^ 32 / d + u ≥ 2 ^ 32

/-- m·2^e rounded to a whole count of 2^lsb: the count, and whether it is inexact. -/
def roundAt (mode : RM) (neg : Bool) (m : Nat) (e lsb : Int) : Nat × Bool :=
  if e ≥ lsb then (m * 2 ^ (e - lsb).toNat, false)
  else
    let d := 2 ^ (lsb - e).toNat
    let q := m / d
    let r := m % d
    ((if mode.up neg (q % 2 == 1) r d then q + 1 else q), r != 0)

/-- The exponent of the leading bit of m·2^e, for m not zero. -/
def topExp (m : Nat) (e : Int) : Int := e + Nat.log2 m

/-- A clamp as R51 applies it to a code. -/
def Fmt.clampCode (f : Fmt) (cl : Clamp) (w : Nat) : Nat :=
  let v := f.decode w
  let one : Nat := (f.bias.toNat) * 2 ^ f.mant
  let mag := w % f.signBit
  match cl with
  | .none => w
  | .sat => if v.isInf then (if v.sign then f.signBit else 0) + f.maxFin else w
  | .c01 =>
    if v.isNan || v.sign then 0
    else if mag > one then one else w
  | .c11 =>
    if v.isNan then 0
    else if mag > one then (if v.sign then f.signBit else 0) + one else w

/-- R107: the result of a value whose rounded magnitude exceeds the largest finite value. -/
def Fmt.overflow (f : Fmt) (mode : RM) (sat neg : Bool) : Nat :=
  let s := if neg then f.signBit else 0
  let toward := match mode with
    | .rne => true
    | .sr _ => true
    | .rz => false
    | .rd => neg
    | .ru => !neg
  if sat || !toward then s + f.maxFin
  else match f.inf, f.nan with
    | some i, _ => s + i
    | none, some n => n
    | none, none => s + f.maxFin

/-- `round` and the flags of R106 for a finite value. A value whose last bit stands for a nonzero
remainder (a quotient, a root) has it far below the last kept bit. -/
def Fmt.round (f : Fmt) (mode : RM) (sat neg : Bool) (m : Nat) (e : Int) : Nat × Flags :=
  let s := if neg then f.signBit else 0
  if m == 0 then (s, 0)
  else
    let k := topExp m e
    let lsb := max (k - f.mant) f.lsbMin
    let (q, inexact) := roundAt mode neg m e lsb
    let code := (lsb - f.lsbMin).toNat * 2 ^ f.mant + q
    if code > f.maxFin then (f.overflow mode sat neg, Fl.of ||| Fl.nx)
    else
      let tmode := match mode with | .sr _ => mode | m' => m'
      let t := (roundAt tmode neg m e (k - f.mant)).1
      let tiny := topExp (max t 1) (k - f.mant) < f.emin
      (s + code, Flags.when inexact Fl.nx ||| Flags.when (inexact && tiny) Fl.uf)

/-- R108 without the flags of a NaN: the canonical NaN, or +0 where the format has none. -/
def Fmt.nanCode (f : Fmt) : Nat := f.nan.getD 0

/-- R108: an infinite value on its way to a format. -/
def Fmt.infCode (f : Fmt) (sat neg : Bool) : Nat × Flags :=
  let s := if neg then f.signBit else 0
  match f.inf, f.nan with
  | some i, _ => ((if sat then s + f.maxFin else s + i), 0)
  | none, some n => if sat then (s + f.maxFin, 0) else (n, Fl.nv)
  | none, none => (s + f.maxFin, Fl.nv)

/-- `convert` of R106, with SCALE before and the clamp after (R51). -/
def Fmt.convert (f : Fmt) (mode : RM) (cl : Clamp) (sc : Int) (v : FVal) : Nat × Flags :=
  let sat := cl == .sat
  let (w, fl) := match v with
    | .nan sig => (f.nanCode, Flags.when (sig || f.nan.isNone) Fl.nv)
    | .inf n => f.infCode sat n
    | .fin n m e => f.round mode sat n m (e + sc)
  (f.clampCode cl w, fl)

/-- SCALE as R45 reads it. -/
def scaleOf (s : BitVec 4) : Int := s.toInt

/-! ### Exact operations: the value and the invalid or divide flag of the operation itself -/

/-- The sum of two finite values at a common exponent, as an integer count of 2^e. -/
def addFin (mode : RM) (n1 : Bool) (m1 : Nat) (e1 : Int) (n2 : Bool) (m2 : Nat) (e2 : Int) : FVal :=
  let e := min e1 e2
  let i1 : Int := (if n1 then -1 else 1) * (m1 * 2 ^ (e1 - e).toNat : Nat)
  let i2 : Int := (if n2 then -1 else 1) * (m2 * 2 ^ (e2 - e).toNat : Nat)
  let s := i1 + i2
  if s == 0 then
    .fin (if m1 == 0 && m2 == 0 && n1 == n2 then n1 else mode == .rd) 0 0
  else .fin (s < 0) s.natAbs e

/-- a + b exactly, with R77's sign of a zero. Signalling NaNs are flagged by the caller. -/
def addV (mode : RM) (a b : FVal) : FVal × Flags :=
  match a, b with
  | .nan _, _ => (.nan false, 0)
  | _, .nan _ => (.nan false, 0)
  | .inf x, .inf y => if x == y then (.inf x, 0) else (.nan false, Fl.nv)
  | .inf x, _ => (.inf x, 0)
  | _, .inf y => (.inf y, 0)
  | .fin n1 m1 e1, .fin n2 m2 e2 =>
    if m2 == 0 && m1 != 0 then (a, 0)
    else if m1 == 0 && m2 != 0 then (b, 0)
    else (addFin mode n1 m1 e1 n2 m2 e2, 0)

/-- a × b exactly. -/
def mulV (a b : FVal) : FVal × Flags :=
  match a, b with
  | .nan _, _ => (.nan false, 0)
  | _, .nan _ => (.nan false, 0)
  | .inf x, y => if y.isZero then (.nan false, Fl.nv) else (.inf (x != y.sign), 0)
  | x, .inf y => if x.isZero then (.nan false, Fl.nv) else (.inf (x.sign != y), 0)
  | .fin n1 m1 e1, .fin n2 m2 e2 => (.fin (n1 != n2) (m1 * m2) (e1 + e2), 0)

/-- NV for any signalling NaN among the operands (R76). -/
def sigFlags (vs : List FVal) : Flags := Flags.when (vs.any FVal.isSig) Fl.nv

def faddV (mode : RM) (a b : FVal) : FVal × Flags :=
  let (r, fl) := addV mode a b
  (r, fl ||| sigFlags [a, b])

def fmulV (a b : FVal) : FVal × Flags :=
  let (r, fl) := mulV a b
  (r, fl ||| sigFlags [a, b])

/-- a × b + c with one rounding to come. -/
def fmaV (mode : RM) (a b c : FVal) : FVal × Flags :=
  let (p, f1) := mulV a b
  let (r, f2) := addV mode p c
  (r, f1 ||| f2 ||| sigFlags [a, b, c])

/-- The integer square root by bits, from bit `fuel` downward. -/
def isqrtGo (n : Nat) : Nat → Nat → Nat
  | 0, r => r
  | k + 1, r => let t := r + 2 ^ k; isqrtGo n k (if t * t ≤ n then t else r)

def isqrt (n : Nat) : Nat := isqrtGo n (Nat.log2 n / 2 + 1) 0

/-- A quotient of magnitudes with a last bit that stands for a nonzero remainder. -/
def divMag (a b : Nat) : Nat × Int :=
  let s := 80 + Nat.log2 b
  let n := a * 2 ^ s
  (2 * (n / b) + (if n % b == 0 then 0 else 1), -(s : Int) - 1)

/-- R128, `VDIV`. -/
def fdivV (a b : FVal) : FVal × Flags :=
  let sf := sigFlags [a, b]
  match a, b with
  | .nan _, _ => (.nan false, sf)
  | _, .nan _ => (.nan false, sf)
  | .inf _, .inf _ => (.nan false, Fl.nv)
  | .inf x, y => (.inf (x != y.sign), 0)
  | x, .inf y => (.fin (x.sign != y) 0 0, 0)
  | .fin n1 m1 e1, .fin n2 m2 e2 =>
    if m2 == 0 then
      if m1 == 0 then (.nan false, Fl.nv) else (.inf (n1 != n2), Fl.dz)
    else
      let (q, e) := divMag m1 m2
      (.fin (n1 != n2) q (e1 - e2 + e), 0)

/-- R128, `VRCP`. -/
def frcpV (a : FVal) : FVal × Flags := fdivV (.fin false 1 0) a

/-- √(m·2^e) with a last bit that stands for a nonzero remainder. -/
def sqrtMag (m : Nat) (e : Int) : Nat × Int :=
  let odd := e % 2 != 0
  let m1 := if odd then 2 * m else m
  let e1 := if odd then e - 1 else e
  let n := m1 * 2 ^ 160
  let r := isqrt n
  (2 * r + (if r * r == n then 0 else 1), e1 / 2 - 80 - 1)

/-- R128, `VSQRT`. -/
def fsqrtV (a : FVal) : FVal × Flags :=
  match a with
  | .nan s => (.nan false, Flags.when s Fl.nv)
  | .inf n => if n then (.nan false, Fl.nv) else (.inf false, 0)
  | .fin n m e =>
    if m == 0 then (a, 0)
    else if n then (.nan false, Fl.nv)
    else let (r, e') := sqrtMag m e; (.fin false r e', 0)

/-- R128, `VRSQ`. -/
def frsqV (a : FVal) : FVal × Flags :=
  match a with
  | .nan s => (.nan false, Flags.when s Fl.nv)
  | .inf n => if n then (.nan false, Fl.nv) else (.fin false 0 0, 0)
  | .fin n m e =>
    if m == 0 then (.inf n, Fl.dz)
    else if n then (.nan false, Fl.nv)
    else
      let odd := e % 2 != 0
      let m1 := if odd then 2 * m else m
      let e1 := if odd then e - 1 else e
      let k := 96 + Nat.log2 m1
      let p := 2 ^ (2 * k)
      let r := isqrt (p / m1)
      (.fin false (2 * r + (if r * r * m1 == p then 0 else 1)) (-(e1 / 2) - k - 1), 0)

/-- The order of two values, neither a NaN, with −0 equal to +0. -/
def cmpV (a b : FVal) : Ordering :=
  match a, b with
  | .inf x, .inf y => if x == y then .eq else if x then .lt else .gt
  | .inf x, _ => if x then .lt else .gt
  | _, .inf y => if y then .gt else .lt
  | .fin n1 m1 e1, .fin n2 m2 e2 =>
    let e := min e1 e2
    let i1 : Int := (if n1 then -1 else 1) * (m1 * 2 ^ (e1 - e).toNat : Nat)
    let i2 : Int := (if n2 then -1 else 1) * (m2 * 2 ^ (e2 - e).toNat : Nat)
    compare i1 i2
  | .nan _, _ => .eq
  | _, .nan _ => .eq

/-- a is below b, with −0 below +0 (R78). -/
def ltV (a b : FVal) : Bool :=
  match cmpV a b with
  | .lt => true
  | .gt => false
  | .eq => a.sign && !b.sign

/-- The conditions of R79. -/
def fcond (code : Nat) (a b : FVal) : Bool × Flags :=
  let sig := sigFlags [a, b]
  if a.isNan || b.isNan then
    match code with
    | 0 => (false, sig)
    | 1 => (true, sig)
    | 6 => (true, sig)
    | _ => (false, Fl.nv)
  else
    let o := cmpV a b
    match code with
    | 0 => (o == .eq, 0)
    | 1 => (o != .eq, 0)
    | 2 => (o == .lt, 0)
    | 3 => (o != .gt, 0)
    | 4 => (o == .gt, 0)
    | 5 => (o != .lt, 0)
    | _ => (false, 0)

/-- R78: the smaller or larger of two codes of one format. -/
def fminmax (f : Fmt) (wantMax : Bool) (wa wb : Nat) : Nat × Flags :=
  let a := f.decode wa
  let b := f.decode wb
  let sig := sigFlags [a, b]
  if a.isNan && b.isNan then (f.nanCode, sig)
  else if a.isNan then (wb, sig)
  else if b.isNan then (wa, sig)
  else if wantMax then ((if ltV a b then wb else wa), 0)
  else ((if ltV b a then wb else wa), 0)

/-- R81: the one-hot class mask. -/
def fclassOf (f : Fmt) (w : Nat) : Nat :=
  match f.decode w with
  | .nan s => if s then 0x100 else 0x200
  | .inf n => if n then 0x001 else 0x080
  | .fin n m _ =>
    if m == 0 then (if n then 0x008 else 0x010)
    else if w % f.signBit < 2 ^ f.mant then (if n then 0x004 else 0x020)
    else (if n then 0x002 else 0x040)

/-- A value rounded to an integer: nothing for a NaN or an infinity; otherwise the integer and whether
it is inexact. -/
def toIntV (mode : RM) (v : FVal) : Option (Int × Bool) :=
  match v with
  | .fin n m e =>
    -- a value of 2^200 and more lies outside every integer type
    if topExp (max m 1) e > 200 then some ((if n then -1 else 1) * (2 ^ 201 : Nat), false)
    else
      let (q, ix) := roundAt mode n m e 0
      some ((if n then -(q : Int) else q), ix)
  | _ => none

/-- R132, the value: an integral value with the operand's sign. -/
def frintV (mode : RM) (v : FVal) : FVal × Flags :=
  match v with
  | .nan s => (.nan false, Flags.when s Fl.nv)
  | .inf n => (.inf n, 0)
  | .fin n m e => if e ≥ 0 then (v, 0) else (.fin n (roundAt mode n m e 0).1 0, 0)

/-- R134. Exponents far beyond any format's range are cut to ±4,096, which rounds the same. -/
def finsxV (y n : FVal) : FVal × Flags :=
  let sig := sigFlags [y, n]
  match y, n with
  | .nan _, _ => (.nan false, sig)
  | _, .nan _ => (.nan false, sig)
  | .inf s, .inf k => if k then (.nan false, Fl.nv) else (.inf s, 0)
  | .inf s, .fin _ _ _ => (.inf s, 0)
  | .fin s m _, .inf k =>
    if m == 0 then (if k then (y, 0) else (.nan false, Fl.nv))
    else if k then (.fin s 0 0, 0) else (.inf s, 0)
  | .fin s m e, .fin nn nm ne =>
    let big : Int := if topExp (max nm 1) ne > 12 then 4096 else ((roundAt .rz nn nm ne 0).1 : Int)
    (.fin s m (e + (if nn then -(min big 4096) else min big 4096)), 0)

/-- R135. -/
def fgetxV (v : FVal) : FVal × Flags :=
  match v with
  | .nan s => (.nan false, Flags.when s Fl.nv)
  | .inf _ => (.inf false, 0)
  | .fin _ m e => if m == 0 then (.inf true, Fl.dz) else (.ofInt (topExp m e), 0)

/-- ln 2 in units of 2^−256. -/
def ln2q : Nat := 0xB17217F7D1CF79ABC9E3B39803F2F6AF40F343267298B62D8A0D175B8BAAFA2B

/-- The Taylor sum of e^x for |x| below 1, x in units of 2^−192, from the `fuel`-th term inward. -/
def expGo (x : Int) : Nat → Int → Int
  | 0, acc => acc
  | k + 1, acc => expGo x k (2 ^ 192 + acc * x / (2 ^ 192 * (k + 1 : Int)))

/-- 2^f for a finite f in [−1, 1] that is no integer, in units of 2^−193 with a last bit that stands for
the rest: 2^f is then irrational, so no case is a tie (R133). -/
def exp2Mag (neg : Bool) (m : Nat) (e : Int) : Nat :=
  let x : Nat := if e ≥ 0 then m * ln2q / 2 ^ 64 else m * ln2q / 2 ^ (64 + (-e).toNat)
  let r := expGo (if neg then -(x : Int) - 1 else x) 60 (2 ^ 192)
  2 * r.toNat + 1

/-- R133. -/
def fexfV (v : FVal) : FVal × Flags :=
  match v with
  | .nan s => (.nan false, Flags.when s Fl.nv)
  | .inf _ => (.nan false, Fl.nv)
  | .fin n m e =>
    let one := FVal.fin false 1 0
    if m == 0 then (one, 0)
    else match cmpV (.fin false m e) one with
      | .gt => (.nan false, Fl.nv)
      | .eq => (.fin false 1 (if n then -1 else 1), 0)
      | .lt => (.fin false (exp2Mag n m e) (-193), 0)

end Sys2Proof.Machine
end

