-- ==== Sys2Proof/Machine/Lane.lean ====
section
/-! DEFINITION. What one element's arithmetic does at its type: integer results (R65 to R70, R127 to R129),
source modifiers (R50), float results with SCALE, rounding and CLAMP (R51), comparison, conversion
(R80, R106, R136 to R138), and a register's bytes as a row of elements (R41, R123). -/

namespace Sys2Proof.Machine

/-! ### Integers of width w held as natural numbers below 2^w -/

/-- The low w bits. -/
def lowBits (w x : Nat) : Nat := x % 2 ^ w

/-- Two's complement value of the low w bits. -/
def toSigned (w x : Nat) : Int :=
  let y := lowBits w x
  if y < 2 ^ (w - 1) then (y : Int) else (y : Int) - 2 ^ w

/-- The w-bit pattern of an integer, wrapping. -/
def wrapTo (w : Nat) (i : Int) : Nat := (i % 2 ^ w).toNat

/-- A pattern read as its type reads it: signed for i types, unsigned otherwise. -/
def intVal (t : Ty) (x : Nat) : Int :=
  if t.isI then toSigned t.bits x else (lowBits t.bits x : Int)

/-- The least and greatest value of an integer type. -/
def intMin (t : Ty) : Int := if t.isI then -(2 ^ (t.bits - 1) : Nat) else 0
def intMax (t : Ty) : Int := if t.isI then (2 ^ (t.bits - 1) : Nat) - 1 else (2 ^ t.bits : Nat) - 1

/-- R51: an integer result wraps, or saturates to its type's range. -/
def finishInt (t : Ty) (cl : Clamp) (i : Int) : Nat :=
  if cl == .sat then wrapTo t.bits (max (intMin t) (min (intMax t) i)) else wrapTo t.bits i

/-- R65 step 4: how a w-bit result stands in a scalar register. -/
def extendInt (t : Ty) (r : Nat) : Word :=
  if t.isI then BitVec.ofInt 64 (toSigned t.bits r) else BitVec.ofNat 64 (lowBits t.bits r)

def addI (t : Ty) (cl : Clamp) (a b : Nat) : Nat := finishInt t cl (intVal t a + intVal t b)
def subI (t : Ty) (cl : Clamp) (a b : Nat) : Nat := finishInt t cl (intVal t a - intVal t b)
def mulI (t : Ty) (cl : Clamp) (a b : Nat) : Nat := finishInt t cl (intVal t a * intVal t b)
def fmaI (t : Ty) (cl : Clamp) (a b c : Nat) : Nat :=
  finishInt t cl (intVal t a * intVal t b + intVal t c)
def mulhI (t : Ty) (a b : Nat) : Nat := wrapTo t.bits (intVal t a * intVal t b / 2 ^ t.bits)

/-- R67, the quotient. -/
def divI (t : Ty) (a b : Nat) : Nat :=
  if intVal t b == 0 then 2 ^ t.bits - 1 else wrapTo t.bits (Int.tdiv (intVal t a) (intVal t b))

/-- R67, the remainder. -/
def remI (t : Ty) (a b : Nat) : Nat :=
  if intVal t b == 0 then lowBits t.bits a
  else wrapTo t.bits (Int.tmod (intVal t a) (intVal t b))

def minI (t : Ty) (a b : Nat) : Nat := if intVal t b < intVal t a then lowBits t.bits b else lowBits t.bits a
def maxI (t : Ty) (a b : Nat) : Nat := if intVal t a < intVal t b then lowBits t.bits b else lowBits t.bits a

def andI (t : Ty) (a b : Nat) : Nat := Nat.land (lowBits t.bits a) (lowBits t.bits b)
def orI (t : Ty) (a b : Nat) : Nat := Nat.lor (lowBits t.bits a) (lowBits t.bits b)
def xorI (t : Ty) (a b : Nat) : Nat := Nat.xor (lowBits t.bits a) (lowBits t.bits b)
def notI (t : Ty) (a : Nat) : Nat := 2 ^ t.bits - 1 - lowBits t.bits a
def andnI (t : Ty) (a b : Nat) : Nat := andI t a (notI t b)

def shlI (t : Ty) (a b : Nat) : Nat := lowBits t.bits (a * 2 ^ (b % t.bits))
def shrI (t : Ty) (a b : Nat) : Nat := lowBits t.bits a / 2 ^ (b % t.bits)
def sraI (t : Ty) (a b : Nat) : Nat := wrapTo t.bits (toSigned t.bits a / 2 ^ (b % t.bits))
def rotI (t : Ty) (a b : Nat) : Nat :=
  let k := b % t.bits
  Nat.lor (shlI t a k) (lowBits t.bits a / 2 ^ (t.bits - k))

def clzI (t : Ty) (a : Nat) : Nat :=
  let y := lowBits t.bits a
  if y == 0 then t.bits else t.bits - 1 - Nat.log2 y

def popcGo : Nat → Nat → Nat
  | 0, _ => 0
  | k + 1, x => x % 2 + popcGo k (x / 2)

def popcI (t : Ty) (a : Nat) : Nat := popcGo t.bits a

def bswapGo : Nat → Nat → Nat → Nat
  | 0, _, acc => acc
  | k + 1, x, acc => bswapGo k (x / 256) (acc * 256 + x % 256)

def bswapI (t : Ty) (a : Nat) : Nat := bswapGo (t.bits / 8) (lowBits t.bits a) 0

/-- R68: position and length of the field a descriptor names; no field when the length is 0 or above 64. -/
def fieldOf (d : Word) : Option (Nat × Nat) :=
  let pos := d.toNat % 64
  let len := d.toNat / 256 % 128
  if len == 0 || len > 64 then none else some (pos, min len (64 - pos))

/-- R68, `EXTB`. -/
def extbI (signed : Bool) (a d : Word) : Word :=
  match fieldOf d with
  | none => 0
  | some (pos, len) =>
    let f := a.toNat / 2 ^ pos % 2 ^ len
    if signed then BitVec.ofInt 64 (toSigned len f) else BitVec.ofNat 64 f

/-- R68, `INSB`. -/
def insbI (a b d : Word) : Word :=
  match fieldOf d with
  | none => a
  | some (pos, len) =>
    let m : Word := BitVec.ofNat 64 ((2 ^ len - 1) * 2 ^ pos)
    (a &&& ~~~ m) ||| ((b <<< pos) &&& m)

/-- The conditions of R71 on two integers. -/
def icond (code : Nat) (a b : Int) : Bool :=
  match code with
  | 0 => a == b
  | 1 => a != b
  | 2 => a < b
  | 3 => a ≤ b
  | 4 => a > b
  | 5 => a ≥ b
  | _ => false

/-! ### Source modifiers and float operations on codes -/

/-- R50: the absolute value first, then the negation. -/
def modSrc (t : Ty) (m : SrcMod) (x : Nat) : Nat :=
  if t.isFloat then
    let s := (fmtOf t).signBit
    let y := if m.abs then x % s else x % (2 * s)
    if m.neg then (if y < s then y + s else y - s) else y
  else
    let y := if m.abs && toSigned t.bits x < 0 then wrapTo t.bits (-(toSigned t.bits x)) else lowBits t.bits x
    if m.neg then wrapTo t.bits (-(toSigned t.bits y)) else y

/-- A float operation's value rounded once with SCALE and CLAMP, its flags joined (R51, R76). -/
def finishF (t : Ty) (mode : RM) (cl : Clamp) (sc : Int) (r : FVal × Flags) : Nat × Flags :=
  let (w, fl) := (fmtOf t).convert mode cl sc r.1
  (w, fl ||| r.2)

def valF (t : Ty) (x : Nat) : FVal := (fmtOf t).decode (lowBits t.bits x)

/-- a + b, a − b, a × b, a × b + c of R77 and R127 at a type. -/
def addT (t : Ty) (mode : RM) (cl : Clamp) (sc : Int) (a b : Nat) : Nat × Flags :=
  if t.isFloat then finishF t mode cl sc (faddV mode (valF t a) (valF t b)) else (addI t cl a b, 0)
def subT (t : Ty) (mode : RM) (cl : Clamp) (sc : Int) (a b : Nat) : Nat × Flags :=
  if t.isFloat then finishF t mode cl sc (faddV mode (valF t a) (valF t b).neg) else (subI t cl a b, 0)
def mulT (t : Ty) (mode : RM) (cl : Clamp) (sc : Int) (a b : Nat) : Nat × Flags :=
  if t.isFloat then finishF t mode cl sc (fmulV (valF t a) (valF t b)) else (mulI t cl a b, 0)
def fmaT (t : Ty) (mode : RM) (cl : Clamp) (sc : Int) (a b c : Nat) : Nat × Flags :=
  if t.isFloat then finishF t mode cl sc (fmaV mode (valF t a) (valF t b) (valF t c))
  else (fmaI t cl a b c, 0)
def minT (t : Ty) (a b : Nat) : Nat × Flags :=
  if t.isFloat then fminmax (fmtOf t) false (lowBits t.bits a) (lowBits t.bits b) else (minI t a b, 0)
def maxT (t : Ty) (a b : Nat) : Nat × Flags :=
  if t.isFloat then fminmax (fmtOf t) true (lowBits t.bits a) (lowBits t.bits b) else (maxI t a b, 0)

/-- The comparisons of R71, R79 and R130 at a type. -/
def condT (t : Ty) (code a b : Nat) : Bool × Flags :=
  if t.isFloat then fcond code (valF t a) (valF t b) else (icond code (intVal t a) (intVal t b), 0)

/-- The exact widening conversions of R106. -/
def exactWiden (d s : Ty) : Bool :=
  match d, s with
  | .fp32, .fp16 | .fp32, .bf16 | .fp32, .e4m3 | .fp32, .e5m2 | .fp32, .e2m1
  | .fp16, .e4m3 | .fp16, .e5m2 | .fp16, .e2m1 | .bf16, .e4m3 | .bf16, .e5m2 | .bf16, .e2m1 => true
  | _, _ => false

/-- R106: a conversion between float formats that is not an exact widening. -/
def isDown (d s : Ty) : Bool := d.isFloat && s.isFloat && !exactWiden d s

/-- R80: a float value to an integer type. -/
def floatToInt (d : Ty) (mode : RM) (v : FVal) : Nat × Flags :=
  match v with
  | .nan _ => (0, Fl.nv)
  | .inf n => (wrapTo d.bits (if n then intMin d else intMax d), Fl.nv)
  | .fin _ _ _ =>
    match toIntV mode v with
    | none => (0, Fl.nv)
    | some (i, ix) =>
      if i < intMin d then (wrapTo d.bits (intMin d), Fl.nv)
      else if i > intMax d then (wrapTo d.bits (intMax d), Fl.nv)
      else (wrapTo d.bits i, Flags.when ix Fl.nx)

/-- Conversion of one element from type s to type d (R80, R106, R136 to R138). `dn` is the mode of a
down-conversion, `mode` that of every other. -/
def cvtT (d s : Ty) (mode dn : RM) (cl : Clamp) (sc : Int) (x : Nat) : Nat × Flags :=
  if s.isFloat then
    if d.isFloat then
      (fmtOf d).convert (if isDown d s then dn else mode) cl sc (valF s x)
    else floatToInt d mode (valF s x)
  else
    if d.isFloat then (fmtOf d).convert mode cl sc (.ofInt (intVal s x))
    else (finishInt d cl (intVal s x), 0)

/-! ### Rows of elements -/

/-- Element i of width w bits of a row (R41, R123). -/
def elem (w i v : Nat) : Nat := v / 2 ^ (i * w) % 2 ^ w

/-- The n elements of a row. -/
def elems (w n v : Nat) : List Nat := (List.range n).map fun i => elem w i v

/-- The row that holds these elements, element 0 lowest. -/
def packElems (w : Nat) (es : List Nat) : Nat := es.foldr (fun e acc => acc * 2 ^ w + e % 2 ^ w) 0

/-- How many elements of a type a register holds: 64/e (R123). -/
def lanes (t : Ty) : Nat := 512 / t.bits

/-- The predicate bit that governs element i when the narrowest operand has elements of w bits (R49). -/
def predBit (w i : Nat) : Nat := i * w / 8

/-- R49: the selected predicate, inverted if the guard says so. -/
def guardMask (inv : Bool) (p : Word) : Word := if inv then ~~~ p else p

/-- Is element i active? -/
def activeAt (g : Word) (w i : Nat) : Bool := g.getLsbD (predBit w i)

/-- The activity of n elements. -/
def actives (g : Word) (w n : Nat) : List Bool := (List.range n).map fun i => activeAt g w i

/-- Active elements take their new value; inactive ones keep the old (R124). -/
def mergeElems : List Bool → List Nat → List Nat → List Nat
  | true :: bs, n :: ns, _ :: os => n :: mergeElems bs ns os
  | false :: bs, _ :: ns, o :: os => o :: mergeElems bs ns os
  | _, _, _ => []

/-- Flags of active elements only (R111). -/
def activeFlags : List Bool → List (Nat × Flags) → Flags
  | true :: bs, r :: rs => r.2 ||| activeFlags bs rs
  | false :: bs, _ :: rs => activeFlags bs rs
  | _, _ => 0

/-- The bits of a predicate that belong to element i of e bytes (R130, R144); one bit for a half byte. -/
def setPred (w : Nat) (p : Word) (i : Nat) (b : Bool) : Word :=
  let k := max 1 (w / 8)
  let m : Word := BitVec.ofNat 64 ((2 ^ k - 1) * 2 ^ (predBit w i))
  if b then p ||| m else p &&& ~~~ m

/-- Writes the element bits of a predicate for the active elements. -/
def mergePred (w : Nat) : List Bool → List Bool → Nat → Word → Word
  | a :: as, b :: bs, i, p => mergePred w as bs (i + 1) (if a then setPred w p i b else p)
  | _, _, _, p => p

/-! ### Reductions and scans (R117, R118, R142) -/

/-- −0 of a float type, 0 of an integer type: what an inactive element adds. -/
def addUnit (t : Ty) : Nat := if t.isFloat then (fmtOf t).signBit else 0

/-- One level of the pairwise tree. -/
def treeLevel (t : Ty) (mode : RM) : List Nat → List Nat × Flags
  | a :: b :: r =>
    let (x, f) := addT t mode .none 0 a b
    let (xs, fs) := treeLevel t mode r
    (x :: xs, f ||| fs)
  | r => (r, 0)

/-- R117: the levels of the tree, `fuel` of them. -/
def treeSum (t : Ty) (mode : RM) : Nat → List Nat → Nat × Flags
  | 0, xs => (xs.headD 0, 0)
  | k + 1, xs =>
    let (ys, f) := treeLevel t mode xs
    let (r, fs) := treeSum t mode k ys
    (r, f ||| fs)

/-- R142, `VREDADD`. -/
def redAdd (t : Ty) (mode : RM) (as : List Bool) (xs : List Nat) : Nat × Flags :=
  let us := mergeElems as xs (xs.map fun _ => addUnit t)
  treeSum t mode (Nat.log2 xs.length) us

/-- The active elements. -/
def activeOnly : List Bool → List Nat → List Nat
  | true :: bs, x :: xs => x :: activeOnly bs xs
  | false :: bs, _ :: xs => activeOnly bs xs
  | _, _ => []

/-- R142, `VREDMAX` and `VREDMIN`. -/
def redMinMax (t : Ty) (wantMax : Bool) (as : List Bool) (xs : List Nat) : Nat × Flags :=
  let ys := activeOnly as xs
  if t.isFloat then
    let f := fmtOf t
    let vs := ys.map fun y => lowBits t.bits y
    let sig := sigFlags (vs.map f.decode)
    let ns := vs.filter fun y => !(f.decode y).isNan
    match vs, ns with
    | [], _ => ((if wantMax then f.signBit else 0) + f.inf.getD f.maxFin, 0)
    | _, [] => (f.nanCode, sig)
    | _, n :: r => (r.foldl (fun m y => (fminmax f wantMax m y).1) n, sig)
  else
    (ys.foldl (fun m y => if wantMax then maxI t m y else minI t m y)
      (wrapTo t.bits (if wantMax then intMin t else intMax t)), 0)

/-- R142, `VARGMAX`: the best code and its index so far. -/
def argGo (t : Ty) : List Bool → List Nat → Nat → Option (Nat × Nat) → Option (Nat × Nat)
  | a :: as, x :: xs, i, best =>
    let ok := a && !(t.isFloat && (valF t x).isNan)
    let better := match best with
      | none => ok
      | some (b, _) => ok && (if t.isFloat then ltV (valF t b) (valF t x) else intVal t b < intVal t x)
    argGo t as xs (i + 1) (if better then some (lowBits t.bits x, i) else best)
  | _, _, _, best => best

def argMaxOf (t : Ty) (as : List Bool) (xs : List Nat) : Word × Flags :=
  let sig := if t.isFloat then sigFlags ((activeOnly as xs).map (valF t)) else 0
  match argGo t as xs 0 none with
  | some (v, i) => (BitVec.ofNat 64 (v + i * 2 ^ 32), sig)
  | none => (0x0000FFFF00000000, sig)

/-- R118: prefix sums, the flags of every addition made. -/
def scanGo (t : Ty) (mode : RM) : List Bool → List Nat → Option Nat → List Nat × Flags
  | a :: as, x :: xs, acc =>
    let u := if a then lowBits t.bits x else addUnit t
    let (y, f) := match acc with
      | none => (u, 0)
      | some p => addT t mode .none 0 p u
    let (ys, fs) := scanGo t mode as xs (some y)
    (y :: ys, f ||| fs)
  | _, _, _ => ([], 0)

/-! ### Moves among elements (R139 to R141) -/

/-- `VPERM` and `VSLIDE`: element j of a, then of b, else zero. -/
def pick2 (xs ys : List Nat) (j : Nat) : Nat :=
  let n := xs.length
  if j < n then xs.getD j 0 else if j < 2 * n then ys.getD (j - n) 0 else 0

def zipElems : List Nat → List Nat → List Nat
  | a :: as, b :: bs => a :: b :: zipElems as bs
  | _, _ => []

def evens : List Nat → List Nat
  | a :: _ :: r => a :: evens r
  | r => r

def odds : List Nat → List Nat
  | _ :: b :: r => b :: odds r
  | _ => []

/-- `VCOMPRESS`: the active elements at the low end, the rest kept. -/
def compress (as : List Bool) (xs old : List Nat) : List Nat :=
  let ys := activeOnly as xs
  ys ++ old.drop ys.length

/-- `VEXPAND`: consecutive elements into the active places. -/
def expand : List Bool → List Nat → List Nat → List Nat
  | true :: bs, x :: xs, _ :: os => x :: expand bs xs os
  | false :: bs, xs, o :: os => o :: expand bs xs os
  | _, _, os => os

/-- `VIOTA`: the running count of active elements. -/
def iota (w : Nat) : List Bool → Nat → List Nat
  | a :: as, k => k % 2 ^ w :: iota w as (if a then k + 1 else k)
  | [], _ => []

end Sys2Proof.Machine
end

