-- ==== Sys2Proof/Config.lean ====
section
/-! DEFINITION. What an implementation fixes or the spec leaves open: constants with no body, so that no
proof can rest on a value of theirs, and the sizes of R1 that software reads. -/

namespace Sys2Proof.Config

/-- A value the spec leaves open, fresh for each count of `State.free` (log entry 5). -/
opaque freeWord : Nat → Nat

/-- The anchor's random generator: draw n (R320, R322; log entry 5). -/
opaque draw : Nat → Nat

/-- R83: the module's `%time` readings at one instant differ by at most 4; the skew of a thread's place. -/
opaque timeSkew : Nat → Nat

/-- R299: the deviation of the g used from the exact one, before the bound cuts it (units of 2^−128), by
seed, counter words and draw. -/
opaque gumbelDev : Nat → Nat → Nat → Int

/-- R309: the lanes that pass a tap test or pattern test, by block, operation, taps and count. -/
opaque lanePass : Nat → Nat → Nat → Nat → BitVec 33

/-- R309: where the bursts of a test go, by block and count of tests: for each the line of its stack that it writes and what
that line holds after it (log entry 86). -/
opaque burstLines : Nat → Nat → List (Nat × BitVec 512)

/-- R170: may a window cache's copy of a line of a cluster still serve a load at a time? Its capacity is not
architectural (log entry 62). -/
opaque cacheHit : Nat → Nat → Nat → Bool

/-- R346: a byte of another module's memory, by module and address, as it reads at a count of `State.free` (log entry 5). -/
opaque remoteByte : Nat → Nat → Nat → Nat

/-- R1, R2, R37: a code for the order of the 32 slots of each of the module's 24 quarters, and for that of the 8 physical
cores of each of its 720 clusters (log entry 40). -/
opaque slotPlan : Nat → Nat
opaque corePlan : Nat → Nat

/-- R1, R37, R346: a code for the order in which the 4,096 modules of the largest system stand in a partition's logical
torus, and has a module a valid route (log entry 40)? -/
opaque modulePlan : Nat → Nat
opaque routeValid : Nat → Nat → Bool

/-- R336: a byte of a page of a save area, by a free value and its place (log entry 31). -/
opaque saveByte : Nat → Nat → Nat

/-- R335: SAVESIZE of a partition of n clusters. -/
opaque saveSize : Nat → BitVec 64

/-- R312: the digest of the public key that the module's fuses hold. -/
opaque fuseDigest : BitVec 256

/-- R324: the modulus and private exponent of the attestation key (R318). -/
opaque attestModulus : Nat
opaque attestExponent : Nat

/-- R276: the contents of a shadow plane after a cancelled or failed load, by place and count. -/
opaque voidWeight : Nat → Nat → Nat

/-- R324: the KiB of a register file, window cache, table store and matrix engine's state, by KIND. -/
opaque unitKib : Nat → Nat

/-- The extents of a partition's logical torus (R39), before `torusOf` bounds them: the spec gives none (log entry 61). -/
opaque torus : Nat → Nat × Nat × Nat

/-- How `State.lineKeys` tells lines apart: 0 never written, 1 written under no key, else the generation of the key,
the first of which is 2 (R321). -/
def rawGen : Nat := 1
def firstGen : Nat := 2

/-- %tcmsize, %clsize and the matrix tile (R1, R83). -/
def tcmSize : Nat := 131072
def clSize : Nat := 2097152
def vlanes : Nat := 16
def tile : Nat := 128
/-- Engine-local memory of a collective engine (R261). -/
def engineSize : Nat := 65536
/-- Entries of a job queue, running places of a copy unit, feeds of a cluster (R237, R256). -/
def jobQueue : Nat := 64
def copyPlaces : Nat := 4
def feedPlaces : Nat := 16
/-- Clusters whose feeds the controller of one stack's base die runs (log entry 66). -/
def stackClusters : Nat := 60
/-- Entries of a translation cache (R1, R229). -/
def tlbSize : Nat := 512
/-- Tasks a tracker holds (R151). -/
def trackerSize : Nat := 65536
/-- Bytes an HBM stack holds (R1). -/
def stackBytes : Nat := 128000000000
/-- Bytes of a die's commons (R1). -/
def commonsBytes : Nat := 100663296
/-- Cycles of the 1.7 GHz reference in a second (R327). -/
def second : Nat := 1700000000

end Sys2Proof.Config
end

