-- ==== Sys2Proof/Machine/State.lean ====
section
/-! DEFINITION. The machine's state as plain data: everything the spec gives the module, its partitions,
contexts, tasks and threads, and the state right after reset. -/

namespace Sys2Proof.Machine

/-- Bytes at addresses, addresses rising, no entry equal to what an unlisted address reads as (zero,
DESIGN CHOICE, log entry 2). The window caches list every stored byte, zero or not. -/
abbrev Cells := List Host.Cell

/-- What a WAITING thread issues its instruction again for (R13). Addresses are those of the thread's own
core, cluster or context. -/
inductive Cond where
  /-- The word's full bit is full (R204). -/
  | full (spc : Space) (addr : Nat)
  /-- The thread's job has a final status (R236). -/
  | jobFinal (job : Nat)
  /-- The engine's job queue has a free entry (R237). -/
  | jobRoom (cluster unit : Nat)
  /-- Fewer than 16 feeds of the cluster are active (R256). -/
  | feedRoom
  /-- The range scoreboard has this many free entries (R181). -/
  | scoreRoom (n : Nat)
  /-- No held range of the thread's scoreboard meets these bytes (R181). -/
  | scoreClear (spc : Space) (lo len : Nat)
  /-- The task is DONE, FAILED or ABORTED; the register that takes its state code (R213). -/
  | taskEnd (task dst : Nat)
  /-- The fence counter holds at least the value (R218). -/
  | counter (va value : Nat)
  /-- The ring's HEAD differs from its TAIL (R255). -/
  | ringData (spc : Space) (addr : Nat)
  /-- The combine id can count a post (R265). -/
  | post (id : Nat)
  /-- The combine id has all its contributions (R265). -/
  | take (id : Nat)
  /-- No other task's group holds the handle (R21). -/
  | handleFree (h : Nat)
  /-- The HBM stack is in service or has failed (R313). -/
  | stackUp (stack : Nat)
  /-- The host page has been granted or denied (R231). -/
  | hostPage (page : Nat)
  /-- The training block has performed this many of what reached it (R309, R315). -/
  | blockDone (stack group count : Nat)
  /-- The registers' granules are filled, and their banks awake by a time (R43, R342). -/
  | regs (granules : List Nat) (time : Nat)
  /-- No flip that a use of the table makes seen elsewhere stands behind a marker (R189, R331). -/
  | flipSeen (table : Nat)
  /-- The job is not held for a page (R241): engine firmware goes on at its access. -/
  | pageThere (t : TId) (job : Nat)
  deriving DecidableEq, Repr

/-- What a WAITING thread waits for. -/
inductive Wait where
  /-- A lookup of a table by `NEXT` (no destination) or `MATCH` (registers D and E). -/
  | lookup (table key ind : Nat) (dst : Option (Nat × Nat))
  /-- The directory's reply to operation `seq` of a table; what c15 becomes, if written. -/
  | tableOp (table seq : Nat) (c15 : Option Bool)
  /-- A phase of the group with this handle (R22). -/
  | barrier (h : Nat)
  /-- The answer to a `RESUME` of a thread of the task (R95). -/
  | resume (target mode addr : Nat)
  /-- A job of the thread, or the time given (R97). -/
  | event (deadline : Nat)
  /-- A full bit, or the time given (R267). -/
  | gwait (spc : Space) (addr deadline : Nat)
  /-- A shoot-down (R234). -/
  | shootdown
  /-- A condition under which the instruction issues again. -/
  | again (c : Cond)
  /-- What the thread waited for has come about: the register and the value it takes, if any (R213, R218). -/
  | answered (dst : Option (Nat × Nat))
  deriving DecidableEq, Repr

/-- The states in which a thread holds its seat (R13). -/
inductive Seated where
  | ready
  | waiting (w : Wait)
  | parked
  deriving DecidableEq, Repr

/-- A thread's state (R13). A SAVED thread keeps the state it held when saved. -/
inductive Life where
  | pending
  | here (x : Seated)
  | yielded
  | saved (x : Seated)
  | retired
  | stopped
  deriving DecidableEq, Repr

/-- A rank of a collective round run by engine firmware (R261): its issuing thread and job, and its buffers. -/
structure Rank where
  thread : TId
  job : Nat
  cluster : Nat
  src : Nat
  srcLen : Nat
  dst : Nat
  dstLen : Nat
  deriving DecidableEq, Repr

/-- A thread's registers (R40, R83, R97, R110, R238, R298) and its place. -/
structure Thread where
  id : TId
  life : Life
  s : Vector Word 32
  v : Vector VWord 32
  p : Vector Word 8
  c : BitVec 16
  a : Vector (BitVec 32) 4
  q : Vector Word 8
  /-- Code index of the next instruction. -/
  pc : BitVec 32
  nthreads : BitVec 32
  core : Nat
  cluster : Nat
  seat : Nat
  vregs : Nat
  rmode : Word
  fflags : Word
  seed : Word
  tcause : Word
  taddr : Word
  tinfo : Word
  scopeclamp : Word
  predmiss : Word
  tkstate : Word
  /-- R110 -/
  rcount : BitVec 64
  /-- R298 -/
  dcount : BitVec 32
  /-- R97 -/
  latch : Bool
  /-- R238: the number of the thread's next job, from 1 on, whose id is `jobId` of it. -/
  jobNext : Nat
  /-- R43: when the present wait began, and the banks in retention. -/
  since : Nat
  retained : List Nat
  /-- R342: granules not yet filled. -/
  absent : List Nat
  /-- R309: the loads of RESULT that hold this thread's instruction: stack, group, and how many commands reached the
  block before. -/
  tickets : List (Nat × Nat × Nat)
  /-- R261: the ranks of the round a collective engine's thread runs for. -/
  role : Option (List Rank)
  deriving DecidableEq, Repr

/-- A thread as R4 creates it, at no place. -/
def Thread.blank : Thread where
  id := ⟨0, 0, 0, 0⟩
  life := .pending
  s := Vector.replicate 32 0
  v := Vector.replicate 32 0
  p := (Vector.replicate 8 0).set 0 (BitVec.allOnes 64)
  c := 0
  a := Vector.replicate 4 0
  q := Vector.replicate 8 0
  pc := 0
  nthreads := 0
  core := 0
  cluster := 0
  seat := 0
  vregs := 32
  rmode := 0
  fflags := 0
  seed := 0
  tcause := 0
  taddr := 0
  tinfo := 0
  scopeclamp := 0
  predmiss := 0
  tkstate := 0
  rcount := 0
  dcount := 0
  latch := false
  jobNext := 1
  since := 0
  retained := []
  absent := []
  tickets := []
  role := none

/-! ### Match tables (R24 to R36) -/

/-- One cluster's copy of a table: header and entries of both shutters, and their generations; the back
shutter is no generation until the first flip (R12). -/
structure TableCopy where
  frontHdr : Word
  backHdr : Word
  front : List (BitVec 256)
  back : List (BitVec 256)
  frontGen : Nat
  backGen : Option Nat
  deriving DecidableEq, Repr

/-- What a directory message asks of a cluster (R32, R33). `none` is the header. -/
inductive TableOp where
  | write (index : Option Nat) (image : BitVec 256)
  | clear
  | copy
  | flip
  deriving DecidableEq, Repr

/-- A directory message on its way to a cluster. -/
structure TableMsg where
  cluster : Nat
  seq : Nat
  op : TableOp
  deriving DecidableEq, Repr

/-- A pin (R35). -/
structure Pin where
  thread : TId
  gen : Nat
  deriving DecidableEq, Repr

/-- A table: the copies by logical cluster and the directory record (R31): the generations that stand at
the front and the back in flip order, the pins, the count of operations entered, the messages not yet
applied. -/
structure Table where
  id : Nat
  sizeLog : Nat
  copies : List TableCopy
  dirFront : Nat
  dirBack : Option Nat
  pins : List Pin
  seq : Nat
  inbox : List TableMsg
  deriving DecidableEq, Repr

/-! ### Tasks (R147 to R175) -/

structure Window where
  base : Nat
  rowLen : Nat
  rows : Nat
  pitch : Nat
  mode : Nat
  deriving DecidableEq, Repr

inductive TaskState where
  | new | waiting | ready | running | faulted | committing | done | failed | aborted
  deriving DecidableEq, Repr

/-- R148's codes. -/
def TaskState.code : TaskState → Nat
  | new => 0 | waiting => 1 | ready => 2 | running => 3 | faulted => 4
  | committing => 5 | done => 6 | failed => 7 | aborted => 8

/-- The fields of a TCB image that software sets (R149). -/
structure Tcb where
  entry : Nat
  nthreads : Nat
  clusters : Nat
  gang : Bool
  spec : Bool
  cls : Nat
  vregs : Nat
  ts : Nat
  energy : Nat
  fcaddr : Nat
  fcinc : Nat
  nwin : Nat
  ovfptr : Nat
  deriving DecidableEq, Repr

/-- A task in the tracker (R153). -/
structure Task where
  create : Nat
  image : Nat
  /-- Is the image still attached to this task (R154, R210)? -/
  attached : Bool
  tcb : Tcb
  windows : List Window
  state : TaskState
  curClass : Nat
  energyUsed : Nat
  failCause : Nat
  /-- While FAULTED, the cause of the terminal fault, which FAILCAUSE takes when the task becomes FAILED (R149, R165); else
  zero. -/
  faultCause : Nat
  /-- Logical clusters granted, ascending (R163). -/
  granted : List Nat
  /-- Lines reserved in the task log (R163). -/
  logLines : Nat
  /-- Threads started on each granted cluster (R17). -/
  started : List (Nat × Nat)
  /-- The task's buffered bytes on each cluster, by virtual address (R170). -/
  buffers : List (Nat × Cells)
  /-- Buffered lines, by cluster and virtual line, with an uncorrectable error in the window cache or the log (R170). -/
  badLog : List (Nat × Nat)
  /-- Commit granted (R172). -/
  commitOk : Bool
  /-- First record of the run written (R222). -/
  recorded : Bool
  /-- %time at submission, and has the first thread issued (R343)? -/
  arrived : Nat
  launched : Bool
  deriving DecidableEq, Repr

/-- An edge between two tasks of a context, by their CREATE numbers (R159). -/
structure Edge where
  src : Nat
  dst : Nat
  hard : Bool
  deriving DecidableEq, Repr

/-! ### Engines (R237 to R287) -/

/-- The engine descriptor of R244. -/
structure Desc where
  dst : Nat
  idx : Nat
  rowLen : Nat
  nRows : Nat
  sPitch : Nat
  dPitch : Nat
  dSpace : Space
  iSpace : Space
  door : Word
  deriving DecidableEq, Repr

/-- The descriptor of `COLL` (R259). -/
structure CollDesc where
  dst : Nat
  count : Nat
  ety : Nat
  op : Nat
  group : Nat
  entry : Nat
  arg : Nat
  dSpace : Space
  deriving DecidableEq, Repr

/-- What a job does. -/
inductive JobOp where
  | cpy (d : Desc)
  | cpyf (d : Desc)
  | gath (d : Desc)
  | scat (d : Desc)
  | fill (d : Desc)
  | rput (d : Desc)
  | feed (w : Window) (trows : Nat) (store : Bool)
  | coll (d : CollDesc)
  | mwld (tag : Nat)
  | mwswap
  | mzero (first count : Nat)
  | mstream (pair first count tensor : Nat)
  | mdrain (first count : Nat) (scale : Int) (dst src : Nat)
  deriving DecidableEq, Repr

/-- The engine a job runs on. -/
inductive EngUnit where
  | copy | matrix | feed | coll
  deriving DecidableEq, Repr

/-- Where a job stands: its command not yet arrived, waiting for a queue entry, queued, running, held
(R237, R239, R241, R245, R253, R260), finished. -/
inductive Place where
  | message
  | queued
  | running
  | heldPage (va : Nat)
  | heldAccess (c : Cond)
  | heldWord
  | heldRing
  | heldRound
  | finished
  deriving DecidableEq, Repr

structure Job where
  thread : TId
  id : Nat
  op : JobOp
  ea : Nat
  space : Space
  scope : Scope
  /-- The issuer's logical cluster and core. -/
  cluster : Nat
  core : Nat
  /-- CURCLASS at issue, and the order of arrival. -/
  cls : Nat
  arr : Nat
  /-- Door key of a door command, and the engine's logical cluster. -/
  door : Option Word
  target : Nat
  unit : EngUnit
  place : Place
  status : Nat
  /-- Bytes written, or records for a feed (R242). -/
  bytes : Nat
  /-- Rows or tiles completed, and the words of a row taken so far (R245). -/
  row : Nat
  part : List Byte
  /-- `UNFEED` or the task's end asked the feed to stop, its ring's HEAD then (R258). -/
  stopHead : Option Nat
  /-- The rows written to TCM, by address, for the issuers that may still join the job (R246). -/
  moved : List (Nat × List Byte)
  /-- Commands merged into this job (R246): issuer, id, core. -/
  merged : List (TId × Nat × Nat)
  /-- Time at which the command reached the node (R246). -/
  cameAt : Nat
  /-- The flags it will OR into its issuer's `%fflags` (R114). -/
  flags : Word
  deriving DecidableEq, Repr

/-- A weight plane (R271): weights at 128k + n, tag, block scales at 4n + b; entries equal to the
default (zero; 0x7F) are not listed. Tag 16 is void (R276). -/
structure Plane where
  weights : List (Nat × Nat)
  tag : Nat
  scales : List (Nat × Nat)
  deriving DecidableEq, Repr

/-- A matrix engine's state for a context; accumulator words at 128 row + column, zero not listed. -/
structure Matrix where
  cluster : Nat
  active : Plane
  shadow : Plane
  acc : List (Nat × Nat)
  deriving DecidableEq, Repr

/-! ### Sequences and combines (R264 to R266, R288 to R300) -/

structure Snapshot where
  pos : Nat
  map : List (Option Nat)
  deriving DecidableEq, Repr

structure Sequence where
  num : Nat
  ringLog : Nat
  map : List (Option Nat)
  ring : List Snapshot
  deriving DecidableEq, Repr

/-- A state page taken from the pool: its bytes by offset, and its 64-byte lines with an uncorrectable error (R292). -/
structure StatePage where
  page : Nat
  data : Cells
  bad : List Nat
  deriving DecidableEq, Repr

structure Combine where
  id : Nat
  owner : TId
  want : Nat
  got : Nat
  winner : Option (Nat × Nat)
  deriving DecidableEq, Repr

/-! ### Translation (R228 to R233) -/

/-- A cached leaf: page size log, virtual, intermediate and physical page addresses, rights, device, key
slot, contiguity run, and the intermediate addresses of the run's pages (R229, R230, R232). -/
structure TlbEntry where
  cluster : Nat
  va : Nat
  ia : Nat
  pa : Nat
  sizeLog : Nat
  rd : Bool
  wr : Bool
  ex : Bool
  dev : Bool
  key : Nat
  run : Nat
  runIas : List Nat
  deriving DecidableEq, Repr

/-- A host page as ATS answered it (R231). -/
structure AtsEntry where
  page : Nat
  /-- `none`: denied. -/
  host : Option Nat
  rd : Bool
  wr : Bool
  deriving DecidableEq, Repr

/-! ### Contexts (R336, R337) -/

/-- The contract section (R64). -/
structure Contract where
  clusters : Nat
  tcmKib : Nat
  spKib : Nat
  torus : Nat × Nat × Nat
  tileM : Nat
  tileN : Nat
  deriving DecidableEq, Repr

/-- A module of the context's torus in the route table (R37, R346): the physical module and the port set of each of the
six directions. -/
structure Route where
  logical : Nat
  physical : Nat
  ports : List (List Nat)
  valid : Bool
  deriving DecidableEq, Repr

structure Context where
  num : Nat
  s1root : Nat
  s2root : Nat
  pasid : Nat
  slice : Nat
  save : Nat
  nclusters : Nat
  /-- Is this the partition firmware's context (R234)? -/
  firmware : Bool
  /-- Loaded on clusters, or saved (R337, R341). -/
  loaded : Bool
  /-- The time from which the present slice counts (R336). -/
  sliceFrom : Nat
  /-- The core table (R37): the partition's cluster of each logical cluster, and its physical slot and cores. -/
  coreTable : List Nat
  units : List (Nat × List Nat)
  routes : List Route
  /-- Object loaded, code base and length in words, contract, engine firmware (R339). -/
  object : Bool
  codeBase : Nat
  codeLen : Nat
  contract : Contract
  engineCode : List Word
  /-- R153. -/
  nextCreate : Nat
  tables : List Table
  tasks : List Task
  edges : List Edge
  threads : List Thread
  /-- TCM byte `addr` of core n of cluster c at (8c + n)·2^17 + addr; scratchpad byte at c·2^21 + addr. -/
  tcm : Cells
  sp : Cells
  /-- Word addresses, in the same numbering, whose full/empty bit is empty (R182), rising. -/
  tcmEmpty : List Nat
  spEmpty : List Nat
  /-- Lines of 64 bytes, in the same numbering, with an uncorrectable error (R194). -/
  tcmBad : List Nat
  spBad : List Nat
  /-- Lines of home memory that a cluster's window cache may hold a copy of: cluster, virtual line, and whether it
  equals home because it was last flushed from there (R170). -/
  copies : List (Nat × Nat × Bool)
  jobs : List Job
  /-- Order of arrival of the next command. -/
  nextArr : Nat
  matrices : List Matrix
  seqs : List Sequence
  pages : List StatePage
  combines : List Combine
  tlb : List TlbEntry
  ats : List AtsEntry
  /-- Host pages asked for by PRI (R231). -/
  pri : List Nat
  /-- Seats held by the policy's gate, and, by 8·cluster + core, the seat that issued last and one more than the time at
  which it did (R14, R15). -/
  gated : List (Nat × Nat)
  lastSeat : List (Nat × Nat)
  issuedAt : List (Nat × Nat)
  deriving DecidableEq, Repr

/-! ### Partitions (R332 to R343) -/

inductive KeySlot where
  | empty
  /-- The draw that gave the key, and the key. -/
  | loaded (gen : Nat) (key : BitVec 512)
  deriving DecidableEq, Repr

structure Monitor where
  base : Nat
  limit : Nat
  enable : Bool
  reads : Nat
  writes : Nat
  first : Nat
  last : Nat
  deriving DecidableEq, Repr

/-- A fault ring's control block (R224). -/
structure Ring where
  base : Word
  sizeLog : Nat
  enable : Bool
  head : BitVec 32
  tail : BitVec 32
  deriving DecidableEq, Repr

/-- A host queue's control block (R340). -/
structure Queue where
  base : Word
  sizeLog : Nat
  enable : Bool
  ctx : Nat
  head : BitVec 32
  tail : BitVec 32
  errIndex : BitVec 32
  errStatus : Nat
  stopped : Bool
  /-- When the entries from TAIL on arrived (R343). -/
  came : List Nat
  deriving DecidableEq, Repr

/-- R343, with the latencies of the window in progress. -/
structure Qos where
  b50 : Nat
  b99 : Nat
  b999 : Nat
  winLog : Nat
  breach : Nat
  lats : List Nat
  deriving DecidableEq, Repr

/-- A group (R20 to R22). Members are threads of its task by index. -/
structure Group where
  ctx : Nat
  cluster : Nat
  handle : Nat
  task : Nat
  members : List Nat
  /-- Is a phase open; its members that have not arrived; those that have; arrivals for the next. -/
  isOpen : Bool
  awaited : List Nat
  arrived : List Nat
  early : List Nat
  deriving DecidableEq, Repr

/-- A collective round (R260): its members by rank and the jobs issued. -/
structure Round where
  ctx : Nat
  task : Nat
  handle : Nat
  ranks : List Nat
  desc : CollDesc
  issued : List (Nat × Nat)
  /-- An OP 7 round whose firmware runs, and the firmware's end: trapped? -/
  started : Bool
  ended : Option Nat
  deriving DecidableEq, Repr

/-- Who waits for a shoot-down (R232). -/
inductive ShootFor where
  | thread (t : TId)
  | host
  | ats (pasid : Nat)
  deriving DecidableEq, Repr

/-- A shoot-down in progress: the context (none: all), stages (bit 0 stage 1, bit 1 stage 2), range. -/
structure Shoot where
  ctx : Option Nat
  stages : Nat
  lo : Nat
  hi : Nat
  who : ShootFor
  deriving DecidableEq, Repr

/-- What a closed context held (R323): its last clusters, its stage-2 root, the lines of TCM and scratchpad with an
uncorrectable error. -/
structure Closed where
  ctx : Nat
  clusters : List Nat
  s2root : Nat
  tcmBad : List Nat
  spBad : List Nat
  deriving DecidableEq, Repr

/-- What reaches a frozen partition from outside and is held at its boundary (R329). -/
inductive Inbound where
  /-- A host thread command. -/
  | command (img : BitVec 256)
  /-- An answer of the host's translation agent for a context's page (R231). -/
  | ats (ctx page : Nat) (r : AtsAnswer)
  | pri (ctx page : Nat) (r : PriAnswer)
  deriving DecidableEq, Repr

structure Partition where
  num : Nat
  level : Nat
  dies : List Nat
  /-- First logical cluster's quarter within the lowest die, and the cluster count. -/
  quarter : Nat
  clusters : Nat
  image : Word
  sysScope : Bool
  logMib : Nat
  /-- Free state pages, by count; pages taken so far name the next. -/
  poolFree : Nat
  poolNext : Nat
  keys : List KeySlot
  secret : BitVec 256
  /-- Door epochs by 2·cluster + unit, zero not listed (R248). -/
  epochs : List (Nat × Nat)
  refusals : Nat
  monitors : List Monitor
  /-- Slot tables by cluster, zero not listed (R284). -/
  slotTables : List (Nat × BitVec 256)
  replay : Ring
  terminal : Ring
  /-- Records held for room or for their turn at the reporting port (R225, R227). -/
  held : List (BitVec 256)
  /-- Terminal records that wait for the next round of the reporting port, and records sent in this one (R227). -/
  late : List (BitVec 256)
  sent : Nat
  overflow : Option (BitVec 256)
  overflowCount : Nat
  stopped : Bool
  queues : List Queue
  command : BitVec 256
  /-- Host commands that wait: one held for a stack or a page at its head, and those executed after it (R313, R338, log
  entry 87). -/
  cmdWait : List (BitVec 256)
  ctxBase : Word
  saveSize : Word
  s2table : Word
  qos : Qos
  /-- Its clocks are stopped, since when, and what came meanwhile, delivered after THAW (R329). -/
  frozen : Bool
  frozenAt : Nat
  heldIn : List Inbound
  scanOk : Bool
  /-- Contexts whose SCRUB is in progress, held for a stack (R313, R333). -/
  scrubbing : List Nat
  /-- Contexts closed since the partition was formed, with what they held (R323). -/
  closed : List Closed
  groups : List Group
  rounds : List Round
  shoots : List Shoot
  ctxs : List Context
  /-- The contexts to which an engine is lent in a slot: engine, slot by its count, context (R285). -/
  lent : List (Nat × Nat × Nat)
  /-- Seats held for a gang task that stood first for them (R17), and the task's CREATE. -/
  heldSeats : List (SeatId × Nat)
  /-- Tasks whose image waits for its write back until its page can be reached (R153, R313): context and CREATE. -/
  owed : List (Nat × Nat)
  deriving DecidableEq, Repr

/-! ### The module -/

/-- A training block (R308, R315). -/
structure Block where
  group : Nat
  rdtap : Nat
  wrtap : Nat
  spare : Option Nat
  inService : Bool
  pass : BitVec 32
  status : Nat
  /-- Commands and STATE writes not yet performed, in order: `some w` a command word, `none` an ENTER. -/
  queue : List (Option Word)
  /-- Was the last command, OP 0 not counted, a passing OP 4? -/
  lastPassed : Bool
  /-- Tests performed. -/
  tests : Nat
  /-- RESULT as each command and STATE write left it, in their order (R309). -/
  results : List Word
  deriving DecidableEq, Repr

structure Stack where
  num : Nat
  failed : Bool
  /-- Blocks that differ from their reset state. -/
  blocks : List Block
  deriving DecidableEq, Repr

/-- What a range of physical addresses is (log entry 4). -/
inductive RegionKind where
  | hbm (stack : Nat)
  | commons (die : Nat)
  | phy (stack : Nat)
  | host
  deriving DecidableEq, Repr

structure Region where
  base : Nat
  size : Nat
  kind : RegionKind
  deriving DecidableEq, Repr

/-- A message on a channel between two units (R331, log entry 29): a directory message, an engine command, a resume
message, a directory's reply. -/
inductive Msg where
  | table (part ctx table : Nat) (m : TableMsg)
  | command (t : TId) (job : Nat)
  | resume (t : TId)
  | reply (t : TId)
  deriving DecidableEq, Repr

/-- A marker on its way from a unit to another, and the messages on that channel before it (R331). -/
structure Marker where
  src : Nat
  dst : Nat
  before : List Msg
  deriving DecidableEq, Repr

/-- A unit's record in a marker cut (R331): when its first marker reached it, its state then, as what stands in it of its
partition, the units whose marker has come, and the messages recorded on the channels from others. -/
structure MarkerUnit where
  unit : Nat
  time : Nat
  state : List Partition
  chans : List Nat
  msgs : List (Nat × Msg)
  deriving DecidableEq, Repr

/-- What waits for a function's mailbox: a command with its opcode (R319), or a request of the scan path (R330). -/
inductive MailWait where
  | cmd (op : Nat) (c : MailCmd)
  | scan (part : Nat) (what : ScanItem)
  deriving DecidableEq, Repr

/-- A function's anchor mailbox (R319): the command bytes as written, the reply, and what was asked for and not
answered, oldest first. -/
structure Mailbox where
  fn : Nat
  cmd : BitVec 512
  reply : BitVec 512
  waiting : List MailWait
  deriving DecidableEq, Repr

/-- What comes about next (log entry 3). -/
inductive Act where
  /-- A core issues the next instruction of this READY thread, while those of these other seats are not issuable
  (R15). -/
  | issue (t : TId) (stalled : List Nat)
  /-- An event of the opcode table comes about. -/
  | event (i : Instr)
  deriving DecidableEq, Repr

/-- The machine. -/
structure State where
  /-- The issuing thread's registers while its instruction is executed. -/
  cur : Thread
  stage : Nat
  /-- The digest that the fuses hold, once ROM has read it (R312). -/
  fuses : Option (BitVec 256)
  signed : Bool
  /-- A signature failed in stage 1: the physical function's mailbox has appeared (R312). -/
  sigFailed : Bool
  linkUp : Bool
  clock : Nat
  time : Nat
  alarm : Nat
  alarmAt : Option Nat
  erasePol : Bool
  diesHeld : Bool
  hbm : List Stack
  bringUp : List Nat
  portsDown : List Nat
  flits : List (Nat × BitVec 1856)
  replays : Nat
  /-- HBM and commons by device physical address. -/
  mem : Cells
  /-- The key generation under which an HBM line was last written (R321), by line number. -/
  lineKeys : List (Nat × Nat)
  /-- Lines with an uncorrectable error. -/
  badLines : List Nat
  regions : List Region
  /-- Host memory: address a of function f at f·2^64 + a. -/
  hostMem : Cells
  hostReply : List Byte
  /-- MSI-X messages sent: function and what it announces (1 replayable ring, 2 terminal ring, 3 mailbox,
  4 queue, 5 QoS, 6 alarm). -/
  msix : List (Nat × Nat)
  partReq : Word
  partStat : Word
  /-- What the last restore of a context returned (R39). -/
  restoreStat : Nat
  /-- The physical function's fault rings (R314). -/
  pfReplay : Ring
  pfTerminal : Ring
  /-- Completions of ATS invalidation requests sent: function and PASID (R231). -/
  atsDone : List (Nat × Nat)
  /-- Reporting weights by function, 1 not listed (R227). -/
  weights : List (Nat × Nat)
  /-- The pattern that a scrub left in the registers, on-chip memories, tables and engine of a cluster, by the module's
  number of the cluster, until a context is given it (R323). -/
  scrubbed : List (Nat × Word)
  /-- Mailboxes that have been used, functions ascending; zero not listed. -/
  mail : List Mailbox
  scanReply : List Nat
  /-- Marker cuts taken, the records of the latest, and its markers under way. -/
  cuts : Nat
  markers : List MarkerUnit
  tokens : List Marker
  /-- Draws made by the anchor's generator, and free values taken (log entry 5). -/
  draws : Nat
  free : Nat
  /-- Device registers without behaviour of their own: offset o of function f at f·2^32 + o. -/
  devRegs : List (Nat × Nat)
  agenda : List (Nat × Act)
  parts : List Partition
  deriving DecidableEq, Repr

/-- Why the machine stops with a fault. -/
inductive Fault where
  /-- A core or engine access to a device page whose unit the spec does not describe: a DEV page outside
  the training blocks of R308 and R315. Raised by the memory instructions; safe. -/
  | unknownDevice
  deriving DecidableEq, Repr

/-- Why the model has no meaning. -/
inductive Refusal where
  /-- An arm of `exec` not modelled yet; safe. -/
  | notModelled (mnemonic : String)
  deriving DecidableEq, Repr

/-- What a step answers. -/
abbrev Result := Host.Outcome State Fault Refusal

/-- A ring's control block at reset (R224). -/
def Ring.reset : Ring := ⟨0, 6, false, 0, 0⟩

/-- A host queue's control block at reset (R340). -/
def Queue.reset : Queue := ⟨0, 6, false, 0, 0, 0, 0, 0, false, []⟩

def Monitor.reset : Monitor := ⟨0, 0, false, 0, 0, 0, 0⟩

/-- The physical map (DESIGN CHOICE, log entry 4): stack i at i·2^37, die d's commons at 2^42 + d·2^27,
the PHY region of stack i at 2^43 + i·2^16, host pages at 2^44 to 2^45. -/
def resetRegions : List Region :=
  ((List.range 12).map fun i => ⟨i * 2 ^ 37, Config.stackBytes, .hbm i⟩)
  ++ ((List.range 6).map fun d => ⟨2 ^ 42 + d * 2 ^ 27, Config.commonsBytes, .commons d⟩)
  ++ ((List.range 12).map fun i => ⟨2 ^ 43 + i * 2 ^ 16, 65536, .phy i⟩)
  ++ [⟨2 ^ 44, 2 ^ 44, .host⟩]

/-- The machine right after reset: stage 0 of R312, nothing formed. -/
def State.reset : State where
  cur := Thread.blank
  stage := 0
  fuses := none
  signed := false
  sigFailed := false
  linkUp := false
  clock := 8
  time := 0
  alarm := 0
  alarmAt := none
  erasePol := false
  diesHeld := false
  hbm := (List.range 12).map fun i => ⟨i, false, []⟩
  bringUp := []
  portsDown := []
  flits := []
  replays := 0
  mem := []
  lineKeys := []
  badLines := []
  regions := resetRegions
  hostMem := []
  hostReply := []
  msix := []
  partReq := 0
  partStat := 0
  restoreStat := 0
  pfReplay := Ring.reset
  pfTerminal := Ring.reset
  atsDone := []
  weights := []
  scrubbed := []
  mail := []
  scanReply := []
  cuts := 0
  markers := []
  tokens := []
  draws := 0
  free := 0
  devRegs := []
  agenda := []
  parts := []

end Sys2Proof.Machine
end

