-- ==== Sys2Proof/Machine/Sparse.lean ====
section
/-! DEFINITION. Lists of (key, value) pairs in one canonical form: memory, weight planes, accumulators. -/

namespace Sys2Proof.Machine

/-- The value listed at a key. -/
def findAt {α : Type} (m : List (Nat × α)) (k : Nat) : Option α :=
  match m with
  | [] => none
  | (x, v) :: r => if x == k then some v else findAt r k

/-- The value at a key, or what an unlisted key reads as. -/
def getAt {α : Type} (d : α) (m : List (Nat × α)) (k : Nat) : α := (findAt m k).getD d

/-- Consecutive keys from k with these values. -/
def enumFrom' {α : Type} : Nat → List α → List (Nat × α)
  | _, [] => []
  | k, v :: vs => (k, v) :: enumFrom' (k + 1) vs

/-- Writes consecutive values from key k, listing every one of them. -/
def putMany {α : Type} (m : List (Nat × α)) (k : Nat) (vs : List α) : List (Nat × α) :=
  m.filter (fun e => e.1 < k) ++ enumFrom' k vs ++ m.filter (fun e => k + vs.length ≤ e.1)

/-- Writes consecutive values from key k, listing none that equals what an unlisted key reads as. -/
def setMany {α : Type} [DecidableEq α] (d : α) (m : List (Nat × α)) (k : Nat) (vs : List α) :
    List (Nat × α) :=
  m.filter (fun e => e.1 < k) ++ (enumFrom' k vs).filter (fun e => e.2 ≠ d)
    ++ m.filter (fun e => k + vs.length ≤ e.1)

/-- The n values from key k on. -/
def getMany {α : Type} (d : α) (m : List (Nat × α)) (k n : Nat) : List α :=
  let sub := m.filter fun e => k ≤ e.1 && e.1 < k + n
  (List.range n).map fun i => getAt d sub (k + i)

/-- Drops the keys from k to k + n − 1. -/
def dropMany {α : Type} (m : List (Nat × α)) (k n : Nat) : List (Nat × α) :=
  m.filter fun e => e.1 < k || k + n ≤ e.1

/-- Keys rise strictly. -/
def rising {α : Type} : List (Nat × α) → Bool
  | [] => true
  | [_] => true
  | a :: b :: r => a.1 < b.1 && rising (b :: r)

/-- The canonical form of memory: addresses strictly rising, no entry equal to what an unlisted address
reads as (zero, log entry 2). -/
def Memory.wf (m : Cells) : Bool := rising m && m.all fun e => e.2 != 0

/-- A byte of memory. -/
def readByte (m : Cells) (a : Nat) : Byte := getAt 0 m a

/-- Bytes of memory from an address on. -/
def readBytes (m : Cells) (a n : Nat) : List Byte := getMany 0 m a n

/-- Bytes written to memory from an address on. -/
def writeBytes (m : Cells) (a : Nat) (bs : List Byte) : Cells := setMany 0 m a bs

/-- Little-endian value of bytes (R3). -/
def leVal : List Byte → Nat
  | [] => 0
  | b :: bs => b.toNat + 256 * leVal bs

/-- The n little-endian bytes of a value (R3). -/
def leBytes : Nat → Nat → List Byte
  | 0, _ => []
  | n + 1, v => BitVec.ofNat 8 v :: leBytes n (v / 256)

/-- A sorted set of keys with one more. -/
def insertKey (k : Nat) (ks : List Nat) : List Nat :=
  ks.filter (· < k) ++ [k] ++ ks.filter (k < ·)

def eraseKey (k : Nat) (ks : List Nat) : List Nat := ks.filter (· ≠ k)

/-- Changes the records of a list that a test selects. -/
def modWhere {α : Type} (p : α → Bool) (f : α → α) (xs : List α) : List α :=
  xs.map fun x => if p x then f x else x

end Sys2Proof.Machine
end

