-- ==== Sys2Proof/Machine/Crypto.lean ====
section
/-! DEFINITION. The published functions the anchor, the doors and the memory use (log entry 8): AES-256, its CMAC
(R247) and its XTS mode (R321), SHA-256 (R324), and RSASSA-PKCS1-v1_5 under the attestation key (R324). -/

namespace Sys2Proof.Machine.Crypto

/-! ### AES-256 -/

/-- Multiplication by x in GF(2^8). -/
def xtime (a : Nat) : Nat := if a < 128 then 2 * a else Nat.xor (2 * a) 0x11B

/-- Product in GF(2^8), over the bits of b. -/
def gmulGo : Nat → Nat → Nat → Nat → Nat
  | 0, _, _, acc => acc
  | n + 1, a, b, acc => gmulGo n (xtime a) (b / 2) (if b % 2 == 1 then Nat.xor acc a else acc)

def gmul (a b : Nat) : Nat := gmulGo 8 a b 0

/-- a^254, the inverse in GF(2^8) (0 for 0): a^(2 + 4 + ⋯ + 128). -/
def ginv (a : Nat) : Nat :=
  let a2 := gmul a a
  let a4 := gmul a2 a2
  let a8 := gmul a4 a4
  let a16 := gmul a8 a8
  let a32 := gmul a16 a16
  let a64 := gmul a32 a32
  let a128 := gmul a64 a64
  gmul a2 (gmul a4 (gmul a8 (gmul a16 (gmul a32 (gmul a64 a128)))))

def rotByte (b k : Nat) : Nat := (b * 2 ^ k % 256) + b / 2 ^ (8 - k)

/-- The S-box: inverse, then the affine map. -/
def sbox (a : Nat) : Nat :=
  let b := ginv a
  Nat.xor (Nat.xor (Nat.xor (Nat.xor (Nat.xor b (rotByte b 1)) (rotByte b 2)) (rotByte b 3)) (rotByte b 4)) 0x63

def xorAll (xs ys : List Nat) : List Nat := List.zipWith Nat.xor xs ys

/-- The key schedule: words of four bytes, newest first; word i from the words before it. -/
def scheduleGo : Nat → Nat → List (List Nat) → List (List Nat)
  | 0, _, ws => ws
  | n + 1, i, ws =>
    let t := ws.headD []
    let t' := if i % 8 == 0 then
        xorAll ((t.drop 1 ++ t.take 1).map sbox) [(List.range (i / 8 - 1)).foldl (fun c _ => xtime c) 1, 0, 0, 0]
      else if i % 8 == 4 then t.map sbox
      else t
    scheduleGo n (i + 1) (xorAll (ws.getD 7 []) t' :: ws)

def chunks4 : Nat → List Nat → List (List Nat)
  | 0, _ => []
  | n + 1, xs => xs.take 4 :: chunks4 n (xs.drop 4)

/-- The fifteen round keys of a 32-byte key. -/
def roundKeys (key : List Nat) : List (List Nat) :=
  let ws := (scheduleGo 52 8 (chunks4 8 key).reverse).reverse
  (List.range 15).map fun r => ((ws.drop (4 * r)).take 4).flatten

/-- Column-major ShiftRows: byte r of column c comes from column c + r. -/
def shiftRows (st : List Nat) : List Nat :=
  (List.range 16).map fun i => st.getD ((i + 4 * (i % 4)) % 16) 0

def mixColumn (c : List Nat) : List Nat :=
  (List.range 4).map fun i =>
    let b (k : Nat) := c.getD ((i + k) % 4) 0
    Nat.xor (Nat.xor (xtime (b 0)) (Nat.xor (xtime (b 1)) (b 1))) (Nat.xor (b 2) (b 3))

def mixColumns (st : List Nat) : List Nat := (chunks4 4 st).flatMap mixColumn

/-- Rounds with the keys left; the last omits MixColumns. -/
def roundsGo : List (List Nat) → List Nat → List Nat
  | [], st => st
  | [k], st => xorAll (shiftRows (st.map sbox)) k
  | k :: ks, st => roundsGo ks (xorAll (mixColumns (shiftRows (st.map sbox))) k)

/-- AES-256 of one 16-byte block. -/
def aes256 (key block : List Nat) : List Nat :=
  match roundKeys key with
  | [] => []
  | k0 :: ks => roundsGo ks (xorAll block k0)

/-! ### The inverse cipher -/

/-- The inverse S-box: the inverse affine map, then the inverse. -/
def invSbox (b : Nat) : Nat :=
  ginv (Nat.xor (Nat.xor (Nat.xor (rotByte b 1) (rotByte b 3)) (rotByte b 6)) 0x05)

/-- Byte r of column c goes back to column c + r. -/
def invShiftRows (st : List Nat) : List Nat :=
  (List.range 16).map fun i => st.getD ((i + 16 - 4 * (i % 4)) % 16) 0

def invMixColumn (c : List Nat) : List Nat :=
  (List.range 4).map fun i =>
    let b (k : Nat) := c.getD ((i + k) % 4) 0
    Nat.xor (Nat.xor (gmul (b 0) 14) (gmul (b 1) 11)) (Nat.xor (gmul (b 2) 13) (gmul (b 3) 9))

def invMixColumns (st : List Nat) : List Nat := (chunks4 4 st).flatMap invMixColumn

/-- Inverse rounds with the keys left, in the reverse of their order; the first key's addition is the last. -/
def invRoundsGo : List (List Nat) → List Nat → List Nat
  | [], st => st
  | [k], st => xorAll ((invShiftRows st).map invSbox) k
  | k :: ks, st => invRoundsGo ks (invMixColumns (xorAll ((invShiftRows st).map invSbox) k))

/-- The block that AES-256 takes to this one. -/
def aes256Inv (key block : List Nat) : List Nat :=
  match (roundKeys key).reverse with
  | [] => []
  | k :: ks => invRoundsGo ks (xorAll block k)

/-- Doubling in GF(2^128): x^128 = x^7 + x^2 + x + 1. -/
def dbl128 (v : Nat) : Nat := if v < 2 ^ 127 then 2 * v else Nat.xor (2 * v % 2 ^ 128) 0x87

/-! ### XTS (R321): a 64-byte line under a 512-bit key, the tweak a number of 16 little-endian bytes -/

/-- A number's bytes, and the number of bytes, little-endian. -/
def natBytes (n v : Nat) : List Nat := (leBytes n v).map BitVec.toNat
def bytesNat (bs : List Nat) : Nat := leVal (bs.map (BitVec.ofNat 8))

/-- The tweak value of block j: the encrypted tweak times α^j. -/
def xtsTweak (key2 : List Nat) (tweak : Nat) : Nat → Nat
  | 0 => bytesNat (aes256 key2 (natBytes 16 tweak))
  | j + 1 => dbl128 (xtsTweak key2 tweak j)

/-- A line's four blocks through a cipher under the key's first half, the tweak under its second. -/
def xtsLine (cipher : List Nat → List Nat → List Nat) (key : BitVec 512) (tweak : Nat) (line : List Byte) : List Byte :=
  let k := natBytes 64 key.toNat
  (List.range 4).flatMap fun j =>
    let t := natBytes 16 (xtsTweak (k.drop 32) tweak j)
    (xorAll (cipher (k.take 32) (xorAll (((line.drop (16 * j)).take 16).map BitVec.toNat) t)) t).map (BitVec.ofNat 8)

def xtsEncrypt (key : BitVec 512) (tweak : Nat) (line : List Byte) : List Byte := xtsLine aes256 key tweak line
def xtsDecrypt (key : BitVec 512) (tweak : Nat) (line : List Byte) : List Byte := xtsLine aes256Inv key tweak line

/-! ### CMAC -/

def beVal (bs : List Nat) : Nat := bs.foldl (fun a b => a * 256 + b) 0

def beBytes (n v : Nat) : List Nat := (List.range n).map fun i => v / 256 ^ (n - 1 - i) % 256

/-- CMAC of a message shorter than a block (a door key's five bytes), as 16 bytes. -/
def cmacShort (key msg : List Nat) : List Nat :=
  let k2 := dbl128 (dbl128 (beVal (aes256 key (List.replicate 16 0))))
  let padded := msg ++ [0x80] ++ List.replicate (15 - msg.length) 0
  aes256 key (xorAll padded (beBytes 16 k2))

/-- CHECK of a door key (R247): the low 24 bits of the CMAC of bits [63:24] under a 256-bit secret, both
little-endian. -/
def doorCheck (secret : BitVec 256) (keyHigh : Nat) : Nat :=
  let bytes (n v : Nat) : List Nat := (leBytes n v).map BitVec.toNat
  let m := cmacShort (bytes 32 secret.toNat) (bytes 5 keyHigh)
  m.getD 0 0 + m.getD 1 0 * 2 ^ 8 + m.getD 2 0 * 2 ^ 16

/-! ### SHA-256 -/

def primes64 : List Nat :=
  [2, 3, 5, 7, 11, 13, 17, 19, 23, 29, 31, 37, 41, 43, 47, 53, 59, 61, 67, 71, 73, 79, 83, 89, 97, 101, 103, 107,
   109, 113, 127, 131, 137, 139, 149, 151, 157, 163, 167, 173, 179, 181, 191, 193, 197, 199, 211, 223, 227, 229,
   233, 239, 241, 251, 257, 263, 269, 271, 277, 281, 283, 293, 307, 311]

/-- The largest r with r^k ≤ x, bit by bit from bit n − 1 down. -/
def rootGo (k x : Nat) : Nat → Nat → Nat
  | 0, r => r
  | n + 1, r => rootGo k x n (if (r + 2 ^ n) ^ k ≤ x then r + 2 ^ n else r)

/-- The first 32 bits of the fraction of a prime's k-th root. -/
def fracRoot (k p : Nat) : Nat := rootGo k (p * 2 ^ (32 * k)) 40 0 % 2 ^ 32

def rotr (x k : Nat) : Nat := x / 2 ^ k + x % 2 ^ k * 2 ^ (32 - k)
def xor3 (a b c : Nat) : Nat := Nat.xor (Nat.xor a b) c

/-- The message schedule, newest first. -/
def wordsGo : Nat → List Nat → List Nat
  | 0, ws => ws
  | n + 1, ws =>
    let g (k : Nat) := ws.getD (k - 1) 0
    let s0 := xor3 (rotr (g 15) 7) (rotr (g 15) 18) (g 15 / 2 ^ 3)
    let s1 := xor3 (rotr (g 2) 17) (rotr (g 2) 19) (g 2 / 2 ^ 10)
    wordsGo n ((g 16 + s0 + g 7 + s1) % 2 ^ 32 :: ws)

/-- One round on the eight words a to h. -/
def shaRound (v : List Nat) (kw : Nat × Nat) : List Nat :=
  let x (i : Nat) := v.getD i 0
  let s1 := xor3 (rotr (x 4) 6) (rotr (x 4) 11) (rotr (x 4) 25)
  let ch := Nat.xor (Nat.land (x 4) (x 5)) (Nat.land (2 ^ 32 - 1 - x 4) (x 6))
  let t1 := x 7 + s1 + ch + kw.1 + kw.2
  let s0 := xor3 (rotr (x 0) 2) (rotr (x 0) 13) (rotr (x 0) 22)
  let maj := xor3 (Nat.land (x 0) (x 1)) (Nat.land (x 0) (x 2)) (Nat.land (x 1) (x 2))
  [(t1 + s0 + maj) % 2 ^ 32, x 0, x 1, x 2, (x 3 + t1) % 2 ^ 32, x 4, x 5, x 6]

def shaBlock (h : List Nat) (block : List Nat) : List Nat :=
  let w := (wordsGo 48 ((List.range 16).map fun i => beVal ((block.drop (4 * i)).take 4)).reverse).reverse
  let v := ((primes64.map (fracRoot 3)).zip w).foldl shaRound h
  List.zipWith (fun a b => (a + b) % 2 ^ 32) h v

def shaGo : Nat → List Nat → List Nat → List Nat
  | 0, h, _ => h
  | n + 1, h, m => shaGo n (shaBlock h (m.take 64)) (m.drop 64)

/-- SHA-256 of bytes, as 32 bytes. -/
def sha256 (m : List Nat) : List Nat :=
  let z := (119 - m.length % 64) % 64
  let p := m ++ [0x80] ++ List.replicate z 0 ++ beBytes 8 (8 * m.length)
  (shaGo (p.length / 64) ((primes64.take 8).map (fracRoot 2)) p).flatMap (beBytes 4)

/-! ### RSASSA-PKCS1-v1_5 with SHA-256, 3072 bits -/

/-- x^e mod n over the bits of e, `fuel` bits. -/
def powMod (n : Nat) : Nat → Nat → Nat → Nat
  | 0, _, _ => 1 % n
  | f + 1, x, e =>
    let r := powMod n f (x * x % n) (e / 2)
    if e % 2 == 1 then x * r % n else r

/-- The encoded message of a digest: 00 01 FF… 00, the SHA-256 identifier, the digest. -/
def encoded (digest : List Nat) : List Nat :=
  let info := [0x30, 0x31, 0x30, 0x0D, 0x06, 0x09, 0x60, 0x86, 0x48, 0x01, 0x65, 0x03, 0x04, 0x02, 0x01, 0x05,
    0x00, 0x04, 0x20] ++ digest
  [0, 1] ++ List.replicate (384 - 3 - info.length) 0xFF ++ [0] ++ info

/-- R324: the 384-byte signature of bytes under the attestation private key. -/
def signature (m : List Nat) : List Nat :=
  beBytes 384 (powMod Config.attestModulus 3072 (beVal (encoded (sha256 m))) Config.attestExponent)

/-- The digest of a public key: SHA-256 of its modulus and exponent (log entry 74). -/
def keyDigest (modulus exponent : Nat) : BitVec 256 :=
  BitVec.ofNat 256 (beVal (sha256 (beBytes 384 modulus ++ beBytes 4 exponent)))

/-- R312: is a signed image's key the one of the fuses, and does its RSA-3072 signature verify? -/
def verifies (digest : BitVec 256) (i : BootImage) : Bool :=
  2 ^ 3071 ≤ i.modulus && i.modulus < 2 ^ 3072 && i.exponent < 2 ^ 32
    && keyDigest i.modulus i.exponent == digest
    && powMod i.modulus 32 i.signature i.exponent == beVal (encoded (sha256 (i.data.map BitVec.toNat)))

end Sys2Proof.Machine.Crypto
end

