-- ==== Sys2Proof/Machine/Reach.lean ====
section
/-! DEFINITION. Reaching a partition, context, task or thread of the state, and the issuing thread's registers. -/

namespace Sys2Proof

def TId.ctxId (t : TId) : CtxId := ⟨t.part, t.ctx⟩
def TId.taskId (t : TId) : TaskId := ⟨t.part, t.ctx, t.task⟩
def TaskId.ctxId (t : TaskId) : CtxId := ⟨t.part, t.ctx⟩
def SeatId.ctxId (t : SeatId) : CtxId := ⟨t.part, t.ctx⟩
def GroupId.ctxId (t : GroupId) : CtxId := ⟨t.part, t.ctx⟩

/-- The register a plain operand field names. -/
def Opnd.num5 (o : Opnd) : BitVec 5 :=
  match o with
  | .reg n => n
  | .inc q => q.zeroExtend 5
  | .str q => q.zeroExtend 5

end Sys2Proof

namespace Sys2Proof.Machine

/-! ### Reaching the records -/

def State.part? (s : State) (n : Nat) : Option Partition := s.parts.find? fun p => p.num == n

def State.modPart (n : Nat) (f : Partition → Partition) (s : State) : State :=
  { s with parts := modWhere (fun p => p.num == n) f s.parts }

def Partition.ctx? (p : Partition) (n : Nat) : Option Context := p.ctxs.find? fun c => c.num == n

def State.ctx? (s : State) (k : CtxId) : Option Context := (s.part? k.part).bind fun p => p.ctx? k.ctx

def State.modCtx (k : CtxId) (f : Context → Context) (s : State) : State :=
  s.modPart k.part fun p => { p with ctxs := modWhere (fun c => c.num == k.ctx) f p.ctxs }

def Context.task? (c : Context) (n : Nat) : Option Task := c.tasks.find? fun t => t.create == n

def Context.modTask (n : Nat) (f : Task → Task) (c : Context) : Context :=
  { c with tasks := modWhere (fun t => t.create == n) f c.tasks }

def State.task? (s : State) (k : TaskId) : Option Task := (s.ctx? k.ctxId).bind fun c => c.task? k.task

def State.modTask (k : TaskId) (f : Task → Task) (s : State) : State :=
  s.modCtx k.ctxId (Context.modTask k.task f)

def Context.thread? (c : Context) (t : TId) : Option Thread := c.threads.find? fun h => h.id == t

def State.thread? (s : State) (t : TId) : Option Thread := (s.ctx? t.ctxId).bind fun c => c.thread? t

/-- Changes a thread's record, and the copy in `cur` if it is that thread's. -/
def State.modThread (t : TId) (f : Thread → Thread) (s : State) : State :=
  let s1 := s.modCtx t.ctxId fun c => { c with threads := modWhere (fun h => h.id == t) f c.threads }
  if s1.cur.id == t then { s1 with cur := f s1.cur } else s1

/-- Puts the issuing thread's registers back into its record. -/
def State.checkIn (s : State) : State :=
  s.modCtx s.cur.id.ctxId fun c =>
    { c with threads := modWhere (fun h => h.id == s.cur.id) (fun _ => s.cur) c.threads }

/-- Runs an operation on a thread as the issuing thread. -/
def State.onThread (t : TId) (f : State → State) (s : State) : State :=
  match s.thread? t with
  | none => s
  | some h => (f { s with cur := h }).checkIn

/-- The issuing thread's context, or an empty one when it has none. -/
def State.curCtx (s : State) : CtxId := s.cur.id.ctxId

def State.modCur (f : Thread → Thread) (s : State) : State := { s with cur := f s.cur }

/-- A fresh value the spec leaves open (log entry 5). -/
def State.fresh (s : State) : Nat × State := (Config.freeWord s.free, { s with free := s.free + 1 })

/-- A draw of the anchor's generator (log entry 5). -/
def State.drawn (s : State) : Nat × State := (Config.draw s.draws, { s with draws := s.draws + 1 })

/-! ### The issuing thread's registers (R40, R41) -/

def fin32 (n : BitVec 5) : Fin 32 := n.toFin

/-- s0 reads zero. -/
def Thread.sreg (h : Thread) (n : BitVec 5) : Word := if n = 0 then 0 else h.s[n.toFin]

/-- A write to s0 is discarded. -/
def Thread.setS (h : Thread) (n : BitVec 5) (v : Word) : Thread :=
  if n = 0 then h else { h with s := h.s.set n.toNat v n.isLt }

/-- p0 reads all ones. -/
def Thread.preg (h : Thread) (n : BitVec 3) : Word :=
  if n = 0 then BitVec.allOnes 64 else h.p[n.toFin]

/-- A write to p0 is discarded. -/
def Thread.setP (h : Thread) (n : BitVec 3) (v : Word) : Thread :=
  if n = 0 then h else { h with p := h.p.set n.toNat v n.isLt }

def Thread.cbit (h : Thread) (n : Nat) : Bool := h.c.getLsbD n

def Thread.setCbit (h : Thread) (n : Nat) (b : Bool) : Thread :=
  { h with c := if b then h.c ||| ((1 : BitVec 16) <<< n) else h.c &&& ~~~ ((1 : BitVec 16) <<< n) }

def Thread.setC15 (h : Thread) (b : Bool) : Thread := h.setCbit 15 b

def Thread.areg (h : Thread) (n : BitVec 2) : BitVec 32 := h.a[n.toFin]

def Thread.qreg (h : Thread) (n : BitVec 3) : Word := h.q[n.toFin]

def Thread.setQ (h : Thread) (n : BitVec 3) (v : Word) : Thread :=
  { h with q := h.q.set n.toNat v n.isLt }

/-- A vector register by number. -/
def Thread.vreg (h : Thread) (n : BitVec 5) : VWord := h.v[n.toFin]

def Thread.setV (h : Thread) (n : BitVec 5) (v : VWord) : Thread :=
  { h with v := h.v.set n.toNat v n.isLt }

/-- A group of g registers as one number, register order (R44). -/
def Thread.vgroup (h : Thread) (n : BitVec 5) : Nat → Nat
  | 0 => 0
  | g + 1 => (h.vreg n).toNat + 2 ^ 512 * Thread.vgroup h (n + 1) g

def Thread.setVgroup (h : Thread) (n : BitVec 5) (x : Nat) : Nat → Thread
  | 0 => h
  | g + 1 => Thread.setVgroup (h.setV n (BitVec.ofNat 512 x)) (n + 1) (x / 2 ^ 512) g

/-- R111: flags join the sticky flags. -/
def Thread.raise (h : Thread) (f : Flags) : Thread := { h with fflags := h.fflags ||| f }

/-- The code index moves to the next instruction. -/
def State.advance (s : State) : State := s.modCur fun h => { h with pc := h.pc + 1 }

/-- R49: does a scalar guard pass? -/
def Thread.guardOk (h : Thread) (g : Guard) : Bool := ((h.preg g.p).getLsbD 0) != g.inv

/-- A scalar-tested instruction: nothing but the next code index when its guard fails (R49, R57 step 6). -/
def scalar (g : Guard) (s : State) (f : State → Result) : Result :=
  if s.cur.guardOk g then f s else .next s.advance

/-! ### Waiting (R13) -/

/-- The thread is WAITING at this instruction. -/
def State.wait (w : Wait) (s : State) : State := s.modCur fun h => { h with life := .here (.waiting w) }

/-- The thread is WAITING until the instruction can issue again. -/
def State.waitFor (c : Cond) (s : State) : State := s.wait (.again c)

def Life.isReady : Life → Bool
  | .here .ready => true
  | _ => false

def Life.isParked : Life → Bool
  | .here .parked => true
  | _ => false

/-- R14: does the thread hold its seat? -/
def Life.holdsSeat : Life → Bool
  | .here _ => true
  | _ => false

/-- RETIRED or STOPPED. -/
def Life.ended : Life → Bool
  | .retired => true
  | .stopped => true
  | _ => false

/-! ### The host's memory -/

/-- Where host memory of a function stands in `hostMem`. -/
def hostKey (fn addr : Nat) : Nat := fn * 2 ^ 64 + addr % 2 ^ 64

/-- The virtual function that serves a partition (R332). -/
def vf (part : Nat) : Nat := part + 1

end Sys2Proof.Machine
end

