-- ==== Sys2Proof/Machine/Translate.lean ====
section
/-! DEFINITION. Physical memory with its keys and errors (R321, R194 step 5, R313) and the two-stage
translation of R228 to R231, R346. -/

namespace Sys2Proof.Machine

/-! ### Physical memory -/

/-- What a physical address is (log entry 4). -/
def State.regionAt (s : State) (pa : Nat) : Option Region :=
  s.regions.find? fun r => r.base ≤ pa && pa < r.base + r.size

/-- A block of a stack, in its reset state when nothing has been done to it. -/
def Stack.block (k : Stack) (g : Nat) : Block :=
  (k.blocks.find? fun b => b.group == g).getD ⟨g, 32, 32, none, false, 0, 0, [], false, 0, []⟩

/-- The RESULT register (R308). -/
def Block.result (b : Block) : Word := BitVec.ofNat 64 (b.pass.toNat + b.status * 2 ^ 32)

def State.stack? (s : State) (n : Nat) : Option Stack := s.hbm.find? fun k => k.num == n

/-- TRAINED of R315: every one of the 96 groups is in service. -/
def Stack.trained (k : Stack) : Bool := (List.range 96).all fun g => (k.block g).inService

/-- R317. -/
def State.stackUp (s : State) (n : Nat) : Bool :=
  match s.stack? n with
  | some k => k.trained && !k.failed
  | none => false

def State.stackFailed (s : State) (n : Nat) : Bool :=
  match s.stack? n with
  | some k => k.failed
  | none => false

/-- The generation of the key in a slot of a partition; none when EMPTY (R320). -/
def State.slotGen (s : State) (part slot : Nat) : Option Nat :=
  match (s.part? part).bind fun p => p.keys[slot]? with
  | some (.loaded g _) => some g
  | _ => none

/-- Is a physical address one of HBM, whose lines are stored encrypted (R321)? -/
def State.inHbm (s : State) (pa : Nat) : Bool :=
  match s.regionAt pa with
  | some r => match r.kind with
    | .hbm _ => true
    | _ => false
  | none => false

/-- The key of a generation: the slot that holds it has it; one erased since was the draw's value (R320). -/
def State.keyOf (s : State) (gen : Nat) : BitVec 512 :=
  ((s.parts.flatMap fun p => p.keys).findSome? fun k => match k with
    | .loaded g key => if g == gen then some key else none
    | .empty => none).getD (BitVec.ofNat 512 (Config.draw (gen - Config.firstGen)))

/-- A line as it stands in HBM: the XTS encryption of its content under the key it was written with (R321). -/
def State.cipherLine (s : State) (line : Nat) : List Byte :=
  let tag := getAt 0 s.lineKeys line
  let plain := readBytes s.mem (line * 64) 64
  if tag < Config.firstGen then plain else Crypto.xtsEncrypt (s.keyOf tag) line plain

/-- A line read under a key, 0 for none: its content where it was written under that key or never written, what
stands in HBM where no key is used, and else the XTS decryption of what stands there (R321). -/
def State.lineUnder (s : State) (gen line : Nat) : List Byte :=
  let tag := getAt 0 s.lineKeys line
  if tag == 0 || tag == gen then readBytes s.mem (line * 64) 64
  else if gen < Config.firstGen then s.cipherLine line
  else Crypto.xtsDecrypt (s.keyOf gen) line (s.cipherLine line)

/-- A byte of an HBM line read under a key (R321). -/
def State.keyedByte (s : State) (gen pa : Nat) : Byte :=
  let tag := getAt 0 s.lineKeys (pa / 64)
  if tag == 0 || tag == gen then readByte s.mem pa else (s.lineUnder gen (pa / 64)).getD (pa % 64) 0

/-- The lines a range touches. -/
def linesOf (pa n : Nat) : List Nat :=
  if n == 0 then [] else (List.range ((pa + n - 1) / 64 - pa / 64 + 1)).map fun i => pa / 64 + i

/-- Does a range of n bytes at a hold a line whole? -/
def wholeLine (a n l : Nat) : Bool := a ≤ l * 64 && l * 64 + 64 ≤ a + n

/-- Bytes of physical memory under a key; gen 0 for memory that is not encrypted, or read as it stands. -/
def State.physRead (s : State) (gen pa n : Nat) : List Byte :=
  let plain (l : Nat) : Bool := getAt 0 s.lineKeys l == 0 || getAt 0 s.lineKeys l == gen
  if (linesOf pa n).all plain then readBytes s.mem pa n
  else (List.range n).map fun i => s.keyedByte gen (pa + i)

/-- A line is taken over by a key: its content becomes what that key reads. -/
def State.retag (gen line : Nat) (s : State) : State :=
  let tag := getAt 0 s.lineKeys line
  let s1 := if tag == 0 || tag == gen then s
    else { s with mem := writeBytes s.mem (line * 64) (s.lineUnder gen line) }
  { s1 with lineKeys := setMany 0 s1.lineKeys line [gen] }

/-- The tag that a write at pa under a key leaves on its lines; HBM written under none stands as written. -/
def State.writeTag (s : State) (gen pa : Nat) : Nat := if gen == 0 && s.inHbm pa then Config.rawGen else gen

/-- Writes bytes of physical memory under a key. A write of a whole line clears an error mark, a partial one leaves
it. -/
def State.physWrite (s : State) (gen pa : Nat) (bs : List Byte) : State :=
  let tag := s.writeTag gen pa
  let s1 := if tag == 0 then s else (linesOf pa bs.length).foldl (fun s l => s.retag tag l) s
  { s1 with mem := writeBytes s1.mem pa bs, badLines := s1.badLines.filter fun l => !wholeLine pa bs.length l }

/-- Has any line of the range an uncorrectable error? -/
def State.badIn (s : State) (pa n : Nat) : Bool := (linesOf pa n).any s.badLines.contains

/-! ### Translation -/

/-- Why an access is not made. -/
inductive XFault where
  | trap (cause : Nat) (stage2 : Bool)
  | hold (c : Cond)
  | device
  deriving DecidableEq, Repr

/-- Read, write or fetch. -/
inductive Acc where
  | rd | wr | ex
  deriving DecidableEq, Repr

/-- A leaf as one stage gives it: the page's address, its size as a power of two, rights, key. -/
structure Leaf where
  pa : Nat
  sizeLog : Nat
  rd : Bool
  wr : Bool
  ex : Bool
  dev : Bool
  key : Nat
  deriving DecidableEq, Repr

def bitAt (x i : Nat) : Bool := x / 2 ^ i % 2 == 1

/-- The page a level-l leaf maps: 4 KiB, 64 KiB under P64, 2 MiB, 1 GiB (R228). -/
def leafSize (level : Nat) (p64 : Bool) : Nat :=
  match level with
  | 0 => if p64 then 16 else 12
  | 1 => 21
  | _ => 30

/-- R228, R229: reserved bits, and KEY anywhere but a stage-2 leaf. -/
def pteReserved (stage2 : Bool) (e : Nat) : Bool :=
  e / 2 ^ 7 % 2 ^ 5 != 0 || e / 2 ^ 52 % 2 ^ 8 != 0 || (e / 2 ^ 60 != 0 && !(stage2 && bitAt e 1))

/-- One stage's walk from level fuel − 1 down (R228, R229). Address bits of a leaf below its page's size, and P64 in an
entry other than a level-0 leaf, count for nothing (log entry 82). -/
def walkGo (read : Nat → Except XFault Nat) (stage2 : Bool) (va : Nat) : Nat → Nat → Except XFault Leaf
  | 0, _ => .error (.trap 0x0A stage2)
  | l + 1, table =>
    match read (table + 8 * (va / 2 ^ (12 + 9 * l) % 512)) with
    | .error f => .error f
    | .ok e =>
      if !bitAt e 0 then .error (.trap 0x09 stage2)
      else if pteReserved stage2 e then .error (.trap 0x0A stage2)
      else if bitAt e 1 then
        if l == 3 then .error (.trap 0x0A stage2)
        else
          let z := leafSize l (bitAt e 6)
          .ok ⟨e % 2 ^ 52 / 2 ^ z * 2 ^ z, z, bitAt e 2, bitAt e 3, bitAt e 4, bitAt e 5, e / 2 ^ 60⟩
      else if l == 0 then .error (.trap 0x0A stage2)
      else walkGo read stage2 va l (e / 2 ^ 12 % 2 ^ 40 * 2 ^ 12)

def Leaf.allows (f : Leaf) (a : Acc) : Bool :=
  match a with
  | .rd => f.rd
  | .wr => f.wr
  | .ex => f.ex

/-- Where an address of a leaf's page lies. -/
def Leaf.at (f : Leaf) (a : Nat) : Nat := f.pa + a % 2 ^ f.sizeLog

/-- May a physical address be read now: HBM of a failed stack or with an error gives 0x0C, HBM not yet in
service holds (R313), what lies nowhere gives 0x0A (log entry 10). -/
def State.physCheck (s : State) (pa : Nat) : Option XFault :=
  match s.regionAt pa with
  | none => some (.trap 0x0A true)
  | some r => match r.kind with
    | .hbm n =>
      if s.stackFailed n then some (.trap 0x0C false)
      else if !s.stackUp n then some (.hold (.stackUp n))
      else none
    | _ => none

/-- The place in the host region of a physical address that lies there (log entry 4). -/
def State.hostPart (s : State) (pa : Nat) : Option Nat :=
  match s.regionAt pa with
  | some r => match r.kind with
    | .host => some (pa - r.base)
    | _ => none
  | none => none

/-- The generation under which an HBM page of a key slot is read; 0 elsewhere (R321). -/
def State.genFor (s : State) (part key pa : Nat) : Option Nat :=
  match s.regionAt pa with
  | some r => match r.kind with
    | .hbm _ => s.slotGen part key
    | _ => some 0
  | none => some 0

/-- A stage-2 table entry. An uncorrectable error of an entry, in either stage, is 0x0C with STAGE2 0 (log entry
93). One in host memory or a PHY region is read in the device memory of its address (log entry 97). -/
def State.readS2 (s : State) (pa : Nat) : Except XFault Nat :=
  match s.physCheck pa with
  | some f => .error f
  | none => if s.badIn pa 8 then .error (.trap 0x0C false) else .ok (leVal (s.physRead 0 pa 8))

/-- Stage 2 of a context, by bits 47:12 of the intermediate address, whatever its upper bits (log entry 83). -/
def State.stage2 (s : State) (c : Context) (ia : Nat) : Except XFault Leaf :=
  walkGo s.readS2 true ia 4 c.s2root

/-- R231: a host page as ATS has answered it. -/
def Context.hostPage (c : Context) (page : Nat) (a : Acc) : Except XFault Nat :=
  match c.ats.find? fun e => e.page == page with
  | none => .error (.hold (.hostPage page))
  | some e => match e.host with
    | none => .error (.trap 0x0A false)
    | some h => if (match a with | .wr => e.wr | _ => e.rd) then .ok h else .error (.trap 0x0A false)

/-- A stage-1 table entry, its address translated by stage 2 (R229), whose leaf must have RD (log entry 83); one in host
memory by ATS as well (R231). -/
def State.readS1 (s : State) (part : Nat) (c : Context) (ia : Nat) : Except XFault Nat :=
  match s.stage2 c ia with
  | .error f => .error f
  | .ok l =>
    if !l.rd then .error (.trap 0x0A true)
    else
      let pa := l.at ia
      match s.hostPart pa with
      | some off => (c.hostPage (off / 4096) .rd).map fun hp =>
          leVal (readBytes s.hostMem (hostKey (vf part) (hp * 4096 + pa % 4096)) 8)
      | none =>
        match s.physCheck pa with
        | some f => .error f
        | none =>
          match s.genFor part l.key pa with
          | none => .error (.trap 0x0A true)
          | some g => if s.badIn pa 8 then .error (.trap 0x0C false) else .ok (leVal (s.physRead g pa 8))

/-- Both stages (R229): the translation cached for an address, its page the smaller of the two. -/
def State.walk (s : State) (part : Nat) (c : Context) (cluster va : Nat) (a : Acc) :
    Except XFault TlbEntry :=
  match walkGo (s.readS1 part c) false va 4 c.s1root with
  | .error f => .error f
  | .ok l1 =>
    if !l1.allows a then .error (.trap 0x0A false)
    else match s.stage2 c (l1.at va) with
      | .error f => .error f
      | .ok l2 =>
        if !l2.allows a then .error (.trap 0x0A true)
        else
          let z := min l1.sizeLog l2.sizeLog
          let page (x : Nat) := x / 2 ^ z * 2 ^ z
          .ok ⟨cluster, page va, page (l1.at va), page (l2.at (l1.at va)), z, l1.rd && l2.rd, l1.wr && l2.wr,
            l1.ex && l2.ex, l1.dev || l2.dev, l2.key, 0, []⟩

def TlbEntry.allows (e : TlbEntry) (a : Acc) : Bool :=
  match a with
  | .rd => e.rd
  | .wr => e.wr
  | .ex => e.ex

def TlbEntry.covers (e : TlbEntry) (cluster va : Nat) : Bool :=
  e.cluster == cluster && va / 2 ^ e.sizeLog * 2 ^ e.sizeLog == e.va

/-- Does this entry's contiguity run reach the page of va (R230)? -/
def TlbEntry.predicts (e : TlbEntry) (cluster va : Nat) : Bool :=
  let d := (va - e.va) / 2 ^ e.sizeLog
  e.cluster == cluster && e.va < va && d ≥ 1 && d ≤ e.run && !e.dev

/-- Do two entries of one size give the same translation, d pages apart? -/
def TlbEntry.agrees (e x : TlbEntry) (d : Nat) : Bool :=
  x.sizeLog == e.sizeLog && x.pa == e.pa + d * 2 ^ e.sizeLog && x.key == e.key && x.rd == e.rd
    && x.wr == e.wr && x.ex == e.ex && x.dev == e.dev

/-- R230: following pages in the same 64-byte line of leaf entries that continue a leaf (`fuel` more), by their
intermediate addresses; the line is the one of the virtual address, of stage 1's leaves (log entry 84). The entries of a
64 KiB group fill two lines, so no page follows it in one. -/
def State.runGo (s : State) (part : Nat) (c : Context) (e : TlbEntry) (a : Acc) : Nat → List Nat → List Nat
  | 0, ias => ias
  | n + 1, ias =>
    let d := ias.length + 1
    if e.sizeLog == 16 || (e.va / 2 ^ e.sizeLog + d) % 8 == 0 then ias
    else match s.walk part c e.cluster (e.va + d * 2 ^ e.sizeLog) a with
      | .ok x => if e.agrees x d then s.runGo part c e a n (ias ++ [x.ia]) else ias
      | .error _ => ias

/-- The cached leaf whose run predicts a page; host memory is never predicted (R230). -/
def State.predicted (s : State) (c : Context) (cluster va : Nat) : Option TlbEntry :=
  c.tlb.find? fun x => x.predicts cluster va && (s.hostPart x.pa).isNone

/-- The translation of a va: the cluster's cached one if it allows the access, else a walk. The flag says
that the entry is new, the second that a prediction was squashed (R230). -/
def State.lookupTlb (s : State) (part : Nat) (c : Context) (cluster va : Nat) (a : Acc) :
    Except XFault (TlbEntry × Bool × Bool) :=
  match c.tlb.find? fun e => e.covers cluster va && e.allows a with
  | some e => .ok (e, false, false)
  | none => match s.walk part c cluster va a with
    | .error f => .error f
    | .ok e =>
      let wrong := match s.predicted c cluster va with
        | some x => !x.agrees e ((e.va - x.va) / 2 ^ x.sizeLog)
        | none => false
      .ok (e, true, wrong)

/-- R230: is an access to an address predicted from a cached run, and the walk that checks it finds another
translation or none? A walk that ends in a trap is one that disagrees, whatever its leaf (log entry 84). -/
def State.squashed (s : State) (k : CtxId) (cluster va : Nat) (a : Acc) : Bool :=
  match s.ctx? k with
  | none => false
  | some c =>
    if c.tlb.any fun e => e.covers cluster va && e.allows a then false
    else match s.predicted c cluster va with
      | none => false
      | some x => match s.walk k.part c cluster va a with
        | .ok e => !x.agrees e ((e.va - x.va) / 2 ^ x.sizeLog)
        | .error (.hold _) => false
        | .error _ => true

/-- Where an access goes. -/
inductive Home where
  /-- HBM or commons: physical address, key generation. -/
  | mem (pa gen : Nat)
  /-- A training block's page: stack, offset in the PHY region. -/
  | phy (stack off : Nat)
  /-- Host memory: address in the DMA space. -/
  | host (addr : Nat)
  /-- A page of another module (R346): its number and the address there. -/
  | remote (module' addr : Nat)
  deriving DecidableEq, Repr

/-- A translated access: where it goes, its intermediate address, the entry and whether it is new or
squashed a prediction. -/
structure Xlate where
  home : Home
  ia : Nat
  entry : TlbEntry
  fresh : Bool
  missed : Bool
  deriving DecidableEq, Repr

/-- R315: the bytes of a PHY region that the spec describes: 96 blocks and the stack register. -/
def phyKnown (off : Nat) : Bool := off < 64 * 96 || (0x8000 ≤ off && off < 0x8008)

/-- Translation of one address of a context for a cluster (steps 4 and 5 of R194 without the window
check). -/
def State.xlate (s : State) (k : CtxId) (cluster va : Nat) (a : Acc) : Except XFault Xlate :=
  match s.ctx? k with
  | none => .error (.trap 0x0A false)
  | some c =>
    if va ≥ 2 ^ 48 then .error (.trap 0x0A false)
    else match s.lookupTlb k.part c cluster va a with
      | .error f => .error f
      | .ok (e, new, wrong) =>
        let off := va % 2 ^ e.sizeLog
        let pa := e.pa + off
        let ia := e.ia + off
        if bitAt pa 51 then
          .ok ⟨.remote (pa / 2 ^ 39 % 2 ^ 12) (pa % 2 ^ 39), ia, e, new, wrong⟩
        else match s.regionAt pa with
          | none => .error (.trap 0x0A true)
          | some r => match r.kind with
            | .hbm n =>
              if s.stackFailed n then .error (.trap 0x0C false)
              else if !s.stackUp n then .error (.hold (.stackUp n))
              else match s.slotGen k.part e.key with
                | none => .error (.trap 0x0A true)
                | some g => .ok ⟨.mem pa g, ia, e, new, wrong⟩
            | .commons _ => .ok ⟨.mem pa 0, ia, e, new, wrong⟩
            | .phy n =>
              if phyKnown (pa - r.base) then .ok ⟨.phy n (pa - r.base), ia, e, new, wrong⟩
              else .error .device
            | .host =>
              match c.hostPage ((pa - r.base) / 4096) a with
              | .error f => .error f
              | .ok hp => .ok ⟨.host (hp * 4096 + pa % 4096), ia, e, new, wrong⟩

/-! ### What an access leaves behind: cached translations and monitors -/

/-- R229, R230: the translation is cached with its contiguity run; the oldest of 512 makes room. -/
def State.cache (k : CtxId) (a : Acc) (e : TlbEntry) (s : State) : State :=
  match s.ctx? k with
  | none => s
  | some c =>
    let run := s.runGo k.part c e a 7 []
    let e' := { e with run := run.length, runIas := run }
    let others := c.tlb.filter fun x => !(x.cluster == e.cluster && x.va == e.va && x.sizeLog == e.sizeLog)
    let mine := others.filter fun x => x.cluster == e.cluster
    let kept := if mine.length ≥ Config.tlbSize then
        (mine.take (Config.tlbSize - 1)) ++ others.filter (fun x => x.cluster != e.cluster)
      else others
    s.modCtx k fun c => { c with tlb := e' :: kept }

/-- R325: one monitor counts a line. -/
def Monitor.count (ia time : Nat) (wr : Bool) (m : Monitor) : Monitor :=
  if m.enable && m.base ≤ ia / 64 * 64 && ia / 64 * 64 ≤ m.limit then
    { m with
      reads := if wr then m.reads else min (m.reads + 1) (2 ^ 64 - 1)
      writes := if wr then min (m.writes + 1) (2 ^ 64 - 1) else m.writes
      first := if m.reads == 0 && m.writes == 0 then time else m.first
      last := time }
  else m

/-- R325: every monitor of a partition counts the lines of a range touched at home. -/
def State.monitor (part ia n : Nat) (wr : Bool) (s : State) : State :=
  s.modPart part fun p => { p with
    monitors := (linesOf ia n).foldl (fun ms l => ms.map (Monitor.count (l * 64) s.time wr)) p.monitors }

/-- What a translation of one address leaves: it is cached, and a squashed prediction counts for its thread
(R229, R230). -/
def State.noteXlate (who : TId) (k : CtxId) (cluster va : Nat) (a : Acc) (s : State) : State :=
  match s.xlate k cluster va a with
  | .error _ => s
  | .ok x =>
    let s1 := if x.fresh then s.cache k a x.entry else s
    if x.missed then s1.modThread who fun h => { h with predmiss := h.predmiss + 1 } else s1

/-- R325: a virtual line touched at home is counted at its intermediate address; registers of training blocks and
other modules' memory are not home memory. -/
def State.countLine (k : CtxId) (cluster : Nat) (a : Acc) (wr : Bool) (line : Nat) (s : State) : State :=
  match s.xlate k cluster (line * 64) a with
  | .error _ => s
  | .ok x => match x.home with
    | .mem _ _ => s.monitor k.part x.ia 1 wr
    | .host _ => s.monitor k.part x.ia 1 wr
    | _ => s

/-! ### Ranges -/

/-- A range cut at 4 KiB pages: pieces of address and length (fuel pieces at most). -/
def piecesGo : Nat → Nat → Nat → List (Nat × Nat)
  | 0, _, _ => []
  | f + 1, a, n =>
    if n == 0 then []
    else
      let m := min n (4096 - a % 4096)
      (a, m) :: piecesGo f (a + m) (n - m)

def pieces (a n : Nat) : List (Nat × Nat) := piecesGo (n / 4096 + 2) a n

/-- What accesses to ranges leave: the translation of every page, and the counts of the virtual lines among them
that were touched at home, each line once (R229, R230, R325). -/
def State.noteAccess (who : TId) (k : CtxId) (cluster : Nat) (ranges : List (Nat × Nat)) (home : Nat → Bool) (a : Acc)
    (wr : Bool) (s : State) : State :=
  let s1 := (ranges.flatMap fun r => pieces r.1 r.2).foldl (fun s p => s.noteXlate who k cluster p.1 a) s
  (((ranges.flatMap fun r => linesOf r.1 r.2).eraseDups).filter home).foldl
    (fun s l => s.countLine k cluster a wr l) s1

/-! ### Home memory by virtual address -/

/-- The first fault of a range's translation for the loader or a host queue, with its address: pages in order, lines
with errors. Another module's page is not theirs to reach (R346). -/
def State.rangeFault (s : State) (k : CtxId) (cluster va n : Nat) (a : Acc) : Option (Nat × XFault) :=
  (pieces va n).findSome? fun p =>
    match s.xlate k cluster p.1 a with
    | .error f => some (p.1, f)
    | .ok x => match x.home with
      | .mem pa _ =>
        if a != .wr && s.badIn pa p.2 then
          ((List.range p.2).find? fun i => s.badIn (pa + i) 1).map fun i => (p.1 + i, .trap 0x0C false)
        else none
      | .remote _ _ => some (p.1, .trap 0x0A false)
      | _ => none

/-- R308, R315: a byte of the PHY region: the registers of a block, the stack registers, zero elsewhere. -/
def State.phyByte (s : State) (stack off : Nat) : Byte :=
  match s.stack? stack with
  | none => 0
  | some k =>
    let word : Nat :=
      if off < 64 * 96 then
        let b := k.block (off / 64)
        match off % 64 / 8 with
        | 1 => b.result.toNat
        | 2 => b.inService.toNat * 2 + b.rdtap * 4 + b.wrtap * 2 ^ 8 + (b.spare.getD 0) * 2 ^ 14
            + b.spare.isSome.toNat * 2 ^ 19
        | _ => 0
      else if off / 8 == 0x8000 / 8 then k.trained.toNat + k.failed.toNat * 2
      else 0
    BitVec.ofNat 8 (word / 2 ^ (8 * (off % 8)))

/-- The bytes at a home, as a partition reaches it; those of another module are free (log entry 5). -/
def State.homeBytes (s : State) (part : Nat) (x : Home) (n : Nat) : List Byte :=
  match x with
  | .mem pa g => s.physRead g pa n
  | .phy st off => (List.range n).map fun i => s.phyByte st (off + i)
  | .host a => readBytes s.hostMem (hostKey (vf part) a) n
  | .remote m a => (List.range n).map fun i => BitVec.ofNat 8 (Config.remoteByte m (a + i) s.free)

/-- Bytes reached at home for an access, page by page; zero where it would fault. -/
def State.homeReadFor (s : State) (acc : Acc) (k : CtxId) (cluster va n : Nat) : List Byte :=
  (pieces va n).flatMap fun p =>
    match s.xlate k cluster p.1 acc with
    | .error _ => List.replicate p.2 0
    | .ok x => s.homeBytes k.part x.home p.2

/-- Bytes read at home. -/
def State.homeRead (s : State) (k : CtxId) (cluster va n : Nat) : List Byte := s.homeReadFor .rd k cluster va n

/-- A byte read at home. -/
def State.homeByte (s : State) (k : CtxId) (cluster va : Nat) : Byte := (s.homeRead k cluster va 1).headD 0

/-- R315: a plain write to a PHY region: bit 1 of the stack register's first byte gives up on a stack that is
not trained; every other is ignored (R308). -/
def State.phyWrite (stack off : Nat) (bs : List Byte) (s : State) : State :=
  if off == 0x8000 && bitAt (bs.headD 0).toNat 1 && !((s.stack? stack).map Stack.trained).getD true then
    { s with hbm := modWhere (fun k => k.num == stack) (fun k => { k with failed := true }) s.hbm }
  else s

/-- Bytes written at a home; in another module's memory they leave this one (R346). -/
def State.homePut (part : Nat) (x : Home) (bs : List Byte) (s : State) : State :=
  match x with
  | .mem pa g => s.physWrite g pa bs
  | .host a => { s with hostMem := writeBytes s.hostMem (hostKey (vf part) a) bs }
  | .phy n off => s.phyWrite n off bs
  | .remote _ _ => { s with free := s.free + 1 }

/-- Bytes written at home at several addresses, page by page, every page translated before the first write; what
the translation refuses is not written. -/
def State.homeWrites (k : CtxId) (cluster : Nat) (ws : List (Nat × List Byte)) (s : State) : State :=
  (ws.flatMap fun w => (pieces w.1 w.2.length).map fun p => (p.1, (w.2.drop (p.1 - w.1)).take p.2)).foldl (fun t p =>
    match s.xlate k cluster p.1 .wr with
    | .error _ => t
    | .ok x => t.homePut k.part x.home p.2) s

/-- Bytes written at home from one address on. -/
def State.homeWrite (k : CtxId) (cluster va : Nat) (bs : List Byte) (s : State) : State :=
  s.homeWrites k cluster [(va, bs)]

end Sys2Proof.Machine
end

