-- ==== Sys2Proof/Machine/Stop.lean ====
section
/-! DEFINITION. What ends with a thread or a job: groups left (R21, R22), pins released (R35), combines
closed (R300), rounds ended (R260), jobs finished or cancelled (R114, R238 to R240, R276). -/

namespace Sys2Proof.Machine

/-! ### Groups (R20 to R22) -/

/-- R20: the handles that name a group. -/
def validHandle (h : Nat) : Bool := h < 16 || (0x8000 ≤ h && h ≤ 0x8FFF)

def isWide (h : Nat) : Bool := 0x8000 ≤ h

/-- Is this the group that a handle names for a thread of a context on a cluster? -/
def Group.named (g : Group) (ctx cluster h : Nat) : Bool :=
  g.handle == h && (isWide h || (g.ctx == ctx && g.cluster == cluster))

def Group.ofTask (g : Group) (t : TId) : Bool := g.ctx == t.ctx && g.task == t.task

def Group.hasMember (g : Group) (t : TId) : Bool := g.ofTask t && g.members.contains t.thread

/-- The group that a handle names for a thread: its task's own, where a restore from elsewhere has brought another of
the same partition-wide handle (R39, log entry 61). -/
def groupFor (gs : List Group) (t : TId) (cluster h : Nat) : Option Group :=
  match gs.find? fun g => g.named t.ctx cluster h && g.ofTask t with
  | some g => some g
  | none => gs.find? fun g => g.named t.ctx cluster h

/-- A member leaves: an arrival in an open phase if it had not arrived (R22). -/
def Group.leave (i : Nat) (g : Group) : Group :=
  { g with
    members := g.members.filter (· ≠ i)
    awaited := g.awaited.filter (· ≠ i)
    arrived := g.arrived.filter (· ≠ i)
    early := g.early.filter (· ≠ i) }

/-- A member arrives (R22): it opens a phase, joins the one open, or, having joined since it opened, waits
for the next. -/
def Group.arrive (i : Nat) (g : Group) : Group :=
  if g.isOpen then
    if g.awaited.contains i then
      { g with awaited := g.awaited.filter (· ≠ i), arrived := insertKey i g.arrived }
    else { g with early := insertKey i g.early }
  else { g with isOpen := true, awaited := g.members.filter (· ≠ i), arrived := [i] }

/-- Has every member of the open phase arrived? -/
def Group.complete (g : Group) : Bool := g.isOpen && g.awaited.isEmpty

/-- The phase ends; early arrivals open the next. -/
def Group.nextPhase (g : Group) : Group :=
  if g.early.isEmpty then { g with isOpen := false, arrived := [] }
  else { g with
    awaited := g.members.filter fun i => !g.early.contains i
    arrived := g.early
    early := [] }

/-- Groups without members cease to exist (R21). -/
def dropEmptyGroups (gs : List Group) : List Group := gs.filter fun g => !g.members.isEmpty

/-! ### Jobs -/

/-- A final status (R239). -/
def Job.isFinal (j : Job) : Bool := 0x10 ≤ j.status

/-- Is the job the thread's, under this id (R238, R246)? -/
def Job.isOf (j : Job) (t : TId) (id : Nat) : Bool :=
  (j.thread == t && j.id == id) || j.merged.any fun m => m.1 == t && m.2.1 == id

def Context.job? (c : Context) (t : TId) (id : Nat) : Option Job := c.jobs.find? fun j => j.isOf t id

/-- R238: the id by which a thread's job of a number, counted from 1, is known: 1 to 65,535, and again from 1. -/
def jobId (n : Nat) : Nat := (n - 1) % 65535 + 1

/-- The job of a thread that a record's id names (R241, R338): of several with one id the one held on a page. -/
def Context.named? (c : Context) (t : TId) (id : Nat) : Option Job :=
  let mine := c.jobs.filter fun j => (j.thread == t && jobId j.id == id) || j.merged.any fun m => m.1 == t && jobId m.2.1 == id
  (mine.find? fun j => match j.place with
    | .heldPage _ => true
    | _ => false).orElse fun _ => mine.head?

def Context.modJob (t : TId) (id : Nat) (f : Job → Job) (c : Context) : Context :=
  { c with jobs := modWhere (fun j => j.isOf t id) f c.jobs }

/-- A job reaches a final status: each issuer's event latch is set, and its flags gain the job's (R97,
R114, R239, R246). R114 lets the flags come at any time up to then; here they come at completion (log entry 13). -/
def State.finishJob (k : CtxId) (j : Job) (status : Nat) (s : State) : State :=
  let s1 := s.modCtx k fun c => c.modJob j.thread j.id fun j => { j with status := status, place := .finished }
  let tell (t : TId) (s : State) := s.modThread t fun h => { (h.raise j.flags) with latch := true }
  (j.thread :: j.merged.map (·.1)).foldl (fun s t => tell t s) s1

/-- A plane as a context opens (R271). -/
def Plane.zero : Plane := ⟨[], 9, []⟩

/-- A context's state on an engine it has not used (R271). -/
def Matrix.blank (cluster : Nat) : Matrix := ⟨cluster, Plane.zero, Plane.zero, []⟩

def Context.matrix (c : Context) (cluster : Nat) : Matrix :=
  (c.matrices.find? fun m => m.cluster == cluster).getD (Matrix.blank cluster)

def Context.setMatrix (m : Matrix) (c : Context) : Context :=
  { c with matrices := (c.matrices.filter fun x => x.cluster < m.cluster) ++ [m]
      ++ (c.matrices.filter fun x => m.cluster < x.cluster) }

/-- R276: a shadow plane left undefined: weights and scales free, tag void. -/
def voidPlane (n : Nat) : Plane :=
  ⟨((List.range 16384).map fun i => (i, Config.voidWeight i n % 2 ^ 16)).filter (fun e => e.2 ≠ 0), 16,
    ((List.range 512).map fun i => (i, Config.voidWeight (16384 + i) n % 256)).filter (fun e => e.2 ≠ 0x7F)⟩

/-- A cancelled or failed `MWLD` that had begun (R276), the context's first use of the engine or not. -/
def State.voidShadow (k : CtxId) (cluster : Nat) (s : State) : State :=
  { (s.modCtx k fun c => c.setMatrix { c.matrix cluster with shadow := voidPlane s.free }) with free := s.free + 1 }

def JobOp.isLoad : JobOp → Bool
  | .mwld _ => true
  | _ => false

/-- R240: the jobs of a task that stops become CANCELLED; a running weight load leaves its plane void. -/
def State.cancelJobs (k : TaskId) (s : State) : State :=
  match s.ctx? k.ctxId with
  | none => s
  | some c =>
    (c.jobs.filter fun j => j.thread.taskId == k && !j.isFinal).foldl (fun s j =>
      let s1 := if j.op.isLoad && j.place == .running then s.voidShadow k.ctxId j.target else s
      s1.finishJob k.ctxId j 0x15) s

/-- The pins and combines of a thread are no more (R35, R300). -/
def Context.dropHolds (t : TId) (c : Context) : Context :=
  { c with
    tables := c.tables.map fun tb => { tb with pins := tb.pins.filter fun p => p.thread != t }
    combines := c.combines.filter fun m => m.owner != t }

/-! ### Collective rounds (R260) -/

/-- The thread that runs engine firmware for a round of this handle (R261). -/
def firmwareOf (part ctx task handle : Nat) : TId := ⟨part, ctx, task, 2 ^ 32 + handle⟩

/-- A round's firmware runs no further: its thread holds nothing and is no more. -/
def Context.dropFirmware (t : TId) (c : Context) : Context :=
  { c.dropHolds t with threads := c.threads.filter fun h => !(h.role.isSome && h.id == t) }

/-- R260: a round ends in error: every job issued in it becomes ROUNDERR. -/
def State.failRound (part : Nat) (r : Round) (s : State) : State :=
  let k : CtxId := ⟨part, r.ctx⟩
  let s1 := r.issued.foldl (fun s i =>
    match (s.ctx? k).bind fun c => c.job? ⟨part, r.ctx, r.task, i.1⟩ i.2 with
    | some j => if j.isFinal then s else s.finishJob k j 0x17
    | none => s) s
  let s2 := s1.modPart part fun p => { p with
    rounds := p.rounds.filter fun x => !(x.ctx == r.ctx && x.task == r.task && x.handle == r.handle) }
  s2.modCtx k (Context.dropFirmware (firmwareOf part r.ctx r.task r.handle))

/-- Rounds of which a thread is a member that has not issued end in error when it leaves (R260). -/
def State.leaveRounds (t : TId) (handle : Option Nat) (s : State) : State :=
  match s.part? t.part with
  | none => s
  | some p =>
    (p.rounds.filter fun r => r.ctx == t.ctx && r.task == t.task && r.ranks.contains t.thread
        && !(r.issued.any fun i => i.1 == t.thread) && (handle.isNone || handle == some r.handle)).foldl
      (fun s r => s.failRound t.part r) s

/-! ### A thread's end -/

/-- R21: a thread leaves one group, as `GLEAVE` does. -/
def State.leaveGroup (t : TId) (cluster h : Nat) (s : State) : State :=
  let s1 := s.leaveRounds t (some h)
  s1.modPart t.part fun p => { p with
    groups := dropEmptyGroups (modWhere (fun g => g.named t.ctx cluster h && g.hasMember t)
      (Group.leave t.thread) p.groups) }

/-- A thread that becomes RETIRED or STOPPED leaves every group, releases its pins and closes its combines
(R21, R35, R300). -/
def State.releaseThread (t : TId) (s : State) : State :=
  let s1 := s.leaveRounds t none
  let s2 := s1.modPart t.part fun p => { p with
    groups := dropEmptyGroups (modWhere (fun g => g.hasMember t) (Group.leave t.thread) p.groups) }
  s2.modCtx t.ctxId (Context.dropHolds t)

/-- R13: any thread but a RETIRED one becomes STOPPED and holds nothing. -/
def State.stopThread (t : TId) (s : State) : State :=
  match s.thread? t with
  | none => s
  | some h =>
    if h.life.ended then s
    else (s.releaseThread t).modThread t fun h => { h with life := .stopped }

/-- Every thread of a task is stopped, its jobs are cancelled and its rounds are no more (R165, R240). -/
def State.stopTask (k : TaskId) (s : State) : State :=
  match s.ctx? k.ctxId with
  | none => s
  | some c =>
    let ts := (c.threads.filter fun h => h.id.taskId == k).map (·.id)
    (ts.foldl (fun s t => s.stopThread t) (s.cancelJobs k)).modPart k.part fun p => { p with
      rounds := p.rounds.filter fun r => !(r.ctx == k.ctx && r.task == k.task) }

end Sys2Proof.Machine
end

