-- ==== Sys2Proof/Machine/Tasks.lean ====
section
/-! DEFINITION. Tasks: windows and access checks (R147, R152, R156), dependences (R158 to R161, R167, R169),
submission (R151, R153), the changes of a task's state (R165, R166, R168), the ready queue and placement
(R16 to R18, R162, R163). -/

namespace Sys2Proof.Machine

/-! ### Windows -/

def nbits (x lo n : Nat) : Nat := x / 2 ^ lo % 2 ^ n

/-- R147: a window record of 16 bytes. -/
def windowOf (x : Nat) : Window := ⟨nbits x 0 48, nbits x 48 24, nbits x 72 16, nbits x 88 32, nbits x 120 8⟩

/-- R152. -/
def Window.valid (w : Window) : Bool :=
  1 ≤ w.mode && w.mode ≤ 5 && w.rowLen != 0 && w.rows != 0 && (w.rows ≤ 1 || w.rowLen ≤ w.pitch)
    && w.base + (w.rows - 1) * w.pitch + w.rowLen ≤ 2 ^ 48

/-- R147: is the byte at a covered? -/
def Window.covers (w : Window) (a : Nat) : Bool :=
  w.base ≤ a &&
    (if w.rows ≤ 1 then w.rows == 1 && a - w.base < w.rowLen
     else (a - w.base) / w.pitch < w.rows && (a - w.base) % w.pitch < w.rowLen)

/-- What an access asks of a window: the rows of R156's table. -/
inductive Use where
  | load | store | add | swap
  deriving DecidableEq, Repr

/-- R156's table. Modes: 1 R, 2 W, 3 P, 4 A, 5 X. -/
def modePermits (mode : Nat) (u : Use) : Bool :=
  match mode, u with
  | 1, .load => true
  | 1, _ => false
  | 4, .add => true
  | 4, _ => false
  | _, _ => mode == 2 || mode == 3 || mode == 5

/-- R156: at least one window that covers the byte allows the access. -/
def Task.permits (t : Task) (a : Nat) (u : Use) : Bool :=
  t.windows.any fun w => modePermits w.mode u && w.covers a

/-- R177: is the byte under an A window of the task? -/
def Task.inA (t : Task) (a : Nat) : Bool := t.windows.any fun w => w.mode == 4 && w.covers a

/-- The first byte of a range that no window permits. -/
def Task.firstDenied (t : Task) (a n : Nat) (u : Use) : Option Nat :=
  ((List.range n).find? fun i => !t.permits (a + i) u).map (a + ·)

/-- Does a window meet the interval [lo, hi)? -/
def Window.meets (w : Window) (lo hi : Nat) : Bool :=
  if hi ≤ w.base || hi ≤ lo then false
  else if w.rows ≤ 1 then w.rows == 1 && lo < w.base + w.rowLen
  else
    -- the first row that ends after lo, and does it start before hi?
    let k := if lo < w.base + w.rowLen then 0 else (lo - w.base - w.rowLen) / w.pitch + 1
    k < w.rows && w.base + k * w.pitch < hi

/-- Two windows overlap when one byte is covered by both, computed row by row. -/
def Window.overlaps (x y : Window) : Bool :=
  (List.range x.rows).any fun k => y.meets (x.base + k * x.pitch) (x.base + k * x.pitch + x.rowLen)

/-- A conflict pair: overlapping windows that are not both R or both A. -/
def Window.conflicts (x y : Window) : Bool :=
  !(x.mode == 1 && y.mode == 1) && !(x.mode == 4 && y.mode == 4) && x.overlaps y

/-- Line intervals of a window, rows in order. -/
def Window.lineSpans (w : Window) : List (Nat × Nat) :=
  if w.rows > 1 && w.pitch == w.rowLen then
    [(w.base / 64, (w.base + w.rows * w.rowLen - 1) / 64)]
  else (List.range w.rows).map fun k =>
    ((w.base + k * w.pitch) / 64, (w.base + k * w.pitch + w.rowLen - 1) / 64)

/-- Two lists of intervals merged by their starts (fuel: the sum of their lengths). -/
def mergeSpans : Nat → List (Nat × Nat) → List (Nat × Nat) → List (Nat × Nat)
  | 0, xs, ys => xs ++ ys
  | _ + 1, [], ys => ys
  | _ + 1, xs, [] => xs
  | f + 1, x :: xs, y :: ys =>
    if x.1 ≤ y.1 then x :: mergeSpans f xs (y :: ys) else y :: mergeSpans f (x :: xs) ys

/-- Lines covered by intervals in order of their starts, `upto` the first line not yet counted. -/
def countSpans : List (Nat × Nat) → Nat → Nat
  | [], _ => 0
  | (a, b) :: r, upto =>
    let lo := max a upto
    (if b + 1 > lo then b + 1 - lo else 0) + countSpans r (max upto (b + 1))

/-- R163: the 64-byte lines covered by the W, P and X windows. -/
def logNeed (ws : List Window) : Nat :=
  let spans := (ws.filter fun w => w.mode == 2 || w.mode == 3 || w.mode == 5).map Window.lineSpans
  countSpans (spans.foldl (fun acc x => mergeSpans (acc.length + x.length) acc x) []) 0

/-- The lines of a partition's task log (R163, R333): LOGMIB MiB, 0 giving 1,024. -/
def Partition.logLines (p : Partition) : Nat := (if p.logMib == 0 then 1024 else p.logMib) * 2 ^ 20 / 64

/-! ### Dependences -/

/-- R158: does a task with (spec, ts, create) precede another? -/
def precedes (u t : Task) : Bool :=
  if u.tcb.spec && t.tcb.spec then
    u.tcb.ts < t.tcb.ts || (u.tcb.ts == t.tcb.ts && u.create < t.create)
  else u.create < t.create

def conflictPairs (us ts : List Window) : List (Window × Window) :=
  us.flatMap fun u => (ts.filter fun t => u.conflicts t).map fun t => (u, t)

/-- R159: the edge from U to T, if any: hard or soft. -/
def edgeKind (t : Task) (pairs : List (Window × Window)) : Option Bool :=
  if pairs.isEmpty then none
  else if t.tcb.spec && pairs.all (fun p => p.1.mode == 3 && p.2.mode == 1) then some false
  else some true

/-- Adds an edge; a hard pair turns a soft edge hard. -/
def addEdge (src dst : Nat) (hard : Bool) (es : List Edge) : List Edge :=
  match es.find? fun e => e.src == src && e.dst == dst with
  | some _ => modWhere (fun e => e.src == src && e.dst == dst) (fun e => { e with hard := e.hard || hard }) es
  | none => es ++ [⟨src, dst, hard⟩]

/-- PREDS: hard predecessors not yet committed. -/
def Context.preds (c : Context) (n : Nat) : Nat := (c.edges.filter fun e => e.dst == n && e.hard).length

def Task.inTracker (t : Task) : Bool := !(t.state == .done || t.state == .aborted)

/-- R172: is the commit past recall? -/
def Task.pastGrant (t : Task) : Bool := t.state == .done || (t.state == .committing && t.commitOk)

/-! ### The image in memory (R149, R153, R154) -/

/-- The cluster number under which the tracker's own accesses are translated. -/
def trackerCluster : Nat := 2 ^ 20

/-- R149: the fields of an image's first 64 bytes. -/
def tcbOf (x : Nat) : Tcb where
  entry := nbits x 0 32
  nthreads := nbits x 32 32
  clusters := nbits x 64 16
  gang := bitAt x 80
  spec := bitAt x 81
  cls := nbits x 82 2
  vregs := nbits x 84 2
  ts := nbits x 128 64
  energy := nbits x 192 32
  fcaddr := nbits x 256 48
  fcinc := nbits x 320 32
  nwin := nbits x 352 7
  ovfptr := nbits x 368 48

/-- R149: a reserved bit of the image is nonzero. -/
def tcbReserved (x : Nat) : Bool :=
  nbits x 92 4 != 0 || nbits x 304 16 != 0 || nbits x 359 9 != 0 || nbits x 456 56 != 0

/-- Must a task's image wait for its page: a stack not yet in service (R313), a host page not yet answered (R231)? -/
def State.imageHeld (k : TaskId) (s : State) : Bool :=
  ((s.task? k).map fun t => t.attached && match s.xlate k.ctxId trackerCluster t.image .wr with
    | .error (.hold _) => true
    | _ => false).getD false

/-- R153: STATE, PREDS, CURCLASS, ENERGYUSED, CREATE and FAILCAUSE go back to the attached image. A write
the translation refuses is dropped (log entry 11), and one to a page that must be waited for is made later (R313). -/
def State.writeBack (k : TaskId) (s : State) : State :=
  match s.ctx? k.ctxId with
  | none => s
  | some c => match c.task? k.task with
    | none => s
    | some t =>
      if !t.attached then s
      else if s.imageHeld k then s.modPart k.part fun p => { p with owed := p.owed.filter (· != (k.ctx, k.task)) ++ [(k.ctx, k.task)] }
      else
        let b10 := (s.homeByte k.ctxId trackerCluster (t.image + 10)).toNat
        s.homeWrites k.ctxId trackerCluster [
          (t.image + 10, leBytes 6 (b10 % 64 + t.curClass * 64 + t.state.code * 256 + c.preds t.create % 2 ^ 32 * 2 ^ 16)),
          (t.image + 28, leBytes 4 t.energyUsed), (t.image + 52, leBytes 4 t.create),
          (t.image + 56, leBytes 1 t.failCause)]

/-- A gang task that does not stand READY holds no seats (R17). -/
def State.dropSeats (k : TaskId) (s : State) : State :=
  s.modPart k.part fun p => { p with heldSeats := p.heldSeats.filter fun h => !(h.1.ctx == k.ctx && h.2 == k.task) }

/-- A task's new state, written back. -/
def State.setTaskState (k : TaskId) (st : TaskState) (s : State) : State :=
  let s1 := (s.modTask k fun t => { t with state := st }).writeBack k
  if st == .ready then s1 else s1.dropSeats k

/-- WAITING or READY by PREDS (R161, R165). -/
def State.settle (k : TaskId) (s : State) : State :=
  match s.ctx? k.ctxId with
  | none => s
  | some c => s.setTaskState k (if c.preds k.task == 0 then .ready else .waiting)

/-- R161: a task's PREDS may have fallen or risen while it waits. -/
def State.resettle (k : TaskId) (s : State) : State :=
  match s.task? k with
  | none => s
  | some t => if t.state == .waiting || t.state == .ready then s.settle k else s.writeBack k

/-! ### Rollback, abort, commit (R161, R165 to R168) -/

/-- What a stopped task gives up: buffers, log reservation, clusters; FAILCAUSE is zero but for a FAILED task (R149). -/
def Task.clear (t : Task) : Task :=
  { t with
    buffers := [], badLog := [], logLines := 0, granted := [], started := [], commitOk := false, recorded := false
    failCause := 0, faultCause := 0 }

/-- R168. -/
def State.rollback (k : TaskId) (s : State) : State :=
  ((s.stopTask k).modTask k Task.clear).settle k

/-- The tasks that an abort of these reaches (R166), `fuel` rounds of edges. -/
def cascade (es : List Edge) : Nat → List Nat → List Nat
  | 0, ks => ks
  | n + 1, ks =>
    let more := (es.filter fun e => ks.contains e.src && !ks.contains e.dst).map (·.dst)
    if more.isEmpty then ks else cascade es n (ks ++ more.eraseDups)

/-- R166, R173: these tasks and their cascade become ABORTED, but for those past their grant. -/
def State.abortTasks (k : CtxId) (ks : List Nat) (s : State) : State :=
  match s.ctx? k with
  | none => s
  | some c =>
    let all := (cascade c.edges (c.tasks.length + 1) ks).filter fun n =>
      match c.task? n with
      | some t => t.inTracker && !t.pastGrant
      | none => false
    all.foldl (fun s n =>
      let id : TaskId := ⟨k.part, k.ctx, n⟩
      let s1 := ((s.stopTask id).modTask id Task.clear).setTaskState id .aborted
      s1.modCtx k fun c => { c with edges := c.edges.filter fun e => e.src != n && e.dst != n }) s

/-- R161, R167: a task becomes DONE: its edges fall and its successors may become READY. -/
def State.taskDone (k : TaskId) (s : State) : State :=
  let s1 := (s.modTask k fun t => { t with buffers := [], logLines := 0, granted := [] }).setTaskState k .done
  match s1.ctx? k.ctxId with
  | none => s1
  | some c =>
    let succs := (c.edges.filter fun e => e.src == k.task).map (·.dst)
    let s2 := s1.modCtx k.ctxId fun c => { c with edges := c.edges.filter fun e => e.src != k.task }
    succs.foldl (fun s n => s.resettle ⟨k.part, k.ctx, n⟩) s2

def TaskState.dispatched : TaskState → Bool
  | .running => true
  | .faulted => true
  | .committing => true
  | _ => false

/-- R160: an edge from T to V is recorded and V treated by its state. -/
def State.addSuccessor (k : CtxId) (src : Nat) (v : Task) (hard : Bool) (s : State) : State :=
  let id : TaskId := ⟨k.part, k.ctx, v.create⟩
  let s1 := s.modCtx k fun c => { c with edges := addEdge src v.create hard c.edges }
  if !hard then s1
  else if v.state.dispatched then s1.rollback id
  else s1.resettle id

/-- R167: a store or atomic of U to bytes that R windows of soft-edged successors cover rolls back those
dispatched and turns their edges hard. -/
def State.softHit (k : TaskId) (addrs : List Nat) (s : State) : State :=
  match s.ctx? k.ctxId with
  | none => s
  | some c =>
    (c.edges.filter fun e => e.src == k.task && !e.hard).foldl (fun s e =>
      match c.task? e.dst with
      | none => s
      | some t =>
        if addrs.any fun a => t.windows.any fun w => w.mode == 1 && w.covers a then
          s.addSuccessor k.ctxId e.src t true
        else s) s

/-! ### Submission (R151, R153, R155, R159, R160, R212) -/

/-- The windows of an image: slots 0 to 3 in it, the rest at OVFPTR. -/
def windowsOf (tcb : Tcb) (img ovf : List Byte) : List Window :=
  (List.range tcb.nwin).map fun i =>
    windowOf (leVal (if i < 4 then (img.drop (64 + 16 * i)).take 16 else (ovf.drop (16 * (i - 4))).take 16))

/-- R151's last dependence case: status 0x06. -/
def tooLate (c : Context) (t : Task) : Bool :=
  t.tcb.spec && c.tasks.any fun v => precedes t v && v.pastGrant &&
    (!(conflictPairs t.windows v.windows).isEmpty ||
      (v.tcb.spec && v.tcb.ts / 2 ^ 32 == t.tcb.ts / 2 ^ 32))

/-- R212: the status of a submission and the slot that status 0x05 names. -/
def submitStatus (p : Partition) (c : Context) (x : Nat) (t : Task) : Nat × Nat :=
  let b := t.tcb
  if tcbReserved x then (1, 0)
  else if b.nthreads == 0 || b.clusters == 0 || b.clusters > p.clusters then (2, 0)
  else if b.gang && b.nthreads > 32 * b.clusters then (3, 0)
  else if b.nwin > 64 || b.fcaddr % 8 != 0 || (b.nwin > 4 && b.ovfptr % 16 != 0) then (4, 0)
  else match t.windows.findIdx? fun w => !w.valid with
    | some i => (5, i)
    | none =>
      if tooLate c t then (6, 0)
      else if ((p.ctxs.flatMap fun c => c.tasks.filter Task.inTracker)).length ≥ Config.trackerSize then (7, 0)
      else if logNeed t.windows > p.logLines then (8, 0)
      else (0, 0)

/-- The task of an image, before it is accepted; its launch came at a time (R343). -/
def newTask (c : Context) (image time : Nat) (img ovf : List Byte) : Task :=
  let b := tcbOf (leVal (img.take 64))
  { create := c.nextCreate, image := image, attached := true, tcb := b, windows := windowsOf b img ovf,
    state := .new, curClass := b.cls, energyUsed := 0, failCause := 0, faultCause := 0, granted := [], logLines := 0,
    started := [], buffers := [], badLog := [], commitOk := false, recorded := false, arrived := time, launched := false }

/-- Submits an image whose bytes the device has read, its launch come at a time (R343): the status, its slot, CREATE. -/
def State.submit (k : CtxId) (image came : Nat) (img ovf : List Byte) (s : State) : (Nat × Nat × Nat) × State :=
  match s.part? k.part, s.ctx? k with
  | some p, some c =>
    let t := newTask c image came img ovf
    let (st, slot) := submitStatus p c (leVal (img.take 64)) t
    if st != 0 then ((st, slot, 0), s)
    else
      let id : TaskId := ⟨k.part, k.ctx, t.create⟩
      let live := c.tasks.filter Task.inTracker
      -- edges from tasks that precede it (R159)
      let ins := live.filterMap fun u =>
        if precedes u t then (edgeKind t (conflictPairs u.windows t.windows)).map fun h => (⟨u.create, t.create, h⟩ : Edge)
        else none
      -- edges to tasks it precedes (R160)
      let outs := live.filterMap fun v =>
        if precedes t v then (edgeKind v (conflictPairs t.windows v.windows)).map fun h => (v, h) else none
      let s1 := s.modCtx k fun c => { c with
        nextCreate := (c.nextCreate + 1) % 2 ^ 32
        tasks := (modWhere (fun u => u.image == image) (fun u => { u with attached := false }) c.tasks) ++ [t]
        edges := c.edges ++ ins }
      let s2 := outs.foldl (fun s v => s.addSuccessor k t.create v.1 v.2) s1
      ((0, 0, t.create), s2.settle id)
  | _, _ => ((2, 0, 0), s)

/-! ### The ready queue, dispatch and seats (R14, R16 to R18, R162, R163) -/

/-- R162's order: CURCLASS, then TS, then CREATE (contexts of a partition in their order). -/
def queueBefore (a b : Task) : Bool :=
  a.curClass < b.curClass ||
    (a.curClass == b.curClass && (a.tcb.ts < b.tcb.ts || (a.tcb.ts == b.tcb.ts && a.create < b.create)))

/-- The first of a list under an order. -/
def firstBy {α : Type} (before : α → α → Bool) : List α → Option α
  | [] => none
  | x :: xs => match firstBy before xs with
    | none => some x
    | some y => if before y x then some y else some x

/-- The head of a partition's ready queue: context number and task. -/
def Partition.head? (p : Partition) : Option (Nat × Task) :=
  firstBy (fun a b => queueBefore a.2 b.2)
    ((p.ctxs.filter fun c => c.loaded).flatMap fun c =>
      (c.tasks.filter fun t => t.state == .ready).map fun t => (c.num, t))

/-- A thread in a seat of a context (R14). -/
def Context.seatHeld (c : Context) (cluster core seat : Nat) : Bool :=
  c.threads.any fun h => h.life.holdsSeat && h.cluster == cluster && h.core == core && h.seat == seat
    && h.role.isNone

/-- Free or gated seats of a cluster. -/
def Context.freeSeats (c : Context) (cluster : Nat) : Nat :=
  32 - ((List.range 32).filter fun l => c.seatHeld cluster (l / 4) (l % 4)).length

/-- The die of a logical cluster of a context (R179). -/
def Partition.dieOf (p : Partition) (c : Context) (cluster : Nat) : Nat :=
  p.dies.getD (c.coreTable.getD cluster cluster / 120) 0

/-- R317: is a die trained: both its stacks in service? -/
def State.dieUp (s : State) (die : Nat) : Bool := s.stackUp (2 * die) && s.stackUp (2 * die + 1)

/-- R313, R314: dispatch grants clusters of trained dies, and to a die's bring-up context those of its quarter. -/
def State.usable (s : State) (p : Partition) (c : Context) (cluster : Nat) : Bool :=
  let d := p.dieOf c cluster
  s.dieUp d || (p.num == 4 * d && s.bringUp.contains d)

/-- R163: the clusters chosen: most free seats first, ties to the lower number; ascending. -/
def pickClusters (c : Context) (cands : List Nat) : Nat → List Nat
  | 0 => []
  | n + 1 =>
    match firstBy (fun a b => c.freeSeats a > c.freeSeats b || (c.freeSeats a == c.freeSeats b && a < b)) cands with
    | none => []
    | some b => insertKey b (pickClusters c (cands.filter (· ≠ b)) n)

/-- R163: log lines held by dispatched tasks of a partition. -/
def Partition.logUsed (p : Partition) : Nat :=
  ((p.ctxs.flatMap fun c => c.tasks.map fun t => t.logLines)).foldl (· + ·) 0

/-- R16: slot L of a task on its granted clusters: cluster, core, seat. -/
def slotOf (granted : List Nat) (l : Nat) : Nat × Nat × Nat := (granted.getD (l / 32) 0, l / 4 % 8, l % 4)

/-- R4: thread j of a task as it is created in its slot. -/
def newThread (k : TaskId) (t : Task) (granted : List Nat) (j : Nat) : Thread :=
  let (cl, co, se) := slotOf granted (j % (32 * granted.length))
  { Thread.blank with
    id := ⟨k.part, k.ctx, k.task, j⟩
    life := .here .ready
    pc := BitVec.ofNat 32 t.tcb.entry
    nthreads := BitVec.ofNat 32 t.tcb.nthreads
    cluster := cl
    core := co
    seat := se
    vregs := 8 * (t.tcb.vregs + 1) }

/-- R13, R17: a thread of a dispatched task takes its seat, which nothing holds any more. -/
def State.bindThread (k : TaskId) (j : Nat) (s : State) : State :=
  match s.task? k with
  | none => s
  | some t =>
    let h := newThread k t t.granted j
    let s1 := s.modCtx k.ctxId fun c => { c with
      threads := (c.threads.filter fun x => x.id != h.id) ++ [h]
      gated := c.gated.filter fun g => g != (8 * h.cluster + h.core, h.seat) }
    (s1.modTask k fun t => { t with
      started := setMany 0 t.started h.cluster [getAt 0 t.started h.cluster + 1] }).modPart k.part fun p => { p with
        heldSeats := p.heldSeats.filter fun x => x.1 != ⟨k.part, k.ctx, h.cluster, h.core, h.seat⟩ }

/-- R17: the next thread to start on a granted cluster (its place i among the granted). -/
def Task.nextOn (t : Task) (i : Nat) : Option Nat :=
  let n := t.granted.length
  let k := getAt 0 t.started (t.granted.getD i 0)
  let j := 32 * i + k % 32 + 32 * n * (k / 32)
  if j < t.tcb.nthreads then some j else none

/-- Have all the task's threads started? -/
def Task.allStarted (t : Task) : Bool := (List.range t.granted.length).all fun i => (t.nextOn i).isNone

end Sys2Proof.Machine
end

