-- ==== Sys2Proof/Machine/Ops.lean ====
section
/-! DEFINITION. Fault records and rings; taking a trap (R220 to R226) and coming back from one (R95). -/

namespace Sys2Proof.Machine

/-! ### Fault records and rings (R222 to R226) -/

/-- R220's dispositions: 0 parked, 1 replayable, 2 terminal. -/
def disposition (cause : Nat) : Nat :=
  match cause with
  | 0x05 | 0x06 | 0x07 | 0x0D | 0x0F => 0
  | 0x09 => 1
  | _ => 2

/-- A fault record (R223). -/
structure Record where
  cause : Nat
  kind : Nat
  device : Bool
  write : Bool
  stage2 : Bool
  part : Nat
  task : Nat
  thread : Nat
  cluster : Nat
  core : Nat
  seat : Nat
  taddr : Word
  tinfo : Word

/-- The record's image, field by field (R223). -/
def Record.image (r : Record) : BitVec 256 :=
  BitVec.ofNat 256 (r.cause + r.kind % 4 * 2 ^ 8 + r.device.toNat * 2 ^ 10
    + r.write.toNat * 2 ^ 11 + r.stage2.toNat * 2 ^ 12 + r.part % 32 * 2 ^ 16
    + r.task % 2 ^ 32 * 2 ^ 32 + r.thread % 2 ^ 32 * 2 ^ 64 + r.cluster % 2 ^ 16 * 2 ^ 96
    + r.core % 8 * 2 ^ 112 + r.seat % 4 * 2 ^ 115 + r.taddr.toNat * 2 ^ 128 + r.tinfo.toNat * 2 ^ 192)

/-- KIND of a record's image. -/
def imageKind (r : BitVec 256) : Nat := r.toNat / 2 ^ 8 % 4

/-- R224: a ring is full at HEAD − TAIL = 2^SIZELOG, and while ENABLE is 0. -/
def Ring.full (r : Ring) : Bool := !r.enable || (r.head - r.tail).toNat == 2 ^ r.sizeLog

/-- Does a partition number name a die's bring-up context (R314)? -/
def State.isBringUp (s : State) (part : Nat) : Bool := part % 4 == 0 && s.bringUp.contains (part / 4)

/-- The function whose rings take a partition's records, in its memory: the physical function for a die's bring-up
context (R314). -/
def State.ringFn (s : State) (part : Nat) : Nat := if s.isBringUp part then 0 else vf part

/-- The ring that takes a partition's records. -/
def State.ringOf (s : State) (p : Partition) (terminal : Bool) : Ring :=
  match s.isBringUp p.num, terminal with
  | false, false => p.replay
  | false, true => p.terminal
  | true, false => s.pfReplay
  | true, true => s.pfTerminal

/-- Changes the ring that takes a partition's records. -/
def State.modRing (part : Nat) (terminal : Bool) (f : Ring → Ring) (s : State) : State :=
  match s.isBringUp part, terminal with
  | false, false => s.modPart part fun p => { p with replay := f p.replay }
  | false, true => s.modPart part fun p => { p with terminal := f p.terminal }
  | true, false => { s with pfReplay := f s.pfReplay }
  | true, true => { s with pfTerminal := f s.pfTerminal }

/-- Records for which a ring has room. -/
def Ring.room (r : Ring) : Nat := if r.enable then 2 ^ r.sizeLog - (r.head - r.tail).toNat else 0

/-- R224, R225: PENDING of a function's replayable ring: the records held for room. Those that wait for their turn at the
reporting port alone (R227) are not counted. -/
def State.pending (s : State) (fn : Nat) (r : Ring) : Nat :=
  ((s.parts.filter fun p => s.ringFn p.num == fn).map fun p => p.held.length).sum - r.room

/-- R224: the control block of a partition's ring, as a read of it gives. -/
def State.ringBlock (s : State) (p : Partition) (terminal : Bool) : BitVec 256 :=
  let r := s.ringOf p terminal
  BitVec.ofNat 256 (r.base.toNat + r.sizeLog * 2 ^ 64 + r.enable.toNat * 2 ^ 68 + r.head.toNat * 2 ^ 96
    + r.tail.toNat * 2 ^ 128 + (if terminal then 0 else s.pending (s.ringFn p.num) r % 2 ^ 32) * 2 ^ 160)

/-- A record is one more that the partition's function has sent in this round of the port (R227). -/
def State.countSent (part : Nat) (s : State) : State := s.modPart part fun p => { p with sent := p.sent + 1 }

/-- Writes a record into a ring of a partition and raises HEAD; HEAD moving away from TAIL sends the
ring's message (R225). -/
def State.ringWrite (part : Nat) (terminal : Bool) (r : BitVec 256) (s : State) : State :=
  match s.part? part with
  | none => s
  | some p =>
    let g := s.ringOf p terminal
    let a := g.base.toNat + 32 * (g.head.toNat % 2 ^ g.sizeLog)
    let s1 := { s with hostMem := writeBytes s.hostMem (hostKey (s.ringFn part) a) (leBytes 32 r.toNat) }
    let s2 := if g.head == g.tail then
        { s1 with msix := s1.msix ++ [(s.ringFn part, if terminal then 2 else 1)] } else s1
    (s2.modRing part terminal fun g => { g with head := g.head + 1 }).countSent part

/-- A terminal record that finds its ring full goes to the overflow slot, which stops new dispatch (R226). -/
def Partition.overflows (r : BitVec 256) (p : Partition) : Partition :=
  { p with
    overflow := some (p.overflow.getD r)
    overflowCount := min (p.overflowCount + 1) 0xFFFFFFFF
    stopped := true }

/-- A terminal record is written, or overflows (R225, R226). -/
def State.sendTerminal (part : Nat) (r : BitVec 256) (s : State) : State :=
  match s.part? part with
  | none => s
  | some p =>
    if (s.ringOf p true).full then s.modPart part (Partition.overflows r) else s.ringWrite part true r

/-- May a partition's function send one more record in this round of the reporting port (R227)? -/
def State.mayReport (s : State) (p : Partition) : Bool :=
  p.late.isEmpty && p.sent < getAt 1 s.weights (s.ringFn p.num)

/-- Puts a record where R225 to R227 say: the ring, else held (parked, replayable) or the overflow slot (terminal);
one beyond its function's share of the round waits for the next. A record that still waits when its thread or job makes
another is kept beside it (log entry 92). -/
def State.record (r : Record) (s : State) : State :=
  match s.part? r.part with
  | none => s
  | some p =>
    let img := r.image
    match r.kind == 2, s.mayReport p with
    | true, true => s.sendTerminal r.part img
    | true, false => s.modPart r.part fun p => { p with late := p.late ++ [img] }
    | false, go =>
      if !go || (s.ringOf p false).full || !p.held.isEmpty then
        s.modPart r.part fun p => { p with held := p.held ++ [img] }
      else s.ringWrite r.part false img

/-- Does a terminal fault make the task FAULTED (R165): it is RUNNING, or COMMITTING before its grant? -/
def Task.faults (t : Task) : Bool := t.state == .running || (t.state == .committing && !t.commitOk)

/-- R165: the task becomes FAULTED; the cause of the first terminal fault of the run is what FAILCAUSE takes when the task
becomes FAILED (R149). -/
def Task.fault (cause : Nat) (t : Task) : Task :=
  if t.faults then { t with state := .faulted, faultCause := cause, failCause := 0, recorded := true }
  else { t with recorded := true }

/-- R222: may a terminal record of this task's run still be written? -/
def State.mayRecord (k : TaskId) (s : State) : Bool :=
  match s.task? k with
  | some t => !t.recorded
  | none => false

/-- Is the task at the stop of R165? -/
def State.stopping (s : State) (t : TId) : Bool := ((s.task? t.taskId).map fun k => k.state == .faulted).getD false

/-- A terminal fault of a task (R153, R165, R222): the first of its run writes its record, and a task that it makes
FAULTED is written back to its image. -/
def State.terminal (k : TaskId) (cause : Nat) (r : Record) (s : State) : State :=
  let s1 := s.modTask k (Task.fault cause)
  let s2 := if ((s.task? k).map Task.faults).getD false then s1.writeBack k else s1
  if s.mayRecord k then s2.record r else s2

/-- A terminal fault raised by the device for a task (R222); was it found in stage 2? -/
def State.deviceFault (k : TaskId) (cause addr : Nat) (stage2 : Bool) (s : State) : State :=
  s.terminal k cause ⟨cause, 2, true, false, stage2, k.part, k.task, 0, 0, 0, 0, BitVec.ofNat 64 addr, 0⟩

/-- R241: the record of a job of a thread held on an absent page. -/
def pageRecord (t : TId) (job va : Nat) (stage2 : Bool) : Record :=
  ⟨0x09, 1, true, false, stage2, t.part, t.task, 0, 0, 0, 0, BitVec.ofNat 64 va,
    BitVec.ofNat 64 (t.thread % 2 ^ 32 + jobId job * 2 ^ 32)⟩

/-- A job is held on an absent page, with its record (R241). -/
def State.holdPage (t : TId) (job va : Nat) (stage2 : Bool) (s : State) : State :=
  (s.modCtx t.ctxId fun c => c.modJob t job fun j => { j with place := .heldPage va, status := 2 }).record
    (pageRecord t job va stage2)

/-- The collective round whose firmware trapped is marked ended with the cause (R261). -/
def Partition.endFirmware (t : TId) (cause : Nat) (p : Partition) : Partition :=
  { p with
    rounds := modWhere
      (fun r => r.ctx == t.ctx && r.task == t.task && r.started && t.thread == 2 ^ 32 + r.handle)
      (fun r => { r with ended := some cause }) p.rounds }

/-- TAKING A TRAP (R220): the issuing thread's trap registers are written, it is PARKED in its seat at the
instruction, and the cause's disposition follows: a record, unless the task's stop is under way (R222), and for a
terminal cause a FAULTED task. A trap of a collective engine's firmware ends its round instead (R261). `mem`: does
%tinfo hold what R195 says (R223)? -/
def takeTrapAs (mem : Bool) (cause : Nat) (taddr tinfo : Word) (stage2 : Bool) (s : State) : State :=
  let h := s.cur
  let k := h.id.taskId
  let s1 := s.modCur fun h => { h with
    tcause := BitVec.ofNat 64 cause, taddr := taddr, tinfo := tinfo, life := .here .parked }
  if h.role.isSome then
    (s1.deviceFault k cause taddr.toNat stage2).modPart h.id.part (Partition.endFirmware h.id cause)
  else
    let rec' : Record := ⟨cause, disposition cause, false, mem && tinfo.getLsbD 40, stage2, h.id.part, h.id.task,
      h.id.thread, h.cluster, h.core, h.seat, taddr, tinfo⟩
    if disposition cause == 2 then s1.terminal k cause rec'
    else if s.stopping h.id then s1
    else s1.record rec'

/-- The trap of a memory access (R195), or one whose %tinfo has no bit 40. -/
def takeTrap (cause : Nat) (taddr tinfo : Word) (stage2 : Bool) (s : State) : State :=
  takeTrapAs true cause taddr tinfo stage2 s

/-- A trap whose %taddr is the code index of the instruction (R52, R57, R94). -/
def trapHere (cause : Nat) (tinfo : Word) (s : State) : State :=
  takeTrapAs false cause (s.cur.pc.zeroExtend 64) tinfo false s

/-- RETURNING FROM A TRAP (R95): a PARKED thread becomes READY at the parked instruction (mode 0), the
next one (mode 1) or the index given (mode 2); its trap registers keep their values. -/
def Thread.resume (mode addr : Nat) (h : Thread) : Thread :=
  { h with
    life := .here .ready
    pc := match mode with
      | 0 => h.pc
      | 1 => h.pc + 1
      | _ => BitVec.ofNat 32 addr }

end Sys2Proof.Machine
end

