-- ==== Sys2Proof/Machine/Operands.lean ====
section
/-! DEFINITION. Operand forms: scalar sources and destinations (R41, R50, R65), vector registers and
groups (R44), stream operands (R52, R53), the thread's own TCM and scratchpad, the range scoreboard
(R181), and the shape every vector instruction has (R123 to R125). -/

namespace Sys2Proof.Machine

/-! ### Scalar operands -/

/-- A scalar source read at a type, its modifier applied (R50, R65). -/
def Thread.srcT (h : Thread) (t : Ty) (m : SrcMod) (o : Opnd) : Nat := modSrc t m (h.sreg o.num5).toNat

/-- %rmode[1:0] of the thread. -/
def Thread.rm (h : Thread) : RM := RM.ofBits h.rmode

/-- Writes a scalar register and moves on. -/
def State.putS (s : State) (n : BitVec 5) (v : Word) : State :=
  (s.modCur fun h => h.setS n v).advance

/-- Writes a scalar register with flags and moves on. -/
def State.putSF (s : State) (n : BitVec 5) (v : Word) (f : Flags) : State :=
  (s.modCur fun h => (h.setS n v).raise f).advance

/-- Writes a condition bit with flags and moves on. -/
def State.putC (s : State) (n : Nat) (b : Bool) (f : Flags) : State :=
  (s.modCur fun h => (h.setCbit n b).raise f).advance

/-- An integer instruction of two sources (R65). -/
def scalarInt2 (x : RegForm) (s : State) (f : Ty → Nat → Nat → Nat) : Result :=
  scalar x.g s fun s => .next (s.putS x.dst.num5
    (extendInt x.t (f x.t (s.cur.srcT x.t x.m1 x.s1) (s.cur.srcT x.t x.m2 x.s2))))

/-- An integer instruction of one source. -/
def scalarInt1 (x : RegForm) (s : State) (f : Ty → Nat → Nat) : Result :=
  scalar x.g s fun s => .next (s.putS x.dst.num5 (extendInt x.t (f x.t (s.cur.srcT x.t x.m1 x.s1))))

/-- An immediate instruction (R69). -/
def scalarImm (x : ImmForm) (s : State) (f : Ty → Nat → Nat → Nat) : Result :=
  scalar x.g s fun s => .next (s.putS x.dst.num5
    (extendInt x.t (f x.t (s.cur.sreg x.src.num5).toNat (x.imm.signExtend 64).toNat)))

/-- A scalar floating-point instruction of up to three sources (R76): SCALE, one rounding, CLAMP. -/
def scalarFloat (x : RegForm) (s : State) (f : RM → FVal → FVal → FVal → FVal × Flags) : Result :=
  scalar x.g s fun s =>
    let h := s.cur
    let r := finishF x.t h.rm x.clamp (scaleOf x.scale)
      (f h.rm (valF x.t (h.srcT x.t x.m1 x.s1)) (valF x.t (h.srcT x.t x.m2 x.s2))
        (valF x.t (h.srcT x.t x.m3 x.s3)))
    .next (s.putSF x.dst.num5 (BitVec.ofNat 64 r.1) r.2)

/-! ### The thread's own memories (R176, R261) -/

/-- Where TCM byte 0 of a core stands in `Context.tcm`. -/
def coreKey (cluster core : Nat) : Nat := (cluster * 8 + core) * 2 ^ 17

/-- Where scratchpad byte 0 of a cluster stands in `Context.sp`. -/
def clusterKey (cluster : Nat) : Nat := cluster * 2 ^ 21

/-- Bytes of the thread's TCM, or of its engine's local memory. -/
def Thread.tcmLimit (h : Thread) : Nat := if h.role.isSome then Config.engineSize else Config.tcmSize

/-- The size of an on-chip space as a thread reaches it. -/
def Thread.limit (h : Thread) (spc : Space) : Nat :=
  match spc with
  | .tcm => h.tcmLimit
  | _ => Config.clSize

/-- Bytes of a core's TCM or a cluster's scratchpad. -/
def Context.chip (c : Context) (spc : Space) (cluster core a n : Nat) : List Byte :=
  match spc with
  | .tcm => readBytes c.tcm (coreKey cluster core + a) n
  | _ => readBytes c.sp (clusterKey cluster + a) n

/-- Writes them; a line written whole has no error any more. -/
def Context.setChip (c : Context) (spc : Space) (cluster core a : Nat) (bs : List Byte) : Context :=
  let clean (k : Nat) (ls : List Nat) := ls.filter fun l => !wholeLine k bs.length l
  match spc with
  | .tcm =>
    let k := coreKey cluster core + a
    { c with tcm := writeBytes c.tcm k bs, tcmBad := clean k c.tcmBad }
  | _ =>
    let k := clusterKey cluster + a
    { c with sp := writeBytes c.sp k bs, spBad := clean k c.spBad }

/-- The first byte of a range whose line has an uncorrectable error, of those read, or, in a write, of those in
lines written in part (R194 step 5). -/
def Context.chipBad (c : Context) (spc : Space) (cluster core : Nat) (reads : Bool) (a n : Nat) : Option Nat :=
  let k := (match spc with | .tcm => coreKey cluster core | _ => clusterKey cluster) + a
  let bad := match spc with | .tcm => c.tcmBad | _ => c.spBad
  if bad.isEmpty then none
  else (List.range n).find? fun i => bad.contains ((k + i) / 64) && (reads || !wholeLine k n ((k + i) / 64))

/-- A word's key among the empty words. -/
def chipKey (spc : Space) (cluster core a : Nat) : Nat :=
  match spc with
  | .tcm => coreKey cluster core + a
  | _ => clusterKey cluster + a

/-- Is the full/empty bit of the word at a full (R182)? -/
def Context.isFull (c : Context) (spc : Space) (cluster core a : Nat) : Bool :=
  match spc with
  | .tcm => !c.tcmEmpty.contains (chipKey spc cluster core a)
  | _ => !c.spEmpty.contains (chipKey spc cluster core a)

/-- Sets the full/empty bit of the word at a. -/
def Context.setFull (c : Context) (spc : Space) (cluster core a : Nat) (full : Bool) : Context :=
  let k := chipKey spc cluster core a
  let upd (ks : List Nat) := if full then eraseKey k ks else insertKey k ks
  match spc with
  | .tcm => { c with tcmEmpty := upd c.tcmEmpty }
  | _ => { c with spEmpty := upd c.spEmpty }

/-- Empties n consecutive words from the one at a on. -/
def Context.emptyWords (c : Context) (spc : Space) (cluster core a n : Nat) : Context :=
  let k := chipKey spc cluster core a
  let upd (ks : List Nat) := (ks.filter (· < k)) ++ ((List.range n).map fun i => k + 4 * i) ++ ks.filter (k + 4 * n ≤ ·)
  match spc with
  | .tcm => { c with tcmEmpty := upd c.tcmEmpty }
  | _ => { c with spEmpty := upd c.spEmpty }

/-- The on-chip bytes the issuing thread reads. -/
def State.chip (s : State) (spc : Space) (a n : Nat) : List Byte :=
  match s.ctx? s.curCtx with
  | some c => c.chip spc s.cur.cluster s.cur.core a n
  | none => List.replicate n 0

/-- The on-chip bytes the issuing thread writes. -/
def State.setChip (s : State) (spc : Space) (a : Nat) (bs : List Byte) : State :=
  s.modCtx s.curCtx fun c => c.setChip spc s.cur.cluster s.cur.core a bs

/-! ### The range scoreboard (R181) -/

/-- An interval of an on-chip memory: space, first byte, length. -/
structure Span where
  spc : Space
  lo : Nat
  len : Nat

def isChip (spc : Space) : Bool :=
  match spc with
  | .sp => true
  | .tcm => true
  | _ => false

/-- The smallest interval that holds n rows of a pitch. -/
def rowSpan (spc : Space) (a rows pitch len : Nat) : Span := ⟨spc, a, (rows - 1) * pitch + len⟩

/-- Element size in bytes of an accumulator drained to a type (R279). -/
def drainSize (d : Nat) : Nat :=
  match d with
  | 8 => 4 | 2 => 4 | 9 => 2 | 10 => 2 | _ => 1

/-- Bytes of a weight tile by tag (R272), tags 15 and 14 standing for mxe4m3 and mxe2m1. -/
def tileBytes (tag : Nat) : Nat :=
  match tag with
  | 9 => 32768 | 10 => 32768 | 15 => 16896 | 14 => 8704 | _ => 16384

/-- Activation row size of a pair (R278). -/
def actBytes (pair : Nat) : Nat :=
  match pair with
  | 0 => 256 | 1 => 256 | 6 => 132 | 7 => 68 | 8 => 68 | _ => 128

/-- The ranges a job's command takes in its issuer's TCM and scratchpad, from its fields alone (R181,
R250, R276 to R279). The bytes a put touches depend on the ring's fields, read later: the whole of its memory (log
entry 65). -/
def Job.spans (j : Job) : List Span :=
  let lim (spc : Space) := match spc with | .tcm => Config.tcmSize | _ => Config.clSize
  let viaDoor := j.door.isSome
  let src (len pitch rows : Nat) := rowSpan j.space j.ea rows pitch len
  let keep (xs : List Span) := xs.filter fun r => isChip r.spc && !(viaDoor && r.spc == .sp)
  match j.op with
  | .cpy d => keep [src d.rowLen d.sPitch d.nRows, rowSpan d.dSpace d.dst d.nRows d.dPitch d.rowLen]
  | .cpyf d => keep [src d.rowLen d.sPitch d.nRows, rowSpan d.dSpace d.dst d.nRows d.dPitch d.rowLen]
  | .gath d => keep [⟨j.space, 0, lim j.space⟩, rowSpan d.dSpace d.dst d.nRows d.dPitch d.rowLen,
      ⟨d.iSpace, d.idx, 4 * d.nRows⟩]
  | .scat d => keep [src d.rowLen d.sPitch d.nRows, ⟨d.dSpace, 0, lim d.dSpace⟩, ⟨d.iSpace, d.idx, 4 * d.nRows⟩]
  | .fill d => keep [rowSpan j.space j.ea d.nRows d.dPitch d.rowLen]
  | .rput d => keep [⟨j.space, j.ea, d.rowLen⟩, ⟨d.dSpace, 0, lim d.dSpace⟩]
  | .feed _ _ _ => []
  | .coll _ => []
  | .mwld tag => keep [⟨.sp, j.ea, tileBytes tag⟩]
  | .mwswap => []
  | .mzero _ _ => []
  | .mstream pair _ count _ => keep [⟨.sp, j.ea, count * actBytes pair⟩]
  | .mdrain _ count _ dst _ => keep [⟨j.space, j.ea, count * 128 * drainSize dst⟩]

/-- The ranges held by a thread's live jobs. -/
def Context.heldSpans (c : Context) (t : TId) : List Span :=
  (c.jobs.filter fun j => (j.thread == t || j.merged.any fun m => m.1 == t) && !j.isFinal).flatMap Job.spans

def Span.meets (x y : Span) : Bool :=
  x.spc == y.spc && x.lo < y.lo + y.len && y.lo < x.lo + x.len

/-- Does an access of the issuing thread overlap a held range? -/
def State.spanHeld (s : State) (r : Span) : Bool :=
  match s.ctx? s.curCtx with
  | some c => isChip r.spc && (c.heldSpans s.cur.id).any fun y => y.meets r
  | none => false

/-! ### Allocated registers (R42, R57 step 4) -/

/-- The register R57 reports for step 4: the lowest of the first failing operand at or above %vregs. -/
def badVreg (c : Code) (vregs : Nat) : Option Nat :=
  (c.vecs.find? fun v => vregs < v.1 + v.2).map fun v => max v.1 vregs

/-- Step 4 of R57. -/
def alloc (c : Code) (s : State) (f : State → Result) : Result :=
  match badVreg c s.cur.vregs with
  | some n => .next (trapHere 0x03 (BitVec.ofNat 64 n) s)
  | none => f s

/-! ### Streams (R52, R53) -/

def Opnd.isStream : Opnd → Bool
  | .reg _ => false
  | _ => true

def Opnd.q : Opnd → BitVec 3
  | .reg _ => 0
  | .inc q => q
  | .str q => q

/-- q[31:0], the TCM byte address. -/
def Thread.qaddr (h : Thread) (q : BitVec 3) : Nat := (h.qreg q).toNat % 2 ^ 32

/-- A vector position of an instruction: its operand, registers in its group (0: not a vector position),
element size in bytes, whether it is the destination. -/
structure VPos where
  o : Opnd
  g : Nat
  size : Nat
  dst : Bool

def VPos.live (p : VPos) : Bool := p.g != 0 && Opnd.isStream p.o

/-- %tinfo of R52. -/
def streamInfo (addr : Nat) (q : BitVec 3) (dst : Bool) : Word :=
  BitVec.ofNat 64 (addr + q.toNat * 2 ^ 32 + dst.toNat * 2 ^ 35)

/-- The first failing stream check, operands in order: the cause and %tinfo. -/
def streamFault (h : Thread) : List VPos → Option (Nat × Word)
  | [] => none
  | p :: ps =>
    if p.live then
      let q := Opnd.q p.o
      let a := h.qaddr q
      if a % p.size != 0 then some (0x0B, streamInfo a q p.dst)
      else if a + 64 * p.g > h.tcmLimit then some (0x0E, streamInfo a q p.dst)
      else streamFault h ps
    else streamFault h ps

/-- The first stream operand that overlaps a held range. -/
def streamHeld (s : State) (ps : List VPos) : Option Cond :=
  (ps.find? fun p => p.live && s.spanHeld ⟨.tcm, s.cur.qaddr (Opnd.q p.o), 64 * p.g⟩).map fun p =>
    .scoreClear .tcm (s.cur.qaddr (Opnd.q p.o)) (64 * p.g)

/-- A vector operand's bytes as a number (R41, R44, R52). A stream's lines with an uncorrectable error give the bytes
they hold (log entry 76). -/
def State.readV (s : State) (o : Opnd) (g : Nat) : Nat :=
  match o with
  | .reg n => s.cur.vgroup n g
  | .inc q => leVal (s.chip .tcm (s.cur.qaddr q) (64 * g))
  | .str q => leVal (s.chip .tcm (s.cur.qaddr q) (64 * g))

/-- Which of n bytes belong to an active element of w bits (R124). -/
def touchedBytes (w n : Nat) (act : List Bool) : List Bool :=
  (List.range n).map fun b => if w < 8 then act.getD (2 * b) false || act.getD (2 * b + 1) false
    else act.getD (8 * b / w) false

/-- The touched bytes as maximal runs, each with its place. -/
def touchedRuns : Nat → List Byte → List Bool → List (Nat × List Byte)
  | i, b :: bs, true :: ts =>
    match touchedRuns (i + 1) bs ts with
    | (j, r) :: rs => if j == i + 1 then (i, b :: r) :: rs else (i, [b]) :: (j, r) :: rs
    | [] => [(i, [b])]
  | i, _ :: bs, false :: ts => touchedRuns (i + 1) bs ts
  | _, _, _ => []

/-- Writes the touched bytes of a row in TCM, and no others (R49, R124). -/
def State.writeRow (s : State) (a n x : Nat) (touched : List Bool) : State :=
  (touchedRuns 0 (leBytes n x) touched).foldl (fun s r => s.setChip .tcm (a + r.1) r.2) s

/-- Writes a vector operand: a register whole, of a stream the bytes of the elements written. -/
def State.writeV (s : State) (o : Opnd) (g w : Nat) (act : List Bool) (x : Nat) : State :=
  match o with
  | .reg n => s.modCur fun h => h.setVgroup n x g
  | .inc q => s.writeRow (s.cur.qaddr q) (64 * g) x (touchedBytes w (64 * g) act)
  | .str q => s.writeRow (s.cur.qaddr q) (64 * g) x (touchedBytes w (64 * g) act)

/-- R53: a post-incremented pointer after the access. -/
def Thread.stepQ (h : Thread) (q : BitVec 3) : Thread :=
  let v := h.qreg q
  let stride := BitVec.signExtend 32 (BitVec.truncate 16 (v >>> 32) : BitVec 16)
  let lo : BitVec 32 := BitVec.truncate 32 v + stride
  h.setQ q ((v &&& 0xFFFFFFFF00000000) ||| lo.zeroExtend 64)

def Thread.stepOpnd (h : Thread) (o : Opnd) : Thread :=
  match o with
  | .inc q => h.stepQ q
  | _ => h

/-- Every post-incremented pointer of an instruction. -/
def Thread.stepStreams (h : Thread) (x : RegForm) : Thread :=
  (((h.stepOpnd x.dst).stepOpnd x.s1).stepOpnd x.s2).stepOpnd x.s3

/-! ### The shape of a vector instruction (R123 to R125) -/

/-- The registers of each vector position, the element widths in bits of destination and sources, the
number of governed elements and the width that governs them. -/
structure VSpec where
  gd : Nat
  g1 : Nat
  g2 : Nat
  g3 : Nat
  wd : Nat
  ws : Nat
  n : Nat
  gw : Nat

/-- What a vector instruction works on: its sources and old destination as rows, and which elements are
active. -/
structure VIn where
  a : Nat
  b : Nat
  c : Nat
  old : Nat
  act : List Bool

/-- Checks, reads every source before any write, acts, then advances the streams (R52, R53, R124). -/
def vecWith (op : Nat) (x : RegForm) (sp : VSpec) (act : List Bool) (s : State) (k : State → VIn → State) :
    Result :=
  alloc (.reg op x) s fun s =>
    let ps : List VPos := [⟨x.dst, sp.gd, max 1 (sp.wd / 8), true⟩, ⟨x.s1, sp.g1, max 1 (sp.ws / 8), false⟩,
      ⟨x.s2, sp.g2, max 1 (sp.ws / 8), false⟩, ⟨x.s3, sp.g3, max 1 (sp.ws / 8), false⟩]
    let any := act.any id
    match (if any then streamFault s.cur ps else none) with
    | some (cause, info) => .next (trapHere cause info s)
    | none =>
      match (if any then streamHeld s ps else none) with
      | some c => .next (s.waitFor c)
      | none =>
        let vi : VIn := ⟨s.readV x.s1 sp.g1, s.readV x.s2 sp.g2, s.readV x.s3 sp.g3, s.readV x.dst sp.gd, act⟩
        .next (((k s vi).modCur fun h => h.stepStreams x).advance)

/-- The activity of an instruction's elements under its guard. -/
def Thread.activity (h : Thread) (g : Guard) (w n : Nat) : List Bool :=
  actives (guardMask g.inv (h.preg g.p)) w n

/-- A vector instruction whose guard acts per element. -/
def vec (op : Nat) (x : RegForm) (sp : VSpec) (s : State) (k : State → VIn → State) : Result :=
  vecWith op x sp (s.cur.activity x.g sp.gw sp.n) s k

/-- Same-type vector instruction: one register in every vector position. -/
def VSpec.plain (t : Ty) : VSpec := ⟨1, 1, 1, 1, t.bits, t.bits, lanes t, t.bits⟩

/-- Writes merged elements and ORs the flags of the active ones (R111, R124). -/
def State.putV (s : State) (o : Opnd) (g w n : Nat) (vi : VIn) (rs : List (Nat × Flags)) : State :=
  let row := packElems w (mergeElems vi.act (rs.map (·.1)) (elems w n vi.old))
  (s.writeV o g w vi.act row).modCur fun h => h.raise (activeFlags vi.act rs)

/-- A source row's elements with their modifier (R50). -/
def srcElems (t : Ty) (m : SrcMod) (row : Nat) : List Nat := (elems t.bits (lanes t) row).map (modSrc t m)

/-- A lane instruction of one, two or three sources of one type (R127 to R135). -/
def lane3 (op : Nat) (x : RegForm) (s : State) (f : Thread → Nat → Nat → Nat → Nat × Flags) : Result :=
  let used (o : Pos) := match o with | .v => 1 | _ => 0
  let sp := regSpec op
  vec op x ⟨1, used sp.s1, used sp.s2, used sp.s3, x.t.bits, x.t.bits, lanes x.t, x.t.bits⟩ s fun s vi =>
    let as := srcElems x.t x.m1 vi.a
    let bs := srcElems x.t x.m2 vi.b
    let cs := srcElems x.t x.m3 vi.c
    let rs := (as.zip (bs.zip cs)).map fun e => f s.cur e.1 e.2.1 e.2.2
    s.putV x.dst 1 x.t.bits (lanes x.t) vi rs

end Sys2Proof.Machine
end

