-- ==== Sys2Proof/Machine/Training.lean ====
section
/-! DEFINITION. Training blocks (R308 to R311, R315 to R317): command words, ENTER, and what ends a test. -/

namespace Sys2Proof.Machine

/-- R309: a lane passes by itself, or by the spare that carries it (R310). -/
def passMask (lanes : BitVec 33) (spare : Option Nat) : BitVec 32 :=
  let own : BitVec 32 := lanes.truncate 32
  match spare with
  | none => own
  | some l =>
    let m : BitVec 32 := (1 : BitVec 32) <<< l
    if lanes.getLsbD 32 then own ||| m else own &&& ~~~ m

/-- The operation of a command word. -/
def cmdOp (w : Word) : Nat := w.toNat % 16

/-- ARG of a command word. -/
def cmdArg (w : Word) : Nat := nbitsOf w 8 6
where nbitsOf (w : Word) (lo n : Nat) : Nat := w.toNat / 2 ^ lo % 2 ^ n

/-- R309: the STATUS of a refused command. -/
def Block.refusal (b : Block) (w : Word) : Option Nat :=
  if cmdOp w ≥ 5 || w.toNat / 16 % 16 != 0 || w.toNat / 2 ^ 14 != 0 || (cmdOp w == 3 && cmdArg w ≥ 32) then some 2
  else if b.inService then some 4
  else if cmdOp w == 3 && b.spare.isSome then some 3
  else none

/-- R309: what a command changes as it begins. -/
def Block.begin (b : Block) (w : Word) : Block :=
  match cmdOp w with
  | 1 => { b with rdtap := cmdArg w }
  | 2 => { b with wrtap := cmdArg w }
  | 3 => { b with spare := some (cmdArg w) }
  | _ => b

/-- R315: ENTER puts the group into service after a passing pattern test. -/
def Block.enter (b : Block) : Block := if b.lastPassed then { b with inService := true } else b

/-- A command or a STATE write has been performed (R309). -/
def Block.performed (b : Block) : Block := { b with results := b.results ++ [b.result] }

/-- Takes the waiting commands in order until one runs: refused ones end at once, ENTER acts (R309, R315). -/
def Block.start : List (Option Word) → Block → Block
  | [], b => { b with queue := [] }
  | none :: q, b => Block.start q b.enter.performed
  | some w :: q, b =>
    match b.refusal w with
    | some st => Block.start q (Block.performed { b with pass := 0, status := st, lastPassed := false })
    | none => { b.begin w with queue := some w :: q }

/-- A command word, or an ENTER, reaches the block. A word with OP 0 is no command (R309). -/
def Block.push (b : Block) (c : Option Word) : Block :=
  match c with
  | some w => if cmdOp w == 0 then b else next c
  | none => next c
where next (c : Option Word) : Block :=
  if b.queue.isEmpty then Block.start [c] b else { b with queue := b.queue ++ [c] }

/-- The number of a block in the module. -/
def Block.number (stack : Nat) (b : Block) : Nat := 96 * stack + b.group

/-- R309: the command under way ends: RESULT is written and the next command begins. -/
def Block.complete (stack : Nat) (b : Block) : Block :=
  match b.queue with
  | some w :: q =>
    if cmdOp w == 3 then
      Block.start q (Block.performed { b with pass := 0, status := 0, lastPassed := false })
    else
      let lanes := Config.lanePass (b.number stack) (cmdOp w) (64 * b.rdtap + b.wrtap) b.tests
      let pass := passMask lanes b.spare
      Block.start q (Block.performed { b with
        pass := pass, status := 0, tests := b.tests + 1
        lastPassed := cmdOp w == 4 && pass == BitVec.allOnes 32 })
  | _ => b

/-- Changes one block of a stack. -/
def State.modBlock (stack group : Nat) (f : Block → Block) (s : State) : State :=
  { s with hbm := modWhere (fun k => k.num == stack) (fun k =>
      { k with blocks := (k.blocks.filter fun b => b.group < group) ++ [f (k.block group)]
          ++ (k.blocks.filter fun b => group < b.group) }) s.hbm }

/-- R308, R315: the new value of an atomic reaches a PHY region: a command word at CMD, bit 0 of STATE,
bit 1 of the stack register; elsewhere it is ignored. -/
def State.phyAtomic (stack off v : Nat) (s : State) : State :=
  let word := v * 2 ^ (8 * (off % 8))
  if off < 64 * 96 then
    match off % 64 / 8 with
    | 0 => s.modBlock stack (off / 64) fun b => b.push (some (BitVec.ofNat 64 word))
    | 2 => if bitAt word 0 then s.modBlock stack (off / 64) fun b => b.push none else s
    | _ => s
  else s.phyWrite stack off [BitVec.ofNat 8 word]

/-- The bursts of the test that a block's command under way is, 256 or for OP 4 65,536 (R309): the places in their stack,
and what each leaves there (log entry 86). None for a repair. -/
def Block.bursts (stack : Nat) (b : Block) : List (Nat × BitVec 512) :=
  match b.queue with
  | some w :: _ =>
    if cmdOp w == 3 then []
    else (Config.burstLines (b.number stack) b.tests).take (if cmdOp w == 4 then 65536 else 256)
  | _ => []

/-- Lines of a stack hold what bursts wrote there, under no key (R309, R321); a line beyond the stack is none. -/
def State.writeBursts (stack : Nat) (ws : List (Nat × BitVec 512)) (s : State) : State :=
  match s.regions.find? fun r => r.kind == .hbm stack with
  | none => s
  | some r =>
    let xs := (ws.filter fun e => e.1 < r.size / 64).map fun e => (r.base / 64 + e.1, e.2)
    { s with
      mem := xs.foldl (fun m e => writeBytes m (64 * e.1) (leBytes 64 e.2.toNat)) s.mem
      lineKeys := xs.foldl (fun m e => setMany 0 m e.1 [Config.rawGen]) s.lineKeys
      badLines := s.badLines.filter fun l => !xs.any fun e => e.1 == l }

/-- A block by its stack and group. -/
def State.block? (s : State) (stack group : Nat) : Option Block := (s.stack? stack).map fun k => k.block group

/-- Has the block performed n of what reached it, or been reset since (R309)? -/
def State.blockDone (s : State) (stack group n : Nat) : Bool :=
  ((s.block? stack group).map fun b => b.queue.isEmpty || n ≤ b.results.length).getD true

/-- The place of a held load of a block's RESULT among tickets. -/
def ticketOf (ts : List (Nat × Nat × Nat)) (stack group : Nat) : Option Nat :=
  (ts.find? fun t => t.1 == stack && t.2.1 == group).map fun t => t.2.2

/-- R309: a load of RESULT is held until every command that reached the block before it has completed; one that was
held already, until those that reached the block before it was. -/
def State.phyHold (s : State) (ts : List (Nat × Nat × Nat)) (stack off n : Nat) : Option Cond :=
  ((linesOf off n).filter fun g => g < 96 && off < 64 * g + 16 && 64 * g + 8 < off + n).findSome? fun g =>
    let count := (ticketOf ts stack g).getD
      (((s.block? stack g).map fun b => b.results.length + b.queue.length).getD 0)
    if s.blockDone stack g count then none else some (.blockDone stack g count)

/-- A byte of a PHY region as a load that was held sees it: RESULT as the commands before it left it (R309). -/
def State.phySeen (s : State) (ts : List (Nat × Nat × Nat)) (stack off : Nat) : Byte :=
  let held := if off < 64 * 96 && off % 64 / 8 == 1 then
      (ticketOf ts stack (off / 64)).bind fun n => (s.block? stack (off / 64)).bind fun b => b.results[n - 1]?
    else none
  match held with
  | some w => BitVec.ofNat 8 (w.toNat / 2 ^ (8 * (off % 8)))
  | none => s.phyByte stack off

/-- A thread whose load is held takes its place in the block's order (R309). -/
def Thread.takeTicket (c : Cond) (h : Thread) : Thread :=
  match c with
  | .blockDone st g n =>
    if (ticketOf h.tickets st g).isSome then h else { h with tickets := h.tickets ++ [(st, g, n)] }
  | _ => h

end Sys2Proof.Machine
end

