-- ==== Sys2Proof/Machine/Access.lean ====
section
/-! DEFINITION. The accesses of a task: which copy of a byte is reached (R170, R176, R177), the checks of R194
and the trap registers of R195, and one element read, written or changed atomically. -/

namespace Sys2Proof.Machine

/-! ### A task's view of windowed memory -/

/-- The bytes a task has buffered on a cluster (R170). -/
def Task.buffer (t : Task) (cluster : Nat) : Cells := getAt [] t.buffers cluster

/-- Is a windowed byte reached at home by a read: under an A window, or not stored by the task on this
cluster (R170, R177)? -/
def Task.readsHome (t : Task) (cluster a : Nat) : Bool :=
  t.inA a || (findAt (t.buffer cluster) a).isNone

/-- A windowed range as a task reaches it on a cluster for an access (R170, R177). -/
def State.taskReadFor (s : State) (acc : Acc) (k : TaskId) (cluster a n : Nat) : List Byte :=
  let home := s.homeReadFor acc k.ctxId cluster a n
  match s.task? k with
  | none => home
  | some t =>
    let buf := (t.buffer cluster).filter fun e => a ≤ e.1 && e.1 < a + n
    if buf.isEmpty then home
    else (enumFrom' a home).map fun e => if t.inA e.1 then e.2 else getAt e.2 buf e.1

/-- A windowed range as a task reads it on a cluster. -/
def State.taskRead (s : State) (k : TaskId) (cluster a n : Nat) : List Byte := s.taskReadFor .rd k cluster a n

/-- Bytes stored into a task's buffer on a cluster; a line stored whole has no error any more. -/
def State.bufWrite (k : TaskId) (cluster a : Nat) (bs : List Byte) (s : State) : State :=
  s.modTask k fun t => { t with
    buffers := setMany [] t.buffers cluster [putMany (t.buffer cluster) a bs]
    badLog := t.badLog.filter fun e => !(e.1 == cluster && wholeLine a bs.length e.2) }

/-- Is the page of an address device memory, never cached in the window cache (R228)? -/
def State.devPage (s : State) (k : CtxId) (cluster a : Nat) (acc : Acc) : Bool :=
  match s.xlate k cluster a acc with
  | .ok x => x.entry.dev
  | .error _ => false

/-- A windowed range as a task writes it on a cluster: into its buffer, or home for bytes under an A window
(R177) and on DEV pages (R228). -/
def State.taskWrite (k : TaskId) (cluster a : Nat) (bs : List Byte) (s : State) : State :=
  match s.task? k with
  | none => s
  | some t =>
    (pieces a bs.length).foldl (fun s p =>
      let part := (bs.drop (p.1 - a)).take p.2
      if s.devPage k.ctxId cluster p.1 .wr then s.homeWrite k.ctxId cluster p.1 part
      else
        let own := enumFrom' p.1 part
        if own.all fun e => !t.inA e.1 then s.bufWrite k cluster p.1 part
        else own.foldl (fun s e =>
          if t.inA e.1 then s.homeWrite k.ctxId cluster e.1 [e.2] else s.bufWrite k cluster e.1 [e.2]) s) s

/-! ### Checks of windowed memory (R194 steps 3 to 5) -/

/-- Why an element stops. -/
inductive Stop where
  | trap (cause addr : Nat) (stage2 : Bool)
  | hold (c : Cond)
  | device
  deriving DecidableEq, Repr

def Acc.of (u : Use) : Acc :=
  match u with
  | .load => .rd
  | _ => .wr

/-- Does an access of n bytes at pa that goes straight home need the line of its byte i: to read it, or to write a
part of it? -/
def needsLine (u : Use) (pa n i : Nat) : Bool :=
  match u with
  | .store => !wholeLine pa n ((pa + i) / 64)
  | _ => true

/-- The first byte of a piece of a page that step 5 of R194 stops: its line at home has an error and is needed, or
its buffered line has one and is read (R170). `direct`: is the access made at home, whatever the windows? -/
def State.firstBad (s : State) (t : Task) (cluster : Nat) (u : Use) (direct : Bool) (va pa n : Nat) : Option Nat :=
  if s.badLines.isEmpty && t.badLog.isEmpty then none
  else (List.range n).find? fun i =>
    let atHome := direct || (if u == .store then t.inA (va + i) else t.readsHome cluster (va + i))
    if atHome then s.badLines.contains ((pa + i) / 64) && needsLine u pa n i
    else u != .store && t.badLog.contains (cluster, (va + i) / 64)

/-- How an access is made: by a core, to which other modules' pages are closed (R346); at home, whatever the windows;
and the places of its held loads (R309). -/
structure How where
  core : Bool
  direct : Bool
  tickets : List (Nat × Nat × Nat)

/-- A core's access, an engine's, and one the device makes at home for a core's instruction. -/
def How.ofCore (ts : List (Nat × Nat × Nat)) : How := ⟨true, false, ts⟩
def How.ofEngine (ts : List (Nat × Nat × Nat)) : How := ⟨false, false, ts⟩
def How.ofDevice (ts : List (Nat × Nat × Nat)) : How := ⟨true, true, ts⟩

/-- Does a range meet a page of another module, and one whose route is invalid (R346)? -/
def State.remoteIn (s : State) (k : CtxId) (cluster a n : Nat) (acc : Acc) : Bool × Bool :=
  let mods := (pieces a n).filterMap fun p =>
    match s.xlate k cluster p.1 acc with
    | .ok x => match x.home with
      | .remote m _ => some m
      | _ => none
    | .error _ => none
  let valid (m : Nat) : Bool := match s.ctx? k with
    | some c => c.routes.any fun r => r.logical == m && r.valid
    | none => false
  (!mods.isEmpty, mods.any fun m => !valid m)

/-- Steps 4 and 5 of R194 for one page's part of an access. -/
def State.pieceStop (s : State) (k : CtxId) (t : Task) (cluster : Nat) (u : Use) (how : How) (va n : Nat) :
    Option Stop :=
  match s.xlate k cluster va (Acc.of u) with
  | .error (.trap c st) => some (.trap c va st)
  | .error (.hold c) => some (.hold c)
  | .error .device => some .device
  | .ok x =>
    match x.home with
    | .remote _ _ => if how.core then some (.trap 0x0A va false) else none
    | .phy st off => match u with
      | .load => (s.phyHold how.tickets st off n).map .hold
      | _ => none
    | .host _ => none
    | .mem pa _ => (s.firstBad t cluster u (how.direct || x.entry.dev) va pa n).map fun i => .trap 0x0C (va + i) false

/-- Steps 3 to 5 of R194 for a windowed access of a task. -/
def State.winStop (s : State) (k : TaskId) (cluster : Nat) (u : Use) (how : How) (va n : Nat) : Option Stop :=
  match s.task? k with
  | none => some (.trap 0x08 va false)
  | some t =>
    match t.firstDenied va n u with
    | some a => some (.trap 0x08 a false)
    | none => (pieces va n).findSome? fun p => s.pieceStop k.ctxId t cluster u how p.1 p.2

/-! ### The issuing thread's accesses -/

/-- What an access of a thread reaches: an on-chip memory, windowed memory as a task sees it on a cluster,
or nothing (an engine thread's access outside R261). -/
inductive View where
  | chip (spc : Space)
  | task (k : TaskId) (cluster : Nat)
  | nothing
  deriving DecidableEq, Repr

/-- Does a range lie in a rank's source or destination (R261)? -/
def Rank.holds (r : Rank) (a n : Nat) : Bool :=
  (r.src ≤ a && a + n ≤ r.src + r.srcLen) || (r.dst ≤ a && a + n ≤ r.dst + r.dstLen)

def State.view (s : State) (spc : Space) (a n : Nat) : View :=
  match s.cur.role with
  | none => if isChip spc then .chip spc else .task s.cur.id.taskId s.cur.cluster
  | some ranks =>
    match spc with
    | .tcm => .chip .tcm
    | .sp => .nothing
    | _ => match ranks.find? fun r => r.holds a n with
      | some r => .task r.thread.taskId r.cluster
      | none => .nothing

/-- One element of a memory instruction: index, address, size. -/
structure Elt where
  i : Nat
  a : Nat
  n : Nat
  deriving DecidableEq, Repr

/-- The first byte that step 5 of R194 stops in an on-chip memory of the issuing thread. -/
def State.chipBad (s : State) (spc : Space) (u : Use) (a n : Nat) : Option Nat :=
  ((s.ctx? s.curCtx).bind fun c => c.chipBad spc s.cur.cluster s.cur.core (u != .store) a n).map (a + ·)

/-- The checks of R194 for one element, in order. -/
def State.eltStop (s : State) (u : Use) (spc : Space) (align : Nat) (e : Elt) : Option Stop :=
  if e.a % align != 0 then some (.trap 0x0B e.a false)
  else match s.view spc e.a e.n with
    | .chip c =>
      if e.a + e.n > s.cur.limit c then some (.trap 0x0A (max e.a (s.cur.limit c)) false)
      else (s.chipBad c u e.a e.n).map fun a => .trap 0x0C a false
    | .task k cl =>
      if s.cur.role.isNone then s.winStop k cl u (.ofCore s.cur.tickets) e.a e.n
      else match s.winStop k cl u (.ofEngine s.cur.tickets) e.a e.n with
        | some st => some st
        | none => if (s.remoteIn k.ctxId cl e.a e.n (Acc.of u)).2 then some (.trap 0x0A e.a false) else none
    | .nothing => some (.trap 0x0A e.a false)

/-- The first element that fails a check (R194). -/
def State.firstStop (s : State) (u : Use) (spc : Space) (align : Nat) : List Elt → Option (Nat × Stop)
  | [] => none
  | e :: es => match s.eltStop u spc align e with
    | some st => some (e.i, st)
    | none => s.firstStop u spc align es

def Space.code (spc : Space) : Nat :=
  match spc with
  | .gm => 0 | .cm => 1 | .sp => 2 | .tcm => 3

/-- %tinfo of R195. -/
def State.memInfo (s : State) (spc : Space) (i : Nat) (wr : Bool) : Word :=
  BitVec.ofNat 64 (s.cur.pc.toNat + i % 256 * 2 ^ 32 + wr.toNat * 2 ^ 40 + Space.code spc * 2 ^ 41)

/-- R230: a trap found by the walk that checks a predicted access squashes it, and %predmiss counts that; of an
access of several pages, for the page that traps alone (log entry 84). -/
def State.countSquash (s : State) (spc : Space) (wr : Bool) (cause va : Nat) : State :=
  if cause == 0x09 || cause == 0x0A || cause == 0x0C then
    match s.view spc va 1 with
    | .task k cl => if s.squashed k.ctxId cl va (if wr then .wr else .rd) then
        s.modCur fun h => { h with predmiss := h.predmiss + 1 } else s
    | _ => s
  else s

/-- The rank in whose buffer engine firmware found an absent page (R261). -/
def State.rankAt (s : State) (spc : Space) (cause a : Nat) : Option Rank :=
  if cause == 0x09 && !isChip spc then s.cur.role.bind fun ranks => ranks.find? fun r => r.holds a 1 else none

/-- An element's stop acts on the issuing thread: the trap of R195, a held access, an unknown device. An absent page
of a rank holds that rank's job, and the firmware with it (R241, R261). -/
def State.raiseStop (s : State) (spc : Space) (wr : Bool) (i : Nat) (st : Stop) : Result :=
  match st with
  | .trap c a st2 => match s.rankAt spc c a with
    | some r => .next (((s.countSquash spc wr c a).holdPage r.thread r.job a st2).waitFor (.pageThere r.thread r.job))
    | none => .next (takeTrap c (BitVec.ofNat 64 a) (s.memInfo spc i wr) st2 (s.countSquash spc wr c a))
  | .hold c => .next ((s.modCur (Thread.takeTicket c)).waitFor c)
  | .device => .fault .unknownDevice

def Use.writes (u : Use) : Bool :=
  match u with
  | .load => false
  | _ => true

/-- A memory instruction's accesses: every element's checks (R194), the stall of R181, then the act. An uncorrectable
error traps before the stall (log entry 88), and of accesses of which a later one traps no squash counts but that one's
own (log entry 84). -/
def memAccess (spc : Space) (u : Use) (align : Nat) (es : List Elt) (s : State) (f : State → Result) : Result :=
  match s.firstStop u spc align es with
  | some (i, st) => s.raiseStop spc u.writes i st
  | none =>
    match es.find? fun e => s.spanHeld ⟨spc, e.a, e.n⟩ with
    | some e => .next (s.waitFor (.scoreClear spc e.a e.n))
    | none => f s

/-- Bytes read from training blocks by a load that was held are those it waited for (R309). -/
def State.overTickets (s : State) (k : CtxId) (cluster a : Nat) (bs : List Byte) : List Byte :=
  if s.cur.tickets.isEmpty then bs
  else (enumFrom' a bs).map fun e => match s.xlate k cluster e.1 .rd with
    | .ok x => match x.home with
      | .phy st off => s.phySeen s.cur.tickets st off
      | _ => e.2
    | .error _ => e.2

/-- The bytes an element reads. -/
def State.load (s : State) (spc : Space) (a n : Nat) : List Byte :=
  match s.view spc a n with
  | .chip c => s.chip c a n
  | .task k cl => s.overTickets k.ctxId cl a (s.taskRead k cl a n)
  | .nothing => List.replicate n 0

/-- Bytes that engine firmware writes to a rank's destination count for that rank's job (R242). -/
def State.rankBytes (a n : Nat) (s : State) : State :=
  match s.cur.role.bind fun ranks => ranks.find? fun r => r.holds a n with
  | some r => if r.dst ≤ a && a + n ≤ r.dst + r.dstLen then
      s.modCtx r.thread.ctxId fun c => c.modJob r.thread r.job fun j => { j with bytes := j.bytes + n }
    else s
  | none => s

/-- The bytes an element writes. A store of a task is watched for its soft edges (R167). -/
def State.store (s : State) (spc : Space) (a : Nat) (bs : List Byte) : State :=
  match s.view spc a bs.length with
  | .chip c => s.setChip c a bs
  | .task k cl => ((State.taskWrite k cl a bs s).softHit k ((List.range bs.length).map (a + ·))).rankBytes a bs.length
  | .nothing => s


/-! ### What an access leaves (R170, R229, R325) -/

/-- The bytes of a virtual line among ranges. -/
def lineBytes (ranges : List (Nat × Nat)) (l : Nat) : List Nat :=
  ranges.flatMap fun r => ((List.range 64).map (l * 64 + ·)).filter fun a => r.1 ≤ a && a < r.1 + r.2

/-- Does a cluster's window cache serve a load of a line from a copy (log entry 62)? -/
def State.cacheHit (s : State) (k : CtxId) (cluster l : Nat) : Bool :=
  ((s.ctx? k).map fun c => c.copies.any fun e => e.1 == cluster && e.2.1 == l).getD false && Config.cacheHit cluster l s.time

/-- Does a task's load of bytes of a line go home: bytes under an A window whatever copy stands (R177), or bytes it has
not stored there, in no copy of its cluster's cache? -/
def State.loadsHome (s : State) (k : CtxId) (t : Task) (cluster : Nat) (ranges : List (Nat × Nat)) (l : Nat) : Bool :=
  s.devPage k cluster (l * 64) .rd || ((lineBytes ranges l).any fun a => t.inA a)
    || (((lineBytes ranges l).any fun a => t.readsHome cluster a) && !s.cacheHit k cluster l)

/-- Does a task's store of bytes of a line go home: under an A window, or on a DEV page? -/
def State.storesHome (s : State) (k : CtxId) (t : Task) (cluster : Nat) (ranges : List (Nat × Nat)) (l : Nat) : Bool :=
  s.devPage k cluster (l * 64) .wr || (lineBytes ranges l).any fun a => t.inA a

/-- Does a cluster's window cache keep a line that a load took from home: of no A window and no DEV page, whatever rights
its leaf gives (R170, R177, R228)? -/
def State.keepsLine (s : State) (k : CtxId) (t : Task) (cluster : Nat) (ranges : List (Nat × Nat)) (l : Nat) : Bool :=
  !s.devPage k cluster (l * 64) .rd && !s.storesHome k t cluster ranges l

/-- Lines that a load brought into a cluster's window cache (R170). -/
def Context.keepLines (cluster : Nat) (ls : List Nat) (c : Context) : Context :=
  { c with copies := c.copies ++
      (ls.filter fun l => !c.copies.any fun e => e.1 == cluster && e.2.1 == l).map fun l => (cluster, l, false) }

/-- What a task's windowed accesses to ranges leave: their translations, copies in the window cache, and the lines
touched at home counted: loads as reads, stores as writes, atomics at home as both. -/
def State.noteTask (who : TId) (k : TaskId) (cluster : Nat) (u : Use) (ranges : List (Nat × Nat)) (s : State) : State :=
  match s.task? k with
  | none => s
  | some t =>
    let ls := (ranges.flatMap fun r => linesOf r.1 r.2).eraseDups
    let home := fun l => s.loadsHome k.ctxId t cluster ranges l
    let kept := (ls.filter home).filter (s.keepsLine k.ctxId t cluster ranges)
    match u with
    | .load => (s.noteAccess who k.ctxId cluster ranges home .rd false).modCtx k.ctxId (Context.keepLines cluster kept)
    | .store => s.noteAccess who k.ctxId cluster ranges (s.storesHome k.ctxId t cluster ranges) .wr true
    | _ =>
      ((s.noteAccess who k.ctxId cluster ranges (s.storesHome k.ctxId t cluster ranges) .wr true).noteAccess who k.ctxId
        cluster ranges home .wr false).modCtx k.ctxId (Context.keepLines cluster kept)

/-- What an instruction's accesses leave, for each task whose memory they reach. -/
def State.note (u : Use) (spc : Space) (es : List Elt) (s : State) : State :=
  ((es.map fun e => s.view spc e.a e.n).eraseDups).foldl (fun t v => match v with
    | .task k cl => t.noteTask s.cur.id k cl u
        ((es.filter fun e => s.view spc e.a e.n == v).map fun e => (e.a, e.n))
    | _ => t) s

/-- The training block that a range lies in, if any (R308, R315). -/
def State.phyAt (s : State) (spc : Space) (a n : Nat) : Option (Nat × Nat) :=
  match s.view spc a n with
  | .task k cl =>
    match s.xlate k.ctxId cl a .wr with
    | .ok x => match x.home with
      | .phy st off => some (st, off)
      | _ => none
    | .error _ => none
  | _ => none

/-- A store or atomic of a task is watched for its soft edges (R167). -/
def State.watch (spc : Space) (a n : Nat) (s : State) : State :=
  match s.view spc a n with
  | .task k _ => s.softHit k ((List.range n).map (a + ·))
  | _ => s

/-- The bytes an element is about to change (R201): those at home are reached by the right to write (R228). -/
def State.loadFor (s : State) (spc : Space) (a n : Nat) : List Byte :=
  match s.view spc a n with
  | .chip c => s.chip c a n
  | .task k cl => s.taskReadFor .wr k cl a n
  | .nothing => List.replicate n 0

/-- One read-modify-write of n bytes (R157, R178, R201, R308): the old value, and the state after the new one,
if any, is written. -/
def State.rmw (spc : Space) (a n : Nat) (f : Nat → Option Nat) (s : State) : Nat × State :=
  let old := leVal (s.loadFor spc a n)
  match f old with
  | none => (old, s.watch spc a n)
  | some v =>
    match s.phyAt spc a n with
    | some (st, off) => (old, (s.phyAtomic st off v).watch spc a n)
    | none => (old, s.store spc a (leBytes n v))

end Sys2Proof.Machine
end

