-- ==== Sys2Proof/Machine/Matrix.lean ====
section
/-! DEFINITION. The matrix engine's arithmetic and state: R103 to R105, R113 to R116, R271 to R273, R278, R279. -/

namespace Sys2Proof.Machine

/-! ### Planes and accumulator -/

/-- A sparse list as an array of n entries. -/
def denseOf (n d : Nat) (xs : List (Nat × Nat)) : Array Nat :=
  xs.foldl (fun a e => a.setIfInBounds e.1 e.2) (Array.replicate n d)

/-- The tags of R272; 15 stands for mxe4m3 and 14 for mxe2m1, 16 for a void plane (R276). -/
def tagType (tag : Nat) : Ty :=
  match tag with
  | 0 => .i8 | 10 => .fp16 | 11 => .e4m3 | 12 => .e5m2 | 15 => .e4m3 | 14 => .e2m1 | _ => .bf16

def isMx (tag : Nat) : Bool := tag == 15 || tag == 14

/-- The formats of a pair: activation and weight tag (R274, R278). -/
def pairTags (pair : Nat) : Nat × Nat :=
  match pair with
  | 0 => (9, 9) | 1 => (10, 10) | 2 => (11, 11) | 3 => (11, 12) | 4 => (12, 11) | 5 => (12, 12)
  | 6 => (15, 15) | 7 => (14, 14) | 8 => (14, 15) | _ => (0, 0)

/-- Code and block scale of element k of an MX row (R104). -/
def mxElem (tag : Nat) (row : Nat → Nat) (k : Nat) : Nat :=
  if tag == 15 then row (33 * (k / 32) + k % 32)
  else row (17 * (k / 32) + k % 32 / 2) / 16 ^ (k % 2) % 16

def mxScale (tag : Nat) (row : Nat → Nat) (b : Nat) : Nat :=
  if tag == 15 then row (33 * b + 32) else row (17 * b + 16)

/-- Element k of a row of 128 elements (R273), plain or MX. -/
def rowElem (tag : Nat) (row : Nat → Nat) (k : Nat) : Nat :=
  if isMx tag then mxElem tag row k
  else if (tagType tag).bits == 16 then row (2 * k) + 256 * row (2 * k + 1) else row k

/-- A tile's bytes as a plane (R272, R276). A plain tile leaves the block scales. -/
def planeOf (tag : Nat) (tile : Array Nat) (old : Plane) : Plane :=
  let at' (i : Nat) := tile.getD i 0
  if isMx tag then
    let b := if tag == 15 then 132 else 68
    ⟨((List.range 16384).map fun i => (i, mxElem tag (fun a => at' (i % 128 * b + a)) (i / 128))).filter (·.2 ≠ 0),
      tag,
      ((List.range 512).map fun i => (i, mxScale tag (fun a => at' (i / 4 * b + a)) (i % 4))).filter (·.2 ≠ 0x7F)⟩
  else
    ⟨((List.range 16384).map fun i => (i, rowElem tag at' i)).filter (·.2 ≠ 0), tag, old.scales⟩

/-! ### One accumulator element (R115, R116) -/

/-- An exact sum of values: NaN for a NaN or infinities of both signs (NV), with IEEE's sign of zero. -/
def sumV (vs : List FVal) : FVal × Flags :=
  let pos := vs.any fun v => v.isInf && !v.sign
  let neg := vs.any fun v => v.isInf && v.sign
  if pos && neg then (.nan false, Fl.nv)
  else if vs.any FVal.isNan then (.nan false, 0)
  else match vs with
    | [] => (.fin false 0 0, 0)
    | v :: r => (r.foldl (fun a b => (addV .rne a b).1) v, 0)

/-- `acc_step` of R115 on fp32 codes. The spec's `round` takes a finite sum: an infinite one stays as it is and raises
no OF (log entry 68). A signalling accumulator word raises NV (R111). -/
def accStep (acc : Nat) (g : FVal) : Nat × Flags :=
  let f := fmtOf .fp32
  let (z, f0) := addV .rne (f.decode acc) g
  let fl := f0 ||| sigFlags [f.decode acc]
  match z with
  | .fin n m e =>
    let (y, fr) := f.round .rne false n m e
    if m != 0 && y % 2 ^ 31 < 0x00800000 then ((if n then 2 ^ 31 else 0), fl ||| Fl.au)
    else (y, fl ||| (fr &&& Fl.of))
  | .inf n => ((if n then 0xFF800000 else 0x7F800000), fl)
  | .nan _ => (0x7FC00000, fl)

/-- A block scale code as a value (R103). -/
def e8m0 (c : Nat) : FVal := if c == 255 then .nan false else .fin false 1 ((c : Int) - 127)

/-- Products of a group and their flags. -/
def products (as bs : List FVal) : List FVal × Flags :=
  let rs := List.zipWith mulV as bs
  (rs.map (·.1), rs.foldl (fun f r => f ||| r.2) (sigFlags (as ++ bs)))

/-- A block sum times one scale; a finite scale leaves a zero sum its sign (R115). -/
def scaleSum (v t : FVal) : FVal × Flags :=
  match t with
  | .fin _ _ _ => if v.isZero then (v, 0) else mulV v t
  | _ => let r := mulV v t; (r.1, r.2 ||| sigFlags [t])

/-- The groups of a column, ascending (R115): 16 elements each, or 32 with scales in an MX pair. -/
def accGroups (size : Nat) (scaleAt : Nat → List FVal) (as bs : List FVal) : Nat → Nat → Nat → Nat × Flags
  | 0, _, acc => (acc, 0)
  | n + 1, g, acc =>
    let (ps, f0) := products ((as.drop (size * g)).take size) ((bs.drop (size * g)).take size)
    let (s0, f1) := sumV ps
    let (s1, f2) := (scaleAt g).foldl (fun a t => let r := scaleSum a.1 t; (r.1, a.2 ||| r.2)) (s0, 0)
    let (acc1, f3) := accStep acc s1
    let (acc2, f4) := accGroups size scaleAt as bs n (g + 1) acc1
    (acc2, f0 ||| f1 ||| f2 ||| f3 ||| f4)

/-- R116: the integer accumulator, modulo 2^32. -/
def accInt (acc : Nat) (as bs : List Nat) : Nat :=
  wrapTo 32 ((acc : Int) + (List.zipWith (fun a b => toSigned 8 a * toSigned 8 b) as bs).foldl (· + ·) 0)

/-- One activation row past a plane: the new accumulator row and the flags (R278). -/
def streamRow (pair tensor : Nat) (weights scales : Array Nat) (row : Nat → Nat) (acc : List Nat) :
    List Nat × Flags :=
  let (ta, tb) := pairTags pair
  let codes := (List.range 128).map (rowElem ta row)
  if pair == 9 then
    ((enumFrom' 0 acc).map fun e => accInt e.2 codes ((List.range 128).map fun k => weights.getD (128 * k + e.1) 0), 0)
  else
    let as := codes.map (valF (tagType ta))
    let rs := (enumFrom' 0 acc).map fun e =>
      let n := e.1
      let bs := (List.range 128).map fun k => valF (tagType tb) (weights.getD (128 * k + n) 0)
      if isMx tb then
        let sc (b : Nat) := [e8m0 (mxScale ta row b), e8m0 (scales.getD (4 * n + b) 0x7F), valF .fp32 tensor]
        accGroups 32 sc as bs 4 0 e.2
      else accGroups 16 (fun _ => []) as bs 8 0 e.2
    (rs.map (·.1), rs.foldl (fun f r => f ||| r.2) 0)

/-- R279: one accumulator word on its way out. -/
def drainWord (dst src : Nat) (scale : Int) (acc : Nat) : Nat × Flags :=
  let d := (Ty.ofNum dst).getD .fp32
  if src == 8 then (fmtOf d).convert .rne .none scale (valF .fp32 acc)
  else
    let v := (FVal.ofInt (toSigned 32 acc)).scale scale
    if d.isFloat then (fmtOf d).convert .rne .none 0 v else floatToInt d .rne v

end Sys2Proof.Machine
end

