-- ==== Sys2Proof/Machine/Jobs.lean ====
section
/-! DEFINITION. What an engine does for a job: its accesses as the issuing task's (R235, R239, R241, R250),
rows copied (R245), records put and taken (R251 to R257), matrix jobs (R276 to R280). A job runs whole, or
until it is held, in the step that starts it (log entry 13). -/

namespace Sys2Proof.Machine

/-- Why a job pauses or ends before its last byte. -/
inductive JStop where
  /-- A final status, the address met, and, where a windowed access met it, was it in stage 2 (R239), and was it a
  write? -/
  | fail (status addr : Nat) (windowed : Option (Bool × Bool))
  /-- A page not present: found in stage 2 (R241), and by a write? -/
  | page (va : Nat) (stage2 wr : Bool)
  /-- An access held without a record (R231, R313). -/
  | access (c : Cond)
  | word
  | ring
  | device
  deriving DecidableEq, Repr

/-- What a step of a job gives: a stop, if any, the job and the state. -/
abbrev JRes := Option JStop × Job × State

/-- What stops a job's windowed access, a write or not. -/
def jstopOf (wr : Bool) (st : Stop) : JStop :=
  match st with
  | .trap 0x08 a st2 => .fail 0x11 a (some (st2, wr))
  | .trap 0x09 a s2 => .page a s2 wr
  | .trap 0x0C a st2 => .fail 0x13 a (some (st2, wr))
  | .trap _ a st2 => .fail 0x12 a (some (st2, wr))
  | .hold c => .access c
  | .device => .device

/-! ### The memories a job's spaces name -/

/-- The loaded context that has a cluster of the partition, and its number there. -/
def State.ownerOf (s : State) (part cluster : Nat) : Option (CtxId × Nat) :=
  (s.part? part).bind fun p => (p.ctxs.filter fun c => c.loaded).findSome? fun c =>
    (c.coreTable.findIdx? (· == cluster)).map fun l => (⟨part, c.num⟩, l)

/-- The context, cluster and core of an on-chip space of a job (R250, R275). Through a door a scratchpad is the
target cluster's: of no context, where none is loaded there (log entry 67). -/
def State.jobHome (s : State) (k : CtxId) (j : Job) (spc : Space) : Option (CtxId × Nat × Nat) :=
  match spc with
  | .tcm => some (k, j.cluster, j.core)
  | _ => if j.door.isSome then (s.ownerOf k.part j.target).map fun o => (o.1, o.2, 0) else some (k, j.cluster, 0)

def chipLimit (spc : Space) : Nat :=
  match spc with
  | .tcm => Config.tcmSize
  | _ => Config.clSize

/-- The whole words of a range become full (R182). -/
def Context.fillWords (c : Context) (spc : Space) (cluster core a n : Nat) : Context :=
  let lo := chipKey spc cluster core a
  let upd (ks : List Nat) := ks.filter fun w => !(lo ≤ w && w + 4 ≤ lo + n)
  match spc with
  | .tcm => { c with tcmEmpty := upd c.tcmEmpty }
  | _ => { c with spEmpty := upd c.spEmpty }

/-- An engine write to an on-chip memory: bytes, then full bits (R182). -/
def State.chipWrite (o : CtxId × Nat × Nat) (spc : Space) (a : Nat) (bs : List Byte) (s : State) : State :=
  s.modCtx o.1 fun c => (c.setChip spc o.2.1 o.2.2 a bs).fillWords spc o.2.1 o.2.2 a bs.length

/-- Bytes the spec leaves open (log entry 5). -/
def State.freshBytes (n : Nat) (s : State) : List Byte × State :=
  let (v, s1) := s.fresh
  (leBytes n v, s1)

/-- The cores of a job's issuers, its own first (R246). -/
def Job.cores (j : Job) : List Nat := (j.core :: j.merged.map fun m => m.2.2).eraseDups

/-- What stops a job's access to an on-chip memory: its end, or an uncorrectable error of what is read or of a line
written in part (R239, R280); of TCM, in that of any issuer of a merged job: all end alike (R246). -/
def State.chipStop (s : State) (k : CtxId) (j : Job) (spc : Space) (reads : Bool) (a n : Nat) : Option JStop :=
  if a + n > chipLimit spc then some (.fail 0x12 a none)
  else (s.jobHome k j spc).bind fun o => (s.ctx? o.1).bind fun c =>
    ((if spc == .tcm then j.cores else [o.2.2]).findSome? fun core =>
      c.chipBad spc o.2.1 core reads a n).map fun i => .fail 0x13 (a + i) none

/-- Bytes a job reads. Those of another module are free, whatever the window holds of them (R346). -/
def State.jobRead (k : CtxId) (j : Job) (spc : Space) (a n : Nat) (s : State) :
    Except JStop (List Byte × State) :=
  if isChip spc then
    match s.chipStop k j spc true a n with
    | some e => .error e
    | none => match (s.jobHome k j spc).bind fun o => (s.ctx? o.1).map fun c => c.chip spc o.2.1 o.2.2 a n with
      | some bs => .ok (bs, s)
      | none => .ok (s.freshBytes n)
  else
    let t := j.thread.taskId
    match s.winStop t j.cluster .load (.ofEngine []) a n with
    | some st => .error (jstopOf false st)
    | none =>
      let far := s.remoteIn k j.cluster a n .rd
      if far.2 then .error (.fail 0x12 a (some (false, false)))
      else
        let s1 := s.noteTask j.thread t j.cluster .load [(a, n)]
        .ok (s.taskRead t j.cluster a n, if far.1 then { s1 with free := s1.free + 1 } else s1)

/-- Bytes a job writes; into the TCM of every issuer of a merged job (R246). -/
def State.jobWrite (k : CtxId) (j : Job) (spc : Space) (a : Nat) (bs : List Byte) (s : State) :
    Except JStop State :=
  if isChip spc then
    match s.chipStop k j spc false a bs.length with
    | some e => .error e
    | none => match s.jobHome k j spc, spc with
      | none, _ => .ok s
      | some o, .tcm =>
        .ok (j.cores.foldl (fun s c => s.chipWrite (o.1, o.2.1, c) spc a bs) s)
      | some o, _ => .ok (s.chipWrite o spc a bs)
  else
    let t := j.thread.taskId
    match s.winStop t j.cluster .store (.ofEngine []) a bs.length with
    | some st => .error (jstopOf true st)
    | none =>
      if (s.remoteIn k j.cluster a bs.length .wr).2 then .error (.fail 0x12 a (some (false, true)))
      else
        .ok (((s.noteTask j.thread t j.cluster .store [(a, bs.length)]).taskWrite t j.cluster a bs).softHit t
          ((List.range bs.length).map (a + ·)))

/-! ### Copies (R235, R245) -/

/-- Rows taken by `f` until `n` are done or one stops. -/
def runRows (f : Job → State → JRes) : Nat → Job → State → JRes
  | 0, j, s => (none, j, s)
  | n + 1, j, s =>
    match f j s with
    | (none, j1, s1) => runRows f n j1 s1
    | r => r

/-- May commands still join this job, by R246's fields? -/
def Job.canMerge (j : Job) : Bool :=
  match j.op with
  | .cpy d => d.dSpace == .tcm && j.door.isNone
  | _ => false

/-- A job that is held comes back to the bytes it read: they are read, and count, when it goes on (R325). -/
def heldBack (s : State) (r : JRes) : JRes :=
  match r with
  | (none, _) => r
  | (some (.fail _ _ _), _) => r
  | (some _, j, _) => (r.1, j, s)

/-- A row's bytes go to their place, and the job moves on. -/
def putRow (k : CtxId) (spc : Space) (a : Nat) (bs : List Byte) (j : Job) (s : State) : JRes :=
  match s.jobWrite k j spc a bs with
  | .error e => (some e, j, s)
  | .ok s1 => (none, { j with
      row := j.row + 1, bytes := j.bytes + bs.length, part := []
      moved := if j.canMerge then j.moved ++ [(a, bs)] else [] }, s1)

/-- A row that an issuer joined to a job copies within its own TCM. -/
def State.ownRow (k : CtxId) (cluster core src dst n : Nat) (s : State) : State :=
  match s.ctx? k with
  | some c => s.chipWrite (k, cluster, core) .tcm dst (c.chip .tcm cluster core src n)
  | none => s

/-- A row read at src and written at dst. Of merged commands that copy within TCM, each issuer's row is its own
core's (R246: merging changes timing only). -/
def moveRow (k : CtxId) (d : Desc) (src dst : Nat) (j : Job) (s : State) : JRes :=
  match s.jobRead k j j.space (src % 2 ^ 64) d.rowLen with
  | .error e => (some e, j, s)
  | .ok (bs, s1) =>
    heldBack s (if j.space == .tcm && !j.merged.isEmpty then
      match s.chipStop k j .tcm false (dst % 2 ^ 64) d.rowLen with
      | some e => (some e, j, s1)
      | none => match putRow k d.dSpace (dst % 2 ^ 64) bs { j with merged := [] } s1 with
      | (none, j1, s2) => (none, { j1 with merged := j.merged },
          j.merged.foldl (fun s m => s.ownRow k j.cluster m.2.2 src (dst % 2 ^ 64) d.rowLen) s2)
      | (e, j1, s2) => (e, { j1 with merged := j.merged }, s2)
    else putRow k d.dSpace (dst % 2 ^ 64) bs j s1)

/-- The index of a row (R235, R245), and what is then done with it. -/
def withIndex (k : CtxId) (d : Desc) (j : Job) (s : State) (f : Nat → State → JRes) : JRes :=
  match s.jobRead k j d.iSpace ((d.idx + 4 * j.row) % 2 ^ 64) 4 with
  | .error e => (some e, j, s)
  | .ok (bs, s1) => heldBack s (f (leVal bs) s1)

/-- The words of a row taken when full and emptied, `n` at most (R245, `CPYF`). -/
def takeWords (k : CtxId) (src : Nat) : Nat → Job → State → JRes
  | 0, j, s => (none, j, s)
  | n + 1, j, s =>
    let a := src + j.part.length
    match (s.jobHome k j j.space).bind fun o => (s.ctx? o.1).map fun c => (o, c) with
    | none => (some .word, j, s)
    | some (o, c) =>
      if !c.isFull j.space o.2.1 o.2.2 a then (some .word, j, s)
      else match s.chipStop k j j.space true a 4 with
        | some e => (some e, j, s)
        | none => takeWords k src n { j with part := j.part ++ c.chip j.space o.2.1 o.2.2 a 4 }
            (s.modCtx o.1 fun c => c.setFull j.space o.2.1 o.2.2 a false)

/-- One row of `CPYF`. -/
def cpyfRow (k : CtxId) (d : Desc) (j : Job) (s : State) : JRes :=
  let src := (j.ea + j.row * d.sPitch) % 2 ^ 64
  if src + d.rowLen > chipLimit j.space then (some (.fail 0x12 src none), j, s)
  else
    match takeWords k src ((d.rowLen - j.part.length) / 4) j s with
    | (none, j1, s1) => putRow k d.dSpace ((d.dst + j1.row * d.dPitch) % 2 ^ 64) j1.part j1 s1
    | r => r

/-- One row of `FILL`. -/
def fillRow (k : CtxId) (d : Desc) (j : Job) (s : State) : JRes :=
  let bs := (List.range d.rowLen).map fun b => BitVec.ofNat 8 (d.idx / 2 ^ (8 * (b % 8)))
  putRow k j.space ((j.ea + j.row * d.dPitch) % 2 ^ 64) bs j s

/-- One row of a copy command (R235, R245). -/
def copyRow (k : CtxId) (j : Job) (s : State) : JRes :=
  match j.op with
  | .cpy d => moveRow k d (j.ea + j.row * d.sPitch) (d.dst + j.row * d.dPitch) j s
  | .cpyf d => cpyfRow k d j s
  | .gath d => withIndex k d j s fun i s => moveRow k d (j.ea + i * d.sPitch) (d.dst + j.row * d.dPitch) j s
  | .scat d => withIndex k d j s fun i s => moveRow k d (j.ea + j.row * d.sPitch) (d.dst + i * d.dPitch) j s
  | .fill d => fillRow k d j s
  | _ => (none, j, s)

/-! ### Byte rings (R251 to R253) -/

/-- A ring's control block. -/
structure RingCb where
  base : Nat
  sizeLog : Nat
  head : Nat
  tail : Nat
  seq : Nat

/-- R251. Fields outside their ranges are used as they stand (log entry 100). -/
def ringCb (bs : List Byte) : RingCb :=
  let x := leVal bs
  ⟨nbits x 0 64, nbits x 64 5, nbits x 128 64, nbits x 192 64, nbits x 256 24⟩

/-- Bytes produced and not released. -/
def RingCb.used (r : RingCb) : Nat := (r.head + 2 ^ 64 - r.tail) % 2 ^ 64

/-- Where count n stands (R251). -/
def RingCb.at (r : RingCb) (n : Nat) : Nat := (r.base + n % 2 ^ r.sizeLog) % 2 ^ 64

/-- R252: the size of a record of a payload length. -/
def recSize (len : Nat) : Nat := 8 + 8 * ((len + 7) / 8)

/-- A record header (R252). -/
def recHeader (len kind seq : Nat) : List Byte := leBytes 8 (len % 2 ^ 32 + kind * 2 ^ 32 + seq * 2 ^ 40)

/-- R253's need of a put of len bytes, and the gap it skips. -/
def RingCb.need (r : RingCb) (len : Nat) : Nat × Nat :=
  let gap := 2 ^ r.sizeLog - r.head % 2 ^ r.sizeLog
  if gap < recSize len then (recSize len + gap, gap) else (recSize len, 0)

def RingCb.hasRoom (r : RingCb) (len : Nat) : Bool := (r.need len).1 + r.used ≤ 2 ^ r.sizeLog

/-- Engine writes in order, until one fails. -/
def writeAll (k : CtxId) (j : Job) (spc : Space) : List (Nat × List Byte) → State → Except JStop State
  | [], s => .ok s
  | w :: ws, s =>
    match s.jobWrite k j spc w.1 w.2 with
    | .error e => .error e
    | .ok s1 => writeAll k j spc ws s1

/-- R253: puts one record into the ring whose control block is at cb. Its release at a system scope that is clamped
(R180) sets no bit of a %scopeclamp: a job has none, and R180 names none for it (log entry 69). -/
def putRecord (k : CtxId) (j : Job) (spc : Space) (cb : Nat) (payload : List Byte) (s : State) :
    Except JStop State :=
  match s.jobRead k j spc cb 64 with
  | .error e => .error e
  | .ok (bs, s1) =>
    let r := ringCb bs
    let len := payload.length
    if recSize len > 2 ^ r.sizeLog then .error (.fail 0x16 cb none)
    else if !r.hasRoom len then .error .ring
    else
      let gap := (r.need len).2
      let head := (r.head + gap) % 2 ^ 64
      let pad := List.replicate (recSize len - 8 - len) 0
      let skip := if gap == 0 then [] else [(r.at r.head, recHeader (gap - 8) 0xFF r.seq)]
      writeAll k j spc (skip ++ [((r.at head) + 8, payload ++ pad), (r.at head, recHeader len 0 r.seq),
        (cb + 32, leBytes 3 ((r.seq + 1) % 2 ^ 24)), (cb + 16, leBytes 8 ((head + recSize len) % 2 ^ 64))]) s1

/-- `RPUT` (R254). -/
def rputRun (k : CtxId) (d : Desc) (j : Job) (s : State) : JRes :=
  match s.jobRead k j j.space j.ea d.rowLen with
  | .error e => (some e, j, s)
  | .ok (bs, s1) =>
    match putRecord k j d.dSpace d.dst bs s1 with
    | .error e => heldBack s (some e, j, s1)
    | .ok s2 => (none, { j with row := 1, bytes := j.bytes + d.rowLen }, s2)

/-- What a consumer finds at TAIL (R255): nothing, a data record, or a record it cannot pass. -/
inductive Found where
  | empty (tail : Nat)
  | data (tail header : Nat)
  | bad (tail header : Nat)
  deriving DecidableEq, Repr

/-- Skip records passed from TAIL on, `fuel` at most; `header` reads the one at a place. -/
def findRecord {ε : Type} (header : Nat → Except ε Nat) (r : RingCb) : Nat → Nat → Except ε Found
  | 0, tail => .ok (.empty tail)
  | n + 1, tail =>
    if tail == r.head then .ok (.empty tail)
    else
      match header (r.at tail) with
      | .error e => .error e
      | .ok h =>
        let size := recSize (h % 2 ^ 32)
        let kind := h / 2 ^ 32 % 256
        if kind == 0xFF then findRecord header r n ((tail + size) % 2 ^ 64)
        else if kind != 0 || size > (r.head + 2 ^ 64 - tail) % 2 ^ 64 then .ok (.bad tail h)
        else .ok (.data tail h)

/-- The records a buffer can hold, a bound on the skips passed. -/
def RingCb.fuel (r : RingCb) : Nat := 2 ^ r.sizeLog / 8 + 2

/-! ### Feeds (R256 to R258) -/

/-- Tiles of a window. -/
def tileCount (w : Window) (trows : Nat) : Nat := (w.rows + trows - 1) / trows

/-- The rows of tile k: first, and how many. -/
def tileRows (w : Window) (trows k : Nat) : Nat × Nat := (k * trows, min trows (w.rows - k * trows))

/-- R257: is a page that a feed reaches neither the host's, device memory, another module's, nor in the commons? One
that is not there, or not to be reached, is left to the access. -/
def State.feedPage (s : State) (k : CtxId) (cluster a : Nat) (acc : Acc) : Bool :=
  match (s.ctx? k).map fun c => s.lookupTlb k.part c cluster a acc with
  | some (.ok (e, _, _)) =>
    let pa := e.pa + a % 2 ^ e.sizeLog
    !e.dev && !bitAt pa 51 && s.inHbm pa
  | _ => true

/-- The rows of tile rows r to r + n − 1: their addresses. -/
def rowAddrs (w : Window) (r n : Nat) : List Nat := (List.range n).map fun i => w.base + (r + i) * w.pitch

/-- The first page of a tile that ends its feed RANGE (R257). -/
def State.tileStop (s : State) (k : CtxId) (j : Job) (w : Window) (r n : Nat) (acc : Acc) : Option JStop :=
  (((rowAddrs w r n).flatMap fun a => pieces a w.rowLen).find? fun p => !s.feedPage k j.cluster p.1 acc).map fun p =>
    .fail 0x12 p.1 (some (false, acc == .wr))

/-- A load feed's row, at home (R257). -/
def State.feedRead (k : CtxId) (j : Job) (a n : Nat) (s : State) : Except JStop (List Byte × State) :=
  match s.winStop j.thread.taskId j.cluster .load ⟨false, true, []⟩ a n with
  | some st => .error (jstopOf false st)
  | none => .ok (s.homeRead k j.cluster a n, s.noteAccess j.thread k j.cluster [(a, n)] (fun _ => true) .rd false)

/-- The rows of a tile, packed; a stop comes with what the rows before it left. -/
def readTile (k : CtxId) (j : Job) (w : Window) : Nat → Nat → State →
    Except (JStop × State) (List Byte × State)
  | 0, _, s => .ok ([], s)
  | n + 1, r, s =>
    match s.feedRead k j (w.base + r * w.pitch) w.rowLen with
    | .error e => .error (e, s)
    | .ok (bs, s1) =>
      match readTile k j w n (r + 1) s1 with
      | .error e => .error e
      | .ok (cs, s2) => .ok (bs ++ cs, s2)

/-- One tile of a load feed. -/
def loadTile (k : CtxId) (w : Window) (trows : Nat) (j : Job) (s : State) : JRes :=
  let (first, n) := tileRows w trows j.row
  match s.tileStop k j w first n .rd with
  | some e => (some e, j, s)
  | none => match readTile k j w n first s with
    | .error (e, s1) => heldBack s (some e, j, s1)
    | .ok (bs, s1) =>
      match putRecord k j .tcm j.ea bs s1 with
      | .error e => heldBack s (some e, j, s1)
      | .ok s2 => (none, { j with row := j.row + 1, bytes := j.bytes + 1 }, s2)

/-- The rows of a tile written from a record's payload. -/
def writeTile (k : CtxId) (j : Job) (w : Window) : Nat → Nat → List Byte → State → Except JStop State
  | 0, _, _, s => .ok s
  | n + 1, r, bs, s =>
    match s.jobWrite k j .gm (w.base + r * w.pitch) (bs.take w.rowLen) with
    | .error e => .error e
    | .ok s1 => writeTile k j w n (r + 1) (bs.drop w.rowLen) s1

/-- One tile of a store feed: take, write, done (R255, R257). One asked to stop takes the records that its ring held
then and no other (R258). -/
def storeTile (k : CtxId) (w : Window) (trows : Nat) (j : Job) (s : State) : JRes :=
  let (first, n) := tileRows w trows j.row
  match s.jobRead k j .tcm j.ea 64 with
  | .error e => (some e, j, s)
  | .ok (cb, s1) =>
    let r := { ringCb cb with head := j.stopHead.getD (ringCb cb).head }
    let word (a : Nat) : Except JStop Nat := (s1.jobRead k j .tcm a 8).map fun b => leVal b.1
    let setTail (t : Nat) (s : State) : State :=
      if t == r.tail then s else s.chipWrite (k, j.cluster, j.core) .tcm (j.ea + 24) (leBytes 8 t)
    match findRecord word r r.fuel r.tail with
    | .error e => (some e, j, s1)
    | .ok (.empty t) => (some .ring, j, setTail t s1)
    | .ok (.bad t _) => (some (.fail 0x16 j.ea none), j, setTail t s1)
    | .ok (.data t h) =>
      let s2 := setTail t s1
      let len := h % 2 ^ 32
      if len != n * w.rowLen then (some (.fail 0x16 j.ea none), j, s2)
      else match s2.jobRead k j .tcm (r.at t + 8) len with
        | .error e => (some e, j, s2)
        | .ok (bs, s3) =>
          match s3.tileStop k j w first n .wr with
          | some e => (some e, j, s3)
          | none => match writeTile k j w n first bs s3 with
            | .error e => (some e, j, s3)
            | .ok s4 => (none, { j with row := j.row + 1, bytes := j.bytes + 1 },
                setTail ((t + recSize len) % 2 ^ 64) s4)

/-! ### Matrix jobs (R276 to R280) -/

def State.matrixOf (s : State) (k : CtxId) (engine : Nat) : Matrix :=
  match s.ctx? k with
  | some c => c.matrix engine
  | none => Matrix.blank engine

def State.setMatrix (k : CtxId) (m : Matrix) (s : State) : State := s.modCtx k (Context.setMatrix m)

/-- `MWLD` (R276). -/
def mwldRun (k : CtxId) (tag : Nat) (j : Job) (s : State) : JRes :=
  match s.jobRead k j .sp j.ea (tileBytes tag) with
  | .error e => (some e, j, s)
  | .ok (bs, s1) =>
    let m := s1.matrixOf k j.target
    let tile := (bs.map BitVec.toNat).toArray
    (none, j, s1.setMatrix k { m with shadow := planeOf tag tile m.shadow })

/-- One row of `MSTREAM` (R278). -/
def streamStep (k : CtxId) (pair first tensor : Nat) (weights scales : Array Nat) (j : Job) (s : State) : JRes :=
  match s.jobRead k j .sp (j.ea + j.row * actBytes pair) (actBytes pair) with
  | .error e => (some e, j, s)
  | .ok (bs, s1) =>
    let m := s1.matrixOf k j.target
    let at' := (bs.map BitVec.toNat).toArray
    let key := 128 * (first + j.row)
    let r := streamRow pair tensor weights scales (fun i => at'.getD i 0) (getMany 0 m.acc key 128)
    (none, { j with row := j.row + 1, flags := j.flags ||| r.2 },
      s1.setMatrix k { m with acc := setMany 0 m.acc key r.1 })

/-- A drained row's words go out in order: of a row that runs past the end of its memory, those before the end
(R280). -/
def putDrained (k : CtxId) (spc : Space) (a : Nat) (bs : List Byte) (j : Job) (s : State) : JRes :=
  let lim := chipLimit spc
  if a < lim && lim < a + bs.length then
    match putRow k spc a (bs.take (lim - a)) j s with
    | (none, j1, s1) => (some (.fail 0x12 lim none), { j1 with row := j.row }, s1)
    | r => r
  else putRow k spc a bs j s

/-- One row of `MDRAIN` (R279). -/
def drainStep (k : CtxId) (first : Nat) (scale : Int) (dst src : Nat) (j : Job) (s : State) : JRes :=
  let m := s.matrixOf k j.target
  let rs := (getMany 0 m.acc (128 * (first + j.row)) 128).map (drainWord dst src scale)
  let bs := rs.flatMap fun r => leBytes (drainSize dst) r.1
  let fl := rs.foldl (fun f r => f ||| r.2) j.flags
  putDrained k j.space (j.ea + j.row * (128 * drainSize dst)) bs { j with flags := fl } s

/-- A matrix job from where it stands. -/
def matrixRun (k : CtxId) (j : Job) (s : State) : JRes :=
  let m := s.matrixOf k j.target
  match j.op with
  | .mwld tag => mwldRun k tag j s
  | .mwswap => (none, j, s.setMatrix k { m with active := m.shadow, shadow := m.active })
  | .mzero first count => (none, j, s.setMatrix k { m with acc := dropMany m.acc (128 * first) (128 * count) })
  | .mstream pair first count tensor =>
    if m.active.tag != (pairTags pair).2 then (some (.fail 0x19 0 none), j, s)
    else
      let w := denseOf 16384 0 m.active.weights
      let sc := denseOf 512 0x7F m.active.scales
      runRows (streamStep k pair first tensor w sc) (count - j.row) j s
  | .mdrain first count scale dst src => runRows (drainStep k first scale dst src) (count - j.row) j s
  | _ => (none, j, s)

/-! ### A job from where it stands -/

def JobOp.rowsLeft (op : JobOp) (row : Nat) : Nat :=
  match op with
  | .cpy d => d.nRows - row
  | .cpyf d => d.nRows - row
  | .gath d => d.nRows - row
  | .scat d => d.nRows - row
  | .fill d => d.nRows - row
  | _ => 0

/-- Runs a job until it has done everything or stops. -/
def jobRun (k : CtxId) (j : Job) (s : State) : JRes :=
  match j.op with
  | .rput d => rputRun k d j s
  | .feed w trows store =>
    runRows (if store then storeTile k w trows else loadTile k w trows) (tileCount w trows - j.row) j s
  | .coll _ => (none, j, s)
  | .mwld _ => matrixRun k j s
  | .mwswap => matrixRun k j s
  | .mzero _ _ => matrixRun k j s
  | .mstream _ _ _ _ => matrixRun k j s
  | .mdrain _ _ _ _ _ => matrixRun k j s
  | _ => runRows (copyRow k) (j.op.rowsLeft j.row) j s

/-- Stores a job's record. -/
def State.putJob (k : CtxId) (j : Job) (s : State) : State :=
  s.modCtx k fun c => c.modJob j.thread j.id fun _ => j

/-- The cause that a job's status gives its task (R239). -/
def statusCause (status : Nat) : Option Nat :=
  match status with
  | 0x11 => some 0x08
  | 0x12 => some 0x0A
  | 0x13 => some 0x0C
  | _ => none

/-- R230: the walk that checks a job's predicted access and stops it squashes the access, and the issuing thread's
%predmiss counts that. A window's refusal (cause 0x08) comes before any translation. -/
def State.countJobSquash (j : Job) (cause va : Nat) (wr : Bool) (s : State) : State :=
  if cause != 0x08 && s.squashed j.thread.ctxId j.cluster va (if wr then .wr else .rd) then
    s.modThread j.thread fun h => { h with predmiss := h.predmiss + 1 }
  else s

/-- A job ends with an error; one met in windowed memory is a terminal fault of its task as well (R239). -/
def State.failJob (k : CtxId) (j : Job) (status addr : Nat) (windowed : Option (Bool × Bool)) (s : State) : State :=
  let s1 := s.finishJob k j status
  match statusCause status, windowed with
  | some cause, some w => (s1.countJobSquash j cause addr w.2).deviceFault j.thread.taskId cause addr w.1
  | _, _ => s1

/-- Have all threads of a task started and retired? -/
def State.allRetired (s : State) (k : TaskId) : Bool :=
  match s.ctx? k.ctxId, s.task? k with
  | some c, some t => t.allStarted && c.threads.all fun h =>
      h.id.taskId != k || h.role.isSome || (match h.life with | .retired => true | _ => false)
  | _, _ => false

/-- The active feeds of a task. -/
def State.activeFeeds (s : State) (k : TaskId) : List Job :=
  ((s.ctx? k.ctxId).map fun c => c.jobs.filter fun j => j.thread.taskId == k && j.unit == .feed && !j.isFinal).getD []

/-- A RUNNING task whose threads have all retired enters COMMITTING once no feed of its is active (R28, R258). -/
def State.commitIfOver (k : TaskId) (s : State) : State :=
  match s.task? k with
  | some t => if t.state == .running && s.allRetired k && (s.activeFeeds k).isEmpty then s.setTaskState k .committing else s
  | none => s

/-- How a run of a job leaves it (R237, R239, R241, R258): running with all its bytes moved, held, ended. A feed that
was asked to stop is STOPPED where it has nothing left to take. -/
def settleJob (k : CtxId) (r : JRes) : Result :=
  let j := r.2.1
  let s := r.2.2
  let ended (s : State) : Result := .next (s.commitIfOver j.thread.taskId)
  match r.1 with
  | none =>
    if j.stopHead.isSome then ended ((s.putJob k j).finishJob k j 0x18)
    else .next (s.putJob k { j with place := .running, status := 1 })
  | some (.fail st a w) =>
    let s1 := if j.op.isLoad && st == 0x13 then (s.putJob k j).voidShadow k j.target else s.putJob k j
    ended (s1.failJob k j st a w)
  | some (.page va s2 wr) => .next (((s.putJob k j).countJobSquash j 0x09 va wr).holdPage j.thread j.id va s2)
  | some (.access c) => .next (s.putJob k { j with place := .heldAccess c, status := 2 })
  | some .word => .next (s.putJob k { j with place := .heldWord, status := 2 })
  | some .ring =>
    if j.stopHead.isSome then ended ((s.putJob k j).finishJob k j 0x18)
    else .next (s.putJob k { j with place := .heldRing, status := match j.op with | .feed _ _ true => 1 | _ => 2 })
  | some .device => .fault .unknownDevice

/-- HEAD of a feed's ring, zero where its control block cannot be read. -/
def State.feedHead (s : State) (k : CtxId) (j : Job) : Nat :=
  match s.jobRead k j .tcm j.ea 64 with
  | .ok r => (ringCb r.1).head
  | .error _ => 0

/-- R258: a feed is asked to stop: a load feed puts no other record, a store feed writes those already in its
ring and takes no other. A load feed that is HELD is putting none (log entry 98). -/
def State.stopFeed (k : CtxId) (j : Job) (s : State) : Result :=
  match j.op with
  | .feed _ _ true =>
    let j' := { j with stopHead := some (j.stopHead.getD (s.feedHead k j)) }
    match j.place with
    | .heldPage _ => .next (s.putJob k j')
    | .heldAccess _ => .next (s.putJob k j')
    | _ => settleJob k (jobRun k j' s)
  | .feed _ _ false => .next (s.finishJob k j 0x18)
  | _ => .next s

/-- Every active feed of a task is stopped (R258). -/
def State.stopFeeds (k : TaskId) (s : State) : Result :=
  (s.activeFeeds k).foldl (fun r j =>
    match r with
    | .next s => s.stopFeed k.ctxId j
    | r => r) (.next s)

end Sys2Proof.Machine
end

