-- ==== Sys2Proof/Machine/Tables.lean ====
section
/-! DEFINITION. Match tables: headers, entries, lookups (R24 to R30), shutters, pins and the directory's
messages (R31 to R36). -/

namespace Sys2Proof.Machine

/-! ### Headers and entries (R25, R26) -/

def hdrSizeLog (h : Word) : Nat := nbits h.toNat 0 4
def hdrAction (h : Word) : Nat := nbits h.toNat 8 2
def hdrTarget (h : Word) : Nat := nbits h.toNat 32 32

/-- R25: may this header stand in a table of a size? -/
def headerOk (sizeLog : Nat) (h : Word) : Bool :=
  hdrSizeLog h == sizeLog && nbits h.toNat 4 4 == 0 && nbits h.toNat 10 22 == 0 && hdrAction h != 3
    && (hdrTarget h == 0 || hdrAction h == 0)

def entValue (e : BitVec 256) : Nat := nbits e.toNat 0 48
def entCare (e : BitVec 256) : Nat := nbits e.toNat 64 48
def entAction (e : BitVec 256) : Nat := nbits e.toNat 128 3
def entValid (e : BitVec 256) : Bool := bitAt e.toNat 131
def entTarget (e : BitVec 256) : Nat := nbits e.toNat 160 32
def entParam (e : BitVec 256) (i : Nat) : Nat := nbits e.toNat (192 + 16 * i) 16

/-- R26: may this image stand in an entry? -/
def entryOk (e : BitVec 256) : Bool :=
  nbits e.toNat 48 16 == 0 && nbits e.toNat 112 16 == 0 && nbits e.toNat 132 28 == 0 &&
    (match entAction e with
      | 0 => true
      | 3 => true
      | 4 => entTarget e < 2 ^ 16
      | 1 => entTarget e == 0
      | 2 => entTarget e == 0
      | _ => false)

/-- R27: does an entry match a key? -/
def entMatches (key : Nat) (e : BitVec 256) : Bool :=
  entValid e && Nat.land (Nat.xor key (entValue e)) (entCare e) == 0

/-! ### Shutters (R27, R34, R35) -/

/-- A shutter as a lookup sees it: header, entries, generation. -/
structure Shutter where
  hdr : Word
  entries : List (BitVec 256)
  gen : Option Nat

def TableCopy.frontS (c : TableCopy) : Shutter := ⟨c.frontHdr, c.front, some c.frontGen⟩
def TableCopy.backS (c : TableCopy) : Shutter := ⟨c.backHdr, c.back, c.backGen⟩

def Context.table? (c : Context) (id : Nat) : Option Table := c.tables.find? fun t => t.id == id

def Context.modTable (id : Nat) (f : Table → Table) (c : Context) : Context :=
  { c with tables := modWhere (fun t => t.id == id) f c.tables }

/-- The pin a thread holds on a table. -/
def Table.pinOf (t : Table) (who : TId) : Option Pin := t.pins.find? fun p => p.thread == who

/-- The cluster whose copies a thread's lookups use: a collective engine's thread uses its first rank's. -/
def Thread.tableCluster (h : Thread) : Nat :=
  match h.role with
  | some (r :: _) => r.cluster
  | _ => h.cluster

/-- R27's shutter_for: the pinned generation, else the cluster's front. -/
def Table.shutterFor (t : Table) (who : TId) (cluster : Nat) : Option Shutter :=
  (t.copies[cluster]?).map fun c =>
    match t.pinOf who with
    | some p => if c.backGen == some p.gen && c.frontGen != p.gen then c.backS else c.frontS
    | none => c.frontS

/-- The shutter of the issuing thread's lookups in a table that is present (R25: SIZELOG not zero). -/
def State.shutter (s : State) (id : Nat) : Option Shutter :=
  match ((s.ctx? s.curCtx).bind fun c => c.table? id).bind fun t => t.shutterFor s.cur.id s.cur.tableCluster with
  | some sh => if hdrSizeLog sh.hdr == 0 then none else some sh
  | none => none

/-- R27: the winning entry and its index. -/
def Shutter.lookup (sh : Shutter) (key : Nat) : Option (Nat × BitVec 256) :=
  (sh.entries.findIdx? (entMatches key)).bind fun i => (sh.entries[i]?).map fun e => (i, e)

/-- The key of R85: c above the key register's low half. -/
def Thread.lookupKey (h : Thread) (k : BitVec 5) : Nat := h.c.toNat * 2 ^ 32 + (h.sreg k).toNat % 2 ^ 32

/-! ### What a lookup does (R5, R28 to R30, R85, R86) -/

/-- R5: the trap of a default TRAP, and of an absent table. -/
def noMatch (table key : Nat) (s : State) : State :=
  trapHere 0x05 (BitVec.ofNat 64 (key + table * 2 ^ 48)) s

/-- R28: the parameters go to a0 to a3. -/
def Thread.setParams (h : Thread) (p : Nat → Nat) : Thread :=
  { h with a := Vector.ofFn fun i => BitVec.ofNat 32 (p i.val) }

/-- The thread goes on at a code index. -/
def Thread.goTo (pc : Nat) (h : Thread) : Thread := { h with pc := BitVec.ofNat 32 pc, life := .here .ready }

/-- The issuing thread goes on at its next instruction when its wait ends. -/
def Thread.goOn (h : Thread) : Thread := { h with pc := h.pc + 1, life := .here .ready }

/-- R13, R28, R170: a thread ends. The last one of its task stops the task's feeds, then starts the commit (R258); a
collective engine's ends its round (R261). -/
def State.retire (t : TId) (s : State) : Result :=
  match s.thread? t with
  | none => .next s
  | some h =>
    if h.role.isSome then
      let mine (r : Round) : Bool :=
        r.ctx == t.ctx && r.task == t.task && r.started && t.thread == 2 ^ 32 + r.handle
      let s1 := s.modPart t.part fun p => { p with
        rounds := modWhere mine (fun r => { r with ended := some 0 }) p.rounds }
      .next ((s1.releaseThread t).modThread t fun h => { h with life := .retired })
    else
      let s1 := (s.releaseThread t).modThread t fun h => { h with life := .retired }
      let k := t.taskId
      if s1.allRetired k then
        match s1.stopFeeds k with
        | .next s2 => .next (s2.commitIfOver k)
        | r => r
      else .next s1

/-- A `NEXT`'s lookup returns (R28, R29). -/
def finishNext (table key ind : Nat) (s : State) : Result :=
  match s.shutter table with
  | none => .next (noMatch table key s)
  | some sh =>
    match sh.lookup key with
    | none =>
      match hdrAction sh.hdr with
      | 0 => .next (s.modCur fun h => (h.setParams fun _ => 0).goTo (hdrTarget sh.hdr))
      | 1 => s.retire s.cur.id
      | _ => .next (noMatch table key s)
    | some (i, e) =>
      let given := s.modCur fun h => h.setParams (entParam e)
      match entAction e with
      | 0 => .next (given.modCur (Thread.goTo (entTarget e)))
      | 1 => .next (given.modCur fun h => h.goTo ((h.sreg (BitVec.ofNat 5 ind)).toNat % 2 ^ 32))
      | 2 => s.retire s.cur.id
      | 3 => .next (given.modCur fun h => { (h.goTo (entTarget e)) with life := .yielded })
      | _ => .next (takeTrapAs false 0x06
          (BitVec.ofNat 64 (s.cur.pc.toNat + entTarget e % 2 ^ 16 * 2 ^ 32 + i * 2 ^ 48))
          (BitVec.ofNat 64 (key + table * 2 ^ 48)) false given)

/-- A `MATCH`'s lookup returns (R86). -/
def finishMatch (table key d e : Nat) (s : State) : Result :=
  match s.shutter table with
  | none => .next (noMatch table key s)
  | some sh =>
    let put (x y : Nat) : Result := .next (s.modCur fun h =>
      ((h.setS (BitVec.ofNat 5 d) (BitVec.ofNat 64 x)).setS (BitVec.ofNat 5 e) (BitVec.ofNat 64 y)).goOn)
    match sh.lookup key with
    | none => if hdrAction sh.hdr == 2 then .next (noMatch table key s)
        else put 0 (hdrTarget sh.hdr * 2 ^ 32 + (if hdrAction sh.hdr == 1 then 2 else 0))
    | some (i, x) =>
      put (nbits x.toNat 192 64) (entTarget x * 2 ^ 32 + i * 2 ^ 4 + 8 + entAction x)

/-! ### The directory (R31 to R36) -/

/-- R32, R33: is the back shutter's generation pinned? -/
def Table.busy (t : Table) : Bool :=
  match t.dirBack with
  | some g => t.pins.any fun p => p.gen == g
  | none => false

/-- An operation takes its place in flip order: a message to every cluster, or a refusal. -/
def Table.enter (clusters : Nat) (op : TableOp) (t : Table) : Table :=
  if t.busy then t
  else
    let n := t.seq + 1
    let t1 := { t with
      seq := n
      inbox := t.inbox ++ (List.range clusters).map fun c => ⟨c, n, op⟩ }
    match op with
    | .flip => { t1 with dirFront := (t.dirFront + 1) % 2 ^ 32, dirBack := some t.dirFront }
    | _ => t1

/-- A cluster applies a message (R32, R33). -/
def TableCopy.apply (op : TableOp) (c : TableCopy) : TableCopy :=
  match op with
  | .write none img => { c with backHdr := img.truncate 64 }
  | .write (some i) img => { c with back := c.back.set i img }
  | .clear => { c with back := c.back.map fun _ => 0 }
  | .copy => { c with back := c.front, backHdr := c.frontHdr }
  | .flip => { c with
      front := c.back, frontHdr := c.backHdr, back := c.front, backHdr := c.frontHdr
      frontGen := (c.frontGen + 1) % 2 ^ 32, backGen := some c.frontGen }

/-- The next message of a table for a cluster. -/
def Table.nextFor (cluster : Nat) (t : Table) : Option TableMsg := t.inbox.find? fun m => m.cluster == cluster

/-- A cluster applies its next message of a table (R31: in flip order). -/
def Table.applyNext (cluster : Nat) (t : Table) : Table :=
  match t.nextFor cluster with
  | none => t
  | some m => { t with
      copies := match t.copies[cluster]? with
        | some c => t.copies.set cluster (c.apply m.op)
        | none => t.copies
      inbox := t.inbox.filter fun x => !(x.cluster == cluster && x.seq == m.seq) }

/-- The messages on their way, up to the last flip that a cluster has applied. -/
def Table.due (cluster : Nat) (t : Table) : List TableMsg :=
  let here (m : TableMsg) : Bool := !t.inbox.any fun x => x.cluster == cluster && x.seq == m.seq
  let n := (t.inbox.filter fun m => m.op == .flip && here m).foldl (fun n m => max n m.seq) 0
  t.inbox.filter fun m => m.seq ≤ n

/-- R189's flip visibility: once a lookup has used a generation, no later one elsewhere may use an older: every cluster
applies the messages up to the last flip that this cluster has applied. -/
def Table.catchUp (cluster : Nat) (t : Table) : Table :=
  (t.due cluster).foldl (fun t m => t.applyNext m.cluster) t

/-- A `TBPIN` that returns has read the generation it pins (R35, R183, R189). -/
def Table.pinnedBy (who : TId) (cluster : Nat) (t : Table) : Table :=
  if (t.pinOf who).isSome then t.catchUp cluster else t

/-- A lookup of the issuing thread uses its cluster's generation of a table (R27, R189); a pinned one its pin's. -/
def State.lookedUp (id : Nat) (s : State) : State :=
  s.modCtx s.curCtx fun c => c.modTable id fun t =>
    if (t.pinOf s.cur.id).isSome then t else t.catchUp s.cur.tableCluster

/-- Have the clusters that a reply waits for applied every message up to `seq`: all of them for an operation
that was applied, the issuer's for a refusal, a pin or an unpin? -/
def Table.settled (t : Table) (cluster seq : Nat) (c15 : Option Bool) : Bool :=
  t.inbox.all fun m => seq < m.seq || (m.cluster != cluster && c15 != some false)

end Sys2Proof.Machine
end

