-- ==== Sys2Proof/Machine/Channels.lean ====
section
/-! DEFINITION. The channels between the units of the module, and the messages under way on them (R331, log entry 29). A
message sent behind a marker is not delivered before it. -/

namespace Sys2Proof.Machine

/-- The module's number of a partition's cluster (R2, R332). -/
def Partition.unitOf (p : Partition) (cluster : Nat) : Nat :=
  120 * p.dies.getD (cluster / 120) 0 + 30 * p.quarter + cluster % 120

/-- The unit that holds a partition's directories, trackers, feed controllers and collective engines. -/
def directoryUnit (part : Nat) : Nat := 720 + part

/-- The unit of a logical cluster of a context: the module's number of its cluster; the directory unit for the collective
engines' own places. -/
def Partition.unitAt (p : Partition) (c : Context) (cluster : Nat) : Nat :=
  match c.coreTable[cluster]? with
  | some x => p.unitOf x
  | none => directoryUnit p.num

/-- A message on its way: from a unit, to a unit, and what it says. -/
abbrev Sent := Nat × Nat × Msg

def Partition.tableSent (p : Partition) (c : Context) (id : Nat) (m : TableMsg) : Sent :=
  (directoryUnit p.num, p.unitAt c m.cluster, .table p.num c.num id m)

/-- A job's command goes to its cluster's copy unit or matrix engine, a feed's or collective's to the directory unit. -/
def Partition.commandSent (p : Partition) (c : Context) (j : Job) : Sent :=
  (p.unitAt c j.cluster, match j.unit with
    | .copy => p.unitOf j.target
    | .matrix => p.unitOf j.target
    | .feed => directoryUnit p.num
    | .coll => directoryUnit p.num, .command j.thread j.id)

/-- A `RESUME` of thread n of its issuer's task. -/
def Partition.resumeSent (p : Partition) (c : Context) (h : Thread) (n : Nat) : Sent :=
  (p.unitAt c h.cluster, p.unitAt c (((c.thread? { h.id with thread := n }).map fun x => x.cluster).getD h.cluster),
    .resume h.id)

def Partition.replySent (p : Partition) (c : Context) (h : Thread) : Sent :=
  (directoryUnit p.num, p.unitAt c h.cluster, .reply h.id)

/-- The messages of a context that are under way between two units. -/
def Context.inFlight (p : Partition) (c : Context) : List Sent :=
  (c.tables.flatMap (fun t => t.inbox.map (p.tableSent c t.id))
    ++ (c.jobs.filter fun j => j.place == .message).map (p.commandSent c)
    ++ c.threads.filterMap fun h => match h.life with
      | .here (.waiting (.resume n _ _)) => some (p.resumeSent c h n)
      | .here (.waiting (.tableOp _ _ _)) => some (p.replySent c h)
      | _ => none).filter fun x => x.1 != x.2.1

/-- Every message under way in the module. -/
def State.inFlight (s : State) : List Sent :=
  s.parts.flatMap fun p => (p.ctxs.filter fun c => c.loaded).flatMap (Context.inFlight p)

/-- The messages under way on a channel. -/
def State.onChannel (s : State) (src dst : Nat) : List Msg :=
  (s.inFlight.filter fun m => m.1 == src && m.2.1 == dst).map fun m => m.2.2

/-- Does a marker stand before a message on its channel (R331)? -/
def State.behind (s : State) (x : Sent) : Bool :=
  s.tokens.any fun k => k.src == x.1 && k.dst == x.2.1 && !k.before.contains x.2.2

/-- Does a marker stand before a message of a context, which its partition and context give? -/
def State.sentBehind (s : State) (k : CtxId) (f : Partition → Context → Sent) : Bool :=
  match s.part? k.part, s.ctx? k with
  | some p, some c => s.behind (f p c)
  | _, _ => false

/-- Must a use of a table's generation by a thread wait, since a flip that it makes seen elsewhere (R189) stands behind a
marker? -/
def State.seesHeld (s : State) (h : Thread) (id : Nat) : Bool :=
  match (s.ctx? h.id.ctxId).bind fun c => c.table? id with
  | some t => (t.due h.tableCluster).any fun m => s.sentBehind h.id.ctxId fun p c => p.tableSent c id m
  | none => false

/-- A cluster applies the next message of each table, but for one behind a marker. -/
def State.applyNext (k : CtxId) (cluster : Nat) (s : State) : State :=
  let held (t : Table) : Bool :=
    (t.nextFor cluster).any fun m => s.sentBehind k fun p c => p.tableSent c t.id m
  s.modCtx k fun c => { c with tables := c.tables.map fun t => if held t then t else t.applyNext cluster }

end Sys2Proof.Machine
end

