-- ==== Sys2Proof/Machine/Moves.lean ====
section
/-! DEFINITION. Conditions, selection, moves and status registers: R71 to R75, R82 to R84. -/

namespace Sys2Proof.Machine

/-- A trap with cause 0x02 found when the instruction executes: %tinfo holds the word (R57). -/
def trapField (c : Code) (s : State) : State := trapHere 0x02 c.word s

/-- R71. -/
def execCmp (x : RegForm) (s : State) : Result :=
  scalar x.g s fun s => .next (s.putC x.dst.num5.toNat
    (condT x.t x.s3.num5.toNat (s.cur.srcT x.t x.m1 x.s1) (s.cur.srcT x.t x.m2 x.s2)).1 0)

/-- The functions of R72. -/
def cbitFn (code : Nat) (a b : Bool) : Bool :=
  match code with
  | 0 => a && b
  | 1 => a || b
  | 2 => a != b
  | 3 => a && !b
  | 4 => a || !b
  | _ => a == b

/-- R72. -/
def execCbit (x : RegForm) (s : State) : Result :=
  scalar x.g s fun s => .next (s.putC x.dst.num5.toNat
    (cbitFn x.s3.num5.toNat (s.cur.cbit x.s1.num5.toNat) (s.cur.cbit x.s2.num5.toNat)) 0)

/-- R73. -/
def execCset (x : RegForm) (s : State) : Result :=
  scalar x.g s fun s => .next (s.putC x.dst.num5.toNat (x.s1.num5.toNat == 1) 0)

/-- R74. -/
def execSel (x : RegForm) (s : State) : Result :=
  scalar x.g s fun s => .next (s.putS x.dst.num5
    (if s.cur.cbit x.s3.num5.toNat then s.cur.sreg x.s1.num5 else s.cur.sreg x.s2.num5))

/-- R75. -/
def execMovSS (x : RegForm) (s : State) : Result :=
  scalar x.g s fun s => .next (s.putS x.dst.num5 (s.cur.sreg x.s1.num5))
/-- R75. -/
def execMovSA (x : RegForm) (s : State) : Result :=
  scalar x.g s fun s => .next (s.putS x.dst.num5 ((s.cur.areg (x.s1.num5.truncate 2)).zeroExtend 64))
/-- R75. -/
def execMovSC (x : RegForm) (s : State) : Result :=
  scalar x.g s fun s => .next (s.putS x.dst.num5 (s.cur.c.zeroExtend 64))
/-- R75. -/
def execMovCS (x : RegForm) (s : State) : Result :=
  scalar x.g s fun s => .next (s.modCur fun h => { h with c := (h.sreg x.s1.num5).truncate 16 }).advance
/-- R75. -/
def execMovSP (x : RegForm) (s : State) : Result :=
  scalar x.g s fun s => .next (s.putS x.dst.num5 (s.cur.preg (x.s1.num5.truncate 3)))
/-- R75. -/
def execMovPS (x : RegForm) (s : State) : Result :=
  scalar x.g s fun s => .next
    (s.modCur fun h => h.setP (x.dst.num5.truncate 3) (h.sreg x.s1.num5)).advance
/-- R75. -/
def execMovSQ (x : RegForm) (s : State) : Result :=
  scalar x.g s fun s => .next (s.putS x.dst.num5 (s.cur.qreg (x.s1.num5.truncate 3)))
/-- R75. -/
def execMovQS (x : RegForm) (s : State) : Result :=
  scalar x.g s fun s => .next
    (s.modCur fun h => h.setQ (x.dst.num5.truncate 3) (h.sreg x.s1.num5)).advance

/-- R83: a status register's value. The reading of %time at a place may lead the reference by up to 4. -/
def State.status (s : State) (n : Nat) : Word :=
  let h := s.cur
  match n with
  | 0 => BitVec.ofNat 64 h.id.thread
  | 1 => h.nthreads.zeroExtend 64
  | 2 => BitVec.ofNat 64 h.id.task
  | 3 => BitVec.ofNat 64 h.core
  | 4 => BitVec.ofNat 64 h.cluster
  | 5 => BitVec.ofNat 64 h.seat
  | 6 => BitVec.ofNat 64 Config.vlanes
  | 7 => BitVec.ofNat 64 Config.tile
  | 8 => BitVec.ofNat 64 Config.tile
  | 9 => BitVec.ofNat 64 Config.tcmSize
  | 10 => BitVec.ofNat 64 Config.clSize
  | 11 => BitVec.ofNat 64 h.vregs
  | 12 => BitVec.ofNat 64 (s.time + Config.timeSkew (h.cluster * 8 + h.core) % 5)
  | 13 => h.rmode
  | 14 => h.fflags
  | 15 => h.seed
  | 16 => h.tcause
  | 17 => h.taddr
  | 18 => h.tinfo
  | 19 => h.scopeclamp
  | 20 => h.predmiss
  | _ => h.tkstate

/-- R82 to R84: a written status register; nothing for a value with a bit set that the map gives as zero.
A write to %seed clears the rounding and draw counters (R110, R298). -/
def Thread.setStatus (h : Thread) (n : Nat) (v : Word) : Option Thread :=
  match n with
  | 13 => if v.toNat < 8 then some { h with rmode := v } else none
  | 14 => if v.toNat < 64 then some { h with fflags := v } else none
  | 15 => some { h with seed := v, rcount := 0, dcount := 0 }
  | 19 => if v.toNat < 2 then some { h with scopeclamp := h.scopeclamp &&& ~~~ v } else none
  | 21 => if v.toNat < 2 ^ 26 then some { h with tkstate := v } else none
  | _ => none

/-- R82. -/
def execGets (x : RegForm) (s : State) : Result :=
  scalar x.g s fun s => .next (s.putS x.dst.num5 (s.status x.s1.num5.toNat))

/-- R82. -/
def execPuts (x : RegForm) (s : State) : Result :=
  scalar x.g s fun s =>
    match s.cur.setStatus x.dst.num5.toNat (s.cur.sreg x.s1.num5) with
    | some h => .next (s.modCur fun _ => h).advance
    | none => .next (trapField (.reg 0x06D x) s)

end Sys2Proof.Machine
end

