-- ==== Sys2Proof/Machine/Memory.lean ====
section
/-! DEFINITION. Loads, stores, atomics, cells, fences and the full/empty instructions: R119 to R122, R180,
R192 to R208. -/

namespace Sys2Proof.Machine

/-- R46: ea of a signed 22-bit offset. -/
def Thread.ea (h : Thread) (x : MemForm) : Nat := (h.sreg x.base.num5 + x.off.signExtend 64).toNat

/-- The carved offset of R46 and R193, word bits [27:14]. -/
def carved (x : MemForm) : BitVec 14 := x.off.extractLsb' 8 14

/-- R46: ea of a carved offset. -/
def Thread.eaCarved (h : Thread) (x : MemForm) : Nat :=
  (h.sreg x.base.num5 + (carved x).signExtend 64).toNat

/-- The register that bits [13:6] name. -/
def reg3 (x : MemForm) : BitVec 5 := x.off.truncate 5

/-- R180: a release at system scope in a partition limited to partition scope sets %scopeclamp[0]. -/
def State.noteRelease (x : MemForm) (s : State) : State :=
  let limited := match s.part? s.cur.id.part with
    | some p => !p.sysScope
    | none => false
  if x.scope == .sys && (x.order == .rel || x.order == .both) && limited then
    s.modCur fun h => { h with scopeclamp := h.scopeclamp ||| 1 }
  else s

/-! ### Scalar loads and stores -/

/-- R197. -/
def execLd (x : MemForm) (s : State) : Result :=
  scalar x.g s fun s =>
    let n := x.t.bits / 8
    let e : Elt := ⟨0, s.cur.ea x, n⟩
    memAccess x.space .load n [e] s fun s =>
      let v := leVal (s.load x.space e.a n)
      .next ((s.note .load x.space [e]).putS x.data.num5 (extendInt x.t v))

/-- R197. -/
def execSt (x : MemForm) (s : State) : Result :=
  scalar x.g s fun s =>
    let n := x.t.bits / 8
    let e : Elt := ⟨0, s.cur.ea x, n⟩
    memAccess x.space .store n [e] s fun s =>
      let bs := leBytes n (s.cur.sreg x.data.num5).toNat
      .next (((s.note .store x.space [e]).store x.space e.a bs).noteRelease x).advance

/-! ### Vector loads and stores -/

/-- The size in bytes of a vector element in memory; e2m1 and x act on bytes (R198). -/
def memSize (t : Ty) : Nat := max 1 (t.bits / 8)

/-- The active elements of a vector access, ascending. -/
def activeElts (act : List Bool) (n : Nat) (addr : Nat → Nat) : List Elt :=
  (enumFrom' 0 act).filterMap fun e => if e.2 then some ⟨e.1, addr e.1, n⟩ else none

/-- The width in bits of the narrowest operand of an indexed access, whose index elements have 32 bits (R49, R200). -/
def indexGuard (t : Ty) : Nat := min (8 * memSize t) 32

/-- A vector load: element i at addr i, for the elements below m, under the guard's bits for elements of gw bits (R49,
R198 to R200). -/
def vecLoad (op : Nat) (x : MemForm) (m gw : Nat) (addr : Thread → Nat → Nat) (s : State) : Result :=
  alloc (.mem op x) s fun s =>
    let n := memSize x.t
    let es := activeElts ((s.cur.activity x.g gw (64 / n)).take m) n (addr s.cur)
    memAccess x.space .load n es s fun s =>
      let row := elems (8 * n) (64 / n) (s.cur.vreg x.data.num5).toNat
      let new := es.foldl (fun r e => r.set e.i (leVal (s.load x.space e.a n))) row
      .next ((s.note .load x.space es).modCur fun h => h.setV x.data.num5 (BitVec.ofNat 512 (packElems (8 * n) new))).advance

/-- A vector store (R49, R198 to R200); elements are written in ascending order. -/
def vecStore (op : Nat) (x : MemForm) (m gw : Nat) (addr : Thread → Nat → Nat) (s : State) : Result :=
  alloc (.mem op x) s fun s =>
    let n := memSize x.t
    let es := activeElts ((s.cur.activity x.g gw (64 / n)).take m) n (addr s.cur)
    memAccess x.space .store n es s fun s =>
      let v := (s.cur.vreg x.data.num5).toNat
      let s1 := es.foldl (fun s e => s.store x.space e.a (leBytes n (elem (8 * n) e.i v))) (s.note .store x.space es)
      .next (if es.isEmpty then s1 else s1.noteRelease x).advance

/-- R198: consecutive elements. -/
def unitAddr (x : MemForm) (h : Thread) (i : Nat) : Nat := (h.ea x + i * memSize x.t) % 2 ^ 64

/-- R199: a fixed stride from s[B]. -/
def strideAddr (x : MemForm) (h : Thread) (i : Nat) : Nat :=
  (h.sreg x.base.num5 + BitVec.ofNat 64 i * x.off.signExtend 64).toNat

/-- R200: an index vector. -/
def indexAddr (x : MemForm) (h : Thread) (i : Nat) : Nat :=
  (h.eaCarved x + elem 32 i (h.vreg (reg3 x)).toNat * memSize x.t) % 2 ^ 64

/-- R198. -/
def execLdv (x : MemForm) (s : State) : Result := vecLoad 0x003 x 64 (8 * memSize x.t) (unitAddr x) s
/-- R198. -/
def execStv (x : MemForm) (s : State) : Result := vecStore 0x004 x 64 (8 * memSize x.t) (unitAddr x) s
/-- R199. -/
def execLdvs (x : MemForm) (s : State) : Result := vecLoad 0x005 x 64 (8 * memSize x.t) (strideAddr x) s
/-- R199. -/
def execStvs (x : MemForm) (s : State) : Result := vecStore 0x006 x 64 (8 * memSize x.t) (strideAddr x) s
/-- R200. -/
def execLdg (x : MemForm) (s : State) : Result := vecLoad 0x007 x 16 (indexGuard x.t) (indexAddr x) s
/-- R200. -/
def execStg (x : MemForm) (s : State) : Result := vecStore 0x008 x 16 (indexGuard x.t) (indexAddr x) s

/-! ### Atomics -/

/-- R201: one read-modify-write; the old value is returned. -/
def atomic (x : MemForm) (u : Use) (f : Ty → Nat → Nat → Nat) (s : State) : Result :=
  scalar x.g s fun s =>
    let n := x.t.bits / 8
    let e : Elt := ⟨0, s.cur.ea x, n⟩
    memAccess x.space u n [e] s fun s =>
      let v := lowBits x.t.bits (s.cur.sreg x.data.num5).toNat
      let r := (s.note u x.space [e]).rmw x.space e.a n fun old => some (lowBits x.t.bits (f x.t old v))
      .next ((r.2.noteRelease x).putS x.data.num5 (extendInt x.t r.1))

/-- R201. -/
def execAadd (x : MemForm) (s : State) : Result := atomic x .add (fun _ old v => old + v) s
/-- R201. -/
def execAmin (x : MemForm) (s : State) : Result := atomic x .add minI s
/-- R201. -/
def execAmax (x : MemForm) (s : State) : Result := atomic x .add maxI s
/-- R201. -/
def execAand (x : MemForm) (s : State) : Result := atomic x .add andI s
/-- R201. -/
def execAor (x : MemForm) (s : State) : Result := atomic x .add orI s
/-- R201. -/
def execAxor (x : MemForm) (s : State) : Result := atomic x .add xorI s
/-- R201. -/
def execAswap (x : MemForm) (s : State) : Result := atomic x .swap (fun _ _ v => v) s

/-- R202. A failed compare makes no write, and so no release (log entry 12). -/
def execAcas (x : MemForm) (s : State) : Result :=
  scalar x.g s fun s =>
    let n := x.t.bits / 8
    let w := x.t.bits
    let e : Elt := ⟨0, s.cur.ea x, n⟩
    memAccess x.space .swap n [e] s fun s =>
      let v := lowBits w (s.cur.sreg x.data.num5).toNat
      let want := lowBits w (s.cur.sreg (x.data.num5 + 1)).toNat
      let r := (s.note .swap x.space [e]).rmw x.space e.a n fun old => if old == want then some v else none
      let s1 := if r.1 == want then r.2.noteRelease x else r.2
      .next ((s1.modCur fun h => h.setC15 (r.1 != want)).putS x.data.num5 (extendInt x.t r.1))

/-! ### Fixed-point cells (R119 to R121) -/

/-- Bits of a cell. -/
def cellBit (c i : Nat) : Bool := c / 2 ^ i % 2 == 1

def cellSet (c i : Nat) : Nat := if cellBit c i then c else c + 2 ^ i

/-- R120: an fp32 value added into a cell. -/
def cellAdd (c x : Nat) : Nat :=
  match valF .fp32 x with
  | .nan _ => cellSet c 480
  | .inf n => cellSet c (if n then 482 else 481)
  | .fin n m e =>
    let d : Int := (if n then -1 else 1) * ((m * 2 ^ (e + 160).toNat : Nat) : Int)
    let sum := toSigned 480 c + d
    let c1 := c / 2 ^ 480 * 2 ^ 480 + wrapTo 480 sum
    if sum < -(2 ^ 479 : Nat) || sum ≥ (2 ^ 479 : Nat) then cellSet c1 483 else c1

/-- R121: a cell rounded to fp32. OVF raises NV whatever other mark stands with it (log entry 75). -/
def cellValue (c : Nat) : Nat × Flags :=
  if cellBit c 480 || (cellBit c 481 && cellBit c 482) || cellBit c 483 then
    (0x7FC00000, Flags.when (cellBit c 483) Fl.nv)
  else if cellBit c 481 then (0x7F800000, 0)
  else if cellBit c 482 then (0xFF800000, 0)
  else
    let v := toSigned 480 c
    if v == 0 then (0, 0)
    else (fmtOf .fp32).convert .rne .none 0 (.fin (v < 0) v.natAbs (-160))

/-- R203. What R122 leaves undefined where a plain store overlaps the add is here what one of the two orders gives (log
entry 6). -/
def execAaddf (x : MemForm) (s : State) : Result :=
  scalar x.g s fun s =>
    let e : Elt := ⟨0, s.cur.ea x, 64⟩
    memAccess x.space .add 64 [e] s fun s =>
      let v := lowBits 32 (s.cur.sreg x.data.num5).toNat
      let r := (s.note .add x.space [e]).rmw x.space e.a 64 fun old => some (cellAdd old v)
      .next (r.2.noteRelease x).advance

/-- R203. -/
def execCellrd (x : MemForm) (s : State) : Result :=
  scalar x.g s fun s =>
    let e : Elt := ⟨0, s.cur.ea x, 64⟩
    memAccess x.space .load 64 [e] s fun s =>
      let r := cellValue (leVal (s.load x.space e.a 64))
      .next ((s.note .load x.space [e]).putSF x.data.num5 (BitVec.ofNat 64 r.1) r.2)

/-! ### Fences -/

/-- R207: in a machine that makes each access at once a fence orders what is ordered already (log entry 6). -/
def execFence (x : MemForm) (s : State) : Result := scalar x.g s fun s => .next (s.noteRelease x).advance

/-- R208. -/
def execFencer (x : MemForm) (s : State) : Result := scalar x.g s fun s => .next (s.noteRelease x).advance

/-! ### Full/empty instructions -/

/-- The full bit of a word the issuing thread reaches. -/
def State.full (s : State) (spc : Space) (a : Nat) : Bool :=
  match s.ctx? s.curCtx with
  | some c => c.isFull spc s.cur.cluster s.cur.core a
  | none => true

def State.setFull (s : State) (spc : Space) (a : Nat) (b : Bool) : State :=
  s.modCtx s.curCtx fun c => c.setFull spc s.cur.cluster s.cur.core a b

/-- R204: both forms. The checks of R194 come before the wait for a full word (log entry 88). -/
def fullLoad (empty : Bool) (x : MemForm) (s : State) : Result :=
  scalar x.g s fun s =>
    let a := s.cur.ea x
    memAccess x.space .load 4 [⟨0, a, 4⟩] s fun s =>
      if s.full x.space a then
        let v := leVal (s.load x.space a 4)
        let s1 := if empty then s.setFull x.space a false else s
        .next (s1.putS x.data.num5 (extendInt x.t v))
      else .next (s.waitFor (.full x.space a))

/-- R204, keeping the bit. -/
def execLdf (x : MemForm) (s : State) : Result := fullLoad false x s
/-- R204, `.empty`. -/
def execLdfEmpty (x : MemForm) (s : State) : Result := fullLoad true x s

/-- R205. The store is a release whatever ORDER holds. -/
def execStf (x : MemForm) (s : State) : Result :=
  scalar x.g s fun s =>
    let a := s.cur.ea x
    memAccess x.space .store 4 [⟨0, a, 4⟩] s fun s =>
      let s1 := s.store x.space a (leBytes 4 (s.cur.sreg x.data.num5).toNat)
      .next ((s1.setFull x.space a true).noteRelease { x with order := .rel }).advance

/-- R206. A misalignment of either operand gives ea as the trap's address (log entry 89). -/
def execClre (x : MemForm) (s : State) : Result :=
  scalar x.g s fun s =>
    let a := s.cur.ea x
    let n := (s.cur.sreg x.data.num5).toNat
    let lim := s.cur.limit x.space
    let info := s.memInfo x.space 0 true
    if a % 4 != 0 || n % 4 != 0 then .next (takeTrap 0x0B (BitVec.ofNat 64 a) info false s)
    else if n == 0 then .next s.advance
    else if a + n > lim then .next (takeTrap 0x0A (BitVec.ofNat 64 (max a lim)) info false s)
    else if s.spanHeld ⟨x.space, a, n⟩ then .next (s.waitFor (.scoreClear x.space a n))
    else .next (s.modCtx s.curCtx fun c => c.emptyWords x.space s.cur.cluster s.cur.core a (n / 4)).advance

end Sys2Proof.Machine
end

