-- ==== Sys2Proof/Machine/TaskInstr.lean ====
section
/-! DEFINITION. The task and fence-counter instructions: R209 to R219. -/

namespace Sys2Proof.Machine

/-- A task without windows or buffers, for accesses the device makes itself. -/
def deviceTask : Task where
  create := 0
  image := 0
  attached := false
  tcb := tcbOf 0
  windows := []
  state := .new
  curClass := 0
  energyUsed := 0
  failCause := 0
  faultCause := 0
  granted := []
  logLines := 0
  started := []
  buffers := []
  badLog := []
  commitOk := false
  recorded := false
  arrived := 0
  launched := false

/-- Steps 1, 4 and 5 of R194 for an access the device makes at home (R209). -/
def State.deviceStop (s : State) (k : CtxId) (cluster : Nat) (u : Use) (align va n : Nat) : Option Stop :=
  if va % align != 0 then some (.trap 0x0B va false)
  else (pieces va n).findSome? fun p => s.pieceStop k deviceTask cluster u (.ofDevice s.cur.tickets) p.1 p.2

/-- What the device's access leaves. -/
def State.noteDevice (u : Use) (va n : Nat) (s : State) : State :=
  s.noteAccess s.cur.id s.curCtx s.cur.cluster [(va, n)] (fun _ => true) (Acc.of u) u.writes

/-- An access of n bytes at va to an image or counter for the issuing thread, then the act. %tinfo[40] is that of the
access that faults, a read or a write by what it does to its bytes (log entry 42). One that stops leaves what stood
before the instruction's first access, `s0`: the instruction runs again whole, and each line counts once (R195, R325). -/
def deviceNext (s0 : State) (u : Use) (align va n : Nat) (s : State) (f : State → Result) : Result :=
  match s.deviceStop s.curCtx s.cur.cluster u align va n with
  | some st => s0.raiseStop .gm u.writes 0 st
  | none => f (s.noteDevice u va n)

/-- The first or only access. -/
def deviceAccess (u : Use) (align va n : Nat) (s : State) (f : State → Result) : Result :=
  deviceNext s u align va n s f

/-- The task attached to an image (R154, R209). -/
def Context.attachedTo (c : Context) (image : Nat) : Option Task :=
  c.tasks.find? fun t => t.image == image && t.attached && t.inTracker

def State.attachedTo (s : State) (image : Nat) : Option Task :=
  (s.ctx? s.curCtx).bind fun c => c.attachedTo image

/-- A task of the issuing thread's context. -/
def State.mate (s : State) (n : Nat) : TaskId := ⟨s.curCtx.part, s.curCtx.ctx, n⟩

/-- The image's first 64 bytes, as they stand at home, whatever the task has buffered there (log entry 81). -/
def State.imageWord (s : State) (image : Nat) : Nat :=
  leVal (s.homeRead s.curCtx s.cur.cluster image 64)

/-- STATE of an image: 0 is fresh, any other departed (R209). -/
def imageState (x : Nat) : Nat := nbits x 88 4

/-- c15 written, and on. -/
def State.answer (s : State) (b : Bool) : State := (s.modCur fun h => h.setC15 b).advance

/-! ### Building an image -/

/-- R210: the image's first 64 bytes with the RO fields of R149 zero. -/
def freshImage (v : VWord) : VWord :=
  let ro : Nat := (2 ^ 10 - 1) * 2 ^ 86 + (2 ^ 32 - 1) * 2 ^ 96 + (2 ^ 32 - 1) * 2 ^ 224 + (2 ^ 40 - 1) * 2 ^ 416
  v &&& ~~~ (BitVec.ofNat 512 ro)

/-- R210. -/
def execTnew (x : MemForm) (s : State) : Result :=
  alloc (.mem 0x080 x) s fun s => scalar x.g s fun s =>
    let a := s.cur.ea x
    deviceAccess .store 128 a 64 s fun s =>
      let img := leBytes 64 (freshImage (s.cur.vreg x.data.num5)).toNat
      let s1 := s.homeWrite s.curCtx s.cur.cluster a img
      .next (s1.modCtx s1.curCtx fun c => { c with
        tasks := modWhere (fun t => t.image == a) (fun t => { t with attached := false }) c.tasks }).advance

/-- R169: may a live task take this window? -/
def twinAllowed (c : Context) (t : Task) (w : Window) : Bool :=
  (t.state == .new || t.state == .waiting || t.state == .failed) &&
    !(c.tasks.any fun v => v.create != t.create && precedes t v
      && (v.state.dispatched || v.state == .done) && !(conflictPairs [w] v.windows).isEmpty)

/-- R169: the edges of a live task's new window. -/
def State.twinEdges (k : CtxId) (t : Task) (w : Window) (s : State) : State :=
  match s.ctx? k with
  | none => s
  | some c =>
    let others := c.tasks.filter fun v => v.create != t.create && v.inTracker
    let s1 := others.foldl (fun s u =>
      if precedes u t then
        match edgeKind t (conflictPairs u.windows [w]) with
        | some h => s.modCtx k fun c => { c with edges := addEdge u.create t.create h c.edges }
        | none => s
      else s) s
    let s2 := others.foldl (fun s v =>
      if precedes t v then
        match edgeKind v (conflictPairs [w] v.windows) with
        | some h => s.addSuccessor k t.create v h
        | none => s
      else s) s1
    s2.resettle ⟨k.part, k.ctx, t.create⟩

/-- R211: the task's windows with one more or another. -/
def Task.takeWindow (k nwin : Nat) (w : Window) (t : Task) : Task :=
  { t with
    tcb := { t.tcb with nwin := nwin }
    windows := t.windows.take k ++ [w] ++ t.windows.drop (k + 1) }

/-- R211: an accepted record goes to its slot, NWIN rises with it, and an attached task takes the window. -/
def twinAccept (a slot k nwin : Nat) (record : Nat) (live : Option Task) (s0 s : State) : Result :=
  let go (s : State) : Result :=
    match live with
    | none => .next (s.answer false)
    | some t =>
      let w := windowOf record
      let s1 := s.modTask (s.mate t.create) (Task.takeWindow k (if k == nwin then k + 1 else nwin) w)
      .next ((s1.twinEdges s1.curCtx t w).answer false)
  deviceNext s0 .store 16 slot 16 s fun s =>
    let put (s : State) : State := s.homeWrite s.curCtx s.cur.cluster slot (leBytes 16 record)
    if k == nwin then deviceNext s0 .store 1 (a + 44) 1 s fun s =>
      let b44 := (s.homeByte s.curCtx s.cur.cluster (a + 44)).toNat
      go ((put s).homeWrite s.curCtx s.cur.cluster (a + 44) [BitVec.ofNat 8 (b44 / 128 * 128 + (k + 1) % 128)])
    else go (put s)

/-- R211. The slot is tested before the image is reached, and every access before anything is written (log entry
64). -/
def execTwin (x : MemForm) (s : State) : Result :=
  alloc (.mem 0x081 x) s fun s => scalar x.g s fun s =>
    let a := s.cur.ea x
    let v := (s.cur.vreg x.data.num5).toNat
    let k := nbits v 128 8
    let record := v % 2 ^ 128
    let s0 := s
    if k ≥ 64 then .next (trapHere 0x02 (BitVec.ofNat 64 k) s)
    else deviceAccess .load 128 a 64 s fun s =>
      let live := s.attachedTo a
      let tcb := match live with
        | some t => t.tcb
        | none => tcbOf (s.imageWord a)
      let ok := k ≤ tcb.nwin && (k < 4 || tcb.ovfptr % 16 == 0) && (windowOf record).valid &&
        (match live, s.ctx? s.curCtx with
          | some t, some c => twinAllowed c t (windowOf record)
          | _, _ => true)
      if !ok then .next (s.answer true)
      else twinAccept a (if k < 4 then a + 64 + 16 * k else tcb.ovfptr + 16 * (k - 4)) k tcb.nwin record live s0 s

/-! ### Submission and its fellows -/

/-- R212: sD of a submission's answer. -/
def submitWord (r : Nat × Nat × Nat) : Word := BitVec.ofNat 64 (r.1 + r.2.1 * 2 ^ 8 + r.2.2 * 2 ^ 32)

/-- The bytes of an image from the first to the last that the tracker writes back (R149). -/
def roFirst : Nat := 10
def roBytes : Nat := 47

/-- R212. The overflow windows are read before the checks, and an image that will be accepted is reached by the right
to write before it is (log entry 64). -/
def execTsubmit (x : MemForm) (s : State) : Result :=
  scalar x.g s fun s =>
    let a := s.cur.ea x
    let s0 := s
    deviceAccess .load 128 a 128 s fun s =>
      let img := s.homeRead s.curCtx s.cur.cluster a 128
      let tcb := tcbOf (leVal (img.take 64))
      let more := 4 < tcb.nwin && tcb.nwin ≤ 64 && tcb.ovfptr % 16 == 0
      let n := 16 * (tcb.nwin - 4)
      let submit (ovf : List Byte) (s : State) : Result :=
        let r := s.submit s.curCtx a s.time img ovf
        .next (r.2.putS x.data.num5 (submitWord r.1))
      let go (ovf : List Byte) (s : State) : Result :=
        if (s.submit s.curCtx a s.time img ovf).1.1 == 0 then deviceNext s0 .store 1 (a + roFirst) roBytes s (submit ovf)
        else submit ovf s
      if more then
        deviceNext s0 .load 16 tcb.ovfptr n s fun s => go (s.homeRead s.curCtx s.cur.cluster tcb.ovfptr n) s
      else go [] s

/-- R213, with c15. -/
def execTwait (x : MemForm) (s : State) : Result :=
  scalar x.g s fun s =>
    let a := s.cur.ea x
    deviceAccess .load 128 a 128 s fun s =>
      let give (v : Nat) (c15 : Bool) (s : State) : Result :=
        .next ((s.modCur fun h => h.setC15 c15).putS x.data.num5 (BitVec.ofNat 64 v))
      match s.attachedTo a with
      | some t =>
        if t.create == s.cur.id.task then give 3 true s
        else if t.state == .failed then give t.state.code false s
        else .next (s.waitFor (.taskEnd t.create x.data.num5.toNat))
      | none =>
        let st := imageState (s.imageWord a)
        give st (st == 0) s

/-- R214: sD of a task's fields. -/
def statWord (state cls cause preds create : Nat) : Nat :=
  state + cls * 2 ^ 4 + cause * 2 ^ 8 + min preds 0xFFFF * 2 ^ 16 + create * 2 ^ 32

/-- R214. -/
def execTstat (x : MemForm) (s : State) : Result :=
  scalar x.g s fun s =>
    let a := s.cur.ea x
    deviceAccess .load 128 a 128 s fun s =>
      let v := match s.ctx? s.curCtx with
        | none => 0
        | some c => match c.attachedTo a with
          | some t => statWord t.state.code t.curClass t.failCause (c.preds t.create) t.create
          | none =>
            let i := s.imageWord a
            if imageState i == 0 then 0
            else statWord (imageState i) (nbits i 86 2) (nbits i 448 8) (nbits i 96 32) (nbits i 416 32)
      .next (s.putS x.data.num5 (BitVec.ofNat 64 v))

/-- R215, R338: cancels a task and its cascade unless it is past its grant; false when it does not. -/
def State.cancel (k : TaskId) (s : State) : Bool × State :=
  match s.task? k with
  | none => (false, s)
  | some t => if t.inTracker && !t.pastGrant then (true, s.abortTasks k.ctxId [k.task]) else (false, s)

/-- R216, R338: returns a FAILED task to WAITING or READY; false when it is in another state. -/
def State.retry (k : TaskId) (s : State) : Bool × State :=
  match s.task? k with
  | none => (false, s)
  | some t =>
    if t.state == .failed then
      (true, (s.modTask k Task.clear).settle k)
    else (false, s)

/-- An instruction that names an attached task and reports success in c15. The image is accessed, and so checked, whole
(log entry 80). -/
def onImage (x : MemForm) (s : State) (f : TaskId → State → Bool × State) : Result :=
  scalar x.g s fun s =>
    let a := s.cur.ea x
    deviceAccess .load 128 a 128 s fun s =>
      match s.attachedTo a with
      | none => .next (s.answer true)
      | some t =>
        let r := f (s.mate t.create) s
        .next (r.2.answer (!r.1))

/-- R215. -/
def execTcancel (x : MemForm) (s : State) : Result := onImage x s fun k s => s.cancel k
/-- R216. -/
def execTretry (x : MemForm) (s : State) : Result := onImage x s fun k s => s.retry k

/-- R217. -/
def execTabort (x : MemForm) (s : State) : Result :=
  scalar x.g s fun s =>
    let seq := (s.cur.sreg x.data.num5).toNat % 2 ^ 32
    let pos := (s.cur.sreg x.base.num5).toNat % 2 ^ 32
    match s.ctx? s.curCtx with
    | none => .next (s.answer true)
    | some c =>
      let hit := (c.tasks.filter fun t => t.tcb.spec && t.tcb.ts / 2 ^ 32 == seq && pos ≤ t.tcb.ts % 2 ^ 32
        && t.inTracker && !t.pastGrant).map (·.create)
      .next ((s.abortTasks s.curCtx hit).answer hit.isEmpty)

/-! ### Fence counters (R174, R175, R218, R219) -/

/-- A fence counter at home. -/
def State.counterAt (s : State) (k : CtxId) (cluster va : Nat) : Nat := leVal (s.homeRead k cluster va 8)

/-- R174, R219: an add at home, modulo 2^64, by the right to write. -/
def State.counterAdd (k : CtxId) (cluster va v : Nat) (s : State) : State :=
  s.homeWrite k cluster va (leBytes 8 ((leVal (s.homeReadFor .wr k cluster va 8) + v) % 2 ^ 64))

/-- R218. -/
def execFcwait (x : MemForm) (s : State) : Result :=
  scalar x.g s fun s =>
    let a := s.cur.ea x
    let v := (s.cur.sreg x.data.num5).toNat
    deviceAccess .load 8 a 8 s fun s =>
      if v ≤ s.counterAt s.curCtx s.cur.cluster a then .next s.advance
      else .next (s.waitFor (.counter a v))

/-- R219. The monitors count the add as a read and a write (R325). -/
def execFcadd (x : MemForm) (s : State) : Result :=
  scalar x.g s fun s =>
    let a := s.cur.ea x
    let v := (s.cur.sreg x.data.num5).toNat
    deviceAccess .add 8 a 8 s fun s =>
      let s1 := s.noteAccess s.cur.id s.curCtx s.cur.cluster [(a, 8)] (fun _ => true) .wr false
      .next (s1.counterAdd s.curCtx s.cur.cluster a v).advance

end Sys2Proof.Machine
end

