-- ==== Sys2Proof/Machine/Control.lean ====
section
/-! DEFINITION. The control instructions: lookups, table, group and system instructions (R85 to R97, R234). -/

namespace Sys2Proof.Machine

/-! ### Lookups -/

/-- R85. The seat is WAITING until the lookup returns. -/
def execNext (x : CtlForm) (s : State) : Result :=
  .next (s.wait (.lookup x.table.toNat (s.cur.lookupKey x.key) x.ind.toNat none))

/-- R86. -/
def execMatch (x : CtlForm) (s : State) : Result :=
  scalar x.g s fun s =>
    .next (s.wait (.lookup x.table.toNat (s.cur.lookupKey x.key) 0 (some (x.ind.toNat, x.subop.toNat % 32))))

/-! ### Table instructions (R87 to R90) -/

/-- A table instruction of a present table; an absent one traps (R87). -/
def onTable (op : Nat) (x : CtlForm) (s : State) (f : Context → Table → State → Result) : Result :=
  alloc (.ctl op x) s fun s => scalar x.g s fun s =>
    match s.ctx? s.curCtx with
    | none => .next (trapHere 0x02 (BitVec.ofNat 64 x.table.toNat) s)
    | some c => match c.table? x.table.toNat with
      | none => .next (trapHere 0x02 (BitVec.ofNat 64 x.table.toNat) s)
      | some t => f c t s

/-- The issuing thread's change of a table record. -/
def State.modTable (id : Nat) (f : Table → Table) (s : State) : State :=
  s.modCtx s.curCtx fun c => c.modTable id f

/-- An operation enters the directory (R31 to R33); the seat waits for the reply. -/
def enterTable (op : TableOp) (c : Context) (t : Table) (s : State) : Result :=
  let t' := t.enter c.nclusters op
  .next ((s.modTable t.id fun _ => t').wait (.tableOp t.id t'.seq (some t.busy)))

/-- R88: the entry or header that an index names. -/
def tableIndex (t : Table) (v : Word) : Option (Option Nat) :=
  let i := v.toNat % 2 ^ 32
  if i == 0xFFFFFFFF then some none else if i < 2 ^ t.sizeLog then some (some i) else none

/-- R88: %tinfo of a bad index. -/
def trapIndex (v : Word) (s : State) : State := trapHere 0x02 (BitVec.ofNat 64 (v.toNat % 2 ^ 32)) s

/-- R88. -/
def execTbw (x : CtlForm) (s : State) : Result :=
  onTable 0x011 x s fun c t s =>
    let v := s.cur.sreg x.key
    let img : BitVec 256 := (s.cur.vreg x.ind).truncate 256
    match tableIndex t v with
    | none => .next (trapIndex v s)
    | some none =>
      if img.toNat < 2 ^ 64 && headerOk t.sizeLog (img.truncate 64) then enterTable (.write none img) c t s
      else .next (trapField (.ctl 0x011 x) s)
    | some (some i) =>
      if entryOk img then enterTable (.write (some i) img) c t s else .next (trapField (.ctl 0x011 x) s)

/-- R89: what `TBR` gives of a shutter. -/
def tbrValue (t : Table) (sh : Shutter) (i : Option Nat) : Nat :=
  match i with
  | some i => (sh.entries.getD i 0).toNat
  | none =>
    let gen := sh.gen.getD 0xFFFFFFFF
    let pins := if sh.gen.isSome then (t.pins.filter fun p => p.gen == gen).length else 0
    sh.hdr.toNat + gen * 2 ^ 64 + pins % 2 ^ 32 * 2 ^ 96

/-- R89. -/
def execTbr (x : CtlForm) (s : State) : Result :=
  onTable 0x012 x s fun _ t s =>
    let v := s.cur.sreg x.key
    match tableIndex t v with
    | none => .next (trapIndex v s)
    | some i =>
      let cl := s.cur.tableCluster
      let sh := if x.subop == 0 then (t.copies[cl]?).map TableCopy.backS else t.shutterFor s.cur.id cl
      let val := (sh.map fun sh => tbrValue t sh i).getD 0
      .next (s.modCur fun h => h.setV x.ind (BitVec.ofNat 512 val)).advance

/-- R32, R90. -/
def execTbclr (x : CtlForm) (s : State) : Result := onTable 0x013 x s (enterTable .clear)
/-- R32, R90. -/
def execTbcopy (x : CtlForm) (s : State) : Result := onTable 0x014 x s (enterTable .copy)
/-- R33, R90. -/
def execTbflip (x : CtlForm) (s : State) : Result := onTable 0x015 x s (enterTable .flip)

/-- R35, R90. -/
def execTbpin (x : CtlForm) (s : State) : Result :=
  onTable 0x016 x s fun c t s =>
    let me := s.cur.id
    let wait (s : State) : Result := .next (s.wait (.tableOp t.id t.seq none))
    if (t.pinOf me).isSome then wait s
    else if (c.tables.filter fun u => (u.pinOf me).isSome).length ≥ 4 then .next (trapField (.ctl 0x016 x) s)
    else wait (s.modTable t.id fun t => { t with pins := t.pins ++ [⟨me, t.dirFront⟩] })

/-- R35, R90. -/
def execTbunpin (x : CtlForm) (s : State) : Result :=
  onTable 0x017 x s fun _ t s =>
    let me := s.cur.id
    .next ((s.modTable t.id fun t => { t with pins := t.pins.filter fun p => p.thread != me }).wait
      (.tableOp t.id t.seq none))

/-! ### Group instructions (R91 to R93) -/

/-- R91: the handle. -/
def Thread.handle (h : Thread) (x : CtlForm) : Nat := ((h.sreg x.key).toNat + x.subop.toNat % 2 ^ 16) % 2 ^ 16

/-- A group instruction: its handle, and the group that holds it (R20, R91). -/
def onGroup (x : CtlForm) (s : State) (f : Nat → Option Group → State → Result) : Result :=
  scalar x.g s fun s =>
    let h := s.cur.handle x
    if !validHandle h then .next (trapHere 0x02 (BitVec.ofNat 64 h) s)
    else
      let g := (s.part? s.cur.id.part).bind fun p => groupFor p.groups s.cur.id s.cur.cluster h
      f h g s

def State.modGroups (part : Nat) (f : List Group → List Group) (s : State) : State :=
  s.modPart part fun p => { p with groups := f p.groups }

/-- R21: groups a thread belongs to. -/
def State.memberships (s : State) (t : TId) : Nat :=
  ((s.part? t.part).map fun p => (p.groups.filter fun g => g.hasMember t).length).getD 0

/-- R21. A thread in four groups traps before it waits for a handle that another task's group holds (log entry 70). -/
def execGjoin (x : CtlForm) (s : State) : Result :=
  onGroup x s fun h g s =>
    let t := s.cur.id
    let full := s.memberships t ≥ 4
    match g with
    | none =>
      if full then .next (trapField (.ctl 0x028 x) s)
      else .next ((s.modGroups t.part fun gs =>
        gs ++ [⟨t.ctx, s.cur.cluster, h, t.task, [t.thread], false, [], [], []⟩]).answer false)
    | some g =>
      if g.hasMember t then .next (s.answer false)
      else if full then .next (trapField (.ctl 0x028 x) s)
      else if !g.ofTask t then .next (s.waitFor (.handleFree h))
      else if g.members.length ≥ 65535 then .next (s.answer true)
      else .next ((s.modGroups t.part (modWhere (fun g => g.named t.ctx s.cur.cluster h && g.ofTask t)
        fun g => { g with members := insertKey t.thread g.members })).answer false)

/-- R21, R22. -/
def execGleave (x : CtlForm) (s : State) : Result :=
  onGroup x s fun h g s =>
    let t := s.cur.id
    match g with
    | some g => .next (if g.hasMember t then s.leaveGroup t s.cur.cluster h else s).advance
    | none => .next s.advance

/-- R92. The code index moves as the arrival counts. -/
def execGbar (x : CtlForm) (s : State) : Result :=
  onGroup x s fun h g s =>
    let t := s.cur.id
    if (g.map fun g => g.hasMember t).getD false then
      .next (((s.modGroups t.part (modWhere (fun g => g.named t.ctx s.cur.cluster h && g.ofTask t)
        (Group.arrive t.thread))).answer false).wait (.barrier h))
    else .next (s.answer true)

/-- R93. -/
def execGsize (x : CtlForm) (s : State) : Result :=
  onGroup x s fun _ g s =>
    let n := match g with
      | some g => if g.ofTask s.cur.id then g.members.length else 0
      | none => 0
    .next (s.putS x.ind (BitVec.ofNat 64 n))

/-! ### System instructions (R94 to R97, R234) -/

/-- R94. -/
def execTrap (x : CtlForm) (s : State) : Result :=
  scalar x.g s fun s => .next (trapHere 0x07 (BitVec.ofNat 64 (x.subop.toNat % 2 ^ 16)) s)

/-- R94. -/
def execBrk (x : CtlForm) (s : State) : Result :=
  scalar x.g s fun s => .next (trapHere 0x0F (BitVec.ofNat 64 (x.subop.toNat % 2 ^ 16)) s)

/-- R95. The seat is WAITING until the target's cluster controller answers. -/
def execResume (x : CtlForm) (s : State) : Result :=
  scalar x.g s fun s =>
    .next (s.wait (.resume ((s.cur.sreg x.key).toNat % 2 ^ 32) (x.subop.toNat % 4)
      ((s.cur.sreg x.ind).toNat % 2 ^ 32)))

/-- R96. -/
def execNop (x : CtlForm) (s : State) : Result := scalar x.g s fun s => .next s.advance

/-- R97. -/
def execWaite (x : CtlForm) (s : State) : Result :=
  scalar x.g s fun s =>
    let n := x.subop.toNat % 2 ^ 24
    if n == 0 || s.cur.latch then
      .next ((s.modCur fun h => { h with latch := false }).answer s.cur.latch)
    else .next (s.wait (.event (s.time + n)))

/-- R234: the pages that an `XINV` names, by address: virtual for stage 1, intermediate for stage 2. -/
def xinvRange (h : Thread) (x : CtlForm) : Option (Nat × Nat) :=
  if x.subop.toNat % 4 == 0 then
    let a := (h.sreg x.key).toNat
    let n := (h.sreg x.ind).toNat
    if a % 4096 != 0 || n == 0 || n % 4096 != 0 || a + n > 2 ^ 48 then none else some (a, a + n)
  else some (0, 2 ^ 64)

/-- R234. Privileged: elsewhere it traps at step 5 of R57, before its guard. -/
def execXinv (x : CtlForm) (s : State) : Result :=
  if !((s.ctx? s.curCtx).map fun c => c.firmware).getD false then
    .next (trapHere 0x0A (Code.ctl 0x03F x).word s)
  else scalar x.g s fun s =>
    match xinvRange s.cur x with
    | none => .next (trapField (.ctl 0x03F x) s)
    | some (lo, hi) =>
      let whole := x.subop.toNat % 4 == 2
      let n := x.subop.toNat / 16 % 2 ^ 12
      let t := s.cur.id
      if !whole && (s.ctx? ⟨t.part, n⟩).isNone then .next (s.answer true)
      else
        let sh : Shoot := ⟨if whole then none else some n, x.subop.toNat / 4 % 4, lo, hi, .thread t⟩
        .next ((s.modPart t.part fun p => { p with shoots := p.shoots ++ [sh] }).wait .shootdown)

end Sys2Proof.Machine
end

