-- ==== Sys2Proof/Machine/Engines.lean ====
section
/-! DEFINITION. Engine commands as a core issues them: R235 to R238, R242 to R262, R274 to R276, R280. -/

namespace Sys2Proof.Machine

/-! ### Doors (R247 to R250) -/

/-- The cluster of the partition that a door key names. -/
def keyCluster (key : Word) : Nat := nbits key.toNat 24 12

/-- R249: does the door let a command through? `unit` 0 copy, 1 matrix; `need` in the places of [47:42]. -/
def Partition.doorOk (p : Partition) (unit need : Nat) (key : Word) : Bool :=
  let x := key.toNat
  let c := keyCluster key
  nbits x 0 24 == Crypto.doorCheck p.secret (x / 2 ^ 24) && nbits x 36 5 == p.num && c < p.clusters
    && nbits x 41 1 == unit && nbits x 48 8 == getAt 0 p.epochs (2 * c + unit) && nbits x 56 8 == 0
    && Nat.land (nbits x 42 6) need == need

/-- The rights a command needs, in the places of R247's [47:42] (R250, R275). -/
def Job.rights (j : Job) : Nat :=
  let window (spc : Space) : Nat := if isChip spc then 0 else 4
  let rd (spc : Space) : Nat := if spc == .sp then 1 else window spc
  let wr (spc : Space) : Nat := if spc == .sp then 2 else window spc
  match j.op with
  | .cpy d => Nat.lor (rd j.space) (wr d.dSpace)
  | .cpyf d => Nat.lor (rd j.space) (wr d.dSpace)
  | .rput d => Nat.lor (rd j.space) (wr d.dSpace)
  | .mwld _ => 8
  | .mwswap => 8
  | .mzero _ _ => 16
  | .mstream _ _ _ _ => 16
  | .mdrain _ _ _ _ _ => 32
  | _ => 0

def EngUnit.code (u : EngUnit) : Nat :=
  match u with
  | .copy => 0 | .matrix => 1 | .feed => 2 | .coll => 3

/-- Does a job's command pass its door, where it has one? -/
def State.doorOk (s : State) (part : Nat) (j : Job) : Bool :=
  match j.door, s.part? part with
  | some key, some p => p.doorOk j.unit.code j.rights key
  | _, _ => true

/-! ### Issuing a command -/

/-- Does a job take an entry of its engine's queue: from its issue to its end, unless its door will refuse it; a
collective one until it is held for its round (R237, log entry 66)? -/
def Partition.takesEntry (p : Partition) (j : Job) : Bool :=
  match j.place with
  | .message => match j.door with
    | some key => p.doorOk j.unit.code j.rights key
    | none => true
  | .finished => false
  | _ => j.unit != .coll

/-- Entries of an engine's queue that are taken (R237); a saved context's jobs are replay entries (R240). -/
def Partition.queueUsed (p : Partition) (target unit : Nat) : Nat :=
  (((p.ctxs.filter fun c => c.loaded).flatMap fun c => c.jobs).filter fun j =>
    j.target == target && j.unit.code == unit && p.takesEntry j).length

/-- Active feeds of a cluster (R256). -/
def Context.feeds (c : Context) (cluster : Nat) : Nat :=
  (c.jobs.filter fun j => j.unit == .feed && j.cluster == cluster && !j.isFinal).length

/-- How many jobs ago an id was issued last, given the number of the next job (R238). -/
def jobAge (next id : Nat) : Nat := if jobId next > id then jobId next - id else jobId next + 65535 - id

/-- A finished job without what a thread's old ids name: of merged commands (R246) each issuer's id goes in its own time,
and the next issuer's stands for the job. Nothing where no id is left. -/
def Job.forget (old : TId × Nat → Bool) (j : Job) : Option Job :=
  let rest := j.merged.filter fun m => !old (m.1, m.2.1)
  if !old (j.thread, j.id) then some { j with merged := rest }
  else match rest with
    | [] => none
    | m :: ms => some { j with thread := m.1, id := m.2.1, core := m.2.2, merged := ms }

/-- Only the thread's last 256 jobs keep their status (R238). -/
def keepJobs (t : TId) (next : Nat) (js : List Job) : List Job :=
  js.filterMap fun j =>
    if j.isFinal then j.forget fun i => i.1 == t && decide (next - i.2 > 256) else some j

/-- The number of the thread's job that an id names: one of its last 256, and none that it never issued (R238). -/
def State.ownNumber (s : State) (id : Nat) : Option Nat :=
  let age := jobAge s.cur.jobNext id
  if id == 0 || age > 256 || s.cur.jobNext ≤ age then none else some (s.cur.jobNext - age)

/-- The thread's job that an id names. -/
def State.ownJob (s : State) (id : Nat) : Option Job :=
  (s.ownNumber id).bind fun n => (s.ctx? s.curCtx).bind fun c => c.job? s.cur.id n

/-- The engine, of its kind, that runs the jobs of a cluster's threads (R237, log entry 66): the cluster's own copy unit or
matrix engine, the feed controller of the stack beside it, the collective engine of the group. -/
def JobOp.engine (cluster : Nat) (op : JobOp) : Nat :=
  match op with
  | .feed _ _ _ => cluster / Config.stackClusters
  | .coll d => d.group
  | _ => cluster

/-- The job a command of the issuing thread makes. -/
def State.newJob (s : State) (op : JobOp) (unit : EngUnit) (ea : Nat) (x : MemForm) (door : Option Word) : Job where
  thread := s.cur.id
  id := s.cur.jobNext
  op := op
  ea := ea
  space := x.space
  scope := x.scope
  cluster := s.cur.cluster
  core := s.cur.core
  cls := ((s.task? s.cur.id.taskId).map (·.curClass)).getD 0
  arr := 0
  door := door
  target := match door with
    | some key => keyCluster key
    | none => op.engine
        (((s.ctx? s.curCtx).map fun c => c.coreTable.getD s.cur.cluster s.cur.cluster).getD s.cur.cluster)
  unit := unit
  place := .message
  status := 0
  bytes := 0
  row := 0
  part := []
  stopHead := none
  moved := []
  merged := []
  cameAt := 0
  flags := 0

/-- Why a command waits before it is issued: range-scoreboard entries (R181), a queue entry (R237), a feed
(R256). A command its door refuses waits for none of them. -/
def State.commandWait (s : State) (j : Job) : Option Cond :=
  match s.part? s.curCtx.part, s.ctx? s.curCtx with
  | some p, some c =>
    let need := j.spans.length
    if need != 0 && (c.heldSpans j.thread).length + need > 16 then some (.scoreRoom need)
    else if j.unit == .feed && c.feeds j.cluster ≥ Config.feedPlaces then some .feedRoom
    else if p.queueUsed j.target j.unit.code ≥ Config.jobQueue && s.doorOk s.curCtx.part j then
      some (.jobRoom j.target j.unit.code)
    else none
  | _, _ => none

/-- The command is issued: its job joins the context, its id goes to DATA (R238). -/
def State.launch (j : Job) (dst : BitVec 5) (s : State) : State :=
  let next := s.cur.jobNext + 1
  let s1 := s.modCtx s.curCtx fun c => { c with jobs := keepJobs j.thread next c.jobs ++ [j] }
  (s1.modCur fun h => { h with jobNext := next }).putS dst (BitVec.ofNat 64 (jobId j.id))

/-- Issues a command, or waits. -/
def issue (j : Job) (dst : BitVec 5) (s : State) : Result :=
  match s.commandWait j with
  | some c => .next (s.waitFor c)
  | none => .next (s.launch j dst)

/-! ### Copy commands (R235, R243 to R245, R254) -/

/-- The engine descriptor (R244). -/
def descOf (v : VWord) : Desc :=
  let x := v.toNat
  let spc (lo : Nat) := parseSpace (BitVec.ofNat 2 (nbits x lo 2))
  ⟨nbits x 0 64, nbits x 64 64, nbits x 128 32, nbits x 160 32, nbits x 192 32, nbits x 224 32, spc 256, spc 258,
    BitVec.ofNat 64 (nbits x 320 64)⟩

def descReserved (v : VWord) : Bool := nbits v.toNat 260 60 != 0 || nbits v.toNat 384 128 != 0

def Desc.sized (d : Desc) : Bool :=
  1 ≤ d.rowLen && d.rowLen ≤ 1048576 && 1 ≤ d.nRows && d.nRows ≤ 65536

/-- A copy command: registers, guard, descriptor, then issue. -/
def copyCmd (opc : Nat) (mk : Desc → JobOp) (ok : Desc → Nat → Bool) (x : MemForm) (s : State) : Result :=
  alloc (.mem opc x) s fun s => scalar x.g s fun s =>
    let v := s.cur.vreg (reg3 x)
    let d := descOf v
    let ea := s.cur.eaCarved x
    let door := if d.door == 0 then none else some d.door
    if descReserved v || !d.sized || !ok d ea || (door.isSome && d.dSpace == .tcm) then
      .next (trapField (.mem opc x) s)
    else issue (s.newJob (mk d) .copy ea x door) x.data.num5 s

/-- R244's unused fields of `CPY` and `CPYF`. -/
def cpyOk (d : Desc) : Bool := d.idx == 0 && d.iSpace == .gm

/-- R245. -/
def execCpy (x : MemForm) (s : State) : Result := copyCmd 0x0C0 .cpy (fun d _ => cpyOk d) x s
/-- R245. -/
def execCpyf (x : MemForm) (s : State) : Result :=
  copyCmd 0x0C1 .cpyf (fun d ea => cpyOk d && ea % 4 == 0 && d.rowLen % 4 == 0 && d.sPitch % 4 == 0) x s
/-- R235. -/
def execGath (x : MemForm) (s : State) : Result := copyCmd 0x0C2 .gath (fun d _ => d.idx % 4 == 0 && d.door == 0) x s
/-- R245. -/
def execScat (x : MemForm) (s : State) : Result := copyCmd 0x0C3 .scat (fun d _ => d.idx % 4 == 0 && d.door == 0) x s
/-- R245. -/
def execFill (x : MemForm) (s : State) : Result :=
  copyCmd 0x0C4 .fill (fun d _ => d.dst == 0 && d.sPitch == 0 && d.dSpace == .gm && d.iSpace == .gm && d.door == 0) x s
/-- R254. -/
def execRput (x : MemForm) (s : State) : Result :=
  copyCmd 0x0C7 .rput (fun d _ => cpyOk d && d.sPitch == 0 && d.dPitch == 0 && d.nRows == 1 && isChip d.dSpace
    && d.dst % 64 == 0) x s

/-! ### Jobs as their thread sees them -/

/-- R236: completion without error. -/
def goodStatus (st : Nat) : Bool := st == 0x10 || st == 0x18

/-- R236. -/
def execJwait (x : MemForm) (s : State) : Result :=
  scalar x.g s fun s =>
    let id := (s.cur.sreg x.data.num5).toNat % 2 ^ 16
    match s.ownJob id with
    | none => .next (s.answer true)
    | some j =>
      if j.isFinal then .next (s.answer (!goodStatus j.status))
      else .next (s.waitFor (.jobFinal ((s.ownNumber id).getD 0)))

/-- R242. -/
def execJstat (x : MemForm) (s : State) : Result :=
  scalar x.g s fun s =>
    let id := (s.cur.sreg x.base.num5).toNat % 2 ^ 16
    let v := match s.ownJob id with
      | none => 0xFF + id * 2 ^ 16
      | some j => j.status + id * 2 ^ 16 + min j.bytes 0xFFFFFFFF * 2 ^ 32
    .next (s.putS x.data.num5 (BitVec.ofNat 64 v))

/-! ### Byte rings as a thread takes from them (R255) -/

/-- A header read by the issuing thread, with the checks of R194 and the stall of a load on a held range (R181, log
entry 35). -/
def State.ringHeader (s : State) (spc : Space) (a : Nat) : Except Stop Nat :=
  match s.eltStop .load spc 8 ⟨0, a, 8⟩ with
  | some st => .error st
  | none =>
    if s.spanHeld ⟨spc, a, 8⟩ then .error (.hold (.scoreClear spc a 8)) else .ok (leVal (s.load spc a 8))

/-- TAIL written, as a release (R180). -/
def State.setTail (x : MemForm) (cb : Nat) (r : RingCb) (t : Nat) (s : State) : State :=
  if t == r.tail then s
  else (s.store x.space (cb + 24) (leBytes 8 t)).noteRelease { x with order := .rel }

/-- Take and poll. -/
def ringTake (poll : Bool) (x : MemForm) (s : State) : Result :=
  scalar x.g s fun s =>
    let cb := s.cur.ea x
    memAccess x.space .load 64 [⟨0, cb, 64⟩] s fun s =>
      let r := ringCb (s.load x.space cb 64)
      let d := x.data.num5
      match findRecord (s.ringHeader x.space) r r.fuel r.tail with
      | .error st => s.raiseStop x.space false 0 st
      | .ok (.empty t) =>
        let s1 := s.setTail x cb r t
        if poll then .next (s1.answer true) else .next (s1.waitFor (.ringData x.space cb))
      | .ok (.bad t h) =>
        .next (((s.setTail x cb r t).modCur fun w =>
          (w.setS d (BitVec.ofNat 64 h)).setS (d + 1) 0).answer true)
      | .ok (.data t h) =>
        .next (((s.setTail x cb r t).modCur fun w =>
          (w.setS d (BitVec.ofNat 64 h)).setS (d + 1) (BitVec.ofNat 64 (r.at t + 8))).answer false)

/-- R255, take. -/
def execRgetTake (x : MemForm) (s : State) : Result := ringTake false x s
/-- R255, poll. -/
def execRgetPoll (x : MemForm) (s : State) : Result := ringTake true x s

/-- R255, done. Its control block is read, and TAIL alone written, so that a line with an error stops it as a
read-modify-write does (R194 step 5). -/
def execRgetDone (x : MemForm) (s : State) : Result :=
  scalar x.g s fun s =>
    let cb := s.cur.ea x
    memAccess x.space .add 64 [⟨0, cb, 64⟩] s fun s =>
      let r := ringCb (s.load x.space cb 64)
      if r.head == r.tail then .next (s.answer true)
      else match s.ringHeader x.space (r.at r.tail) with
        | .error st => s.raiseStop x.space false 0 st
        | .ok h => .next ((s.setTail x cb r ((r.tail + recSize (h % 2 ^ 32)) % 2 ^ 64)).answer false)

/-! ### Feeds (R256, R258) -/

/-- R256. The control block's alignment is not tested (log entry 100). -/
def execFeed (x : MemForm) (s : State) : Result :=
  alloc (.mem 0x0C9 x) s fun s => scalar x.g s fun s =>
    let v := (s.cur.vreg (reg3 x)).toNat
    let w := windowOf (v % 2 ^ 128)
    let trows := nbits v 128 16
    let store := bitAt v 144
    let ok := w.valid && w.mode == (if store then 2 else 1) && 1 ≤ trows && v / 2 ^ 145 == 0
      && w.rowLen * trows ≤ 1048576
    if !ok then .next (trapField (.mem 0x0C9 x) s)
    else issue (s.newJob (.feed w trows store) .feed (s.cur.eaCarved x) x none) x.data.num5 s

/-- R258. -/
def execUnfeed (x : MemForm) (s : State) : Result :=
  scalar x.g s fun s =>
    let id := (s.cur.sreg x.data.num5).toNat % 2 ^ 16
    match s.ownJob id with
    | some j =>
      if j.unit == .feed && !j.isFinal then
        match s.stopFeed s.curCtx j with
        | .next s1 => .next (s1.answer false)
        | r => r
      else .next (s.answer true)
    | none => .next (s.answer true)

/-! ### Collectives (R259, R260) -/

def collOf (x : Nat) : CollDesc :=
  ⟨nbits x 0 64, nbits x 64 32, nbits x 96 4, nbits x 100 4, nbits x 104 16, nbits x 128 32, nbits x 160 32,
    parseSpace (BitVec.ofNat 2 (nbits x 192 2))⟩

/-- R259's rows. -/
def collOk (x : Nat) : Bool :=
  let d := collOf x
  1 ≤ d.count && d.count ≤ 16777216 && [2, 3, 6, 7, 8, 9].contains d.ety && (d.op ≤ 5 || d.op == 7)
    && 0x8000 ≤ d.group && d.group ≤ 0x8FFF && nbits x 120 8 == 0 && (d.op == 7 || (d.entry == 0 && d.arg == 0))
    && nbits x 192 2 < 2 && x / 2 ^ 194 == 0

/-- R260: what must agree among the members of a round. -/
def CollDesc.same (a b : CollDesc) : Bool :=
  a.op == b.op && a.count == b.count && a.ety == b.ety && a.entry == b.entry && a.arg == b.arg

def Round.isAt (r : Round) (t : TId) (handle : Nat) : Bool :=
  r.ctx == t.ctx && r.task == t.task && r.handle == handle

/-- R260: the issued command joins its round, opens one, or ends in error. -/
def State.joinRound (j : Job) (d : CollDesc) (s : State) : State :=
  let t := j.thread
  match s.part? t.part with
  | none => s
  | some p =>
    match p.groups.find? fun g => g.named t.ctx j.cluster d.group && g.hasMember t with
    | none => s.finishJob t.ctxId j 0x17
    | some g =>
      match p.rounds.find? fun r => r.isAt t d.group with
      | none => s.modPart t.part fun p => { p with
          rounds := p.rounds ++ [⟨t.ctx, t.task, d.group, g.members, d, [(t.thread, j.id)], false, none⟩] }
      | some r =>
        if !r.ranks.contains t.thread then s.finishJob t.ctxId j 0x17
        else
          let r' := { r with issued := r.issued ++ [(t.thread, j.id)] }
          let s1 := s.modPart t.part fun p => { p with rounds := modWhere (fun r => r.isAt t d.group) (fun _ => r') p.rounds }
          if r.desc.same d then s1 else s1.failRound t.part r'

/-- R259, R260. A second `COLL` of a thread waits for the round it is in to end (log entry 14). -/
def execColl (x : MemForm) (s : State) : Result :=
  alloc (.mem 0x0CB x) s fun s => scalar x.g s fun s =>
    let v := (s.cur.vreg (reg3 x)).toNat
    let d := collOf v
    let t := s.cur.id
    if !collOk v then .next (trapField (.mem 0x0CB x) s)
    else
      let earlier := (s.part? t.part).bind fun p => (p.rounds.find? fun r => r.isAt t d.group).bind fun r =>
        r.issued.find? fun i => i.1 == t.thread
      match earlier with
      | some i => .next (s.waitFor (.jobFinal i.2))
      | none =>
        let j := s.newJob (.coll d) .coll (s.cur.eaCarved x) x none
        match s.commandWait j with
        | some c => .next (s.waitFor c)
        | none => .next ((s.launch j x.data.num5).joinRound j d)

/-! ### Matrix commands (R262, R274 to R280) -/

/-- The row descriptor (R262): FIRST, COUNT, SCALE, where it is well made. -/
def rowDesc (drain : Bool) (w : Word) : Option (Nat × Nat × Int) :=
  let x := w.toNat
  let first := nbits x 0 8
  let count := nbits x 8 9
  let scale := toSigned 8 (nbits x 24 8)
  if 1 ≤ count && count ≤ 256 && first + count ≤ 256 && nbits x 17 7 == 0 && x / 2 ^ 32 == 0
      && (if drain then -8 ≤ scale && scale ≤ 7 else scale == 0) then
    some (first, count, scale)
  else none

/-- A matrix command: the door's key and its space (R275), the row descriptor and ea (R280), then issue. `mk`
makes the job from the row descriptor, `none` where that is malformed. -/
def matrixCmd (opc : Nat) (usesEa wr : Bool) (mk : Thread → Option JobOp) (x : MemForm) (s : State) : Result :=
  scalar x.g s fun s =>
    let viaDoor := x.order == .acq
    let ea := if usesEa then s.cur.eaCarved x else 0
    if viaDoor && x.space == .tcm then .next (trapField (.mem opc x) s)
    else match mk s.cur with
      | none => .next (trapField (.mem opc x) s)
      | some op =>
        if ea % 4 != 0 then .next (takeTrap 0x0B (BitVec.ofNat 64 ea) (s.memInfo x.space 0 wr) false s)
        else
          let door := if viaDoor then some (s.cur.sreg (x.data.num5 + 1)) else none
          issue (s.newJob op .matrix ea x door) x.data.num5 s

/-- The tag a `MWLD` writes (R272). -/
def mwldTag (x : MemForm) : Nat :=
  if x.low8 == 1 then (if x.t == .e2m1 then 14 else 15) else x.t.num

/-- R276. -/
def execMwld (x : MemForm) (s : State) : Result :=
  matrixCmd 0x100 true false (fun _ => some (.mwld (mwldTag x))) x s
/-- R277. -/
def execMwswap (x : MemForm) (s : State) : Result := matrixCmd 0x101 false false (fun _ => some .mwswap) x s
/-- R278. -/
def execMzero (x : MemForm) (s : State) : Result :=
  matrixCmd 0x102 false false
    (fun h => (rowDesc false (h.sreg x.data.num5)).map fun r => .mzero r.1 r.2.1) x s
/-- R279. -/
def execMdrain (x : MemForm) (s : State) : Result :=
  matrixCmd 0x103 true true
    (fun h => (rowDesc true (h.sreg x.data.num5)).map fun r => .mdrain r.1 r.2.1 r.2.2 x.t.num x.low8.toNat) x s

/-- R278: a stream of a pair. The tensor scale of an MX pair is read as the instruction issues. -/
def streamCmd (pair : Nat) (x : MemForm) (s : State) : Result :=
  matrixCmd (0x110 + pair) true false
    (fun h => (rowDesc false (h.sreg x.data.num5)).map fun r =>
      .mstream pair r.1 r.2.1 (if isMx (pairTags pair).2 then (h.sreg (reg3 x)).toNat % 2 ^ 32 else 0)) x s

/-- R278. -/
def execMstreamBf16Bf16 (x : MemForm) (s : State) : Result := streamCmd 0 x s
/-- R278. -/
def execMstreamFp16Fp16 (x : MemForm) (s : State) : Result := streamCmd 1 x s
/-- R278. -/
def execMstreamE4m3E4m3 (x : MemForm) (s : State) : Result := streamCmd 2 x s
/-- R278. -/
def execMstreamE4m3E5m2 (x : MemForm) (s : State) : Result := streamCmd 3 x s
/-- R278. -/
def execMstreamE5m2E4m3 (x : MemForm) (s : State) : Result := streamCmd 4 x s
/-- R278. -/
def execMstreamE5m2E5m2 (x : MemForm) (s : State) : Result := streamCmd 5 x s
/-- R278. -/
def execMstreamMxe4m3Mxe4m3 (x : MemForm) (s : State) : Result := streamCmd 6 x s
/-- R278. -/
def execMstreamMxe2m1Mxe2m1 (x : MemForm) (s : State) : Result := streamCmd 7 x s
/-- R278. -/
def execMstreamMxe2m1Mxe4m3 (x : MemForm) (s : State) : Result := streamCmd 8 x s
/-- R116. -/
def execMstreamI8I8 (x : MemForm) (s : State) : Result := streamCmd 9 x s

end Sys2Proof.Machine
end

