-- ==== Sys2Proof/Machine/Noise.lean ====
section
/-! DEFINITION. The generators: Philox-4x32-10 (R110, R299) with the constants of its published
definition (PRESUMED, log entry 8), and the Gumbel value of R299. -/

namespace Sys2Proof.Machine

/-- One round of Philox-4x32 on four 32-bit words under two key words. -/
def philoxRound (k0 k1 : Nat) (c : Nat × Nat × Nat × Nat) : Nat × Nat × Nat × Nat :=
  let (c0, c1, c2, c3) := c
  let p0 := 0xD2511F53 * c0
  let p1 := 0xCD9E8D57 * c2
  let b := 2 ^ 32
  (Nat.xor (Nat.xor (p1 / b) c1) k0, p1 % b, Nat.xor (Nat.xor (p0 / b) c3) k1, p0 % b)

/-- n rounds, the key raised between rounds. -/
def philoxGo : Nat → Nat → Nat → Nat × Nat × Nat × Nat → Nat × Nat × Nat × Nat
  | 0, _, _, c => c
  | n + 1, k0, k1, c =>
    philoxGo n ((k0 + 0x9E3779B9) % 2 ^ 32) ((k1 + 0xBB67AE85) % 2 ^ 32) (philoxRound k0 k1 c)

/-- Word i of the block of a counter of four words under `%seed`. -/
def philox (seed : Word) (c0 c1 c2 c3 i : Nat) : Nat :=
  let b := 2 ^ 32
  let (w0, w1, w2, w3) :=
    philoxGo 10 (seed.toNat % b) (seed.toNat / b) (c0 % b, c1 % b, c2 % b, c3 % b)
  match i % 4 with
  | 0 => w0
  | 1 => w1
  | 2 => w2
  | _ => w3

/-- The series t + t³/3 + t⁵/5 + … of atanh, all in units of 2^−128. -/
def atanhGo (t2 : Nat) : Nat → Nat → Nat → Nat → Nat
  | 0, _, _, acc => acc
  | k + 1, p, n, acc => atanhGo t2 k (p * t2 / 2 ^ 128) (n + 2) (acc + p / n)

/-- ln m of a magnitude m·2^e, m not zero, in units of 2^−128. -/
def lnMag (m : Nat) (e : Int) : Int :=
  let k := Nat.log2 m
  let one := 2 ^ k
  let t := (m - one) * 2 ^ 128 / (m + one)
  let a := atanhGo (t * t / 2 ^ 128) 64 t 1 0
  (e + k) * (ln2q / 2 ^ 128 : Nat) + 2 * (a : Int)

/-- −ln(−ln x) for x = (w + 0.5)·2^−32, in units of 2^−128. -/
def gumbel (w : Nat) : Int :=
  -(lnMag (-(lnMag (2 * w + 1) (-33))).toNat (-128))

/-- Twice the unit in the last place of an fp32 value near g, or 2^−22 if larger (R299), in units of
2^−128. -/
def gumbelBound (g : Int) : Nat :=
  max (2 ^ 106) (2 ^ (Nat.log2 (max 1 g.natAbs) - 22))

/-- R299: the g used is the exact one moved by a deviation the spec leaves open within the bound, and lies
in [−3.14, 22.88]. -/
def gumbelUsed (w : Nat) (dev : Int) : FVal :=
  let g := gumbel w
  let b : Int := gumbelBound g
  let u := g + max (-b) (min b dev)
  let lo : Int := -(314 * 2 ^ 128 / 100)
  let hi : Int := 2288 * 2 ^ 128 / 100
  let v := max lo (min hi u)
  .fin (v < 0) v.natAbs (-128)

end Sys2Proof.Machine
end

