-- ==== Sys2Proof/Machine/Store.lean ====
section
/-! DEFINITION. The sequence state store (R264, R288 to R296), combines (R265, R266, R300), Gumbel noise
(R298, R299), grammar masks (R267, R268), the tokenizer (R302 to R304) and batching lists (R269, R270,
R305, R306). -/

namespace Sys2Proof.Machine

/-! ### Pages and references (R288) -/

def Context.seq? (c : Context) (n : Nat) : Option Sequence := c.seqs.find? fun q => q.num == n

def Context.modSeq (n : Nat) (f : Sequence → Sequence) (c : Context) : Context :=
  { c with seqs := modWhere (fun q => q.num == n) f c.seqs }

/-- A page's reference count: the maps and snapshots of the context that name it. -/
def Context.refs (c : Context) (page : Nat) : Nat :=
  (c.seqs.flatMap fun q => (q.map :: q.ring.map (·.map)).map fun m => (m.filter (· == some page)).length).foldl (· + ·) 0

/-- Pages that nothing names return to the pool. -/
def State.reclaim (k : CtxId) (s : State) : State :=
  match s.ctx? k with
  | none => s
  | some c =>
    let keep := c.pages.filter fun p => c.refs p.page != 0
    let freed := c.pages.length - keep.length
    let s1 := s.modCtx k fun c => { c with pages := keep }
    s1.modPart k.part fun p => { p with poolFree := p.poolFree + freed }

def Context.page? (c : Context) (n : Nat) : Option StatePage := c.pages.find? fun p => p.page == n

/-- Bytes of a sequence's state; a zero entry reads as zero bytes. -/
def Context.stateBytes (c : Context) (q : Sequence) (off n : Nat) : List Byte :=
  (pieces off n).flatMap fun p =>
    match q.map.getD (p.1 / 4096) none with
    | none => List.replicate p.2 0
    | some pg => match c.page? pg with
      | some d => readBytes d.data (p.1 % 4096) p.2
      | none => List.replicate p.2 0

/-- The lines with an error of the page of a map entry, as byte offsets within the state. -/
def Context.badBytes (c : Context) (q : Sequence) (entry : Nat) : List Nat :=
  match (q.map.getD entry none).bind c.page? with
  | some d => d.bad.map fun l => entry * 4096 + l * 64
  | none => []

/-- The first byte of a range whose line has an error (R292). -/
def Context.badRead (c : Context) (q : Sequence) (off n : Nat) : Option Nat :=
  (List.range n).find? fun i => (c.badBytes q ((off + i) / 4096)).contains ((off + i) / 64 * 64)

/-- The map entries that a save must give fresh pages (R292). -/
def Context.needPage (c : Context) (q : Sequence) (p : Nat × Nat) : Bool :=
  match q.map.getD (p.1 / 4096) none with
  | none => true
  | some pg => c.refs pg > 1

/-- The first byte with an error among the old pages that a save copies: those of entries in need that it does not
write whole (R292). -/
def Context.badCopy (c : Context) (q : Sequence) (off n : Nat) : Option Nat :=
  (((pieces off n).filter fun p => c.needPage q p && p.2 != 4096).flatMap fun p =>
    (c.badBytes q (p.1 / 4096)).foldl (fun ks k => insertKey k ks) []).head?

/-- Gives a map entry a page of the pool, holding a copy of the old one or zeros. -/
def State.freshPage (k : CtxId) (num entry : Nat) (s : State) : State :=
  match s.part? k.part, s.ctx? k with
  | some p, some c =>
    match c.seq? num with
    | none => s
    | some q =>
      let old := ((q.map.getD entry none).bind c.page?).map fun d => d.data
      let s1 := s.modPart k.part fun p => { p with poolFree := p.poolFree - 1, poolNext := p.poolNext + 1 }
      s1.modCtx k fun c => { c.modSeq num (fun q => { q with map := q.map.set entry (some p.poolNext) }) with
        pages := c.pages ++ [⟨p.poolNext, old.getD [], []⟩] }
  | _, _ => s

/-- Writes a part of one page; a line written whole has no error any more. -/
def State.pageWrite (k : CtxId) (num entry off : Nat) (bs : List Byte) (s : State) : State :=
  match (s.ctx? k).bind fun c => (c.seq? num).bind fun q => q.map.getD entry none with
  | none => s
  | some pg => s.modCtx k fun c => { c with
      pages := modWhere (fun d => d.page == pg) (fun d => { d with
        data := writeBytes d.data off bs
        bad := d.bad.filter fun l => !wholeLine off bs.length l }) c.pages }

/-! ### State-store instructions -/

/-- A state-store instruction on an open sequence; c15 := 1 otherwise (R290). -/
def onSeq (n : Nat) (s : State) (f : Context → Sequence → State → Result) : Result :=
  match (s.ctx? s.curCtx).bind fun c => (c.seq? n).map fun q => (c, q) with
  | none => .next (s.answer true)
  | some (c, q) => f c q s

/-- The sequence that a register names. -/
def Thread.low32 (h : Thread) (n : BitVec 5) : Nat := (h.sreg n).toNat % 2 ^ 32

/-- R291. -/
def execSsopen (x : MemForm) (s : State) : Result :=
  scalar x.g s fun s =>
    let n := s.cur.low32 x.data.num5
    let cfg := (s.cur.sreg x.base.num5).toNat
    let np := nbits cfg 0 9
    let rl := nbits cfg 16 3
    if !(1 ≤ np && np ≤ 256 && nbits cfg 9 7 == 0 && 3 ≤ rl && rl ≤ 6 && cfg / 2 ^ 19 == 0) then
      .next (trapField (.mem 0x180 x) s)
    else match s.ctx? s.curCtx with
      | none => .next (s.answer true)
      | some c =>
        if (c.seq? n).isSome || c.seqs.length ≥ 65536 then .next (s.answer true)
        else .next ((s.modCtx s.curCtx fun c => { c with
          seqs := c.seqs ++ [⟨n, rl, List.replicate np none, []⟩] }).answer false)

/-- Steps 1 to 3 of R292, shared by both moves: the range, once the on-chip side is good. -/
def ssRange (opc : Nat) (wr : Bool) (x : MemForm) (s : State) (f : Nat → Nat → Nat → State → Result) : Result :=
  scalar x.g s fun s =>
    let a := s.cur.ea x
    let range := (s.cur.sreg (x.data.num5 + 1)).toNat
    let off := range % 2 ^ 32
    let len := range / 2 ^ 32
    let trap (cause addr : Nat) : Result := s.raiseStop x.space wr 0 (.trap cause addr false)
    if a % 64 != 0 then trap 0x0B a
    else if len != 0 && a + len > s.cur.limit x.space then trap 0x0A (max a (s.cur.limit x.space))
    else if off % 64 != 0 || len % 64 != 0 then .next (trapField (.mem opc x) s)
    else f a off len s

/-- The trap of an uncorrectable error, its byte i counted from the start of the range, of which a byte that only the
copy of an old page reads may lie outside (R292, log entry 63). -/
def trapPage (a : Nat) (i : Int) (wr : Bool) (x : MemForm) (s : State) : State :=
  takeTrap 0x0C (BitVec.ofInt 64 (a + i)) (s.memInfo x.space 0 wr) false s

/-- R292. It writes as an engine job, a thread of its own (R191), and so waits for no held range of its thread (R181). -/
def execSsload (x : MemForm) (s : State) : Result :=
  ssRange 0x181 true x s fun a off len s =>
    onSeq (s.cur.low32 x.data.num5) s fun c q s =>
      if off + len > q.map.length * 4096 then .next (trapField (.mem 0x181 x) s)
      else if len == 0 then .next (s.answer false)
      else match c.badRead q off len with
        | some i => .next (trapPage a i true x s)
        | none => .next ((s.chipWrite (s.curCtx, s.cur.cluster, s.cur.core) x.space a
            (c.stateBytes q off len)).answer false)

/-- R292. The source is read as a load of it is (R194 step 5), and a range that a job of the thread holds makes it wait
before that (log entries 35 and 88). -/
def execSssave (x : MemForm) (s : State) : Result :=
  ssRange 0x182 false x s fun a off len s =>
    onSeq (s.cur.low32 x.data.num5) s fun c q s =>
      let need := (pieces off len).filter (c.needPage q)
      if off + len > q.map.length * 4096 then .next (trapField (.mem 0x182 x) s)
      else if need.length > ((s.part? s.curCtx.part).map fun p => p.poolFree).getD 0 then .next (s.answer true)
      else if len == 0 then .next (s.answer false)
      else if s.spanHeld ⟨x.space, a, len⟩ then .next (s.waitFor (.scoreClear x.space a len))
      else match s.chipBad x.space .load a len, c.badCopy q off len with
        | some b, _ => .next (trapPage b 0 false x s)
        | none, some b => .next (trapPage a (b - off) false x s)
        | none, none =>
          let k := s.curCtx
          let src := s.chip x.space a len
          let s1 := need.foldl (fun s p => s.freshPage k q.num (p.1 / 4096)) s
          let s2 := (pieces off len).foldl (fun s p =>
            s.pageWrite k q.num (p.1 / 4096) (p.1 % 4096) ((src.drop (p.1 - off)).take p.2)) s1
          .next ((s2.reclaim k).answer false)

def Sequence.snap? (q : Sequence) (pos : Nat) : Option Snapshot := q.ring.find? fun x => x.pos == pos

/-- R293: the ring with the current map recorded at a position; none where a later one stands. -/
def Sequence.snap (q : Sequence) (pos : Nat) : Option Sequence :=
  if (q.snap? pos).isSome then
    some { q with ring := modWhere (fun x => x.pos == pos) (fun x => { x with map := q.map }) q.ring }
  else if q.ring.any fun x => pos < x.pos then none
  else
    let kept := if q.ring.length ≥ 2 ^ q.ringLog then q.ring.drop 1 else q.ring
    some { q with ring := kept ++ [⟨pos, q.map⟩] }

/-- R293. -/
def execSsnap (x : MemForm) (s : State) : Result :=
  scalar x.g s fun s =>
    onSeq (s.cur.low32 x.data.num5) s fun _ q s =>
      match q.snap (s.cur.low32 x.base.num5) with
      | none => .next (s.answer true)
      | some q' =>
        .next (((s.modCtx s.curCtx fun c => c.modSeq q.num fun _ => q').reclaim s.curCtx).answer false)

/-- R264: the trap of an absent snapshot. -/
def trapSnapshot (seq pos : Nat) (s : State) : State := trapHere 0x0D (BitVec.ofNat 64 (seq * 2 ^ 32 + pos)) s

/-- R264. -/
def execSsrewind (x : MemForm) (s : State) : Result :=
  scalar x.g s fun s =>
    onSeq (s.cur.low32 x.data.num5) s fun _ q s =>
      let pos := s.cur.low32 x.base.num5
      match q.snap? pos with
      | none => .next (trapSnapshot q.num pos s)
      | some sn =>
        let q' := { q with map := sn.map, ring := q.ring.filter fun x => x.pos ≤ pos }
        .next (((s.modCtx s.curCtx fun c => c.modSeq q.num fun _ => q').reclaim s.curCtx).answer false)

/-- R294. -/
def execSsfork (x : MemForm) (s : State) : Result :=
  scalar x.g s fun s =>
    let new := s.cur.low32 x.data.num5
    onSeq (s.cur.low32 x.base.num5) s fun c q s =>
      let pos := s.cur.low32 (reg3 x)
      if (c.seq? new).isSome || c.seqs.length ≥ 65536 then .next (s.answer true)
      else match q.snap? pos with
        | none => .next (trapSnapshot q.num pos s)
        | some sn => .next ((s.modCtx s.curCtx fun c => { c with
            seqs := c.seqs ++ [⟨new, q.ringLog, sn.map, []⟩] }).answer false)

/-- R295. -/
def execSsclose (x : MemForm) (s : State) : Result :=
  scalar x.g s fun s =>
    onSeq (s.cur.low32 x.data.num5) s fun _ q s =>
      .next (((s.modCtx s.curCtx fun c => { c with seqs := c.seqs.filter fun r => r.num != q.num }).reclaim
        s.curCtx).answer false)

/-! ### Combines (R265, R266) -/

def Context.combine? (c : Context) (id : Nat) : Option Combine := c.combines.find? fun m => m.id == id

/-- Orders the values of pairs: −0 below +0; none for a NaN (R266). -/
def pairRank (v : Nat) : Option Int :=
  let mag : Nat := v % 2 ^ 31
  if mag > 0x7F800000 then none
  else some (if v / 2 ^ 31 % 2 == 1 then -(mag : Int) - 1 else (mag : Int))

/-- R266: the winner so far and one more pair, value and index; none while every pair held a NaN. -/
def better (w : Option (Nat × Nat)) (p : Nat × Nat) : Option (Nat × Nat) :=
  match pairRank p.1, w with
  | none, _ => w
  | some _, none => some p
  | some r, some b =>
    match pairRank b.1 with
    | none => some p
    | some q => if q < r || (q == r && p.2 < b.2) then some p else some b

/-- A contribution is counted. -/
def Combine.post (pair : Nat) (m : Combine) : Combine :=
  { m with got := m.got + 1, winner := better m.winner (pair % 2 ^ 32, nbits pair 32 16) }

/-- R266: the winner as `SMTAKE` returns it. -/
def Combine.result (m : Combine) : Nat :=
  match m.winner with
  | some (v, i) => v + i * 2 ^ 32
  | none => 0x0000FFFF00000000

/-- R265. -/
def execSmopen (x : MemForm) (s : State) : Result :=
  scalar x.g s fun s =>
    let id := (s.cur.sreg x.data.num5).toNat
    let n := (s.cur.sreg x.base.num5).toNat
    if id ≥ 256 || n == 0 || n > 65535 then .next (trapField (.mem 0x188 x) s)
    else if ((s.ctx? s.curCtx).bind fun c => c.combine? id).isSome then .next (s.answer true)
    else .next ((s.modCtx s.curCtx fun c => { c with
      combines := c.combines ++ [⟨id, s.cur.id, n, 0, none⟩] }).answer false)

/-- R265. -/
def execSmpost (x : MemForm) (s : State) : Result :=
  scalar x.g s fun s =>
    let id := (s.cur.sreg x.data.num5).toNat
    let pair := (s.cur.sreg x.base.num5).toNat
    if id ≥ 256 then .next (trapField (.mem 0x189 x) s)
    else match (s.ctx? s.curCtx).bind fun c => c.combine? id with
      | some m =>
        if m.got < m.want then
          .next (s.modCtx s.curCtx fun c => { c with
            combines := modWhere (fun m => m.id == id) (Combine.post pair) c.combines }).advance
        else .next (s.waitFor (.post id))
      | none => .next (s.waitFor (.post id))

/-- R265. -/
def execSmtake (x : MemForm) (s : State) : Result :=
  scalar x.g s fun s =>
    let id := (s.cur.sreg x.base.num5).toNat
    let give (v : Nat) (b : Bool) (s : State) : Result :=
      .next ((s.modCur fun h => h.setC15 b).putS x.data.num5 (BitVec.ofNat 64 v))
    if id ≥ 256 then .next (trapField (.mem 0x18A x) s)
    else match (s.ctx? s.curCtx).bind fun c => c.combine? id with
      | none => give 0 true s
      | some m =>
        if m.owner != s.cur.id then give 0 true s
        else if m.got < m.want then .next (s.waitFor (.take id))
        else give m.result false (s.modCtx s.curCtx fun c => { c with
          combines := c.combines.filter fun m => m.id != id })

/-! ### Noise (R298, R299) -/

/-- R299: one element's value and flags. -/
def noisy (h : Thread) (pos seq t i d : Nat) : Nat × Flags :=
  match valF .fp32 d with
  | .nan sig => (0x7FC00000, Flags.when sig Fl.nv)
  | .inf _ => (d, 0)
  | .fin n m e =>
    let v := (t + i) % 2 ^ 32
    let w := philox h.seed pos seq h.dcount.toNat (v / 4) v
    let dev := Config.gumbelDev h.seed.toNat (pos + seq * 2 ^ 32 + h.dcount.toNat * 2 ^ 64) v
    let r := (fmtOf .fp32).convert .rne .none 0 (addV .rne (.fin n m e) (gumbelUsed w dev)).1
    (r.1, r.2 &&& (Fl.of ||| Fl.nx))

/-- R299. -/
def execSmnoise (x : MemForm) (s : State) : Result :=
  alloc (.mem 0x18B x) s fun s =>
    let h := s.cur
    let ps := h.sreg x.base.num5
    let act := h.activity x.g 32 16
    let old := elems 32 16 (h.vreg x.data.num5).toNat
    let rs := (enumFrom' 0 old).map fun e =>
      noisy h (ps.toNat % 2 ^ 32) (ps.toNat / 2 ^ 32) (h.low32 (reg3 x)) e.1 e.2
    let row := packElems 32 (mergeElems act (rs.map (·.1)) old)
    .next (s.modCur fun h => { ((h.setV x.data.num5 (BitVec.ofNat 512 row)).raise (activeFlags act rs)) with
      dcount := h.dcount + 1 }).advance

/-! ### Grammar masks (R267, R268) -/

/-- R268. -/
def execGmask (x : MemForm) (s : State) : Result :=
  alloc (.mem 0x190 x) s fun s =>
    let w := x.t.bits
    let n := lanes x.t
    let act := s.cur.activity x.g w n
    let e : Elt := ⟨0, s.cur.ea x, n / 8⟩
    if !act.any id then .next s.advance
    else memAccess x.space .load 1 [e] s fun s =>
      let mask := leVal (s.load x.space e.a e.n)
      let ninf := ((fmtOf x.t).infCode false true).1
      let old := elems w n (s.cur.vreg x.data.num5).toNat
      let new := (enumFrom' 0 (act.zip old)).map fun e =>
        if e.2.1 && !bitAt mask e.1 then ninf else e.2.2
      .next ((s.note .load x.space [e]).modCur fun h =>
        h.setV x.data.num5 (BitVec.ofNat 512 (packElems w new))).advance

/-- R267. -/
def execGwait (x : MemForm) (s : State) : Result :=
  scalar x.g s fun s =>
    let a := s.cur.ea x
    match s.eltStop .load x.space 4 ⟨0, a, 4⟩ with
    | some st => s.raiseStop x.space false 0 st
    | none =>
      let n := s.cur.low32 x.data.num5
      if s.full x.space a then .next (s.answer false)
      else if n == 0 then .next (s.answer true)
      else .next (s.wait (.gwait x.space a (s.time + n)))

/-! ### The tokenizer (R302 to R304) -/

/-- A cut piece of the input. -/
inductive Piece where
  | char (bs : List Nat)
  | invalid (b : Nat)
  | tail (bs : List Nat)
  deriving DecidableEq, Repr

/-- The length of the character a lead begins; 0 for a byte that begins none (R302's UTF-8). -/
def charLen (b : Nat) : Nat :=
  if b ≤ 0x7F then 1 else if 0xC2 ≤ b && b ≤ 0xDF then 2 else if 0xE0 ≤ b && b ≤ 0xEF then 3
  else if 0xF0 ≤ b && b ≤ 0xF4 then 4 else 0

/-- May a byte stand second after a lead? -/
def secondOk (lead b : Nat) : Bool :=
  if lead == 0xE0 then 0xA0 ≤ b && b ≤ 0xBF
  else if lead == 0xED then 0x80 ≤ b && b ≤ 0x9F
  else if lead == 0xF0 then 0x90 ≤ b && b ≤ 0xBF
  else if lead == 0xF4 then 0x80 ≤ b && b ≤ 0x8F
  else 0x80 ≤ b && b ≤ 0xBF

def contOk (b : Nat) : Bool := 0x80 ≤ b && b ≤ 0xBF

/-- The first piece of bytes that are not empty. -/
def cutOne (b : Nat) (r : List Nat) : Piece :=
  let n := charLen b
  if n == 0 then .invalid b
  else
    let rest := r.take (n - 1)
    let good := match rest with
      | [] => true
      | c :: cs => secondOk b c && cs.all contOk
    if !good then .invalid b
    else if rest.length + 1 < n then .tail (b :: rest)
    else .char (b :: rest)

def Piece.bytes (p : Piece) : List Nat :=
  match p with
  | .char bs => bs
  | .invalid b => [b]
  | .tail bs => bs

/-- R304's units of the input, `fuel` its length. -/
def cutUnits : Nat → List Nat → List Piece
  | 0, _ => []
  | _ + 1, [] => []
  | f + 1, b :: r =>
    let p := cutOne b r
    p :: cutUnits f (r.drop (p.bytes.length - 1))

/-- R303: the child of a node by a byte: its number, its token, and whether the prefix is one. -/
def trieChild (sh : Shutter) (node byte : Nat) : Option (Nat × Nat × Bool) :=
  (sh.lookup (node * 2 ^ 8 + byte)).map fun e =>
    (entParam e.2 0, entParam e.2 1 + entParam e.2 2 * 2 ^ 16, bitAt (entParam e.2 3) 0)

/-- A walk over the bytes of one character. -/
def trieWalk (sh : Shutter) : Nat → Option (Nat × Bool) → List Nat → Option (Nat × Option (Nat × Bool))
  | node, t, [] => some (node, t)
  | node, _, b :: bs =>
    match trieChild sh node b with
    | none => none
    | some (c, tok, flag) => trieWalk sh c (some (tok, flag)) bs

/-- R304: the longest match from a unit: how many units, and the token. -/
def longest (sh : Shutter) : List Piece → Nat → Nat → Option (Nat × Nat) → Option (Nat × Nat)
  | .char bs :: ps, node, n, best =>
    match trieWalk sh node none bs with
    | none => best
    | some (c, t) =>
      let best' := match t with
        | some (tok, true) => some (n + 1, tok)
        | _ => best
      longest sh ps c (n + 1) best'
  | _, _, _, best => best

/-- What the steps over the units gave: tokens written, the units left. -/
def tokenise (sh : Shutter) (base : Nat) : Nat → List Nat → List Piece → List Nat × List Piece
  | 0, out, ps => (out, ps)
  | _ + 1, out, [] => (out, [])
  | f + 1, out, p :: ps =>
    match p with
    | .tail _ => (out, p :: ps)
    | _ =>
      let (ts, n) := match p, longest sh (p :: ps) 0 0 none with
        | .char _, some (n, tok) => ([tok], n)
        | _, _ => (p.bytes.map fun b => base + b, 1)
      if out.length + ts.length > 16 then (out, p :: ps)
      else tokenise sh base f (out ++ ts.map (· % 2 ^ 32)) ((p :: ps).drop n)

/-- R304's result: tokens, the held bytes, the bytes of the input neither written nor held. -/
def tkResult (sh : Shutter) (base : Nat) (flush : Bool) (input : List Nat) : List Nat × List Nat × Nat :=
  let units := cutUnits input.length input
  let r := tokenise sh base (units.length + 1) [] units
  match r.2 with
  | [] => (r.1, [], 0)
  | [.tail bs] =>
    if flush then
      let room := bs.take (16 - r.1.length)
      (r.1 ++ room.map fun b => (base + b) % 2 ^ 32, [], bs.length - room.length)
    else (r.1, bs, 0)
  | ps => (r.1, [], (ps.flatMap Piece.bytes).length)

/-- R83: %tkstate of held bytes. -/
def tkState (held : List Nat) : Word :=
  BitVec.ofNat 64 (leVal (held.map (BitVec.ofNat 8)) + held.length * 2 ^ 24)

/-- R302. -/
def execTkstep (x : MemForm) (s : State) : Result :=
  alloc (.mem 0x198 x) s fun s => scalar x.g s fun s =>
    let h := s.cur
    let c := (h.sreg (reg3 x)).toNat
    let n := nbits c 0 5
    let flush := bitAt c 5
    let table := nbits c 8 6
    let base := nbits c 32 32
    if n > 16 then .next (trapField (.mem 0x198 x) s)
    else match s.shutter table with
      | none => .next (trapHere 0x02 (BitVec.ofNat 64 table) s)
      | some sh =>
        if s.seesHeld h table then .next (s.waitFor (.flipSeen table)) else
        let es : List Elt := if n == 0 then [] else [⟨0, h.eaCarved x, n⟩]
        memAccess x.space .load 1 es s fun s =>
          let new := es.flatMap fun e => (s.load x.space e.a e.n).map BitVec.toNat
          let cnt := nbits h.tkstate.toNat 24 2
          let old := (List.range cnt).map fun i => nbits h.tkstate.toNat (8 * i) 8
          let r := tkResult sh base flush (old ++ new)
          let k := r.1.length
          let m := n - r.2.2
          let row := r.1 ++ (elems 32 16 (h.vreg x.data.num5).toNat).drop k
          let out := n + flush.toNat * 2 ^ 5 + table * 2 ^ 8 + k * 2 ^ 16 + m * 2 ^ 24 + base * 2 ^ 32
          .next (((s.lookedUp table).modCur fun h => { (h.setV x.data.num5 (BitVec.ofNat 512 (packElems 32 row))) with
            tkstate := tkState r.2.1 }).putS (reg3 x) (BitVec.ofNat 64 out))

/-! ### Lists (R269, R270, R305, R306) -/

/-- The links of one list act: the ranges checked, and the words to be written. -/
structure Links where
  seen : List (Nat × Nat)
  pend : List (Nat × Nat)

/-- The checks of R270 of n link bytes, `off` on from an object at a: 64 for a descriptor's alignment, 16 for a head's;
the A windows; the access, made at home by the right to change it. -/
def State.linkStop (s : State) (a align off n : Nat) : Option Stop :=
  if a % align != 0 then some (.trap 0x0B a false)
  else match s.task? s.cur.id.taskId with
    | none => some (.trap 0x08 (a + off) false)
    | some t => match (List.range n).find? fun i => !t.inA (a + off + i) with
      | some i => some (.trap 0x08 (a + off + i) false)
      | none => (pieces (a + off) n).findSome? fun p => s.pieceStop s.curCtx t s.cur.cluster .add (.ofCore []) p.1 p.2

/-- Checks bytes of an object as they are reached (R305). -/
def Links.check (s : State) (a align off n : Nat) (l : Links) : Except Stop Links :=
  match s.linkStop a align off n with
  | some st => .error st
  | none => .ok { l with seen := l.seen ++ [(a + off, n)] }

/-- Checks all the links of a descriptor, or of a head: those at ea and s[L] (R305). -/
def Links.checkAll (s : State) (a align : Nat) (l : Links) : Except Stop Links :=
  l.check s a align 0 (if align == 64 then 24 else 16)

/-- A link word, as the act has left it so far, checked as it is reached. -/
def Links.read (s : State) (a off align : Nat) (l : Links) : Except Stop (Nat × Links) :=
  match l.check s a align off 8 with
  | .error st => .error st
  | .ok l => .ok ((findAt l.pend (a + off)).getD (leVal (s.homeReadFor .wr s.curCtx s.cur.cluster (a + off) 8)), l)

def Links.write (s : State) (a off align v : Nat) (l : Links) : Except Stop Links :=
  match l.check s a align off 8 with
  | .error st => .error st
  | .ok l => .ok { l with pend := (a + off, v) :: l.pend }

/-- R270's last four lines: descriptor d goes to the tail of list L. -/
def Links.append (s : State) (d list : Nat) (l : Links) : Except Stop Links := do
  let (last, l) ← l.read s list 8 16
  let l ← l.write s d 0 64 0
  let l ← l.write s d 8 64 last
  let l ← l.write s d 16 64 list
  let l ← if last == 0 then l.write s list 0 16 d else l.write s last 0 64 d
  l.write s list 8 16 d

/-- R270: a descriptor leaves the list it is on. -/
def Links.remove (s : State) (d o : Nat) (l : Links) : Except Stop Links := do
  let (prev, l) ← l.read s d 8 64
  let (next, l) ← l.read s d 0 64
  let l ← if prev == 0 then l.write s o 0 16 next else l.write s prev 0 64 next
  if next == 0 then l.write s o 8 16 prev else l.write s next 8 64 prev

/-- A list act's outcome: the links, a value for DATA, c15. -/
abbrev ListAct := Except Stop (Links × Option Nat × Bool)

/-- R270: `ea` and the target head are checked first (R305). -/
def lmoveAct (s : State) (d list : Nat) : ListAct := do
  let l ← Links.checkAll s d 64 ⟨[], []⟩
  let l ← l.checkAll s list 16
  let (o, l) ← l.read s d 16 64
  let l ← if o == 0 then pure l else l.remove s d o
  let l ← l.append s d list
  pure (l, none, false)

/-- R305. -/
def lpushAct (s : State) (d list : Nat) : ListAct := do
  let l ← Links.checkAll s d 64 ⟨[], []⟩
  let l ← l.checkAll s list 16
  let (o, l) ← l.read s d 16 64
  if o != 0 then pure (l, none, true)
  else
    let l ← l.append s d list
    pure (l, none, false)

/-- R305. -/
def lpopAct (s : State) (list : Nat) : ListAct := do
  let l ← Links.checkAll s list 16 ⟨[], []⟩
  let (d, l) ← l.read s list 0 16
  if d == 0 then pure (l, some 0, true)
  else
    let (next, l) ← l.read s d 0 64
    let l ← l.write s list 0 16 next
    let l ← if next == 0 then l.write s list 8 16 0 else l.write s next 8 64 0
    let l ← l.write s d 0 64 0
    let l ← l.write s d 8 64 0
    let l ← l.write s d 16 64 0
    pure (l, some d, false)

/-- A list instruction: one atomic act at home. -/
def listInstr (x : MemForm) (s : State) (act : State → Nat → Nat → ListAct) : Result :=
  scalar x.g s fun s =>
    let d := x.data.num5
    match act s (s.cur.ea x) (s.cur.sreg d).toNat with
    | .error st => s.raiseStop x.space true 0 st
    | .ok (l, v, c15) =>
      let cl := s.cur.cluster
      let k := s.curCtx
      let ws := l.pend.reverse
      let s1 := (s.noteAccess s.cur.id k cl l.seen (fun _ => true) .wr false).noteAccess s.cur.id k cl
        (ws.map fun w => (w.1, 8)) (fun _ => true) .wr true
      let s2 := (s1.homeWrites k cl (ws.map fun w => (w.1, leBytes 8 w.2))).softHit s.cur.id.taskId
        (ws.flatMap fun w => (List.range 8).map (w.1 + ·))
      let s3 := (s2.modCur fun h =>
        let h1 := match v with
          | some v => h.setS d (BitVec.ofNat 64 v)
          | none => h
        h1.setC15 c15)
      .next (s3.noteRelease x).advance

/-- R270. -/
def execLmove (x : MemForm) (s : State) : Result := listInstr x s lmoveAct
/-- R305. -/
def execLpop (x : MemForm) (s : State) : Result := listInstr x s fun s a _ => lpopAct s a
/-- R305. -/
def execLpush (x : MemForm) (s : State) : Result := listInstr x s lpushAct

end Sys2Proof.Machine
end

