-- ==== Sys2Proof/Machine/Scheduling.lean ====
section
/-! DEFINITION. Events of threads, seats, groups, tables and tasks: R13 to R18, R22, R28, R31 to R35, R43,
R95, R97, R162 to R175, R267. An event whose condition does not hold changes nothing (log entry 15). -/

namespace Sys2Proof.Machine

/-- Do the clocks of a partition's units run: not frozen (R329), dies not held in reset (R328)? -/
def State.clocked (s : State) (part : Nat) : Bool :=
  !s.diesHeld && ((s.part? part).map fun p => !p.frozen).getD false

/-- Is a context loaded on clusters whose clocks run? -/
def State.active (s : State) (k : CtxId) : Bool :=
  s.clocked k.part && ((s.ctx? k).map fun c => c.loaded).getD false

/-- A thread of a context that is loaded and clocked. -/
def State.awake? (s : State) (t : TId) : Option Thread :=
  if s.active t.ctxId then s.thread? t else none

/-- Runs an operation that answers a result on a thread as the issuing thread. -/
def State.onThreadR (t : TId) (f : State → Result) (s : State) : Result :=
  match s.thread? t with
  | none => .next s
  | some h =>
    match f { s with cur := h } with
    | .next s1 => .next s1.checkIn
    | r => r

/-! ### Waits that end (R13) -/

def State.taskEnded (s : State) (k : TaskId) : Option TaskState :=
  match s.task? k with
  | none => none
  | some t => match t.state with
    | .done => some .done
    | .failed => some .failed
    | .aborted => some .aborted
    | _ => none

/-- Does what a thread waits for hold? -/
def Cond.holds (s : State) (h : Thread) (w : Cond) : Bool :=
  match s.part? h.id.part, s.ctx? h.id.ctxId with
  | some p, some c =>
    match w with
    | .full spc a => c.isFull spc h.cluster h.core a
    | .jobFinal j => ((c.job? h.id j).map Job.isFinal).getD true
    | .jobRoom cl u => p.queueUsed cl u < Config.jobQueue
    | .feedRoom => c.feeds h.cluster < Config.feedPlaces
    | .scoreRoom n => (c.heldSpans h.id).length + n ≤ 16
    | .scoreClear spc lo n => !((c.heldSpans h.id).any fun y => y.meets ⟨spc, lo, n⟩)
    | .taskEnd n _ => (s.taskEnded ⟨h.id.part, h.id.ctx, n⟩).isSome
    | .counter va v => v ≤ s.counterAt h.id.ctxId h.cluster va
    | .ringData spc a =>
      let r := ringCb (c.chip spc h.cluster h.core a 64)
      r.head != r.tail
    | .post id => ((c.combine? id).map fun m => decide (m.got < m.want)).getD false
    | .take id => ((c.combine? id).map fun m => decide (m.want ≤ m.got)).getD true
    | .handleFree n => ((groupFor p.groups h.id h.cluster n).map fun g => g.ofTask h.id).getD true
    | .stackUp n => s.stackUp n || s.stackFailed n
    | .hostPage n => c.ats.any fun e => e.page == n
    | .blockDone st g n => s.blockDone st g n
    | .flipSeen id => !s.seesHeld h id
    | .regs gs time => time ≤ s.time && gs.all fun g => !h.absent.contains g
    | .pageThere t j => ((c.job? t j).map fun j => match j.place with
        | .heldPage _ => false
        | _ => true).getD true
  | _, _ => false

/-- The answer that has come about for a wait on a task's end (R213), a fence counter (R218) or a word's full bit (R267):
the register and the value it takes, if any; of a bit, c15 alone. A context in the save area tests its counters and bits
when it is restored. -/
def State.answerFor (s : State) (h : Thread) : Option (Option (Nat × Nat)) :=
  let ended (n d : Nat) := (s.taskEnded ⟨h.id.part, h.id.ctx, n⟩).map fun st => some (d, st.code)
  match h.life with
  | .here (.waiting (.again (.taskEnd n d))) => ended n d
  | .saved (.waiting (.again (.taskEnd n d))) => ended n d
  | .here (.waiting (.again (.counter va v))) =>
    if s.active h.id.ctxId && v ≤ s.counterAt h.id.ctxId h.cluster va then some none else none
  | .here (.waiting (.gwait spc a d)) =>
    if s.active h.id.ctxId && Cond.holds s h (.full spc a) && s.time ≤ d then some (some (0, 0)) else none
  | _ => none

/-- The answer reaches the thread, whatever becomes of the task, the counter or the bit before the stall resolves. -/
def Thread.hear (d : Option (Nat × Nat)) (h : Thread) : Thread :=
  { h with life := match h.life with
      | .saved _ => .saved (.waiting (.answered d))
      | _ => .here (.waiting (.answered d)) }

/-- Threads hear of the ends, the counters and the bits they wait for (R213, R218, R267). -/
def State.tellThreads (s : State) : State :=
  { s with parts := s.parts.map fun p => { p with ctxs := p.ctxs.map fun c => { c with
      threads := c.threads.map fun h => match s.answerFor h with
        | some d => h.hear d
        | none => h } } }

/-- Image writes that waited for their page are made once it can be reached (R153, R313). -/
def State.payOwed (s : State) : State :=
  (s.parts.flatMap fun p => p.owed.map fun o => (⟨p.num, o.1, o.2⟩ : TaskId)).foldl (fun s k =>
    if s.imageHeld k then s
    else (s.writeBack k).modPart k.part fun p => { p with owed := p.owed.filter fun o => o != (k.ctx, k.task) }) s

/-- What every act leaves behind: image writes that can be made now, and what threads hear. -/
def State.notice (s : State) : State := s.payOwed.tellThreads

/-- STALL_RESOLVES (R13): a condition makes the thread READY to issue again; a task's end, a job's completion
(R97) and a full bit (R267) complete the wait up to the cycle of its end. -/
def execStallResolves (t : TId) (s : State) : Result :=
  match s.awake? t with
  | none => .next s
  | some h =>
    let done (b : Bool) (f : Thread → Thread) : Result :=
      .next (s.modThread t fun h => ((f h).setC15 b).goOn)
    match h.life with
    | .here (.waiting (.answered (some (d, v)))) => done false fun h => h.setS (BitVec.ofNat 5 d) (BitVec.ofNat 64 v)
    | .here (.waiting (.answered none)) => .next (s.modThread t Thread.goOn)
    | .here (.waiting (.again (.taskEnd n d))) =>
      match s.taskEnded ⟨t.part, t.ctx, n⟩ with
      | some st => done false fun h => h.setS (BitVec.ofNat 5 d) (BitVec.ofNat 64 st.code)
      | none => .next s
    | .here (.waiting (.again c)) =>
      if c.holds s h then .next (s.modThread t fun h => { h with life := .here .ready }) else .next s
    | .here (.waiting (.event d)) =>
      if h.latch && s.time ≤ d then done true fun h => { h with latch := false } else .next s
    | .here (.waiting (.gwait spc a d)) =>
      if Cond.holds s h (.full spc a) && s.time ≤ d then done false id else .next s
    | _ => .next s

/-- A thread whose count of cycles has run out: the cycle of its end is over, so that what came in that cycle is there and
counts (R97, R267). Nothing for another. -/
def State.timedOut (s : State) (h : Thread) : Option Thread :=
  match h.life with
  | .here (.waiting (.gwait spc a d)) =>
    if d < s.time then some (h.setC15 (!(Cond.holds s h (.full spc a)))).goOn else none
  | .here (.waiting (.event d)) =>
    if d < s.time then some ({ h with latch := false }.setC15 h.latch).goOn else none
  | _ => none

/-- GWAIT_TIMEOUT (R267): a bit that is full in the cycle of the deadline counts as full. -/
def execGwaitTimeout (t : TId) (s : State) : Result :=
  match s.awake? t with
  | none => .next s
  | some h =>
    match h.life with
    | .here (.waiting (.gwait _ _ _)) => .next (s.modThread t fun h => (s.timedOut h).getD h)
    | _ => .next s

/-- WAITE_TIMEOUT (R97): a job that completes in the cycle of the timeout counts as the wake. -/
def execWaiteTimeout (t : TId) (s : State) : Result :=
  match s.awake? t with
  | none => .next s
  | some h =>
    match h.life with
    | .here (.waiting (.event _)) => .next (s.modThread t fun h => (s.timedOut h).getD h)
    | _ => .next s

/-- The waits of a context that have run out end. -/
def State.endWaits (s : State) (part : Nat) (c : Context) : Context :=
  if s.active ⟨part, c.num⟩ then { c with threads := c.threads.map fun h => (s.timedOut h).getD h } else c

/-- Cycles pass, and with the cycle of its end each WAITE_TIMEOUT and GWAIT_TIMEOUT comes about, so that nothing later
decides its outcome (R97, R267, log entry 3). -/
def State.passTime (n : Nat) (s : State) : State :=
  if n == 0 then s
  else
    let s1 := { s with time := s.time + n }
    { s1 with parts := s1.parts.map fun p => { p with ctxs := p.ctxs.map (s1.endWaits p.num) } }

/-- LOOKUP_COMPLETE (R28, R86); a lookup that makes a flip seen waits for the markers before it (R189, R331). -/
def execLookupComplete (t : TId) (s : State) : Result :=
  match s.awake? t with
  | none => .next s
  | some h =>
    match h.life with
    | .here (.waiting (.lookup table key ind none)) =>
      if s.seesHeld h table then .next s
      else s.onThreadR t fun s => finishNext table key ind (s.lookedUp table)
    | .here (.waiting (.lookup table key _ (some (d, e)))) =>
      if s.seesHeld h table then .next s
      else s.onThreadR t fun s => finishMatch table key d e (s.lookedUp table)
    | _ => .next s

/-- BANK_RETENTION (R43): an allocated bank of a thread that has been WAITING for 256 cycles enters retention; its
contents stay. -/
def execBankRetention (t : TId) (bank : Nat) (s : State) : Result :=
  match s.awake? t with
  | none => .next s
  | some h =>
    match h.life with
    | .here (.waiting _) =>
      if 8 * bank < h.vregs && h.since + 256 ≤ s.time then
        .next (s.modThread t fun h => { h with retained := insertKey bank h.retained })
      else .next s
    | _ => .next s

/-! ### Seats (R14, R16, R17) -/

/-- SEAT_GATE (R14). -/
def execSeatGate (x : SeatId) (s : State) : Result :=
  match s.ctx? x.ctxId with
  | none => .next s
  | some c =>
    let g := (8 * x.cluster + x.core, x.seat)
    if !s.active x.ctxId || c.seatHeld x.cluster x.core x.seat || c.gated.contains g || x.cluster ≥ c.nclusters
        || x.core ≥ 8 || x.seat ≥ 4 then .next s
    else .next (s.modCtx x.ctxId fun c => { c with gated := c.gated ++ [g] })

/-- R17: the next thread of a dispatched task, if it may take a seat: its slot, after the thread bound there
before it has ended. -/
def Context.claim (c : Context) (k : CtxId) (t : Task) (cluster core seat : Nat) : Option Nat :=
  match t.granted.findIdx? (· == cluster) with
  | none => none
  | some i =>
    match t.nextOn i with
    | none => none
    | some j =>
      let n := 32 * t.granted.length
      let free := j < n || (match c.thread? ⟨k.part, k.ctx, t.create, j - n⟩ with
        | some h => h.life.ended
        | none => false)
      if t.state == .running && slotOf t.granted (j % n) == (cluster, core, seat) && free then some j else none

/-- R163: the clusters a READY task would be granted, chosen anew at each event; a task that asks for more than its
context has is never granted any (log entries 77, 78). -/
def State.chosen (s : State) (p : Partition) (c : Context) (t : Task) : Option (List Nat) :=
  let cands := (List.range c.nclusters).filter (s.usable p c)
  if cands.length < t.tcb.clusters then none else some (pickClusters c cands t.tcb.clusters)

/-- Is a seat among the slots of a gang task on its chosen clusters? -/
def gangUses (t : Task) (chosen : List Nat) (cluster core seat : Nat) : Bool :=
  t.tcb.gang && (List.range t.tcb.nthreads).any fun j => slotOf chosen j == (cluster, core, seat)

/-- Is a seat held for a gang task that still waits to be placed (R17)? -/
def Partition.seatKept (p : Partition) (x : SeatId) : Bool :=
  p.heldSeats.any fun h => h.1 == x && p.ctxs.any fun c =>
    c.num == x.ctx && ((c.task? h.2).map fun t => t.state == .ready && t.tcb.gang).getD false

/-- The threads of dispatched tasks that may take a seat next, each with its task (R17). -/
def Context.pendingFor (c : Context) (k : CtxId) (x : SeatId) : List (Task × Nat) :=
  c.tasks.filterMap fun t => (c.claim k t x.cluster x.core x.seat).map fun j => (t, j)

/-- Is a seat held for this gang task (R17)? -/
def Partition.seatIsFor (p : Partition) (t : Task) (x : SeatId) : Bool :=
  p.heldSeats.any fun h => h.1 == x && h.2 == t.create

/-- Is a seat, if it is not held for this gang task already, another's, or does a PENDING thread that stands before the
task claim it (R17)? -/
def Partition.seatTaken (p : Partition) (c : Context) (t : Task) (x : SeatId) : Bool :=
  !p.seatIsFor t x && (p.seatKept x || (c.pendingFor x.ctxId x).any fun u => queueBefore u.1 t)

/-- THREAD_BIND (R17): the first claimant of a free seat takes it, or holds it for a gang task. -/
def execThreadBind (x : SeatId) (s : State) : Result :=
  let k := x.ctxId
  match s.part? x.part, s.ctx? k with
  | some p, some c =>
    if !s.active k || c.seatHeld x.cluster x.core x.seat || p.seatKept x then .next s
    else
      let pending := (c.pendingFor k x).map fun u => (u.1, some u.2)
      let gang := match p.head? with
        | some (n, t) =>
          if n == c.num && ((s.chosen p c t).map fun cl => gangUses t cl x.cluster x.core x.seat).getD false then
            [(t, none)] else []
        | none => []
      match firstBy (fun a b => queueBefore a.1 b.1) (pending ++ gang) with
      | none => .next s
      | some (t, some j) => .next (s.bindThread ⟨k.part, k.ctx, t.create⟩ j)
      | some (t, none) => .next (s.modPart x.part fun p => { p with
          heldSeats := p.heldSeats.filter (fun h => h.1 != x) ++ [(x, t.create)] })
  | _, _ => .next s

/-- YIELD_RETURN (R13, R16). -/
def execYieldReturn (t : TId) (s : State) : Result :=
  match s.awake? t, s.ctx? t.ctxId with
  | some h, some c =>
    match h.life with
    | .yielded =>
      if c.seatHeld h.cluster h.core h.seat then .next s
      else
        let s1 := s.modCtx t.ctxId fun c => { c with
          gated := c.gated.filter fun g => g != (8 * h.cluster + h.core, h.seat) }
        .next (s1.modThread t fun h => { h with life := .here .ready })
    | _ => .next s
  | _, _ => .next s

/-! ### Tasks (R162 to R175) -/

/-- What an earlier run of a task left: its ended threads and finished jobs. -/
def Context.forget (k : TaskId) (c : Context) : Context :=
  { c with
    threads := c.threads.filter fun h => h.id.taskId != k
    jobs := c.jobs.filter fun j => j.thread.taskId != k }

/-- R170: at dispatch the lines of the task's windows are invalidated on its clusters, unless they are forwarded; those of its A windows
too (log entry 62). -/
def Context.invalidate (granted : List Nat) (t : Task) (c : Context) : Context :=
  { c with copies := c.copies.filter fun e =>
      e.2.2 || !granted.contains e.1 || !(t.windows.any fun w => w.meets (e.2.1 * 64) (e.2.1 * 64 + 64)) }

/-- The task becomes RUNNING on its clusters (R162, R163, R170); a gang task's threads all take their seats
(R18). -/
def State.place (k : TaskId) (t : Task) (granted : List Nat) (s : State) : State :=
  let s1 := s.modCtx k.ctxId fun c => (c.forget k).invalidate granted t
  let s2 := s1.modTask k fun t => { t with
    granted := granted, logLines := logNeed t.windows, started := [], recorded := false, buffers := [],
    badLog := [] }
  let s3 := s2.setTaskState k .running
  if t.tcb.gang then
    (List.range t.tcb.nthreads).foldl (fun s j => s.bindThread k j) s3
  else s3

/-- R162, R226, R313, R328, R329: may the partition dispatch? -/
def State.dispatches (s : State) (p : Partition) : Bool :=
  s.clocked p.num && !p.stopped && s.alarm < 2 && 3 ≤ s.stage

/-- DISPATCH (R162, R163): the head of the ready queue, as soon as it can be placed. -/
def execDispatch (part : Nat) (s : State) : Result :=
  match s.part? part with
  | none => .next s
  | some p =>
    match p.head? with
    | none => .next s
    | some (n, t) =>
      match p.ctx? n with
      | none => .next s
      | some c =>
        match s.chosen p c t with
        | none => .next s
        | some cl =>
          let fits := p.logUsed + logNeed t.windows ≤ p.logLines
          let seats := !t.tcb.gang || (List.range t.tcb.nthreads).all fun j =>
            let x := slotOf cl j
            !c.seatHeld x.1 x.2.1 x.2.2 && !p.seatTaken c t ⟨part, n, x.1, x.2.1, x.2.2⟩
          if s.dispatches p && fits && seats then .next (s.place ⟨part, n, t.create⟩ t cl) else .next s

/-- The jobs of a task that have not ended. -/
def Context.liveJobs (c : Context) (k : TaskId) : List Job :=
  c.jobs.filter fun j => (j.thread.taskId == k || j.merged.any fun m => m.1.taskId == k) && !j.isFinal

/-- R172: may the task be granted commit? -/
def Context.grantable (c : Context) (k : CtxId) (t : Task) : Bool :=
  t.state == .committing && !t.commitOk
    && !(c.edges.any fun e => e.dst == t.create && !e.hard)
    && (c.liveJobs ⟨k.part, k.ctx, t.create⟩).isEmpty
    && !(t.tcb.spec && c.tasks.any fun u => u.create != t.create && u.tcb.spec && u.inTracker
      && u.tcb.ts / 2 ^ 32 == t.tcb.ts / 2 ^ 32 && precedes u t)

/-- COMMIT_GRANT (R172). -/
def execCommitGrant (k : TaskId) (s : State) : Result :=
  match s.ctx? k.ctxId, s.task? k with
  | some c, some t =>
    if s.active k.ctxId && c.grantable k.ctxId t then .next (s.modTask k fun t => { t with commitOk := true })
    else .next s
  | _, _ => .next s

/-- Consecutive bytes of a buffer as runs. -/
def byteRuns : Cells → List (Nat × List Byte)
  | [] => []
  | (a, b) :: r =>
    match byteRuns r with
    | [] => [(a, [b])]
    | (x, bs) :: rs => if x == a + 1 then (a, b :: bs) :: rs else (a, [b]) :: (x, bs) :: rs

/-- What a flush writes: the cluster and the runs, clusters ascending (R170). -/
def Task.flushRuns (t : Task) : List (Nat × Nat × List Byte) :=
  t.buffers.flatMap fun b => (byteRuns b.2).map fun r => (b.1, r.1, r.2)

/-- R170: what stands in a flush's way: a buffered line with an error in the window cache or the log, a page that
cannot be reached yet. -/
def State.flushStop (s : State) (k : TaskId) (t : Task) : Option Stop :=
  match t.badLog.find? fun e => (t.buffer e.1).any fun b => b.1 / 64 == e.2 with
  | some e => some (.trap 0x0C (e.2 * 64) false)
  | none => t.flushRuns.findSome? fun r => (pieces r.2.1 r.2.2.length).findSome? fun p =>
      match s.xlate k.ctxId r.1 p.1 .wr with
      | .error (.hold c) => some (.hold c)
      | .error (.trap c st2) => some (.trap c p.1 st2)
      | .error .device => some .device
      | .ok _ => none

/-- The lines that a task has buffered on a cluster. -/
def linesAt (b : Cells) : List Nat := (b.map fun e => e.1 / 64).eraseDups

/-- R170: after a flush a line equals home in the window cache of the cluster it was flushed from, and in no other. -/
def Context.forward (cluster : Nat) (ls : List Nat) (c : Context) : Context :=
  { c with copies := (c.copies.filter fun e => !ls.contains e.2.1) ++ ls.map fun l => (cluster, l, true) }

/-- R170, R325: one cluster's buffer goes home: each line counted once, then its bytes written. -/
def State.flushCluster (k : TaskId) (s : State) (b : Nat × Cells) : State :=
  let ls := linesAt b.2
  let s1 := s.noteAccess ⟨k.part, k.ctx, k.task, 2 ^ 33⟩ k.ctxId b.1 (ls.map fun l => (l * 64, 64)) (fun _ => true) .wr true
  (s1.homeWrites k.ctxId b.1 (byteRuns b.2)).modCtx k.ctxId (Context.forward b.1 ls)

/-- R174: the fence counter's add at home; one that faults is dropped, with a terminal record. -/
def State.fenceAdd (k : TaskId) (t : Task) (s : State) : State :=
  if t.tcb.fcaddr == 0 then s
  else match s.deviceStop k.ctxId trackerCluster .add 8 t.tcb.fcaddr 8 with
    | some (.trap c a st2) => s.deviceFault k c a st2
    | some _ => s
    | none =>
      let note (wr : Bool) (s : State) : State := s.noteAccess ⟨k.part, k.ctx, k.task, 2 ^ 33⟩ k.ctxId trackerCluster
        [(t.tcb.fcaddr, 8)] (fun _ => true) .wr wr
      (note true (note false s)).counterAdd k.ctxId trackerCluster t.tcb.fcaddr t.tcb.fcinc

/-- Must the fence counter's add wait for its page (R231, R313)? -/
def State.fenceHeld (s : State) (k : TaskId) (t : Task) : Bool :=
  t.tcb.fcaddr != 0 && (match s.deviceStop k.ctxId trackerCluster .add 8 t.tcb.fcaddr 8 with
    | some (.hold _) => true
    | _ => false)

/-- FLUSH_COMPLETE (R170, R174): the buffers go home, then the fence counter's add, then DONE. A flush whose
page cannot be reached, or is absent or forbidden by now, does not complete (log entry 16). -/
def execFlushComplete (k : TaskId) (s : State) : Result :=
  match s.task? k with
  | none => .next s
  | some t =>
    if !s.active k.ctxId || t.state != .committing || !t.commitOk then .next s
    else match s.flushStop k t with
      | some (.trap 0x0C a st2) =>
        let s1 := if s.mayRecord k then
            s.record ⟨0x0C, 2, true, false, st2, k.part, k.task, 0, 0, 0, 0, BitVec.ofNat 64 a, 0⟩ else s
        .next ((s1.modTask k fun t => { t.clear with failCause := 0x0C }).setTaskState k .failed)
      | some _ => .next s
      | none =>
        if s.fenceHeld k t then .next s
        else
          .next (((t.buffers.foldl (State.flushCluster k) s).fenceAdd k t).taskDone k)

/-- TASK_STOP_COMPLETE (R165): every thread of a FAULTED task is STOPPED, its jobs CANCELLED, its buffers and
log reservation released; FAILCAUSE takes the fault's cause (R149). -/
def execTaskStopComplete (k : TaskId) (s : State) : Result :=
  match s.task? k with
  | none => .next s
  | some t =>
    if s.clocked k.part && t.state == .faulted then
      .next (((s.stopTask k).modTask k fun t => { t.clear with failCause := t.faultCause }).setTaskState k .failed)
    else .next s

/-- R164: the class after an energy reading. -/
def Task.meter (mj : Nat) (t : Task) : Task :=
  let used := min (t.energyUsed + mj) (2 ^ 32 - 1)
  if t.tcb.energy == 0 then { t with energyUsed := used }
  else { t with
    energyUsed := used
    curClass := min 3 (t.curClass + (used / t.tcb.energy - t.energyUsed / t.tcb.energy)) }

/-- ENERGY_METER_UPDATE (R164). The energy metered since the last update comes with the event. -/
def execEnergyMeterUpdate (k : TaskId) (mj : Nat) (s : State) : Result :=
  match s.task? k with
  | none => .next s
  | some t =>
    if s.clocked k.part && t.inTracker && t.tcb.energy != 0 then .next ((s.modTask k (Task.meter mj)).writeBack k)
    else .next s

/-! ### Tables, groups, resumes -/

/-- TABLE_OP_APPLY (R31 to R33, R331). -/
def execTableOpApply (k : CtxId) (cluster : Nat) (s : State) : Result :=
  if s.active k then .next (s.applyNext k cluster) else .next s

/-- TABLE_DIRECTORY_REPLY (R31, R32); the reply of a `TBPIN` makes its generation seen (R189). -/
def execTableDirectoryReply (t : TId) (s : State) : Result :=
  match s.awake? t, s.ctx? t.ctxId with
  | some h, some c =>
    match h.life with
    | .here (.waiting (.tableOp id seq c15)) =>
      if s.sentBehind t.ctxId (fun p c => p.replySent c h) || (c15.isNone && s.seesHeld h id) then .next s
      else if ((c.table? id).map fun tb => tb.settled h.tableCluster seq c15).getD true then
        match c15 with
        | some b => .next (s.modThread t fun h => (h.setC15 b).goOn)
        | none => .next ((s.modCtx t.ctxId fun c => c.modTable id (Table.pinnedBy t h.tableCluster)).modThread t
            Thread.goOn)
      else .next s
    | _ => .next s
  | _, _ => .next s

/-- A wait that is over, and that a thread in the save area still holds: it returns to WAITING, and its stall resolves
then (R13). -/
def Wait.over : Wait := .again (.regs [] 0)

/-- A member's wait at a barrier ends, in its seat or in the save area (R13). -/
def Thread.pass (handle : Nat) (h : Thread) : Thread :=
  { h with life := match h.life with
      | .here (.waiting (.barrier n)) => if n == handle then .here .ready else h.life
      | .saved (.waiting (.barrier n)) => if n == handle then .saved (.waiting .over) else h.life
      | l => l }

/-- BARRIER_PHASE_COMPLETE (R22). -/
def execBarrierPhaseComplete (g : GroupId) (s : State) : Result :=
  match (s.part? g.part).bind fun p => (p.groups.find? fun x => x.named g.ctx g.cluster g.handle && x.ctx == g.ctx).orElse
      fun _ => p.groups.find? fun x => x.named g.ctx g.cluster g.handle with
  | none => .next s
  | some x =>
    if s.clocked g.part && x.complete then
      let s1 := x.arrived.foldl (fun s i => s.modThread ⟨g.part, x.ctx, x.task, i⟩ (Thread.pass x.handle)) s
      .next (s1.modGroups g.part (modWhere (fun y => y.named g.ctx g.cluster g.handle && y.ctx == x.ctx) Group.nextPhase))
    else .next s

/-- R95: a parked thread of a task restarts; false when it does not. -/
def State.resumeParked (t : TId) (mode addr : Nat) (s : State) : Bool × State :=
  match s.awake? t with
  | some h => if h.life.isParked then (true, s.modThread t (Thread.resume mode addr)) else (false, s)
  | none => (false, s)

/-- RESUME_MESSAGE (R95): the message of a `RESUME` reaches its target. -/
def execResumeMessage (t : TId) (s : State) : Result :=
  match s.awake? t with
  | none => .next s
  | some h =>
    match h.life with
    | .here (.waiting (.resume n mode addr)) =>
      if s.sentBehind t.ctxId (fun p c => p.resumeSent c h n) then .next s else
      let r := if n < h.nthreads.toNat then s.resumeParked ⟨t.part, t.ctx, t.task, n⟩ mode addr else (false, s)
      .next (r.2.modThread t fun h => (h.setC15 (!r.1)).goOn)
    | _ => .next s

end Sys2Proof.Machine
end

