-- ==== Sys2Proof/Machine/EngineEvents.lean ====
section
/-! DEFINITION. Events of the engines: commands arriving, jobs starting and completing (R237, R239, R245,
R246, R249, R263, R282 to R286), held jobs, collective rounds (R260, R261). -/

namespace Sys2Proof.Machine

/-- Do two jobs go to one engine? -/
def Job.sameEngine (a b : Job) : Bool := a.unit == b.unit && a.target == b.target

/-- The issuers of a job, each with its own id for it (R246). -/
def Job.issuers (j : Job) : List (TId × Nat) := (j.thread, j.id) :: j.merged.map fun m => (m.1, m.2.1)

/-- The jobs that an issuer of this one issued before it to the same engine (R237). -/
def Context.earlier (c : Context) (j : Job) : List Job :=
  c.jobs.filter fun x => x.sameEngine j && !(x.thread == j.thread && x.id == j.id)
    && j.issuers.any fun i => x.issuers.any fun e => e.1 == i.1 && e.2 < i.2

/-- A job whose command has come or is to come, and that has not started. -/
def Job.unstarted (j : Job) : Bool := j.status == 0

/-- Jobs, with those that must start before them, `n` links deep (R237). -/
def Context.blockers (c : Context) : Nat → List Job → List Job
  | 0, js => js
  | n + 1, js => c.blockers n (js ++ js.flatMap fun j => (c.earlier j).filter Job.unstarted).eraseDups

/-! ### Arrival (R237, R246, R249) -/

/-- R246: a job that a `CPY` may join, before it ends. -/
def Job.joins (j : Job) (time : Nat) (x : Job) : Bool :=
  match j.op, x.op with
  | .cpy d, .cpy e => x.thread.taskId == j.thread.taskId && x.cluster == j.cluster && x.space == j.space
      && x.ea == j.ea && d == e && j.canMerge && x.place != .message && !x.isFinal && time ≤ x.cameAt + 64
  | _, _ => false

/-- What a job has copied so far reaches the TCM of an issuer that joins it: from that core's own TCM where the source
lies there (R246). -/
def State.catchRows (k : CtxId) (x : Job) (core : Nat) (s : State) : State :=
  match x.op with
  | .cpy d =>
    (enumFrom' 0 x.moved).foldl (fun s r =>
      if x.space == .tcm then s.ownRow k x.cluster core ((x.ea + r.1 * d.sPitch) % 2 ^ 64) r.2.1 r.2.2.length
      else s.chipWrite (k, x.cluster, core) .tcm r.2.1 r.2.2) s
  | _ => s

/-- Are the rows that a job has copied still what its source holds? A command whose thread has stored there since is not
given older bytes: merging changes timing only (R185, R246). -/
def State.rowsStand (k : CtxId) (x : Job) (s : State) : Bool :=
  match x.op with
  | .cpy d => x.space == .tcm || (enumFrom' 0 x.moved).all fun r =>
      match s.jobRead k x x.space ((x.ea + r.1 * d.sPitch) % 2 ^ 64) r.2.2.length with
      | .ok y => y.1 == r.2.2
      | .error _ => false
  | _ => true

/-- Do the lines that a `CPY` reads and writes in a core's TCM stand without an uncorrectable error? A command of a core
with one ends with a status of its own, and joins none: merging changes timing only (R239, R246). -/
def Context.tcmSound (c : Context) (x : Job) (core : Nat) : Bool :=
  match x.op with
  | .cpy d => (List.range d.nRows).all fun r =>
      (c.chipBad .tcm x.cluster core false ((d.dst + r * d.dPitch) % 2 ^ 64) d.rowLen).isNone &&
        (x.space != .tcm || (c.chipBad .tcm x.cluster core true ((x.ea + r * d.sPitch) % 2 ^ 64) d.rowLen).isNone)
  | _ => true

/-- A job with a command joined to it, which is no job of its own any more. -/
def Context.merge (j x : Job) (c : Context) : Context :=
  { c with
    jobs := (modWhere (fun y => y.thread == x.thread && y.id == x.id)
      (fun y => { y with merged := y.merged ++ [(j.thread, j.id, j.core)] }) c.jobs).filter
        fun y => !(y.thread == j.thread && y.id == j.id) }

/-- Does R237's order let a command join a job: its thread has no command to the engine that has not started, or the job
has not started either and no job that must start before it waits for it? -/
def Context.orderLets (c : Context) (j x : Job) : Bool :=
  !(c.earlier j).any Job.unstarted ||
    (x.unstarted && (let d := c.merge j x
      (d.job? x.thread x.id).any fun y =>
        !(d.blockers d.jobs.length ((d.earlier y).filter Job.unstarted)).any fun z => z.thread == x.thread && z.id == x.id))

/-- The command joins a job. -/
def State.join (k : CtxId) (j x : Job) (s : State) : State :=
  (s.catchRows k x j.core).modCtx k (Context.merge j x)

/-- The entry of an engine's slot table that is current (R284). -/
def slotNow (table : BitVec 256) (time : Nat) : Nat := nbits table.toNat (16 * (time / 4096 % 16)) 16

/-- A job of the context that a slot is granted to takes back what was lent of it (R285). -/
def Partition.takeBack (time ctx : Nat) (j : Job) (p : Partition) : Partition :=
  if j.unit == .matrix && slotNow (getAt 0 p.slotTables j.target) time % 2 ^ 12 == ctx then
    { p with lent := p.lent.filter fun e => e.1 != j.target }
  else p

/-- The command takes its queue entry, or joins an earlier one where R237's order of starts lets it (log entry 17). -/
def State.enqueue (k : CtxId) (c : Context) (j : Job) (s : State) : State :=
  match c.jobs.find? fun x => j.joins s.time x && c.orderLets j x && s.rowsStand k x &&
      (j.core :: x.cores).all (c.tcmSound x) with
  | some x => s.join k j x
  | none => (s.modCtx k fun c => { c.modJob j.thread j.id (fun j => { j with
        place := .queued, arr := c.nextArr, cameAt := s.time }) with nextArr := c.nextArr + 1 }).modPart k.part
          (Partition.takeBack s.time k.ctx j)

/-- ENGINE_COMMAND_ARRIVE (R237, R246, R249). A thread's commands to one engine arrive in issue order. -/
def execEngineCommandArrive (t : TId) (job : Nat) (s : State) : Result :=
  let k := t.ctxId
  match s.ctx? k with
  | none => .next s
  | some c =>
    match c.job? t job with
    | none => .next s
    | some j =>
      if !s.active k || j.place != .message || (c.earlier j).any (fun x => x.place == .message)
          || s.sentBehind k (fun p c => p.commandSent c j) then .next s
      else if !s.doorOk k.part j then
        .next ((s.finishJob k j 0x14).modPart k.part fun p => { p with refusals := p.refusals + 1 })
      else match j.unit with
        | .coll => .next (s.putJob k { j with place := .heldRound, status := 2 })
        | _ => .next (s.enqueue k c j)

/-- JOB_QUEUE_ENTRY_FREE (R237): a seat that waits for a queue entry issues its command again. -/
def execJobQueueEntryFree (t : TId) (s : State) : Result :=
  match s.awake? t with
  | none => .next s
  | some h =>
    match h.life with
    | .here (.waiting (.again (.jobRoom cl u))) =>
      if Cond.holds s h (.jobRoom cl u) then .next (s.modThread t fun h => { h with life := .here .ready })
      else .next s
    | _ => .next s

/-! ### Which job starts next -/

def JobOp.isRput (op : JobOp) : Bool :=
  match op with
  | .rput _ => true
  | _ => false

/-- The ring that an `RPUT` puts into. -/
def JobOp.ring (op : JobOp) : Option (Space × Nat) :=
  match op with
  | .rput d => some (d.dSpace, d.dst)
  | _ => none

/-- R254: an earlier `RPUT` of the thread to the same ring has not put its record. -/
def Context.ringBusy (c : Context) (j : Job) : Bool :=
  j.op.isRput && (c.earlier j).any fun x => x.op.ring == j.op.ring && !x.isFinal && x.place != .running

/-- R285: has a context state on an engine? -/
def Context.usesEngine (c : Context) (target : Nat) : Bool :=
  (c.loaded && c.coreTable.contains target) || c.matrices.any fun m => m.cluster == target

/-- Jobs of an engine over the loaded contexts, by context number. -/
def Partition.engineJobs (p : Partition) (unit : EngUnit) (target : Nat) : List (Nat × Job) :=
  (p.ctxs.filter fun c => c.loaded).flatMap fun c =>
    (c.jobs.filter fun j => j.unit == unit && j.target == target).map fun j => (c.num, j)

/-- The context that the current slot of an engine is granted to, and may it be lent (R284, R285)? -/
def Partition.slotOwner (p : Partition) (time target : Nat) : Option (Nat × Bool) :=
  let e := slotNow (getAt 0 p.slotTables target) time
  let n := e % 2 ^ 12
  if bitAt e 12 && ((p.ctx? n).map fun c => c.usesEngine target).getD false then some (n, bitAt e 13) else none

/-- The context that an engine is lent to in the current slot. -/
def Partition.borrower (p : Partition) (time target : Nat) : Option Nat :=
  (p.lent.find? fun e => e.1 == target && e.2.1 == time / 4096).map fun e => e.2.2

/-- R285: may a context's matrix job start in the current slot? -/
def Partition.slotAllows (p : Partition) (time ctx target : Nat) : Bool :=
  match p.slotOwner time target with
  | none => true
  | some (n, share) => n == ctx ||
    (share && !((p.engineJobs .matrix target).any fun x => x.1 == n && x.2.place == .queued)
      && ((p.borrower time target).map (· == ctx)).getD true)

/-- R285: an engine that starts a job of a context other than the slot's is lent to it. -/
def Partition.lend (time ctx : Nat) (j : Job) (p : Partition) : Partition :=
  match j.unit, p.slotOwner time j.target with
  | .matrix, some (n, _) =>
    if n == ctx then p
    else { p with lent := p.lent.filter (fun e => e.1 != j.target) ++ [(j.target, time / 4096, ctx)] }
  | _, _ => p

/-- R282, R286: is the path free, and the engine not at work for another context? -/
def Partition.pathFree (p : Partition) (ctx : Nat) (j : Job) : Bool :=
  let running := (p.engineJobs .matrix j.target).filter fun x => x.2.place == .running
  running.all fun x => x.1 == ctx && x.2.op.isLoad != j.op.isLoad

def JobOp.isSwap (op : JobOp) : Bool :=
  match op with
  | .mwswap => true
  | _ => false

/-- R277: a swap waits for the load path. -/
def Partition.swapFree (p : Partition) (j : Job) : Bool :=
  !j.op.isSwap || !((p.engineJobs .matrix j.target).any fun x => x.2.place == .running)

/-- May this queued job start, its turn apart (R237, R254, R263, R282, R285)? -/
def State.startable (s : State) (p : Partition) (c : Context) (j : Job) : Bool :=
  j.place == .queued && !(c.earlier j).any Job.unstarted &&
    (match j.unit with
      | .matrix => (c.earlier j).all (fun x => x.isFinal) && p.slotAllows s.time c.num j.target
          && p.pathFree c.num j && p.swapFree j
      | _ => !c.ringBusy j)

/-- R237's order: CURCLASS, then arrival; of two contexts' jobs in one cycle the lower context's first (log entry 101). -/
def startsBefore (a b : Nat × Job) : Bool :=
  a.2.cls < b.2.cls || (a.2.cls == b.2.cls && (a.2.cameAt < b.2.cameAt ||
    (a.2.cameAt == b.2.cameAt && (a.1 < b.1 || (a.1 == b.1 && a.2.arr < b.2.arr)))))

/-- Is a job among those that a place of an engine is given to in R237's order? A matrix engine's path takes its queued
jobs in that order, whatever the first of them waits for: only the slot table excepts one (R277, R282). A copy unit's
places pass over a job that may not start yet. -/
def State.contends (s : State) (p : Partition) (c : Context) (j : Job) : Bool :=
  match j.unit with
  | .matrix => j.place == .queued && p.slotAllows s.time c.num j.target
  | _ => s.startable p c j

/-- Is it this job's turn at its engine? A feed has no running place to wait for. -/
def State.turn (s : State) (p : Partition) (c : Context) (j : Job) : Bool :=
  match j.unit with
  | .feed => s.startable p c j
  | .coll => false
  | u =>
    let rivals := (p.engineJobs u j.target).filter fun x =>
      match p.ctx? x.1 with
      | some d => s.contends p d x.2 && x.2.op.isLoad == j.op.isLoad
      | none => false
    let places := ((p.engineJobs u j.target).filter fun x => x.2.place == .running).length
    s.startable p c j && (u == .matrix || places < Config.copyPlaces) &&
      (match firstBy startsBefore rivals with
        | some x => x.1 == c.num && x.2.thread == j.thread && x.2.id == j.id
        | none => false)

/-! ### Collective rounds (R260, R261) -/

/-- Has every member issued, and every command arrived? -/
def State.roundReady (s : State) (k : CtxId) (r : Round) : Bool :=
  match s.ctx? k with
  | none => false
  | some c => r.ranks.all fun i =>
      match r.issued.find? fun x => x.1 == i with
      | some x => ((c.job? ⟨k.part, k.ctx, r.task, i⟩ x.2).map fun j => j.place == .heldRound).getD false
      | none => false

/-- A member's job, ranks in ascending %thread. -/
def State.rankJobs (s : State) (k : CtxId) (r : Round) : List Job :=
  match s.ctx? k with
  | none => []
  | some c => r.ranks.filterMap fun i =>
      (r.issued.find? fun x => x.1 == i).bind fun x => c.job? ⟨k.part, k.ctx, r.task, i⟩ x.2

def JobOp.collDesc? (op : JobOp) : Option CollDesc :=
  match op with
  | .coll d => some d
  | _ => none

/-- The thread number of the firmware that serves a handle's round. -/
def firmwareThread (handle : Nat) : Nat := 2 ^ 32 + handle

/-- The place of the engine that serves a handle's round, and of its local memory. -/
def firmwareCluster (handle : Nat) : Nat := 2 ^ 20 + handle % 4096

/-- R261: a rank's record in engine-local memory. -/
def rankRecord (j : Job) (d : CollDesc) : List Byte :=
  leBytes 32 (j.ea + d.dst * 2 ^ 64 + Space.code j.space * 2 ^ 128 + Space.code d.dSpace * 2 ^ 130)

/-- R261: the firmware's thread starts, its rank records at local address 0; R261 gives a0 to a3 and s1 alone, and the
thread's status registers are the model's choice (log entry 18). -/
def State.startFirmware (k : CtxId) (r : Round) (s : State) : State :=
  let js := (s.rankJobs k r).filterMap fun j => (j.op.collDesc?).map fun d => (j, d)
  let size := ((Ty.ofNum r.desc.ety).map fun t => t.bits / 8).getD 4
  let ranks := js.map fun x => (⟨x.1.thread, x.1.id, x.1.cluster, x.1.ea,
    r.desc.count * size, x.2.dst, r.desc.count * size⟩ : Rank)
  let cl := firmwareCluster r.handle
  let h : Thread := { Thread.blank with
    id := ⟨k.part, k.ctx, r.task, firmwareThread r.handle⟩
    life := .here .ready
    pc := BitVec.ofNat 32 r.desc.entry
    a := #v[BitVec.ofNat 32 r.desc.arg, BitVec.ofNat 32 js.length, 0, 0]
    nthreads := BitVec.ofNat 32 js.length
    cluster := cl
    role := some ranks }
  let s1 := s.modCtx k fun c => { c.setChip .tcm cl 0 0 (js.flatMap fun x => rankRecord x.1 x.2) with
    threads := (c.threads.filter fun x => x.id != h.id) ++ [h] }
  -- the members' jobs run (R239)
  let s2 := js.foldl (fun s x => s.putJob k { x.1 with status := 1 }) s1
  s2.modPart k.part fun p => { p with
    rounds := modWhere (fun x => x.ctx == r.ctx && x.task == r.task && x.handle == r.handle)
      (fun x => { x with started := true }) p.rounds }

/-- The round of a collective job. -/
def Partition.roundOf (p : Partition) (j : Job) (d : CollDesc) : Option Round :=
  p.rounds.find? fun r => r.isAt j.thread d.group && r.issued.contains (j.thread.thread, j.id)

/-! ### Starting, completing, releasing -/

/-- JOB_START (R237): the engine starts the job whose turn it is and does its work (log entry 13). A
collective job of OP 7 starts its round's firmware. -/
def execJobStart (t : TId) (job : Nat) (s : State) : Result :=
  let k := t.ctxId
  match s.part? k.part, s.ctx? k with
  | some p, some c =>
    match c.job? t job with
    | none => .next s
    | some j =>
      if !s.active k then .next s
      else match j.op with
        | .coll d =>
          match p.roundOf j d with
          | some r => if d.op == 7 && !r.started && s.roundReady k r then .next (s.startFirmware k r) else .next s
          | none => .next s
        | _ => if s.turn p c j then settleJob k (jobRun k j (s.modPart k.part (Partition.lend s.time k.ctx j))) else .next s
  | _, _ => .next s

/-- JOB_COMPLETE (R239): a job that has done all its work becomes DONE. -/
def execJobComplete (t : TId) (job : Nat) (s : State) : Result :=
  match s.ctx? t.ctxId with
  | none => .next s
  | some c =>
    match c.job? t job with
    | none => .next s
    | some j =>
      if s.active t.ctxId && j.place == .running then
        .next ((s.finishJob t.ctxId j 0x10).commitIfOver j.thread.taskId)
      else .next s

/-- Can a held job run again (R239, R245, R253, R257)? -/
def State.released (s : State) (k : CtxId) (j : Job) : Bool :=
  let ring (spc : Space) (cb : Nat) : Option RingCb :=
    match s.jobRead k j spc cb 64 with
    | .ok r => some (ringCb r.1)
    | .error _ => none
  match j.place with
  | .heldAccess c => Cond.holds s { Thread.blank with id := j.thread } c
  | .heldWord =>
    match j.op with
    | .cpyf d =>
      let a := (j.ea + j.row * d.sPitch) % 2 ^ 64 + j.part.length
      ((s.jobHome k j j.space).bind fun o => (s.ctx? o.1).map fun c => c.isFull j.space o.2.1 o.2.2 a).getD false
    | _ => false
  | .heldRing =>
    match j.op with
    | .rput d => ((ring d.dSpace d.dst).map fun r => r.hasRoom d.rowLen).getD true
    | .feed w trows false =>
      let n := (tileRows w trows j.row).2 * w.rowLen
      ((ring .tcm j.ea).map fun r => r.hasRoom n).getD true
    | .feed _ _ true => ((ring .tcm j.ea).map fun r => r.head != r.tail).getD true
    | _ => false
  | _ => false

/-- Does engine firmware serve the job's round (R261)? -/
def JobOp.isFirmware (op : JobOp) : Bool :=
  match op with
  | .coll d => d.op == 7
  | _ => false

/-- Where a job goes when it is held no more: its engine's queue, or its round, whose firmware may be at work. In the
queue it keeps its status, HELD, until it runs again (log entry 99). -/
def Job.unhold (j : Job) : Job :=
  if j.unit == .coll then { j with place := .heldRound, status := if j.op.isFirmware then 1 else 2 }
  else { j with place := .queued }

/-- HELD_JOB_RELEASE (R237, R239): the job competes again, by its class and its own arrival. -/
def execHeldJobRelease (t : TId) (job : Nat) (s : State) : Result :=
  let k := t.ctxId
  match (s.ctx? k).bind fun c => c.job? t job with
  | none => .next s
  | some j => if s.active k && s.released k j then .next (s.putJob k j.unhold) else .next s

/-! ### Rounds complete (R260) -/

/-- Elements a rank's source holds. -/
def CollDesc.srcCount (d : CollDesc) (n : Nat) : Nat := if d.op == 4 then n * d.count else d.count

/-- The least k with n ≤ 2^k. -/
def clog2 (n : Nat) : Nat := if n ≤ 1 then 0 else Nat.log2 (n - 1) + 1

/-- R117 over ranks: padded to a power of two, RNE. -/
def rankSum (t : Ty) (xs : List Nat) : Nat × Flags :=
  let k := clog2 xs.length
  treeSum t .rne k (xs ++ List.replicate (2 ^ k - xs.length) (addUnit t))

/-- One element combined over the ranks (R260). -/
def collElem (t : Ty) (op : Nat) (xs : List Nat) : Nat × Flags :=
  match op with
  | 1 => redMinMax t true (xs.map fun _ => true) xs
  | 2 => redMinMax t false (xs.map fun _ => true) xs
  | _ => rankSum t xs

/-- What each rank's destination takes, and the flags of its elements (R260). -/
def collResult (t : Ty) (d : CollDesc) (srcs : List (List Nat)) : List (List Nat × Flags) :=
  let col (i : Nat) : List Nat := srcs.map fun x => x.getD i 0
  let sums (lo : Nat) : List Nat × Flags :=
    let rs := (List.range d.count).map fun i => collElem t d.op (col (lo + i))
    (rs.map (·.1), rs.foldl (fun f r => f ||| r.2) 0)
  match d.op with
  | 3 => srcs.map fun _ => (srcs.flatten, 0)
  | 4 => (List.range srcs.length).map fun k => sums (k * d.count)
  | 5 => srcs.map fun _ => (srcs.headD [], 0)
  | _ => let r := sums 0; srcs.map fun _ => r

/-- Elements from bytes. -/
def elemsOf (size : Nat) : Nat → List Byte → List Nat
  | 0, _ => []
  | n + 1, bs => leVal (bs.take size) :: elemsOf size n (bs.drop size)

/-- The sources of every rank, read in turn; the job that stops. -/
def readRanks (k : CtxId) (bytes : Nat) : List Job → State → Except (Job × JStop) (List (List Byte) × State)
  | [], s => .ok ([], s)
  | j :: js, s =>
    match s.jobRead k j j.space j.ea bytes with
    | .error e => .error (j, e)
    | .ok (bs, s1) =>
      match readRanks k bytes js s1 with
      | .error e => .error e
      | .ok (r, s2) => .ok (bs :: r, s2)

/-- The destinations of every rank written. -/
def writeRanks (k : CtxId) : List (Job × CollDesc × List Byte) → State → Except (Job × JStop) State
  | [], s => .ok s
  | (j, d, bs) :: r, s =>
    match s.jobWrite k j d.dSpace d.dst bs with
    | .error e => .error (j, e)
    | .ok s1 => writeRanks k r s1

/-- A whole round of OP 0 to 5: read, combined, written; nothing is written when any access stops. -/
def runRound (k : CtxId) (r : Round) (js : List Job) (s : State) : Except (Job × JStop) State :=
  let t := (Ty.ofNum r.desc.ety).getD .i32
  let size := t.bits / 8
  let n := r.desc.srcCount js.length
  match readRanks k (n * size) js s with
  | .error e => .error e
  | .ok (bss, s1) =>
    let outs := collResult t r.desc (bss.map (elemsOf size n))
    let ws := (js.zip outs).filterMap fun x => (x.1.op.collDesc?).map fun d =>
      (x.1, d, x.2.1.flatMap (leBytes size))
    match writeRanks k ws s1 with
    | .error e => .error e
    | .ok s2 => .ok ((js.zip outs).foldl (fun s x =>
        s.putJob k { x.1 with flags := x.2.2, bytes := x.2.1.length * size }) s2)

/-- Every job of a round finishes DONE, and the round is over. -/
def State.endRound (k : CtxId) (r : Round) (s : State) : State :=
  let s1 := (s.rankJobs k r).foldl (fun s j => s.finishJob k j 0x10) s
  let s2 := s1.modPart k.part fun p => { p with
    rounds := p.rounds.filter fun x => !(x.ctx == r.ctx && x.task == r.task && x.handle == r.handle) }
  s2.modCtx k (Context.dropFirmware (firmwareOf k.part r.ctx r.task r.handle))

/-- What a member's stop does to its round: held, or ended with that member's status and ROUNDERR (R239,
R260). -/
def stopRound (k : CtxId) (r : Round) (j : Job) (e : JStop) (s : State) : Result :=
  match settleJob k (some e, j, s) with
  | .next s1 =>
    match e with
    | .fail _ _ _ => .next (s1.failRound k.part r)
    | _ => .next s1
  | x => x

/-- ROUND_COMPLETE (R260). -/
def execRoundComplete (g : GroupId) (s : State) : Result :=
  match (s.part? g.part).bind fun p => p.rounds.find? fun r => r.ctx == g.ctx && r.handle == g.handle with
  | none => .next s
  | some r =>
    let k : CtxId := ⟨g.part, g.ctx⟩
    if !s.active k || !s.roundReady k r then .next s
    else if r.desc.op == 7 then
      match r.ended with
      | none => .next s
      | some 0 => .next (s.endRound k r)
      | some _ => .next (s.failRound g.part r)
    else match runRound k r (s.rankJobs k r) s with
      | .ok s1 => .next (s1.endRound k r)
      | .error (j, e) => stopRound k r j e s

/-- MATRIX_SLOT_CHANGE (R285): the time moves on to the next slot. -/
def execMatrixSlotChange (s : State) : Result := .next (s.passTime (4096 - s.time % 4096))

end Sys2Proof.Machine
end

