-- ==== Sys2Proof/Machine/Contexts.lean ====
section
/-! DEFINITION. Partitions formed and unformed (R332, R333), contexts opened, closed, saved and restored (R39,
R335 to R337, R341, R342). -/

namespace Sys2Proof.Machine

/-! ### Partitions (R332, R333) -/

/-- A partition as it is formed: keys EMPTY, a new door secret, epochs, monitors and slot tables zero, rings
disabled. -/
def newPartition (num level : Nat) (dies : List Nat) (quarter clusters : Nat) (image : Word) (secret : BitVec 256) :
    Partition where
  num := num
  level := level
  dies := dies
  quarter := quarter
  clusters := clusters
  image := image
  sysScope := bitAt image.toNat 13
  logMib := nbits image.toNat 16 16
  poolFree := nbits image.toNat 32 32
  poolNext := 0x100
  keys := List.replicate 16 .empty
  secret := secret
  epochs := []
  refusals := 0
  monitors := List.replicate 64 Monitor.reset
  slotTables := []
  replay := Ring.reset
  terminal := Ring.reset
  held := []
  late := []
  sent := 0
  overflow := none
  overflowCount := 0
  stopped := false
  queues := List.replicate 8 Queue.reset
  command := 0
  cmdWait := []
  ctxBase := 0
  saveSize := Config.saveSize clusters
  s2table := 0
  qos := ⟨0, 0, 0, 10, 0, []⟩
  frozen := false
  frozenAt := 0
  heldIn := []
  scanOk := false
  scrubbing := []
  closed := []
  groups := []
  rounds := []
  shoots := []
  ctxs := []
  lent := []
  heldSeats := []
  owed := []

/-- The quarters a node covers, as die and quarter. -/
def quartersOf (dies : List Nat) (quarter clusters : Nat) : List (Nat × Nat) :=
  dies.flatMap fun d => (List.range (min 4 (clusters / (30 * max 1 dies.length)))).map fun i => (d, quarter + i)

def Partition.quarters (p : Partition) : List (Nat × Nat) := quartersOf p.dies p.quarter p.clusters

/-- R333. -/
def Partition.idle (p : Partition) : Bool := p.ctxs.isEmpty && p.scrubbing.isEmpty

/-- The node a request names: dies, first quarter, clusters; none when it is malformed. -/
def nodeOf (img : Word) : Option (List Nat × Nat × Nat) :=
  let x := img.toNat
  let die := nbits x 2 3
  let index := nbits x 5 2
  let mask := nbits x 7 6
  if nbits x 32 32 > 2 ^ 24 then none
  else match nbits x 0 2 with
    | 1 => if die ≤ 5 && mask == 0 then some ([die], index, 30) else none
    | 2 => if die ≤ 5 && index ≤ 1 && mask == 0 then some ([die], 2 * index, 60) else none
    | 3 => if mask == 0 then none else
        let ds := (List.range 6).filter fun d => bitAt mask d
        some (ds, 0, 120 * ds.length)
    | _ => none

/-- R332. -/
def nodeNumber (n : List Nat × Nat × Nat) : Nat := 4 * n.1.headD 0 + n.2.1

/-- Partitions that meet a node. -/
def State.meeting (s : State) (n : List Nat × Nat × Nat) : List Partition :=
  s.parts.filter fun p => p.quarters.any (quartersOf n.1 n.2.1 n.2.2).contains

/-- HBM of a node that the pool and the task log may take: its share of its dies' stacks that have not
failed (log entry 19). -/
def State.nodeHbm (s : State) (n : List Nat × Nat × Nat) : Nat :=
  let mine := n.1.flatMap fun d => [2 * d, 2 * d + 1].filter fun i => !s.stackFailed i
  mine.length * Config.stackBytes * n.2.2 / (120 * max 1 n.1.length)

def setPartStat (status num : Nat) (s : State) : State :=
  { s with partStat := BitVec.ofNat 64 (status + num % 32 * 2 ^ 8 + 2 ^ 13) }

/-- PARTREQ as it reads after a write with GO. -/
def partReqRead (img : Word) : Word := img &&& ~~~ (BitVec.ofNat 64 (2 ^ 14))

/-- The node of a request whose partitions are idle, or the status that refuses it. -/
def State.requestNode (s : State) (img : Word) : Except Nat (List Nat × Nat × Nat) :=
  match nodeOf img with
  | none => .error 1
  | some n => if (s.meeting n).all Partition.idle then .ok n else .error 2

/-- The partitions that meet a node cease; what of them lies outside it is unformed (R333). -/
def State.unform (n : List Nat × Nat × Nat) (s : State) : State :=
  let gone := (s.meeting n).map fun p => p.num
  { s with parts := s.parts.filter fun p => !gone.contains p.num }

/-- Adds a partition, numbers ascending. -/
def State.addPart (p : Partition) (s : State) : State :=
  { s with parts := (s.parts.filter fun q => q.num < p.num) ++ [p] ++ (s.parts.filter fun q => p.num < q.num) }

/-- PARTITION_REQUEST (R333): a PARTREQ write with GO; one without it only sets the register's other fields. -/
def execPartitionRequest (img : BitVec 64) (s : State) : Result :=
  if s.stage < 3 || bitAt img.toNat 15 && bitAt img.toNat 14 then .next s
  else if !bitAt img.toNat 14 then .next { s with partReq := partReqRead img }
  else
    let s0 := { s with partReq := partReqRead img }
    match s.requestNode img with
    | .error st => .next (setPartStat st 0 s0)
    | .ok n =>
      let x := img.toNat
      let logMib := if nbits x 16 16 == 0 then 1024 else nbits x 16 16
      if nbits x 32 32 * 4096 + logMib * 2 ^ 20 > s.nodeHbm n then .next (setPartStat 3 0 s0)
      else
        let d := (s0.unform n).drawn
        let p := newPartition (nodeNumber n) (nbits x 0 2) n.1 n.2.1 n.2.2 (partReqRead img) (BitVec.ofNat 256 d.1)
        .next (setPartStat 0 (nodeNumber n) (d.2.addPart p))

/-- DISSOLVE (R333). -/
def execDissolve (img : BitVec 64) (s : State) : Result :=
  if !bitAt img.toNat 14 || !bitAt img.toNat 15 || s.stage < 3 then .next s
  else
    let s0 := { s with partReq := partReqRead img }
    match s.requestNode img with
    | .error st => .next (setPartStat st 0 s0)
    | .ok n => .next (setPartStat 0 (nodeNumber n) (s0.unform n))

/-! ### Contexts -/

/-- A context as it opens: no object, full bits full, no tables, no tasks (R182, R271, R336). -/
def newContext (num s1root s2root pasid slice save nclusters : Nat) (firmware : Bool) : Context where
  num := num
  s1root := s1root
  s2root := s2root
  pasid := pasid
  slice := slice
  save := save
  nclusters := nclusters
  firmware := firmware
  loaded := false
  sliceFrom := 0
  coreTable := []
  units := []
  routes := []
  object := false
  codeBase := 0
  codeLen := 0
  contract := ⟨0, 0, 0, (0, 0, 0), 0, 0⟩
  engineCode := []
  nextCreate := 0
  tables := []
  tasks := []
  edges := []
  threads := []
  tcm := []
  sp := []
  tcmEmpty := []
  spEmpty := []
  tcmBad := []
  spBad := []
  copies := []
  jobs := []
  nextArr := 0
  matrices := []
  seqs := []
  pages := []
  combines := []
  tlb := []
  ats := []
  pri := []
  gated := []
  lastSeat := []
  issuedAt := []

/-- R336: the context that a descriptor and its stage-2 root describe; none where a field is not allowed (log
entry 20). -/
def contextOf (p : Partition) (n : Nat) (desc s2root : Nat) : Option Context :=
  let s1 := nbits desc 0 64
  let slice := nbits desc 160 32
  let save := nbits desc 192 64
  let nc := nbits desc 256 16
  if s1 % 4096 != 0 || s2root == 0 || s2root % 4096 != 0 || nbits desc 148 12 != 0 || slice == 0 || save % 4096 != 0
      || nc == 0 || nc > p.clusters || nbits desc 272 240 != 0 then none
  else some (newContext n s1 s2root (nbits desc 128 20) slice save nc false)

/-- The counts of a wait that is saved are what remains of them (R97, R267). -/
def Wait.remaining (time : Nat) (w : Wait) : Wait :=
  match w with
  | .event d => .event (d - time)
  | .gwait spc a d => .gwait spc a (d - time)
  | w => w

def Wait.resumed (time : Nat) (w : Wait) : Wait :=
  match w with
  | .event d => .event (time + d)
  | .gwait spc a d => .gwait spc a (time + d)
  | w => w

/-- R13: a thread whose context is saved. -/
def Life.save (time : Nat) (l : Life) : Life :=
  match l with
  | .here (.waiting w) => .saved (.waiting (w.remaining time))
  | .here x => .saved x
  | l => l

/-- A wait for an entry of the thread's own engine's queue follows the engine (R287). -/
def Wait.moved (old new : Nat) (w : Wait) : Wait :=
  match w with
  | .again (.jobRoom cl 2) => .again (.jobRoom (if cl == old / Config.stackClusters then new / Config.stackClusters
      else cl) 2)
  | .again (.jobRoom cl 3) => .again (.jobRoom cl 3)
  | .again (.jobRoom cl u) => .again (.jobRoom (if cl == old then new else cl) u)
  | w => w

def Life.moved (old new : Nat) (l : Life) : Life :=
  match l with
  | .saved (.waiting w) => .saved (.waiting (w.moved old new))
  | l => l

def Life.restore (time : Nat) (l : Life) : Life :=
  match l with
  | .saved (.waiting w) => .here (.waiting (w.resumed time))
  | .saved x => .here x
  | l => l

/-- R341 steps 2 and 3: has everything that must complete before the context counts as saved completed? -/
def State.quiet (s : State) (k : CtxId) : Bool :=
  match s.part? k.part, s.ctx? k with
  | some p, some c =>
    c.tasks.all (fun t => !(t.state == .committing && t.commitOk)) && c.tables.all (fun t => t.inbox.isEmpty)
      && p.shoots.all (fun x => match x.who with
        | .thread t => t.ctx != k.ctx
        | _ => true)
  | _, _ => false

/-- Has the context's slice run out (R336)? -/
def Context.sliceOver (c : Context) (time : Nat) : Bool := c.sliceFrom + 4096 * c.slice ≤ time

/-- The pages of a save area (R336). -/
def savePages (save size : Nat) : List Nat := (List.range ((size + 4095) / 4096)).map fun i => save + 4096 * i

/-- The key under which a page of device memory takes a save area's bytes; none where it can take none. -/
def State.saveGen (s : State) (part key pa : Nat) : Option Nat :=
  match s.physCheck pa, (s.regionAt pa).map Region.kind with
  | none, some (.hbm _) => s.slotGen part key
  | none, some (.commons _) => some 0
  | _, _ => none

/-- One page of a save area is written, at the address that stage 2 gives it, encrypted under its leaf's slot (R321,
R336); its bytes are the device's own (log entry 31). A page that is not of device memory takes none. -/
def State.saveOnPage (k : CtxId) (c : Context) (s : State) (ia : Nat) : State :=
  match s.stage2 c ia with
  | .error _ => s
  | .ok l =>
    match s.saveGen k.part l.key (l.at ia) with
    | some g =>
      let r := s.fresh
      r.2.physWrite g (l.at ia) ((List.range 4096).map fun i => BitVec.ofNat 8 (Config.saveByte r.1 i))
    | none => s

/-- Must an address of a save area wait: a table or the page on a stack not yet in service (R313)? -/
def State.saveWaits (s : State) (c : Context) (ia : Nat) : Bool :=
  let held (f : Option XFault) : Bool := match f with
    | some (.hold _) => true
    | _ => false
  match s.stage2 c ia with
  | .error f => held (some f)
  | .ok l => held (s.physCheck (l.at ia))

/-- Must a context's save area wait for a stack (R313)? -/
def State.saveHeld (s : State) (k : CtxId) : Bool :=
  match s.part? k.part, s.ctx? k with
  | some p, some c => (savePages c.save p.saveSize.toNat).any (s.saveWaits c)
  | _, _ => false

/-- R341 step 4: the save area takes the context's image. -/
def State.saveImage (k : CtxId) (s : State) : State :=
  match s.part? k.part, s.ctx? k with
  | some p, some c => (savePages c.save p.saveSize.toNat).foldl (State.saveOnPage k c) s
  | _, _ => s

/-- A context that counts as saved: its threads keep what they wait for, and its clusters' caches hold nothing of it
(R13, R341). A GATED seat is one no more (log entry 94). -/
def Context.saved (time : Nat) (c : Context) : Context :=
  { c with
    loaded := false
    threads := c.threads.map fun h => { h with life := h.life.save time }
    tlb := []
    copies := []
    gated := []
    lastSeat := []
    issuedAt := [] }

/-- SLICE_END (R336, R341): the slice over, the context is quiesced and saved, and gives up its clusters; once its save
area can be written (R313). -/
def execSliceEnd (k : CtxId) (s : State) : Result :=
  if s.active k && s.quiet k && ((s.ctx? k).map fun c => c.sliceOver s.time).getD false && !s.saveHeld k then
    .next ((s.saveImage k).modCtx k (Context.saved s.time))
  else .next s

/-- Clusters of a partition held by its loaded contexts. -/
def Partition.taken (p : Partition) : List Nat :=
  (p.ctxs.filter fun c => c.loaded).flatMap fun c => c.coreTable

/-- May the context be given these clusters: one for each it uses, none held by another (R337)? -/
def Partition.canLoad (p : Partition) (c : Context) (clusters : List Nat) : Bool :=
  c.nclusters == clusters.length && clusters.all (fun x => decide (x < p.clusters) && !p.taken.contains x)
    && clusters.Nodup

/-- Is a torus at least as large in every dimension as the one a context used (R39, R64)? -/
def torusFits (used avail : Nat × Nat × Nat) : Bool :=
  let fits (a b : Nat) : Bool := a == 0 || a ≤ b
  fits used.1 avail.1 && fits used.2.1 avail.2.1 && fits used.2.2 avail.2.2

/-- R1, R39: the extents of a partition's logical torus, of at most 16 × 16 × 16 modules. -/
def torusOf (part : Nat) : Nat × Nat × Nat :=
  let t := Config.torus part
  (t.1 % 16 + 1, t.2.1 % 16 + 1, t.2.2 % 16 + 1)

/-- R39: the first check of a restore that fails, 0 where none does; `pages` the state pages that the partition's
pool must hold for it. -/
def Partition.restoreStatus (p : Partition) (c : Context) (pages : Nat) : Nat :=
  if p.clusters < c.nclusters then 1
  else if Config.tcmSize / 1024 < c.contract.tcmKib then 2
  else if Config.clSize / 1024 < c.contract.spKib then 3
  else if c.object && !(c.contract.tileM % 256 == Config.tile && c.contract.tileN % 256 == Config.tile) then 4
  else if !torusFits c.contract.torus (torusOf p.num) then 5
  else if p.poolFree < pages then 6
  else 0

/-- The granules of R342: one for each vector register, one for each eight scalar registers, one for the
predicates, conditions and parameters. -/
def granules : List Nat := List.range 37

/-- The new place of engine state and of the jobs for a logical cluster's own engines (R287). -/
def Context.remap (clusters : List Nat) (c : Context) : Context :=
  let move (x : Nat) : Nat := match c.coreTable.findIdx? (· == x) with
    | some i => clusters.getD i x
    | none => x
  { c with
    coreTable := clusters
    matrices := c.matrices.map fun m => { m with cluster := move m.cluster }
    threads := c.threads.map fun h => { h with
      life := h.life.moved (c.coreTable.getD h.cluster h.cluster) (clusters.getD h.cluster h.cluster) }
    jobs := c.jobs.map fun j => match j.door, clusters[j.cluster]? with
      | none, some x => { j with target := j.op.engine x }
      | _, _ => j }

/-- The same thread of another context. -/
def threadIn (k : CtxId) (t : TId) : TId := { t with part := k.part, ctx := k.ctx }

/-- State pages take the next numbers of another partition's pool. -/
def Context.renumber (base : Nat) (c : Context) : Context :=
  let new (n : Nat) : Nat := match c.pages.findIdx? (fun d => d.page == n) with
    | some i => base + i
    | none => n
  let entries (m : List (Option Nat)) : List (Option Nat) := m.map (Option.map new)
  { c with
    pages := c.pages.map fun d => { d with page := new d.page }
    seqs := c.seqs.map fun q => { q with
      map := entries q.map
      ring := q.ring.map fun x => { x with map := entries x.map } } }

/-- The order of a list that a code names: each next element by the code's next digit, in the base of what is left. -/
def permuted : Nat → List Nat → List Nat → List Nat
  | _, [], _ => []
  | code, _ :: fuel, xs =>
    let i := code % xs.length
    (xs.drop i).take 1 ++ permuted (code / xs.length) fuel (xs.take i ++ xs.drop (i + 1))

/-- R1, R2: the physical slot of a cluster of the module, one of the 32 of its quarter. -/
def physicalSlot (unit : Nat) : Nat :=
  32 * (unit / 30) + (permuted (Config.slotPlan (unit / 30)) (List.range 32) (List.range 32)).getD (unit % 30) 0

/-- R1, R37: the physical core of a logical core of a cluster of the module, one of its 8. -/
def physicalCore (unit n : Nat) : Nat := (permuted (Config.corePlan unit) (List.range 8) (List.range 8)).getD n 0

/-- The physical side of a core table (R37): each logical cluster's slot and its cores. -/
def Partition.physical (p : Partition) (clusters : List Nat) : List (Nat × List Nat) :=
  clusters.map fun x => (physicalSlot (p.unitOf x), (List.range 8).map (physicalCore (p.unitOf x)))

/-- R1, R37: the physical module of a logical one of a partition's torus, one of the 4,096 of the largest system. -/
def physicalModule (part m : Nat) : Nat :=
  (permuted (Config.modulePlan part) (List.range 4096) (List.range 4096)).getD m 0

/-- The ports of each direction that are up (R345). -/
def portSets (down : List Nat) : List (List Nat) :=
  (List.range 6).map fun d => ((List.range 12).map (12 * d + ·)).filter fun x => !down.contains x

/-- The route table of a torus: physical module, ports of each direction, and is the entry valid (R37, R312, R346)? -/
def routesOf (part : Nat) (torus : Nat × Nat × Nat) (down : List Nat) : List Route :=
  (List.range (min 4096 (torus.1 * torus.2.1 * torus.2.2))).map fun m =>
    ⟨m, physicalModule part m, portSets down, Config.routeValid part m⟩

/-- A saved context as another that was opened for it: that one's descriptor, this one's contents (R39, R336). -/
def Context.become (c : Context) (k : CtxId) (d : Context) : Context :=
  { c with
    num := d.num, s1root := d.s1root, s2root := d.s2root, pasid := d.pasid, slice := d.slice, save := d.save
    firmware := d.firmware, routes := d.routes, ats := d.ats, pri := d.pri
    threads := c.threads.map fun h => { h with
      id := threadIn k h.id
      role := h.role.map fun rs => rs.map fun r => { r with thread := threadIn k r.thread } }
    jobs := c.jobs.map fun j => { j with
      thread := threadIn k j.thread
      merged := j.merged.map fun m => (threadIn k m.1, m.2) }
    combines := c.combines.map fun m => { m with owner := threadIn k m.owner }
    tables := c.tables.map fun t => { t with pins := t.pins.map fun q => { q with thread := threadIn k q.thread } } }

/-- A context that is open and holds nothing yet. -/
def Context.vacant (c : Context) : Bool := !c.loaded && !c.object && c.tasks.isEmpty

/-- What a saved context held stands in another that was opened for it; the one it leaves holds nothing (log entry
61). -/
def State.carry (k target : CtxId) (s : State) : State :=
  match s.part? k.part, s.part? target.part, s.ctx? k with
  | some src, some dst, some c =>
    let n := if target.part == k.part then 0 else c.pages.length
    let c1 := if target.part == k.part then c else c.renumber dst.poolNext
    let groups := (src.groups.filter fun g => g.ctx == k.ctx).map fun g => { g with ctx := target.ctx }
    let rounds := (src.rounds.filter fun r => r.ctx == k.ctx).map fun r => { r with ctx := target.ctx }
    let s1 := s.modPart k.part fun p => { p with
      groups := p.groups.filter fun g => g.ctx != k.ctx
      heldSeats := p.heldSeats.filter fun h => h.1.ctx != k.ctx
      owed := p.owed.filter fun o => o.1 != k.ctx
      rounds := p.rounds.filter fun r => r.ctx != k.ctx
      poolFree := p.poolFree + n
      ctxs := modWhere (fun c => c.num == k.ctx) (fun c =>
        { newContext c.num c.s1root c.s2root c.pasid c.slice c.save c.nclusters c.firmware with
          routes := c.routes, ats := c.ats, pri := c.pri }) p.ctxs }
    s1.modPart target.part fun p => { p with
      groups := p.groups ++ groups
      heldSeats := p.heldSeats ++ (src.heldSeats.filter fun h => h.1.ctx == k.ctx).map fun h =>
        ({ h.1 with part := target.part, ctx := target.ctx }, h.2)
      owed := p.owed ++ (src.owed.filter fun o => o.1 == k.ctx).map fun o => (target.ctx, o.2)
      rounds := p.rounds ++ rounds
      poolFree := p.poolFree - n
      poolNext := p.poolNext + n
      ctxs := modWhere (fun c => c.num == target.ctx) (fun d => c1.become target d) p.ctxs }
  | _, _, _ => s

/-- A pattern over a range of bytes. -/
def patternBytes (pattern : Word) (n : Nat) : List Byte :=
  (List.range n).map fun i => pattern.extractLsb' (8 * (i % 8)) 8

/-- The on-chip memories of a logical cluster hold a pattern. -/
def Context.holdPattern (cluster : Nat) (w : Word) (c : Context) : Context :=
  { c with
    tcm := writeBytes c.tcm (cluster * (8 * Config.tcmSize)) (patternBytes w (8 * Config.tcmSize))
    sp := writeBytes c.sp (cluster * Config.clSize) (patternBytes w Config.clSize) }

/-- Clusters of the module hold a scrub's pattern (R323). -/
def State.leavePattern (w : Word) (units : List Nat) (s : State) : State :=
  { s with scrubbed := units.foldl (fun m u => putMany m u [w]) s.scrubbed }

/-- A context is given clusters: one that is given some for the first time finds in their memories what a scrub left
there (R323), a restored one its own. -/
def State.findScrubbed (k : CtxId) (units : List Nat) (fresh : Bool) (s : State) : State :=
  let left := (enumFrom' 0 units).filterMap fun e => (findAt s.scrubbed e.2).map fun w => (e.1, w)
  let s1 := if fresh then s.modCtx k fun c => left.foldl (fun c x => c.holdPattern x.1 x.2) c else s
  { s1 with scrubbed := s.scrubbed.filter fun e => !units.contains e.1 }

/-- The context takes its clusters and its tables: its threads return to the places they held, their registers absent
(R37, R39, R342). -/
def Context.place (p : Partition) (clusters down : List Nat) (time : Nat) (c : Context) : Context :=
  let c := c.remap clusters
  { c with
    loaded := true
    sliceFrom := time
    units := p.physical clusters
    routes := routesOf p.num c.contract.torus down
    threads := c.threads.map fun h => match h.life with
      | .saved _ => { h with life := h.life.restore time, absent := granules, since := time }
      | .yielded => { h with absent := granules }
      | _ => h }

/-- CONTEXT_LOAD (R337, R39, R342): a context that is not loaded is given clusters of its partition, or is restored
as a context opened for it there or on another partition, whose clusters it is given. A restore that fails a check
of R39 changes nothing but the status it returns. One whose save area is on a stack not yet in service waits (R313). -/
def execContextLoad (k target : CtxId) (clusters : List Nat) (s : State) : Result :=
  match s.part? k.part, s.part? target.part, s.ctx? k, s.ctx? target with
  | some _, some p, some c, some d =>
    let away := target.part != k.part
    if !s.clocked target.part || c.loaded || !(target == k || d.vacant) || !c.coreTable.isEmpty && s.saveHeld k then .next s
    else match p.restoreStatus c (if away then c.pages.length else 0) with
      | 0 =>
        if !p.canLoad c clusters then .next s
        else
          let s1 : State := { s with restoreStat := 0 }
          let s2 := if target == k then s1 else s1.carry k target
          .next ((s2.modCtx target (Context.place p clusters s.portsDown s.time)).findScrubbed target
            (clusters.map p.unitOf) (target == k && c.coreTable.isEmpty))
      | st => .next { s with restoreStat := st }
  | _, _, _, _ => .next s

/-- GRANULE_FILL (R342): an absent granule is filled, whether an instruction waits for it or none has named it yet. -/
def execGranuleFill (t : TId) (granule : Nat) (s : State) : Result :=
  match s.awake? t with
  | none => .next s
  | some _ =>
    if s.saveHeld t.ctxId then .next s
    else .next (s.modThread t fun h => { h with absent := eraseKey granule h.absent })

end Sys2Proof.Machine
end

