-- ==== Sys2Proof/Machine/HostEvents.lean ====
section
/-! DEFINITION. The host's commands, the loader (R338, R339), host queues (R340), the QoS block (R343), fault
rings (R224 to R227), translations from outside (R229 to R232), registers (R334, R335) and host accesses
(R344). -/

namespace Sys2Proof.Machine

/-! ### The host thread command (R338) -/

/-- The bits of a command image that fields take. -/
def fieldMask (fs : List (Nat × Nat)) : Nat := fs.foldl (fun m f => Nat.lor m ((2 ^ f.2 - 1) * 2 ^ f.1)) 0

/-- Has a command a nonzero bit that its operation does not use? Byte 31 is ignored. -/
def extraBits (img : BitVec 256) (fs : List (Nat × Nat)) : Bool :=
  (BitVec.ofNat 256 (nbits img.toNat 0 248) &&& ~~~ (BitVec.ofNat 256 (fieldMask fs))) != 0

/-- The command register after an operation: STATUS in its last byte, and what OP 0x07 writes. -/
def State.commandDone (part : Nat) (img : BitVec 256) (detail status : Nat) (s : State) : State :=
  s.modPart part fun p => { p with
    command := BitVec.ofNat 256 (Nat.lor (nbits img.toNat 0 248) detail + status * 2 ^ 248) }

def State.setCmdWait (part : Nat) (xs : List (BitVec 256)) (s : State) : State :=
  s.modPart part fun p => { p with cmdWait := xs }

/-- The commands of a partition's register execute in their order (log entry 87): one that finds another before it waits;
the first of those that wait, held for a stack (R313) or a page (R231), goes on when it comes about again. -/
def State.cmdServe (part : Nat) (img : BitVec 256) (waiting : List (BitVec 256)) (s : State) (f : State → Result) : Result :=
  match waiting with
  | [] => f s
  | x :: rest =>
    if x == img then
      match f (s.setCmdWait part []) with
      | .next s1 => .next (s1.modPart part fun p => { p with cmdWait := p.cmdWait ++ rest })
      | r => r
    else .next (s.setCmdWait part (x :: rest ++ [img]))

/-- A host command of an operation whose fields are these: malformed, or on. One for a frozen partition is held until
THAW (R329). -/
def hostCommand (part : Nat) (img : BitVec 256) (op : Nat) (fs : List (Nat × Nat)) (s : State)
    (f : Partition → State → Result) : Result :=
  match s.part? part with
  | none => .next s
  | some p =>
    if nbits img.toNat 0 8 != op then .next s
    else if p.frozen then .next (s.modPart part fun p => { p with heldIn := p.heldIn ++ [.command img] })
    else s.cmdServe part img p.cmdWait fun s =>
      if extraBits img ((0, 8) :: fs) then .next (s.commandDone part img 0 3) else f p s

def cmdCtx (img : BitVec 256) : Nat := nbits img.toNat 8 12
def cmdTask (img : BitVec 256) : Nat := nbits img.toNat 32 32
def cmdThread (img : BitVec 256) : Nat := nbits img.toNat 64 32

/-- The device's own read of physical memory: what stands there, or that it must wait or cannot be read. -/
def State.rawRead (s : State) (pa n : Nat) : Except XFault Nat :=
  match s.physCheck pa with
  | some f => .error f
  | none => if s.badIn pa n then .error (.trap 0x0C false) else .ok (leVal (s.physRead 0 pa n))

/-- OPEN_CONTEXT (R335, R336, R338). A descriptor or root on a stack that is not in service holds it (R313). -/
def execOpenContext (part : Nat) (img : BitVec 256) (s : State) : Result :=
  hostCommand part img 1 [(8, 12)] s fun p s =>
    let n := cmdCtx img
    let refuse : Result := .next (s.commandDone part img 0 2)
    if (p.ctx? n).isSome || p.ctxBase == 0 || p.s2table == 0 then refuse
    else
      let at' := p.ctxBase.toNat + 64 * n
      match s.rawRead at' 64, s.rawRead (p.s2table.toNat + 8 * n) 8 with
      | .error (.hold _), _ => .next (s.setCmdWait part [img])
      | _, .error (.hold _) => .next (s.setCmdWait part [img])
      | .ok d, .ok root =>
        match contextOf p n d root with
        | none => refuse
        | some c =>
          let s1 := s.physWrite 0 (at' + 8) (leBytes 8 root)
          .next ((s1.modPart part fun p => { p with
            ctxs := (p.ctxs.filter fun x => x.num < n) ++ [c] ++ (p.ctxs.filter fun x => n < x.num)
            closed := p.closed.filter fun x => x.ctx != n
            scanOk := false }).commandDone part img 0 0)
      | _, _ => refuse

/-- CLOSE_CONTEXT (R338): the context is gone, its state pages return to the pool. A bring-up context is the anchor
firmware's to close (R314). -/
def execCloseContext (part : Nat) (img : BitVec 256) (s : State) : Result :=
  hostCommand part img 2 [(8, 12)] s fun p s =>
    match p.ctx? (cmdCtx img) with
    | none => .next (s.commandDone part img 0 1)
    | some c =>
      if c.tasks.any Task.inTracker || s.isBringUp part then .next (s.commandDone part img 0 2)
      else .next ((s.modPart part fun p => { p with
        ctxs := p.ctxs.filter fun x => x.num != c.num
        heldSeats := p.heldSeats.filter fun h => h.1.ctx != c.num
        owed := p.owed.filter fun o => o.1 != c.num
        closed := p.closed ++ [⟨c.num, c.coreTable, c.s2root, c.tcmBad, c.spBad⟩]
        poolFree := p.poolFree + c.pages.length }).commandDone part img 0 0)

/-- RESUME_THREAD (R95, R338). -/
def execResumeThread (part : Nat) (img : BitVec 256) (s : State) : Result :=
  let mode := nbits img.toNat 96 2
  hostCommand part img 3 ([(8, 12), (32, 32), (64, 32), (96, 2)] ++ (if mode == 2 then [(128, 32)] else [])) s fun _ s =>
    if mode == 3 then .next (s.commandDone part img 0 3)
    else
      let k : TaskId := ⟨part, cmdCtx img, cmdTask img⟩
      match s.task? k with
      | none => .next (s.commandDone part img 0 1)
      | some t =>
        if cmdThread img ≥ t.tcb.nthreads then .next (s.commandDone part img 0 1)
        else
          let r := s.resumeParked ⟨part, k.ctx, k.task, cmdThread img⟩ mode (nbits img.toNat 128 32)
          .next (r.2.commandDone part img 0 (if r.1 then 0 else 2))

/-- A host command on a task. -/
def taskCommand (part : Nat) (img : BitVec 256) (op : Nat) (f : TaskId → State → Bool × State) (s : State) : Result :=
  hostCommand part img op [(8, 12), (32, 32)] s fun _ s =>
    let k : TaskId := ⟨part, cmdCtx img, cmdTask img⟩
    match s.task? k with
    | none => .next (s.commandDone part img 0 1)
    | some _ =>
      let r := f k s
      .next (r.2.commandDone part img 0 (if r.1 then 0 else 2))

/-- CANCEL_TASK (R215, R338). -/
def execCancelTask (part : Nat) (img : BitVec 256) (s : State) : Result :=
  taskCommand part img 4 (fun k s => s.cancel k) s
/-- RETRY_TASK (R216, R338). -/
def execRetryTask (part : Nat) (img : BitVec 256) (s : State) : Result :=
  taskCommand part img 5 (fun k s => s.retry k) s

/-- R234: the shoot-down that a host command asks for; none where it is malformed. -/
def hostShoot (img : BitVec 256) : Option Shoot :=
  let sub := nbits img.toNat 32 32
  let span := sub % 4
  let stage := sub / 4 % 4
  let n := sub / 16 % 2 ^ 12
  let a := nbits img.toNat 64 64
  let len := nbits img.toNat 128 64
  if sub / 2 ^ 16 != 0 || span == 3 || stage == 0 || (span == 2 && n != 0) then none
  else if span == 0 then
    if a % 4096 != 0 || len == 0 || len % 4096 != 0 || a + len > 2 ^ 48 then none
    else some ⟨some n, stage, a, a + len, .host⟩
  else if a != 0 || len != 0 then none
  else some ⟨if span == 2 then none else some n, stage, 0, 2 ^ 64, .host⟩

/-- SHOOT_DOWN (R234, R338). STATUS is written when the shoot-down completes. -/
def execShootDown (part : Nat) (img : BitVec 256) (s : State) : Result :=
  hostCommand part img 6 [(32, 32), (64, 64), (128, 64)] s fun p s =>
    match hostShoot img with
    | none => .next (s.commandDone part img 0 3)
    | some x =>
      if ((x.ctx).map fun n => (p.ctx? n).isNone).getD false then .next (s.commandDone part img 0 1)
      else .next (s.modPart part fun p => { p with shoots := p.shoots ++ [x], command := img })

/-- RESUME_JOB (R241, R338). -/
def execResumeJob (part : Nat) (img : BitVec 256) (s : State) : Result :=
  hostCommand part img 8 [(8, 12), (32, 32), (64, 32), (128, 16)] s fun _ s =>
    let k : TaskId := ⟨part, cmdCtx img, cmdTask img⟩
    let found := (s.task? k).bind fun t =>
      if cmdThread img ≥ t.tcb.nthreads then none
      else (s.ctx? k.ctxId).bind fun c => c.named? ⟨part, k.ctx, k.task, cmdThread img⟩ (nbits img.toNat 128 16)
    match found with
    | none => .next (s.commandDone part img 0 1)
    | some j => match j.place with
      | .heldPage _ => .next ((s.putJob k.ctxId j.unhold).commandDone part img 0 0)
      | _ => .next (s.commandDone part img 0 2)

/-! ### The loader (R62 to R64, R339) -/

/-- A refusal: DETAIL, INDEX, SUBSTATUS; or an access that must wait. -/
inductive LoadStop where
  | refuse (detail index sub : Nat)
  | hold

/-- A section of an object. -/
structure Section where
  kind : Nat
  off : Nat
  size : Nat
  load : Nat
  deriving DecidableEq, Repr

/-- Little-endian number of n bytes at a place of an object; `bad` where no translation reads them (log entry 72). Bytes
that cannot be reached yet make the load wait (R231, R313). -/
def State.objNum (s : State) (k : CtxId) (a off n : Nat) (bad : LoadStop) : Except LoadStop Nat :=
  match s.rangeFault k trackerCluster (a + off) n .rd with
  | none => .ok (leVal (s.homeRead k trackerCluster (a + off) n))
  | some (_, .hold _) => .error .hold
  | some _ => .error bad

/-- R62: NSECT and SECTOFF of a good header; an object too short for one is refused as one without, a section table that
R62 does not allow as one (log entry 72). -/
def State.objHeader (s : State) (k : CtxId) (a len : Nat) : Except LoadStop (Nat × Nat) :=
  let bad : LoadStop := .refuse 1 0 0
  if len < 64 then .error bad
  else (s.objNum k a 0 64 bad).bind fun h =>
    let n := nbits h 64 16
    let off := nbits h 128 64
    if nbits h 0 32 != 0x014F5650 || nbits h 32 16 != 1 || nbits h 48 16 != 0 || nbits h 80 48 != 0
        || nbits h 192 320 != 0 then .error bad
    else if n == 0 || n > 256 || off % 8 != 0 || off + 32 * n > len then .error (.refuse 2 0 0)
    else .ok (n, off)

def Section.known (x : Section) : Bool := (1 ≤ x.kind && x.kind ≤ 7) || 0x80 ≤ x.kind

/-- R63: the section table; the first bad entry refuses the object, one with reserved bits as well (log entry 72). -/
def State.objSections (s : State) (k : CtxId) (a len off : Nat) : Nat → Nat → Except LoadStop (List Section)
  | 0, _ => .ok []
  | n + 1, i => (s.objNum k a (off + 32 * i) 32 (.refuse 2 i 0)).bind fun e =>
    let x : Section := ⟨nbits e 0 8, nbits e 64 64, nbits e 128 64, nbits e 192 64⟩
    if !x.known || nbits e 8 56 != 0 || x.off + x.size > len then .error (.refuse 2 i 0)
    else (s.objSections k a len off n (i + 1)).map fun xs => x :: xs

/-- Sections of a kind, with their places in the table. -/
def ofKind (kind : Nat) (xs : List Section) : List (Nat × Section) :=
  (enumFrom' 0 xs).filter fun x => x.2.kind == kind

/-- R63: one contract and one code section, at most one of tables and of tasks. -/
def sectionCounts (xs : List Section) : Except LoadStop Unit :=
  let second (kind : Nat) : Option Nat := ((ofKind kind xs)[1]?).map (·.1)
  match (ofKind 1 xs).isEmpty || (ofKind 2 xs).isEmpty, [1, 2, 3, 6].findSome? second with
  | true, _ => .error (.refuse 2 xs.length 0)
  | _, some i => .error (.refuse 2 i 0)
  | _, none => .ok ()

/-- R64, R38: the contract's fields; its size and reserved bits are not checked (log entry 72). -/
def contractOf (x : Nat) : Contract :=
  ⟨nbits x 0 16, nbits x 16 16, nbits x 32 16, (nbits x 48 8, nbits x 56 8, nbits x 64 8), nbits x 72 8, nbits x 80 8⟩

def Contract.met (c : Contract) (p : Partition) : Bool :=
  c.clusters ≤ p.clusters && c.tcmKib ≤ Config.tcmSize / 1024 && c.spKib ≤ Config.clSize / 1024

/-- A table of an object, from its first word at `off`: id, SIZELOG, header and entry images (R63). -/
def State.objTable (s : State) (k : CtxId) (a off clusters i w : Nat) : Except LoadStop Table :=
  let bad : LoadStop := .refuse 4 i 0
  let z := nbits w 8 4
  (s.objNum k a (off + 8) 8 bad).bind fun h =>
    ((List.range (2 ^ z)).mapM fun n => s.objNum k a (off + 16 + 32 * n) 32 bad).bind fun es =>
      let hdr : Word := BitVec.ofNat 64 h
      let entries := es.map fun e => (BitVec.ofNat 256 e : BitVec 256)
      if !headerOk z hdr || !entries.all entryOk then .error bad
      else .ok ⟨nbits w 0 8, z, List.replicate clusters ⟨hdr, hdr, entries, entries, 0, none⟩, 0, none, [], 0, []⟩

/-- R24, R63: the tables of a section, in turn; `i` the place of the next. -/
def State.objTables (s : State) (k : CtxId) (a stop clusters : Nat) : Nat → Nat → Nat → List Table →
    Except LoadStop (List Table)
  | 0, _, _, ts => .ok ts
  | f + 1, off, i, ts =>
    if off ≥ stop then .ok ts
    else (s.objNum k a off 8 (.refuse 4 i 0)).bind fun w =>
      let id := nbits w 0 8
      let z := nbits w 8 4
      let sum := ts.foldl (fun n t => n + 2 ^ t.sizeLog) (2 ^ z)
      if nbits w 12 52 != 0 || id ≥ 64 || ts.any (fun t => t.id == id) || z < 4 || z > 9
          || off + 16 + 32 * 2 ^ z > stop || ts.length ≥ 64 || sum > 2048 then .error (.refuse 4 i 0)
      else (s.objTable k a off clusters i w).bind fun t =>
        s.objTables k a stop clusters f (off + 16 + 32 * 2 ^ z) (i + 1) (ts ++ [t])

/-- R339 step 3: copies n bytes of the object to a load address. -/
def State.copySection (k : CtxId) (a off n load i : Nat) (s : State) : Except (LoadStop × State) State :=
  match s.rangeFault k trackerCluster load n .wr, s.rangeFault k trackerCluster (a + off) n .rd with
  | some (_, .hold _), _ => .error (.hold, s)
  | some _, _ => .error (.refuse 6 i 0, s)
  | none, some (_, .hold _) => .error (.hold, s)
  | none, some _ => .error (.refuse 2 i 0, s)
  | none, none => .ok (s.homeWrite k trackerCluster load (s.homeRead k trackerCluster (a + off) n))

/-- The launch list of a tasks section, the `i`-th of the object (R63): the addresses, and the bytes the list takes. One
too short for its count lists nothing (log entry 96). -/
def State.launchList (s : State) (k : CtxId) (a i : Nat) (x : Section) : Except LoadStop (List Nat × Nat) :=
  (s.objNum k a x.off 8 (.refuse 2 i 0)).bind fun m =>
    let n := min m (x.size / 8)
    ((List.range n).mapM fun j => s.objNum k a (x.off + 8 + 8 * j) 8 (.refuse 2 i 0)).map fun l => (l, 8 + 8 * n)

/-- How many of the copied bytes hold images: those before the first overflow window that an image names (R146); `m`
the next image, `stop` the bytes so far. -/
def State.imagesEnd (s : State) (k : CtxId) (first load i : Nat) : Nat → Nat → Nat → Except LoadStop Nat
  | 0, _, stop => .ok stop
  | n + 1, m, stop =>
    if 128 * (m + 1) > stop then .ok stop
    else (s.objNum k first (128 * m) 64 (.refuse 2 i 0)).bind fun x =>
      let b := tcbOf x
      s.imagesEnd k first load i n (m + 1) (if 4 < b.nwin && load ≤ b.ovfptr then min stop (b.ovfptr - load) else stop)

/-- R63: does a launch name an image of the copied bytes, of which these many hold images? The images stand 128 bytes
apart from the load address on, whatever its own alignment (log entry 79). -/
def launchOk (x : Section) (stop ad : Nat) : Bool :=
  x.load ≤ ad && (ad - x.load) % 128 == 0 && ad + 128 ≤ x.load + stop

/-- The launches of a tasks section, all of which must be images of it. -/
def State.launches (s : State) (k : CtxId) (a i : Nat) (x : Section) : Except LoadStop (List Nat) :=
  (s.launchList k a i x).bind fun l =>
    (s.imagesEnd k (a + x.off + l.2) x.load i (x.size / 128 + 1) 0 (x.size - l.2)).bind fun stop =>
      if l.1.all (launchOk x stop) then .ok l.1 else .error (.refuse 2 i 0)

/-- Copies the sections in their order (R339 steps 1 and 3). -/
def copySections (k : CtxId) (a : Nat) : List (Nat × Section) → State → Except (LoadStop × State) State
  | [], s => .ok s
  | (i, x) :: xs, s =>
    if x.kind == 2 && (x.size / 8 > 2 ^ 24 || x.load % 4096 != 0) then .error (.refuse 5 i 0, s)
    else if [2, 4, 5, 6].contains x.kind then
      match (if x.kind == 6 then (s.launchList k a i x).map (·.2) else .ok 0) with
      | .error e => .error (e, s)
      | .ok head => match s.copySection k a (x.off + head) (x.size - head) x.load i with
        | .error e => .error e
        | .ok s1 => copySections k a xs s1
    else copySections k a xs s

/-- The first engine firmware section, by its place, with which the words that come before and in it pass 65,536. -/
def firmwareOver : Nat → List (Nat × Section) → Option Nat
  | _, [] => none
  | n, (i, x) :: xs => if n + x.size / 8 > 65536 then some i else firmwareOver (n + x.size / 8) xs

/-- The words of the engine firmware sections (R261, R339 step 5); the section that passes their number is refused. -/
def State.objFirmware (s : State) (k : CtxId) (a : Nat) (fw : List (Nat × Section)) : Except LoadStop (List Word) :=
  match firmwareOver 0 fw with
  | some i => .error (.refuse 7 i 0)
  | none => (fw.flatMap fun x => (List.range (x.2.size / 8)).map fun j => (x.1, x.2.off + 8 * j)).mapM fun e =>
    (s.objNum k a e.2 8 (.refuse 2 e.1 0)).map fun w => (BitVec.ofNat 64 w : Word)

/-- May n bytes be read for a submission: yes, no, or not yet (none)? -/
def State.mayRead (s : State) (k : CtxId) (va n : Nat) : Option Bool :=
  match s.rangeFault k trackerCluster va n .rd with
  | none => some true
  | some (_, .hold _) => none
  | some _ => some false

/-- Submits an image as the loader and the host queues do, its launch come at a time: a status (R151, R155, R212); one
that cannot be read, or whose overflow windows cannot, has status 0x01 (log entry 21). None: it must wait. -/
def State.submitAt (k : CtxId) (image came : Nat) (s : State) : Option (Nat × State) :=
  match s.mayRead k image 128 with
  | none => none
  | some false => some (1, s)
  | some true =>
    let img := s.homeRead k trackerCluster image 128
    let tcb := tcbOf (leVal (img.take 64))
    let n := if 4 < tcb.nwin && tcb.nwin ≤ 64 then 16 * (tcb.nwin - 4) else 0
    match s.mayRead k tcb.ovfptr n with
    | none => none
    | some false => some (1, s)
    | some true =>
      let r := s.submit k image came img (s.homeRead k trackerCluster tcb.ovfptr n)
      some (r.1.1, r.2)

/-- R339 step 6: launches in order; the first refusal. -/
def submitAll (k : CtxId) : Nat → List Nat → State → Except LoadStop State
  | _, [], s => .ok s
  | i, x :: xs, s =>
    match s.submitAt k x s.time with
    | none => .error .hold
    | some (0, s1) => submitAll k (i + 1) xs s1
    | some (st, _) => .error (.refuse 8 i st)

/-- The whole load, `s` the state before it. A refusal keeps the sections already copied. -/
def loadObject (k : CtxId) (p : Partition) (c : Context) (a len : Nat) (s : State) : Except (LoadStop × State) State :=
  let failAt {α : Type} (s : State) (r : Except LoadStop α) : Except (LoadStop × State) α := r.mapError fun e => (e, s)
  do
    let (n, off) ← failAt s (s.objHeader k a len)
    let xs ← failAt s (s.objSections k a len off n 0)
    failAt s (sectionCounts xs)
    let launches ← failAt s ((ofKind 6 xs).mapM fun x => s.launches k a x.1 x.2)
    match (ofKind 1 xs).head? with
    | none => .error (.refuse 2 0 0, s)
    | some (ci, cx) =>
      let con ← failAt s ((s.objNum k a cx.off 16 (.refuse 3 ci 0)).map contractOf)
      if !con.met p then .error (.refuse 3 ci 0, s)
      else
        let ts ← failAt s (match (ofKind 3 xs).head? with
          | some x => s.objTables k a (x.2.off + x.2.size) c.nclusters (x.2.size / 8 + 1) x.2.off 0 []
          | none => .ok [])
        let s1 ← copySections k a (enumFrom' 0 xs) s
        let words ← failAt s1 (s.objFirmware k a (ofKind 7 xs))
        let code := ((ofKind 2 xs).head?.map (·.2)).getD ⟨2, 0, 0, 0⟩
        let s2 := s1.modCtx k fun c => { c with
          object := true, codeBase := code.load, codeLen := code.size / 8, contract := con, tables := ts
          engineCode := words
          routes := routesOf k.part con.torus s.portsDown }
        failAt s1 (submitAll k 0 launches.flatten s2)

/-- LOAD_OBJECT (R338, R339): of a context that is not open, as of one with an object, STATUS 0x02. Bytes that cannot be
reached yet hold it (R231, R313). -/
def execLoadObject (part : Nat) (img : BitVec 256) (s : State) : Result :=
  hostCommand part img 7 [(8, 12), (64, 64), (128, 64)] s fun p s =>
    let k : CtxId := ⟨part, cmdCtx img⟩
    match p.ctx? k.ctx with
    | none => .next (s.commandDone part img 0 2)
    | some c =>
      if c.object || c.tasks.any Task.inTracker then .next (s.commandDone part img 0 2)
      else match loadObject k p c (nbits img.toNat 64 64) (nbits img.toNat 128 64) s with
        | .ok s1 => .next (s1.commandDone part img 0 0)
        | .error (.hold, _) => .next (s.setCmdWait part [img])
        | .error (.refuse d i u, s1) =>
          .next (s1.commandDone part img (d * 2 ^ 192 + i % 2 ^ 32 * 2 ^ 200 + u * 2 ^ 232) 4)

/-- The command register's command executes (R338): an OP that R338 does not list is malformed. -/
def hostRun (part : Nat) (img : BitVec 256) (s : State) : Result :=
  match nbits img.toNat 0 8 with
  | 1 => execOpenContext part img s
  | 2 => execCloseContext part img s
  | 3 => execResumeThread part img s
  | 4 => execCancelTask part img s
  | 5 => execRetryTask part img s
  | 6 => execShootDown part img s
  | 7 => execLoadObject part img s
  | 8 => execResumeJob part img s
  | op => hostCommand part img op [] s fun _ s => .next (s.commandDone part img 0 3)

/-! ### Host queues (R340) -/

def State.modQueue (part q : Nat) (f : Queue → Queue) (s : State) : State :=
  s.modPart part fun p => { p with queues := p.queues.modify q f }

/-- A HEAD write: one too far beyond TAIL is ignored; the entries it adds arrive now (R340, R343). -/
def Queue.writeHead (time : Nat) (head : BitVec 32) (x : Queue) : Queue :=
  let n := (head - x.tail).toNat
  if n ≤ 2 ^ x.sizeLog then
    { x with head := head, came := x.came.take n ++ List.replicate (n - x.came.length) time }
  else x

/-- HOST_QUEUE_HEAD_WRITE (R340). -/
def execHostQueueHeadWrite (part q : Nat) (head : BitVec 32) (s : State) : Result :=
  .next (s.modQueue part q (Queue.writeHead s.time head))

/-- The entry at a queue's TAIL: KIND, ADDR, VALUE; none when it may not execute one. -/
def State.queueEntry (s : State) (part q : Nat) : Option (Queue × Nat × Nat × Nat) :=
  match s.part? part with
  | none => none
  | some p => match p.queues[q]? with
    | none => none
    | some x =>
      if !x.enable || x.stopped || x.head == x.tail || !s.clocked part || (p.ctx? x.ctx).isNone then none
      else
        let a := x.base.toNat + 32 * (x.tail.toNat % 2 ^ x.sizeLog)
        let e := leVal (readBytes s.hostMem (hostKey (vf part) a) 32)
        some (x, nbits e 0 8, nbits e 64 64, nbits e 128 64)

/-- An entry is refused: the queue stops, with its message. -/
def State.queueStop (part q status : Nat) (s : State) : State :=
  let s1 := s.modQueue part q fun x => { x with
    tail := x.tail + 1, came := x.came.drop 1, stopped := true, errIndex := x.tail, errStatus := status }
  { s1 with msix := s1.msix ++ [(vf part, 4)] }

def State.queueNext (part q : Nat) (s : State) : State :=
  s.modQueue part q fun x => { x with tail := x.tail + 1, came := x.came.drop 1 }

/-- HOST_QUEUE_SUBMIT (R340): submits the TCB at ADDR; a refusal or an unknown KIND stops the queue. -/
def execHostQueueSubmit (part q : Nat) (s : State) : Result :=
  match s.queueEntry part q with
  | none => .next s
  | some (x, kind, addr, _) =>
    let k : CtxId := ⟨part, x.ctx⟩
    match kind with
    | 1 =>
      match if addr % 128 == 0 then s.submitAt k addr (x.came.headD s.time) else some (1, s) with
      | none => .next s
      | some (0, s1) => .next (s1.queueNext part q)
      | some (st, _) => .next (s.queueStop part q st)
    | 2 => .next s
    | _ => .next (s.queueStop part q 0xFF)

/-- HOST_QUEUE_WAIT (R175, R340). A counter that is misaligned or cannot be read holds the queue (log entry 90). -/
def execHostQueueWait (part q : Nat) (s : State) : Result :=
  match s.queueEntry part q with
  | none => .next s
  | some (x, kind, addr, value) =>
    if kind == 2 && addr % 8 == 0 && s.mayRead ⟨part, x.ctx⟩ addr 8 == some true
        && value ≤ s.counterAt ⟨part, x.ctx⟩ trackerCluster addr then .next (s.queueNext part q)
    else .next s

/-- HOST_QUEUE_RESTART (R340): 1 written to STOPPED. -/
def execHostQueueRestart (part q : Nat) (s : State) : Result :=
  .next (s.modQueue part q fun x => { x with stopped := false, errIndex := 0, errStatus := 0 })

/-! ### Quality of service (R343) -/

/-- The p-per-mille percentile by nearest rank of a list. -/
def percentile (p : Nat) (xs : List Nat) : Nat :=
  (xs.mergeSort (fun a b => decide (a ≤ b))).getD ((p * xs.length + 999) / 1000 - 1) 0

/-- Is a latency in cycles of 1.7 GHz above a bound in ns? A bound of 0 is none. -/
def above (lat bound : Nat) : Bool := bound != 0 && bound * 17 < lat * 10

/-- QOS_WINDOW_END (R343). -/
def execQosWindowEnd (part : Nat) (s : State) : Result :=
  match s.part? part with
  | none => .next s
  | some p =>
    let n := 2 ^ p.qos.winLog
    if p.qos.lats.length < n then .next s
    else
      let w := p.qos.lats.take n
      let b := (above (percentile 500 w) p.qos.b50).toNat + 2 * (above (percentile 990 w) p.qos.b99).toNat
        + 4 * (above (percentile 999 w) p.qos.b999).toNat
      let s1 := s.modPart part fun p => { p with qos := { p.qos with
        breach := Nat.lor p.qos.breach b, lats := p.qos.lats.drop n } }
      .next (if b == 0 then s1 else { s1 with msix := s1.msix ++ [(0, 5), (vf part, 5)] })

/-! ### Fault rings (R224 to R227) -/

/-- A TAIL write: one that would place TAIL beyond HEAD is ignored, and so is one behind the old TAIL, which the counts
modulo 2^32 put beyond HEAD (log entry 91). -/
def Ring.writeTail (tail : BitVec 32) (r : Ring) : Ring :=
  if (tail - r.tail).toNat ≤ (r.head - r.tail).toNat then { r with tail := tail } else r

/-- FAULT_RING_TAIL_WRITE (R224). -/
def execFaultRingTailWrite (part : Nat) (terminal : Bool) (tail : BitVec 32) (s : State) : Result :=
  .next (s.modRing part terminal (Ring.writeTail tail))

/-- OVERFLOW_STOPPED_CLEAR (R226). -/
def execOverflowStoppedClear (part : Nat) (s : State) : Result :=
  .next (s.modPart part fun p =>
    if (s.ringOf p true).full then p else { p with stopped := false, overflow := none, overflowCount := 0 })

/-- The first terminal record that waits for the port goes to its ring (R227). -/
def State.writeLate (part : Nat) (s : State) : State :=
  match s.part? part with
  | none => s
  | some p => match p.late with
    | [] => s
    | r :: rs => (s.modPart part fun p => { p with late := rs }).sendTerminal part r

/-- The first held record goes to the ring, if it has room and the controller that holds it is not frozen (R225,
R329). -/
def State.writeHeld (part : Nat) (s : State) : State :=
  match s.part? part with
  | none => s
  | some p => match p.held with
    | [] => s
    | r :: rs =>
      if (s.ringOf p false).full || !s.clocked part then s
      else (s.modPart part fun p => { p with held := rs }).ringWrite part false r

/-- HELD_RECORD_WRITE (R225), within its function's share of the round (R227). -/
def execHeldRecordWrite (part : Nat) (s : State) : Result :=
  match s.part? part with
  | none => .next s
  | some p => .next (if s.mayReport p then s.writeHeld part else s)

/-- One more record of a partition while its share of the round lasts: terminal first, then replayable (R227). -/
def State.reportOne (part : Nat) (s : State) : State :=
  match s.part? part with
  | none => s
  | some p =>
    if p.sent < getAt 1 s.weights (s.ringFn part) then
      if p.late.isEmpty then s.writeHeld part else s.writeLate part
    else s

/-- Up to n records. -/
def State.reportSome (part : Nat) : Nat → State → State
  | 0, s => s
  | n + 1, s => State.reportSome part n (s.reportOne part)

/-- A partition's turn in a new round of the reporting port (R227). -/
def State.reportTurn (s : State) (part : Nat) : State :=
  match s.part? part with
  | none => s
  | some p =>
    (s.modPart part fun p => { p with sent := 0 }).reportSome part (p.late.length + p.held.length)

/-- REPORT_ROUND (R227): a new round of the reporting port, in which each virtual function sends up to its weight in
records. -/
def execReportRound (s : State) : Result := .next ((List.range 24).foldl State.reportTurn s)

/-! ### Translations (R229 to R232) -/

/-- TRANSLATION_WALK_COMPLETE (R229, R230): a walk's translation is cached; a walk that faults caches nothing,
and the access it was made for meets the fault. -/
def execTranslationWalkComplete (part : Nat) (w : WalkId) (s : State) : Result :=
  let k : CtxId := ⟨part, w.ctx⟩
  match s.ctx? k with
  | none => .next s
  | some c =>
    if !s.active k || w.va ≥ 2 ^ 48 || w.cluster ≥ c.nclusters then .next s
    else match s.walk part c w.cluster w.va .rd with
      | .ok e => .next (s.cache k .rd e)
      | .error _ => .next s

/-- Does a range of n pages of a size, by their addresses, meet a shoot-down's? -/
def Shoot.meets (x : Shoot) (size : Nat) (pages : List Nat) : Bool := pages.any fun a => a < x.hi && x.lo < a + size

/-- Does a shoot-down remove a cached translation of a context, or the run it carries (R232, R234)? A run's pages
follow one another by virtual address and have intermediate addresses of their own. -/
def Shoot.removes (x : Shoot) (ctx : Nat) (e : TlbEntry) : Bool :=
  let size := 2 ^ e.sizeLog
  (x.ctx.isNone || x.ctx == some ctx)
    && ((bitAt x.stages 0 && x.meets size ((List.range (e.run + 1)).map fun i => e.va + i * size))
      || (bitAt x.stages 1 && x.meets size (e.ia :: e.runIas)))

/-- A shoot-down is done in a context: translations, and host pages for an ATS invalidation (R231). -/
def Shoot.apply (x : Shoot) (c : Context) : Context :=
  match x.who with
  | .ats pasid =>
    if c.pasid == pasid then
      { c with ats := c.ats.filter fun e => !(x.lo ≤ e.page * 4096 && e.page * 4096 < x.hi) }
    else c
  | _ => { c with tlb := c.tlb.filter fun e => !x.removes c.num e }

/-- SHOOTDOWN_COMPLETE (R232, R234): the oldest shoot-down of a partition completes. -/
def execShootdownComplete (part : Nat) (s : State) : Result :=
  match s.part? part with
  | none => .next s
  | some p => match p.shoots with
    | [] => .next s
    | x :: xs =>
      if !s.clocked part then .next s
      else
        let s1 := s.modPart part fun p => { p with shoots := xs, ctxs := p.ctxs.map x.apply }
        match x.who with
        | .thread t => .next (s1.modThread t fun h => match h.life with
            | .here (.waiting .shootdown) => (h.setC15 false).goOn
            | _ => h)
        | .host => .next (s1.commandDone part p.command 0 0)
        | .ats pasid => .next { s1 with atsDone := s1.atsDone ++ [(vf part, pasid)] }

/-- What an ATS completion for a page leaves in a context (R231). -/
def Context.atsAnswer (page : Nat) (r : AtsAnswer) (c : Context) : Context :=
  let others := c.ats.filter fun e => e.page != page
  match r with
  | .grant h rd wr => { c with ats := others ++ [⟨page, some h, rd, wr⟩], pri := eraseKey page c.pri }
  | .denied => { c with ats := others ++ [⟨page, none, false, false⟩], pri := eraseKey page c.pri }
  | .absent => { c with pri := insertKey page c.pri }

/-- An answer from outside reaches a partition's context, or waits at its boundary for THAW (R329). -/
def State.inbound (part : Nat) (x : Inbound) (s : State) (f : State → State) : State :=
  if s.clocked part then f s
  else s.modPart part fun p => if p.frozen then { p with heldIn := p.heldIn ++ [x] } else p

/-- ATS_COMPLETION (R231): granted, denied, or absent, which asks for the page by PRI. -/
def execAtsCompletion (k : CtxId) (page : Nat) (r : AtsAnswer) (s : State) : Result :=
  .next (s.inbound k.part (.ats k.ctx page r) fun s => s.modCtx k (Context.atsAnswer page r))

/-- What a PRI response for a page that was asked for leaves in a context (R231, log entry 22). -/
def Context.priAnswer (page : Nat) (r : PriAnswer) (c : Context) : Context :=
  if !c.pri.contains page then c
  else
    let c1 := { c with pri := eraseKey page c.pri }
    match r with
    | .success => c1
    | .invalid => { c1 with ats := c.ats ++ [⟨page, none, false, false⟩] }
    | .failure => { c1 with ats := c.ats ++ [⟨page, none, false, false⟩] }

/-- PRI_RESPONSE (R231): Success repeats the request; the others deny the page. -/
def execPriResponse (k : CtxId) (page : Nat) (r : PriAnswer) (s : State) : Result :=
  .next (s.inbound k.part (.pri k.ctx page r) fun s => s.modCtx k (Context.priAnswer page r))

/-- ATS_INVALIDATION (R231): applied as a shoot-down of the PASID's host range. -/
def execAtsInvalidation (part pasid page pages : Nat) (s : State) : Result :=
  .next (s.modPart part fun p => { p with
    shoots := p.shoots ++ [⟨none, 3, page * 4096, (page + pages) * 4096, .ats pasid⟩] })

/-! ### Registers (R224, R284, R334, R335, R340, R343) -/

/-- R224, R340: SIZELOG is 6 to 15; other values are written as 6. -/
def ringSize (v : Nat) : Nat := if 6 ≤ v && v ≤ 15 then v else 6

/-- A 64-bit word of a ring's control block. BASE is kept as it is written (log entry 91). -/
def Ring.writeWord (i : Nat) (v : Word) (r : Ring) : Ring :=
  match i with
  | 0 => { r with base := v }
  | 1 => { r with sizeLog := ringSize (nbits v.toNat 0 4), enable := bitAt v.toNat 4 }
  | 2 => r.writeTail (v.truncate 32)
  | _ => r

/-- A 64-bit word of a queue's control block. -/
def Queue.writeWord (time i : Nat) (v : Word) (x : Queue) : Queue :=
  match i with
  | 0 => { x with base := v }
  | 1 =>
    let x1 := { x with
      sizeLog := ringSize (nbits v.toNat 0 4), enable := bitAt v.toNat 4
      ctx := if x.enable then x.ctx else nbits v.toNat 8 12 }
    x1.writeHead time ((v >>> 32).truncate 32)
  | 3 => if bitAt v.toNat 8 then { x with stopped := false, errIndex := 0, errStatus := 0 } else x
  | _ => x

/-- A 64-bit word of the QoS block; a WINLOG outside 10 to 16 is not taken (log entry 23). -/
def Qos.writeWord (i : Nat) (v : Word) (q : Qos) : Qos :=
  let x := v.toNat
  match i with
  | 0 => { q with b50 := nbits x 0 32, b99 := nbits x 32 32 }
  | 1 =>
    let w := nbits x 32 4
    { q with
      b999 := nbits x 0 32
      winLog := if 10 ≤ w && w ≤ 16 then w else q.winLog
      breach := Nat.xor q.breach (Nat.land q.breach (nbits x 36 3)) }
  | _ => q

/-- Reserved bits of slot entries read as zero (R284). -/
def slotMask (v : Word) : Nat := Nat.land v.toNat 0x3FFF3FFF3FFF3FFF

/-- Replaces 64-bit word i of a 256-bit image. -/
def putWord (x : BitVec 256) (i v : Nat) : BitVec 256 :=
  BitVec.ofNat 256 (x.toNat - nbits x.toNat (64 * i) 64 * 2 ^ (64 * i) + v % 2 ^ 64 * 2 ^ (64 * i))

/-- A write to a partition's registers at an offset by its virtual function (R334). Read-only places ignore it, and
what executes a command or clears STOPPED is not here. -/
def Partition.writeReg (time off : Nat) (v : Word) (p : Partition) : Partition :=
  let i := off % 32 / 8
  if 0x100 ≤ off && off < 0x120 then { p with replay := p.replay.writeWord i v }
  else if 0x120 ≤ off && off < 0x140 then { p with terminal := p.terminal.writeWord i v }
  else if 0x180 ≤ off && off < 0x1A0 then { p with qos := p.qos.writeWord i v }
  else if 0x200 ≤ off && off < 0x220 then { p with command := putWord p.command i v.toNat }
  else if 0x400 ≤ off && off < 0x500 then
    { p with queues := p.queues.modify ((off - 0x400) / 32) (Queue.writeWord time i v) }
  else p

/-- A write to a slot table, by partition firmware or the physical function (R284, R334). -/
def Partition.writeSlots (off : Nat) (v : Word) (p : Partition) : Partition :=
  if 0x1000 ≤ off && off < 0x1000 + 32 * p.clusters then
    let c := (off - 0x1000) / 32
    { p with slotTables := setMany 0 p.slotTables c [putWord (getAt 0 p.slotTables c) (off % 32 / 8) (slotMask v)] }
  else p

/-- R335: the physical function's window on a partition; a write while a context is open is ignored. -/
def Partition.writeWindow (off : Nat) (v : Word) (p : Partition) : Partition :=
  if !p.ctxs.isEmpty then p
  else match off / 8 with
    | 0 => { p with ctxBase := v }
    | 2 => { p with s2table := v }
    | _ => p

/-! ### The anchor mailbox (R319) -/

def State.mailbox (s : State) (fn : Nat) : Mailbox := (s.mail.find? fun m => m.fn == fn).getD ⟨fn, 0, 0, []⟩

def State.setMail (m : Mailbox) (s : State) : State :=
  { s with mail := (s.mail.filter fun x => x.fn < m.fn) ++ [m] ++ (s.mail.filter fun x => m.fn < x.fn) }

/-- The anchor's reply, and then the function's mailbox message: the status in byte 0, what else the reply holds
from byte 8 on (log entry 25). -/
def State.mailAnswer (fn status data : Nat) (s : State) : State :=
  let s1 := s.setMail { s.mailbox fn with reply := BitVec.ofNat 512 (status + data * 2 ^ 64) }
  { s1 with msix := s1.msix ++ [(fn, 3)] }

/-- Replaces 64-bit word i of a command. -/
def putMailWord (x : BitVec 512) (i v : Nat) : BitVec 512 :=
  BitVec.ofNat 512 (x.toNat - nbits x.toNat (64 * i) 64 * 2 ^ (64 * i) + v % 2 ^ 64 * 2 ^ (64 * i))

/-! ### Host accesses (R344) -/

/-- May the host reach device memory at an address: HBM or commons (log entry 24)? -/
def State.hostReach (s : State) (a n : Nat) : Bool :=
  match s.regionAt a with
  | some r => (match r.kind with
      | .hbm _ => true
      | .commons _ => true
      | _ => false) && a + n ≤ r.base + r.size
  | none => false

/-- Must a host access to device memory wait for a stack (R313)? -/
def State.hostHeld (s : State) (a : Nat) : Bool :=
  match s.physCheck a with
  | some (.hold _) => true
  | _ => false

/-- Does a host access find its bytes: what the host reaches, on a stack in service (R313, log entry 24)? -/
def State.hostFinds (s : State) (a n : Nat) : Bool := s.hostReach a n && (s.physCheck a).isNone

/-- The intermediate address at which stage-2 tables map a physical one, from level fuel − 1 down; `ia` where the table
begins (R228, R325). A table that cannot be read maps nothing (log entry 24). -/
def State.iaIn (s : State) (pa : Nat) : Nat → Nat → Nat → Option Nat
  | 0, _, _ => none
  | l + 1, ia, table => if (s.physCheck table).isSome then none else
    (List.range 512).findSome? fun i =>
      let e := leVal (s.physRead 0 (table + 8 * i) 8)
      let at' := ia + i * 2 ^ (12 + 9 * l)
      if !bitAt e 0 then none
      else if bitAt e 1 then
        let z := leafSize l (bitAt e 6)
        let page := e % 2 ^ 52 / 2 ^ z * 2 ^ z
        if l < 3 && page ≤ pa && pa < page + 2 ^ z then some (at' / 2 ^ z * 2 ^ z + (pa - page)) else none
      else s.iaIn pa l at' (e / 2 ^ 12 % 2 ^ 40 * 2 ^ 12)

/-- The intermediate address of a physical one in a partition: by the first of its contexts that maps it (log entry
24). -/
def State.iaOf (s : State) (part pa : Nat) : Option Nat :=
  (s.part? part).bind fun p => p.ctxs.findSome? fun c => s.iaIn pa 4 0 c.s2root

/-- A host write's lines count at their intermediate addresses (R325). -/
def State.countHost (part addr n : Nat) (s : State) : State :=
  (linesOf addr n).foldl (fun s l =>
    match s.iaOf part (l * 64) with
    | some ia => s.monitor part ia 1 true
    | none => s) s

/-- HOST_WRITE (R344, R325): a posted write takes effect; to a stack not yet in service it waits (R313). -/
def execHostWrite (fn addr : Nat) (data : List (BitVec 8)) (s : State) : Result :=
  if 3 ≤ s.stage && s.hostFinds addr data.length then
    let s1 := s.physWrite 0 addr data
    .next (if fn == 0 then s1 else s1.countHost (fn - 1) addr data.length)
  else .next s

/-- HOST_READ (R344): every earlier posted write has taken effect; of a stack not yet in service it waits (R313). -/
def execHostRead (_fn addr n : Nat) (s : State) : Result :=
  if s.stage < 3 || s.hostHeld addr then .next s
  else .next { s with hostReply := if s.hostFinds addr n then s.physRead 0 addr n else [] }

end Sys2Proof.Machine
end

