-- ==== Sys2Proof/Machine/Cut.lean ====
section
/-! DEFINITION. Marker cuts (R331): a unit's record, the markers, and what each channel records (log entry 29). -/

namespace Sys2Proof.Machine

/-- The anchor firmware, which sends the first markers, and how many units it sends them to. -/
def anchorUnit : Nat := 744

/-! ### What stands in a unit -/

/-- What of a context stands in a cluster of its partition: threads, memories, engines, its copies of tables, translations
and buffers. A message that has not arrived stands in none. -/
def Context.cutAt (p : Partition) (cluster : Nat) (c : Context) : Context :=
  let own := (c.coreTable.findIdx? (· == cluster)).getD c.nclusters
  let mine (size a : Nat) : Bool := a / size == own
  let core (x : Nat × Nat) : Bool := x.1 / 8 == own
  let here (j : Job) : Bool := (j.unit == .copy || j.unit == .matrix) && j.target == cluster
    && (j.place != .message || p.unitAt c j.cluster == p.unitOf cluster)
  { c with
    ats := [], pri := [], edges := [], seqs := [], pages := [], combines := []
    threads := c.threads.filter fun h => h.cluster == own
    tcm := c.tcm.filter fun e => mine (8 * Config.tcmSize) e.1
    sp := c.sp.filter fun e => mine Config.clSize e.1
    tcmEmpty := c.tcmEmpty.filter (mine (8 * Config.tcmSize))
    spEmpty := c.spEmpty.filter (mine Config.clSize)
    tcmBad := c.tcmBad.filter fun l => mine (8 * Config.tcmSize) (64 * l)
    spBad := c.spBad.filter fun l => mine Config.clSize (64 * l)
    copies := c.copies.filter fun e => e.1 == own
    jobs := c.jobs.filter here
    matrices := c.matrices.filter fun m => m.cluster == cluster
    tables := c.tables.map fun t => { t with copies := (t.copies.drop own).take 1, inbox := [], pins := [] }
    tlb := c.tlb.filter fun e => e.cluster == own
    gated := c.gated.filter core
    lastSeat := c.lastSeat.filter core
    issuedAt := c.issuedAt.filter core
    tasks := c.tasks.map fun t => { t with
      buffers := t.buffers.filter fun b => b.1 == own
      badLog := t.badLog.filter fun b => b.1 == own } }

/-- What of a context stands in its partition's directory unit: directory records, tracker, combines, sequences, the feed
controllers' and collective engines' jobs, the firmware that these run with its memory. -/
def Context.cutDirectory (c : Context) : Context :=
  let own (size a : Nat) : Bool := trackerCluster ≤ a / size
  { c with
    threads := c.threads.filter fun h => h.role.isSome
    tcm := c.tcm.filter fun e => own (8 * Config.tcmSize) e.1
    sp := [], tcmEmpty := [], spEmpty := [], spBad := [], matrices := [], copies := [], gated := [], lastSeat := []
    issuedAt := []
    tcmBad := c.tcmBad.filter fun l => own (8 * Config.tcmSize) (64 * l)
    jobs := c.jobs.filter fun j => (j.unit == .feed || j.unit == .coll) && j.place != .message
    tables := c.tables.map fun t => { t with copies := [], inbox := [] }
    tlb := c.tlb.filter fun e => trackerCluster ≤ e.cluster
    tasks := c.tasks.map fun t => { t with buffers := [], badLog := [] } }

/-- What of a partition stands in one of its clusters: the narrow groups, held seats, slot table and door epochs of the
cluster, and its contexts' parts. -/
def Partition.cutAt (cluster : Nat) (p : Partition) : Partition :=
  let own (ctx n : Nat) : Bool := ((p.ctx? ctx).bind fun c => c.coreTable[n]?) == some cluster
  { p with
    keys := [], secret := 0, monitors := [], held := [], late := [], overflow := none, queues := [], heldIn := [], cmdWait := []
    scrubbing := [], closed := [], rounds := [], shoots := [], owed := []
    groups := p.groups.filter fun g => !isWide g.handle && own g.ctx g.cluster
    heldSeats := p.heldSeats.filter fun h => own h.1.ctx h.1.cluster
    slotTables := p.slotTables.filter fun e => e.1 == cluster
    epochs := p.epochs.filter fun e => e.1 / 2 == cluster
    lent := p.lent.filter fun e => e.1 == cluster
    ctxs := (p.ctxs.filter fun c => c.loaded && c.coreTable.contains cluster).map (Context.cutAt p cluster) }

/-- What of a partition stands in its directory unit: wide groups, rounds, shoot-downs, rings with their held records, host
queues, monitors, and its contexts' parts. Keys and the door secret leave it by no path (R320, R330). -/
def Partition.cutDirectory (p : Partition) : Partition :=
  { p with
    keys := [], secret := 0, heldSeats := [], slotTables := [], epochs := [], lent := []
    groups := p.groups.filter fun g => isWide g.handle
    ctxs := (p.ctxs.filter fun c => c.loaded).map Context.cutDirectory }

/-- A unit's state: what of a partition stands in it. -/
def State.unitState (s : State) (unit : Nat) : List Partition :=
  s.parts.flatMap fun p =>
    if unit == directoryUnit p.num then [p.cutDirectory]
    else ((List.range p.clusters).filter fun i => p.unitOf i == unit).map (fun i => p.cutAt i)

/-! ### Markers -/

/-- The units of a partition. -/
def Partition.units (p : Partition) : List Nat := directoryUnit p.num :: (List.range p.clusters).map p.unitOf

/-- The units to which a unit has a channel: those of its partition. -/
def State.peers (s : State) (unit : Nat) : List Nat :=
  ((s.parts.find? fun p => p.units.contains unit).map fun p => p.units.filter (· ≠ unit)).getD []

/-- A marker sent on a channel, behind the messages that are on it. -/
def State.marker (s : State) (src dst : Nat) : Marker := ⟨src, dst, s.onChannel src dst⟩

/-- MARKER_CUT (R331): a new cut, which no unit has recorded yet; the anchor sends every unit a marker. -/
def execMarkerCut (s : State) : Result :=
  .next { s with cuts := s.cuts + 1, markers := [], tokens := (List.range anchorUnit).map (s.marker anchorUnit) }

/-- The marker on a channel that has come: nothing sent before it is still on its way. -/
def State.markerCome (s : State) (unit chan : Nat) : Bool :=
  (s.tokens.find? fun m => m.src == chan && m.dst == unit).any fun m =>
    m.before.all fun x => !(s.onChannel chan unit).contains x

/-- A unit's marker on a channel ends that channel's record; the first makes the unit record its state and send its own
markers (R331). -/
def State.takeMarker (unit chan : Nat) (s : State) : State :=
  let s1 := { s with tokens := s.tokens.filter fun m => !(m.src == chan && m.dst == unit) }
  if s.markers.any fun m => m.unit == unit then
    { s1 with markers := modWhere (fun m => m.unit == unit) (fun m => { m with chans := m.chans ++ [chan] }) s.markers }
  else
    { s1 with
      markers := s.markers ++ [⟨unit, s.time, s.unitState unit, [chan], []⟩]
      tokens := s1.tokens ++ (s.peers unit).map (s.marker unit) }

/-- MARKER_RECEIVE (R331): a marker reaches a unit on the channel from another. -/
def execMarkerReceive (unit chan : Nat) (s : State) : Result :=
  if s.markerCome unit chan then .next (s.takeMarker unit chan) else .next s

/-- A unit's channels record the messages that have arrived in a step, until their markers come (R331). -/
def MarkerUnit.hear (came : List Sent) (m : MarkerUnit) : MarkerUnit :=
  { m with msgs := m.msgs ++
    (came.filter fun x => x.2.1 == m.unit && !m.chans.contains x.1).map fun x => (x.1, x.2.2) }

/-- Has a message that is no longer under way arrived: its command not cancelled, its thread not stopped, its context
neither saved nor closed? -/
def State.arrived (s : State) (m : Msg) : Bool :=
  let loaded (k : CtxId) : Bool := ((s.ctx? k).map fun c => c.loaded).getD false
  let ready (t : TId) : Bool := ((s.thread? t).map fun h => h.life == .here .ready).getD false
  match m with
  | .table part ctx _ _ => loaded ⟨part, ctx⟩
  | .command t job => loaded t.ctxId && ((s.ctx? t.ctxId).bind fun c => c.job? t job).any fun j =>
      j.place != .message && j.status != 0x15
  | .resume t => loaded t.ctxId && ready t
  | .reply t => loaded t.ctxId && ready t

/-- What a step has delivered is recorded by the units that had recorded their state before it, and no longer stands before
a marker (R331). -/
def State.heard (old : State) (s : State) : State :=
  if s.tokens.isEmpty && s.markers.isEmpty then s
  else
    let left := s.inFlight
    let came := (old.inFlight.filter fun x => !left.contains x).filter fun x => s.arrived x.2.2
    { s with
      tokens := s.tokens.map fun k => { k with before := k.before.filter fun m => left.contains (k.src, k.dst, m) }
      markers := modWhere (fun m => old.markers.any fun x => x.unit == m.unit) (MarkerUnit.hear came) s.markers }

end Sys2Proof.Machine
end

