-- ==== Sys2Proof/Machine/Anchor.lean ====
section
/-! DEFINITION. The anchor firmware's commands: keys (R320), doors (R247, R248, R322), scrub receipts (R323,
R324), access monitors (R325, R326), freeze and scan (R329, R330), and the security alarm (R327, R328). -/

namespace Sys2Proof.Machine

/-! ### The alarm (R327, R328) -/

/-- KEYERASE of every slot of the module. -/
def State.eraseKeys (s : State) : State :=
  { s with parts := s.parts.map fun p => { p with keys := List.replicate 16 .empty } }

/-- Does an event come within 1 s of the last one that raised the level? -/
def State.alarmNear (s : State) : Bool :=
  match s.alarmAt with
  | some t => s.time ≤ t + Config.second
  | none => false

/-- The level after an event whose own row gives `row`. -/
def State.alarmAfter (row : Nat → Nat) (s : State) : Nat := min 3 (row s.alarm + s.alarmNear.toNat)

/-- An event of R327: the level rises, and acts as R328 says. -/
def State.raiseAlarm (row : Nat → Nat) (s : State) : State :=
  let l := s.alarmAfter row
  if l ≤ s.alarm then s
  else
    let s1 := { s with
      alarm := l, alarmAt := some s.time
      msix := if l == 1 then s.msix ++ [(0, 6)] else s.msix
      diesHeld := s.diesHeld || l == 3 }
    if 2 ≤ l && (s.erasePol || l == 3) then s1.eraseKeys else s1

/-- ALARM_CLEAR (R328), a write to the physical function's registers (R312): level 1 returns to 0, and the second of every
event before it ends. -/
def execAlarmClear (s : State) : Result :=
  if 3 ≤ s.stage && s.alarm == 1 then .next { s with alarm := 0, alarmAt := none } else .next s

/-- VOLTAGE_GLITCH (R327). -/
def execVoltageGlitch (s : State) : Result := .next (s.raiseAlarm (· + 1))

/-- TAMPER_MESH_BREAK (R327). -/
def execTamperMeshBreak (s : State) : Result := .next (s.raiseAlarm fun l => max (l + 1) 2)

/-! ### The mailbox (R319) -/

/-- The partition a command acts on: a virtual function's own; the physical function names one. -/
def targetOf (c : MailCmd) : Nat := if c.fn == 0 then c.part else c.fn - 1

/-- R312: has a function's mailbox appeared: with the host link, the physical function's before it if a signature has
failed in stage 1? -/
def State.mailUp (s : State) (fn : Nat) : Bool :=
  fn ≤ 24 && (3 ≤ s.stage || (fn == 0 && s.sigFailed && 1 ≤ s.stage))

def State.setWaiting (fn : Nat) (cs : List MailWait) (s : State) : State :=
  s.setMail { s.mailbox fn with waiting := cs }

/-- R319: what a function asks for is answered one at a time, in doorbell order. One that finds another before it
waits; the first of those that wait is served when it comes about (log entry 25). -/
def State.mailServe (fn : Nat) (w : MailWait) (s : State) (f : State → Result) : Result :=
  match (s.mailbox fn).waiting with
  | [] => f s
  | x :: rest =>
    if x == w then
      match f (s.setWaiting fn []) with
      | .next s1 => .next (s1.setWaiting fn ((s1.mailbox fn).waiting ++ rest))
      | r => r
    else .next (s.setWaiting fn (x :: rest ++ [w]))

/-- A command reaches the anchor once its function appears (R312); one whose partition is not formed is
malformed (log entry 25). -/
def mailCommand (op : Nat) (c : MailCmd) (s : State) (f : Partition → State → Result) : Result :=
  if !s.mailUp c.fn then .next s
  else s.mailServe c.fn (.cmd op c) fun s => match s.part? (targetOf c) with
    | none => .next (s.mailAnswer c.fn 1 0)
    | some p => f p s

/-- A command of no opcode of R319's table. -/
def mailUnknown (op : Nat) (c : MailCmd) (s : State) : Result :=
  if !s.mailUp c.fn then .next s else s.mailServe c.fn (.cmd op c) fun s => .next (s.mailAnswer c.fn 1 0)

/-- A key command: a slot that is none of the partition's 16 is a misuse, which raises the alarm (R327); from
level 2 every key command is refused (R328). -/
def keyCommand (op : Nat) (c : MailCmd) (s : State) (f : Partition → State → Result) : Result :=
  mailCommand op c s fun p s =>
    let s1 := if c.slot < 16 then s else s.raiseAlarm (· + 1)
    if 2 ≤ s1.alarm then .next (s1.mailAnswer c.fn 4 0)
    else if 16 ≤ c.slot then .next (s1.mailAnswer c.fn 3 0)
    else f p s

/-- KEYGEN (R320). -/
def execKeygen (c : MailCmd) (s : State) : Result :=
  keyCommand 1 c s fun p s =>
    match p.keys.getD c.slot .empty with
    | .loaded _ _ => .next (s.mailAnswer c.fn 2 0)
    | .empty =>
      let d := s.drawn
      .next ((d.2.modPart (targetOf c) fun p => { p with
        keys := p.keys.set c.slot (.loaded (s.draws + Config.firstGen) (BitVec.ofNat 512 d.1)) }).mailAnswer c.fn 0 0)

/-- KEYERASE (R320): no access is in flight between steps, so that it completes at once. -/
def execKeyerase (c : MailCmd) (s : State) : Result :=
  keyCommand 2 c s fun _ s =>
    .next ((s.modPart (targetOf c) fun p => { p with keys := p.keys.set c.slot .empty }).mailAnswer c.fn 0 0)

/-- Does a MINT name a unit and rights that R247 gives a key? -/
def mintOk (c : MailCmd) : Bool :=
  (c.unit == 0 && c.rights < 8) || (c.unit == 1 && c.rights < 64 && c.rights % 8 == 0)

/-- Bits [63:24] of the key a MINT makes (R247): CLUSTER, PART, UNIT, the six right bits, EPOCH. -/
def mintHigh (p : Partition) (c : MailCmd) : Nat :=
  c.cluster + p.num * 2 ^ 12 + c.unit * 2 ^ 17 + c.rights * 2 ^ 18
    + getAt 0 p.epochs (2 * c.cluster + c.unit) % 256 * 2 ^ 24

/-- A door key of a partition. -/
def mintKey (p : Partition) (c : MailCmd) : Nat :=
  Crypto.doorCheck p.secret (mintHigh p c) + mintHigh p c * 2 ^ 24

/-- MINT (R322): only for the partition's own clusters. -/
def execMint (c : MailCmd) (s : State) : Result :=
  mailCommand 3 c s fun p s =>
    if !mintOk c then .next (s.mailAnswer c.fn 1 0)
    else if p.clusters ≤ c.cluster then .next (s.mailAnswer c.fn 3 0)
    else .next (s.mailAnswer c.fn 0 (mintKey p c))

/-- EPOCH (R248): at 0xFF the epoch returns to zero and the door secret is redrawn. -/
def execEpoch (c : MailCmd) (s : State) : Result :=
  mailCommand 4 c s fun p s =>
    let door := 2 * c.cluster + c.unit
    let e := getAt 0 p.epochs door
    if 2 ≤ c.unit then .next (s.mailAnswer c.fn 1 0)
    else if p.clusters ≤ c.cluster then .next (s.mailAnswer c.fn 3 0)
    else if e < 0xFF then
      .next ((s.modPart (targetOf c) fun p => { p with epochs := setMany 0 p.epochs door [e + 1] }).mailAnswer c.fn 0 (e + 1))
    else
      let d := s.drawn
      .next ((d.2.modPart (targetOf c) fun p => { p with
        epochs := setMany 0 p.epochs door [0], secret := BitVec.ofNat 256 d.1 }).mailAnswer c.fn 0 0)

/-! ### Scrub receipts (R323, R324) -/

/-- A range record: KIND, BASE, LENGTH in KiB, DIFFER, WRITTEN. -/
structure ScrubRange where
  kind : Nat
  base : Nat
  kib : Nat
  differ : Nat

def ScrubRange.image (r : ScrubRange) : List Byte :=
  leBytes 8 r.kind ++ leBytes 8 r.base ++ leBytes 4 r.kib ++ leBytes 4 (min r.differ (2 ^ 32 - 1))
    ++ leBytes 8 (r.kib * 1024)

/-- The leaves of stage-2 tables, from level fuel − 1 down (R228); a table that cannot be read has none (log entry
27). -/
def State.s2Leaves (s : State) : Nat → Nat → List Leaf
  | 0, _ => []
  | l + 1, table => if (s.physCheck table).isSome then [] else
    (List.range 512).flatMap fun i =>
      let e := leVal (s.physRead 0 (table + 8 * i) 8)
      if !bitAt e 0 then []
      else if bitAt e 1 then
        let z := leafSize l (bitAt e 6)
        if l == 3 then [] else [⟨e % 2 ^ 52 / 2 ^ z * 2 ^ z, z, bitAt e 2, bitAt e 3, bitAt e 4, bitAt e 5, e / 2 ^ 60⟩]
      else s.s2Leaves l (e / 2 ^ 12 % 2 ^ 40 * 2 ^ 12)

/-- Does a stage-2 table of these stand on a stack not yet in service (R313)? -/
def State.s2Held (s : State) : Nat → Nat → Bool
  | 0, _ => false
  | l + 1, table => match s.physCheck table with
    | some (.hold _) => true
    | some _ => false
    | none => (List.range 512).any fun i =>
        let e := leVal (s.physRead 0 (table + 8 * i) 8)
        bitAt e 0 && !bitAt e 1 && s.s2Held l (e / 2 ^ 12 % 2 ^ 40 * 2 ^ 12)

/-- Lines with an uncorrectable error within a range of bytes. -/
def badCount (bad : List Nat) (a n : Nat) : Nat := (bad.filter fun l => a ≤ l * 64 && l * 64 < a + n).length

/-- On-chip ranges of a kind for a logical cluster `i` of a closed context: one for each of its 8 cores, or one, by their
physical numbers; a line with an error that stood there counts whole (R323). -/
def Partition.chipRanges (p : Partition) (x : Closed) (kind i cluster : Nat) : List ScrubRange :=
  let unit := physicalSlot (p.unitOf cluster)
  let kib := match kind with
    | 2 => 128
    | 3 => 2048
    | k => Config.unitKib k
  if kind ≤ 2 then (List.range 8).map fun n =>
    ⟨kind, 8 * unit + physicalCore (p.unitOf cluster) n, kib,
      if kind == 2 then 64 * badCount x.tcmBad ((8 * i + n) * Config.tcmSize) Config.tcmSize else 0⟩
  else [⟨kind, unit, kib, if kind == 3 then 64 * badCount x.spBad (i * Config.clSize) Config.clSize else 0⟩]

/-- The pages of a closed context that lie in commons (kind 7) or HBM (kind 8). No stage-2 root is zero (R336): one that
was never open has none. -/
def State.scrubPages (s : State) (x : Closed) (kind : Nat) : List Leaf :=
  (if x.s2root == 0 then [] else s.s2Leaves 4 x.s2root).filter fun f =>
    match (s.regionAt f.pa).map Region.kind with
    | some (RegionKind.commons _) => kind == 7
    | some (RegionKind.hbm _) => kind == 8
    | _ => false

/-- The HBM stack of a page, if it is one. -/
def State.stackOf (s : State) (pa : Nat) : Option Nat :=
  match (s.regionAt pa).map Region.kind with
  | some (RegionKind.hbm n) => some n
  | _ => none

/-- A page's record: a failed stack's bytes all read back differently, else those of lines with an error (R323). -/
def State.pageRange (s : State) (kind : Nat) (f : Leaf) : ScrubRange :=
  ⟨kind, f.pa, 2 ^ f.sizeLog / 1024,
    if ((s.stackOf f.pa).map s.stackFailed).getD false then 2 ^ f.sizeLog
    else 64 * badCount s.badLines f.pa (2 ^ f.sizeLog)⟩

/-- The pattern written over a page, encrypted under its slot's key if it is LOADED. An error that stands there is taken
to stand at the read-back (log entry 27). -/
def State.scrubPage (part : Nat) (pattern : Word) (s : State) (f : Leaf) : State :=
  if ((s.stackOf f.pa).map s.stackFailed).getD false then s
  else { s.physWrite ((s.genFor part f.key f.pa).getD 0) f.pa (patternBytes pattern (2 ^ f.sizeLog)) with
    badLines := s.badLines }

/-- The ranges of a closed context in the order of the kinds. -/
def State.scrubRanges (s : State) (p : Partition) (x : Closed) : List ScrubRange :=
  ((List.range 6).flatMap fun kind => (enumFrom' 0 x.clusters).flatMap fun e => p.chipRanges x (kind + 1) e.1 e.2)
    ++ (s.scrubPages x 7).map (s.pageRange 7) ++ (s.scrubPages x 8).map (s.pageRange 8)

/-- The 64-byte header of a receipt or a log. -/
def receiptHeader (magic part ctx : Nat) (pattern : Word) (n mismatch : Nat) (nonce : BitVec 256) : List Byte :=
  leBytes 4 magic ++ leBytes 4 (1 + part % 32 * 2 ^ 16) ++ leBytes 8 (ctx % 2 ^ 12)
    ++ leBytes 8 pattern.toNat ++ leBytes 4 n ++ leBytes 4 (min mismatch (2 ^ 32 - 1)) ++ leBytes 32 nonce.toNat

/-- Bytes with their SHA-256 digest and their signature. -/
def sealed (body : List Byte) : List Byte :=
  let m := body.map BitVec.toNat
  body ++ (Crypto.sha256 m).map (BitVec.ofNat 8) ++ (Crypto.signature m).map (BitVec.ofNat 8)

/-- Bytes written to a function's host memory (R344). -/
def State.hostPut (fn addr : Nat) (bs : List Byte) (s : State) : State :=
  { s with hostMem := writeBytes s.hostMem (hostKey fn addr) bs }

/-- Is a page or a stage-2 table of a closed context on a stack that is neither in service nor failed (R313)? -/
def State.scrubHeld (s : State) (x : Closed) : Bool :=
  (x.s2root != 0 && s.s2Held 4 x.s2root) || (s.scrubPages x 8).any fun f =>
    ((s.stackOf f.pa).map fun n => !s.stackUp n && !s.stackFailed n).getD false

/-- What a context that was never open since the partition was formed held: nothing. -/
def Partition.closed? (p : Partition) (ctx : Nat) : Closed :=
  (p.closed.find? fun x => x.ctx == ctx).getD ⟨ctx, [], 0, [], []⟩

/-- A SCRUB is done: the clusters that the context held and no other context has now hold the pattern. -/
def State.scrubUnits (part : Nat) (x : Closed) (pattern : Word) (s : State) : State :=
  match s.part? part with
  | none => s
  | some p => (s.modPart part fun p => { p with scrubbing := eraseKey x.ctx p.scrubbing }).leavePattern pattern
      ((x.clusters.filter fun n => !p.taken.contains n).map p.unitOf)

/-- SCRUB (R323, R324): every resource of the context takes the pattern, and the receipt is written. It is in progress,
and no later command of its function is answered (R319), while a page's stack is neither in service nor failed. -/
def execScrub (c : MailCmd) (s : State) : Result :=
  mailCommand 5 c s fun p s =>
    if (p.ctx? c.ctx).isSome then .next (s.mailAnswer c.fn 2 0)
    else
      let x := p.closed? c.ctx
      let rs := s.scrubRanges p x
      if s.scrubHeld x then
        .next ((s.modPart (targetOf c) fun p => { p with scrubbing := insertKey c.ctx p.scrubbing }).setWaiting c.fn
          [.cmd 5 c])
      else
        let s1 := (s.scrubPages x 7 ++ s.scrubPages x 8).foldl (State.scrubPage p.num c.pattern) s
        let s2 := s1.scrubUnits (targetOf c) x c.pattern
        let body := receiptHeader 0x01524353 p.num c.ctx c.pattern rs.length ((rs.map fun r => r.differ).sum) c.nonce
          ++ rs.flatMap ScrubRange.image
        .next ((s2.hostPut c.fn c.addr (sealed body)).mailAnswer c.fn 0 0)

/-! ### Monitors (R325, R326) -/

/-- LOGCFG (R325). -/
def execLogcfg (c : MailCmd) (s : State) : Result :=
  mailCommand 6 c s fun _ s =>
    if 64 ≤ c.monitor then .next (s.mailAnswer c.fn 1 0)
    else .next ((s.modPart (targetOf c) fun p => { p with
      monitors := p.monitors.set c.monitor ⟨c.base / 64 * 64, c.limit / 64 * 64, c.flag, 0, 0, 0, 0⟩ }).mailAnswer c.fn 0 0)

def Monitor.image (m : Monitor) : List Byte :=
  [m.base, m.limit, m.reads, m.writes, m.first, m.last].flatMap (leBytes 8)

/-- The signed log of a partition's monitors. -/
def monitorLog (p : Partition) (time : Nat) (nonce : BitVec 256) : List Byte :=
  sealed (receiptHeader 0x01474C41 p.num 0 (BitVec.ofNat 64 time) 64 0 nonce ++ p.monitors.flatMap Monitor.image)

/-- LOGEXPORT (R326). -/
def execLogexport (c : MailCmd) (s : State) : Result :=
  mailCommand 7 c s fun p s =>
    let s1 := if c.flag then s.modPart (targetOf c) fun p => { p with
        monitors := p.monitors.map fun m => { m with reads := 0, writes := 0, first := 0, last := 0 } } else s
    .next ((s1.hostPut c.fn c.addr (monitorLog p s.time c.nonce)).mailAnswer c.fn 0 0)

/-! ### Freeze and scan (R329, R330) -/

/-- ALLOWSCAN (R319, R330): a virtual function only. -/
def execAllowscan (c : MailCmd) (s : State) : Result :=
  mailCommand 8 c s fun _ s =>
    if c.fn == 0 then .next (s.mailAnswer c.fn 3 0)
    else .next ((s.modPart (targetOf c) fun p => { p with scanOk := true }).mailAnswer c.fn 0 0)

/-- FREEZE (R319, R329): the physical function only. -/
def execFreeze (c : MailCmd) (s : State) : Result :=
  mailCommand 9 c s fun p s =>
    if c.fn != 0 then .next (s.mailAnswer c.fn 3 0)
    else if p.frozen then .next (s.mailAnswer c.fn 2 0)
    else .next ((s.modPart (targetOf c) fun p => { p with frozen := true, frozenAt := s.time }).mailAnswer c.fn 0 0)

/-- A count that runs in a seat begins later: a wait's deadline, or a wake (R43, R97, R267). -/
def Life.delay (d : Nat) (l : Life) : Life :=
  match l with
  | .here (.waiting (.event t)) => .here (.waiting (.event (t + d)))
  | .here (.waiting (.gwait spc a t)) => .here (.waiting (.gwait spc a (t + d)))
  | .here (.waiting (.again (.regs gs t))) => .here (.waiting (.again (.regs gs (t + d))))
  | l => l

/-- The counts of a context's units go on from where they stopped d cycles ago (R329): waits, retention (R43), the slice
(R336), the combining nodes (R246). -/
def Context.delay (d : Nat) (c : Context) : Context :=
  { c with
    sliceFrom := if c.loaded then c.sliceFrom + d else c.sliceFrom
    threads := c.threads.map fun h => { h with life := h.life.delay d, since := h.since + d }
    jobs := c.jobs.map fun j => { j with cameAt := j.cameAt + d } }

/-- The clocks run again. -/
def Partition.thaw (time : Nat) (p : Partition) : Partition :=
  { p with frozen := false, heldIn := [], ctxs := p.ctxs.map (Context.delay (time - p.frozenAt)) }

/-- What came for a frozen partition, in its order (R329). -/
def deliver (part : Nat) (xs : List Inbound) (s : State) : Result :=
  xs.foldl (fun r x => match r with
    | .next s => (match x with
      | .command img => hostRun part img s
      | .ats n page a => execAtsCompletion ⟨part, n⟩ page a s
      | .pri n page a => execPriResponse ⟨part, n⟩ page a s)
    | r => r) (.next s)

/-- THAW (R319, R329): what was held at the partition's boundary is delivered. -/
def execThaw (c : MailCmd) (s : State) : Result :=
  mailCommand 10 c s fun p s =>
    if c.fn != 0 then .next (s.mailAnswer c.fn 3 0)
    else if !p.frozen then .next (s.mailAnswer c.fn 2 0)
    else deliver (targetOf c) p.heldIn ((s.modPart (targetOf c) (Partition.thaw s.time)).mailAnswer c.fn 0 0)

/-- A weight plane of a logical cluster's matrix engine. -/
def Context.planeAt (c : Context) (cluster : Nat) (shadow : Bool) : Plane :=
  let m := c.matrix (c.coreTable.getD cluster cluster)
  if shadow then m.shadow else m.active

/-- A descriptor's fields (R244). -/
def Desc.fields (d : Desc) : List Nat :=
  [d.dst, d.idx, d.rowLen, d.nRows, d.sPitch, d.dPitch, Space.code d.dSpace, Space.code d.iSpace, d.door.toNat]

/-- A command as the scan path shows it: its opcode and its fields. -/
def JobOp.fields (op : JobOp) : List Nat :=
  match op with
  | .cpy d => 0x0C0 :: d.fields
  | .cpyf d => 0x0C1 :: d.fields
  | .gath d => 0x0C2 :: d.fields
  | .scat d => 0x0C3 :: d.fields
  | .fill d => 0x0C4 :: d.fields
  | .rput d => 0x0C7 :: d.fields
  | .feed w trows store => [0x0C9, w.base, w.rowLen, w.rows, w.pitch, w.mode, trows, store.toNat]
  | .coll d => [0x0CB, d.dst, d.count, d.ety, d.op, d.group, d.entry, d.arg, Space.code d.dSpace]
  | .mwld tag => [0x100, tag]
  | .mwswap => [0x101]
  | .mzero first count => [0x102, first, count]
  | .mdrain first count scale dst src => [0x103, first, count, (scale % 256).toNat, dst, src]
  | .mstream pair first count tensor => [0x110 + pair, first, count, tensor]

/-- Where a job stands, as the scan path shows it. -/
def Place.code (p : Place) : List Nat :=
  match p with
  | .message => [0]
  | .queued => [1]
  | .running => [2]
  | .heldPage va => [3, va]
  | .heldAccess _ => [4]
  | .heldWord => [5]
  | .heldRing => [6]
  | .heldRound => [7]
  | .finished => [8]

/-- A job as the scan path shows it: issuer, id, status, place, class, what it has done, and its command. -/
def Job.fields (j : Job) : List Nat :=
  [j.thread.task, j.thread.thread, j.id, j.status] ++ j.place.code ++ [j.cls, j.bytes, j.row, j.ea, Space.code j.space]
    ++ j.op.fields

/-- Does a job stand at an engine of a logical cluster: its own copy unit or matrix engine, or the feed controllers and
collective engines for the jobs it issued? -/
def Context.atEngine (c : Context) (cluster unit : Nat) (j : Job) : Bool :=
  j.unit.code == unit && !j.isFinal && j.place != .message
    && (if unit < 2 then j.target == c.coreTable.getD cluster cluster else j.cluster == cluster)

/-- What the scan path reads; nothing for a record that does not stand there. -/
def State.scan (part : Nat) (s : State) (what : ScanItem) : List Nat :=
  let onThread (t : TId) (f : Thread → Nat) : List Nat :=
    if t.part == part then ((s.thread? t).map fun h => [f h]).getD [] else []
  let onCtx (n : Nat) (f : Context → List Nat) : List Nat := ((s.ctx? ⟨part, n⟩).map f).getD []
  match what with
  | .keySlot _ => [0]
  | .doorSecret => [0]
  | .attestationKey => [0]
  | .scalar t n => onThread t fun h => (h.sreg n).toNat
  | .vector t n => onThread t fun h => (h.vreg n).toNat
  | .pc t => onThread t fun h => h.pc.toNat
  | .tcmByte n cl core a => onCtx n fun c => (c.chip .tcm cl core a 1).map BitVec.toNat
  | .spByte n cl a => onCtx n fun c => (c.chip .sp cl 0 a 1).map BitVec.toNat
  | .fullBit n cl core a => onCtx n fun c => [match core with
      | some k => (c.isFull .tcm cl k a).toNat
      | none => (c.isFull .sp cl 0 a).toNat]
  | .accWord n cl row col => onCtx n fun c => [getAt 0 (c.matrix (c.coreTable.getD cl cl)).acc (128 * row + col)]
  | .jobStatus t j => if t.part == part then onCtx t.ctx fun c => ((c.job? t j).map fun x => [x.status]).getD [] else []
  | .cacheByte k cl a =>
    if k.part == part then
      onCtx k.ctx fun c => (((c.task? k.task).bind fun t => t.buffers.find? fun b => b.1 == cl).bind fun b =>
        findAt b.2 a).toList.map BitVec.toNat
    else []
  | .predicate t n => onThread t fun h => (h.preg n).toNat
  | .conditions t => onThread t fun h => h.c.toNat
  | .parameter t n => onThread t fun h => (h.areg n).toNat
  | .stream t n => onThread t fun h => (h.qreg n).toNat
  | .status t n => onThread t fun h => (({ s with cur := h } : State).status n).toNat
  | .seat x => if x.part == part then onCtx x.ctx fun c =>
        ((c.threads.find? fun h => h.life.holdsSeat && h.role.isNone && h.cluster == x.cluster && h.core == x.core
          && h.seat == x.seat).map fun h => [h.id.task, h.id.thread]).getD []
      else []
  | .scoreboard t => if t.part == part then onCtx t.ctx fun c =>
        (c.heldSpans t).flatMap fun r => [Space.code r.spc, r.lo, r.len]
      else []
  | .queue n cl u => onCtx n fun c => (c.jobs.filter (c.atEngine cl u)).flatMap Job.fields
  | .cacheLine n cl l => onCtx n fun c => ((c.copies.find? fun e => e.1 == cl && e.2.1 == l).map fun e =>
        e.2.2.toNat :: (s.homeRead ⟨part, n⟩ cl (64 * l) 64).map BitVec.toNat).getD []
  | .weight n cl shadow row col => onCtx n fun c => [getAt 0 (c.planeAt cl shadow).weights (128 * row + col)]
  | .planeTag n cl shadow => onCtx n fun c => [(c.planeAt cl shadow).tag]
  | .blockScale n cl shadow block col => onCtx n fun c => [getAt 0x7F (c.planeAt cl shadow).scales (4 * col + block)]

/-- SCAN_READ (R330): by the physical function's mailbox, once that has appeared (R312), and in the order of what it asks
for (R319). -/
def execScanRead (part : Nat) (what : ScanItem) (s : State) : Result :=
  if !s.mailUp 0 then .next s
  else s.mailServe 0 (.scan part what) fun s => match s.part? part with
    | none => .next (s.mailAnswer 0 1 0)
    | some p =>
      if !p.frozen then .next (s.mailAnswer 0 2 0)
      else if !p.ctxs.isEmpty && !p.scanOk then .next (s.mailAnswer 0 3 0)
      else .next ({ s with scanReply := s.scan part what }.mailAnswer 0 0 0)

end Sys2Proof.Machine
end

