-- ==== Sys2Proof/Machine/Registers.lean ====
section
/-! DEFINITION. Registers of the functions (R224, R226, R227, R284, R319, R328, R333 to R335, R338, R340, R343) as a host
or partition firmware writes them; the places that the spec does not give are log entry 53. -/

namespace Sys2Proof.Machine

/-! ### The anchor mailbox (R319) -/

/-- The command in a mailbox: its partition in byte 1, its arguments from byte 2 on in the order of R319's table (log
entry 25). -/
def mailCmdOf (fn x : Nat) : MailCmd :=
  let b (at' n : Nat) : Nat := nbits x (8 * at') (8 * n)
  let op := b 0 1
  let scrub := op == 5
  { fn := fn, part := b 1 1, slot := b 2 1, cluster := b 2 2, unit := b 4 1, rights := b 5 1, ctx := b 2 2
    pattern := BitVec.ofNat 64 (b 4 8)
    nonce := BitVec.ofNat 256 (if scrub then b 12 32 else b 2 32)
    addr := if scrub then b 44 8 else b 34 8
    monitor := b 2 1, base := b 3 8, limit := b 11 8
    flag := bitAt (if op == 6 then b 19 1 else b 42 1) 0 }

/-- The anchor takes a command by its opcode (R319). -/
def mailRun (op : Nat) (c : MailCmd) (s : State) : Result :=
  match op with
  | 1 => execKeygen c s
  | 2 => execKeyerase c s
  | 3 => execMint c s
  | 4 => execEpoch c s
  | 5 => execScrub c s
  | 6 => execLogcfg c s
  | 7 => execLogexport c s
  | 8 => execAllowscan c s
  | 9 => execFreeze c s
  | 10 => execThaw c s
  | _ => mailUnknown op c s

/-- The doorbell: the anchor takes the command that stands in the mailbox (R319). -/
def State.doorbell (fn : Nat) (s : State) : Result :=
  let x := (s.mailbox fn).cmd.toNat
  mailRun (nbits x 0 8) (mailCmdOf fn x) s

/-- The first of what waits for a function's mailbox is taken up again. -/
def State.mailNext (fn : Nat) (s : State) : Result :=
  match (s.mailbox fn).waiting with
  | [] => .next s
  | .cmd op c :: _ => mailRun op c s
  | .scan part what :: _ => execScanRead part what s

/-- The first of the host commands that wait is taken up again, while its partition is not frozen (R329, R338). -/
def State.commandNext (part : Nat) (s : State) : Result :=
  match s.part? part with
  | none => .next s
  | some p => match p.cmdWait with
    | [] => .next s
    | img :: _ => if p.frozen then .next s else hostRun part img s

/-- A write to a function's mailbox: command bytes, or the doorbell. -/
def State.writeMail (fn off : Nat) (v : Word) (s : State) : Result :=
  let m := s.mailbox fn
  if off < 0x40 then .next (s.setMail { m with cmd := putMailWord m.cmd (off / 8) v.toNat })
  else if off / 8 == 0x80 / 8 then s.doorbell fn
  else .next s

/-! ### Register writes -/

/-- A register without behaviour of its own keeps what was written. -/
def State.keepReg (fn off : Nat) (v : Word) (s : State) : State :=
  { s with devRegs := setMany 0 s.devRegs (fn * 2 ^ 32 + off % 2 ^ 32) [v.toNat] }

/-- PARTSTAT.DONE is cleared by a one (R333). -/
def State.clearDone (v : Word) (s : State) : State :=
  { s with partStat := s.partStat &&& ~~~ (v &&& BitVec.ofNat 64 (2 ^ 13)) }

/-- R227: a virtual function's weight, from 1 to 255; another value is not taken. -/
def State.setWeight (fn : Nat) (v : Word) (s : State) : State :=
  if 1 ≤ v.toNat && v.toNat ≤ 255 then { s with weights := setMany 1 s.weights fn [v.toNat] } else s

/-- A write to the physical function's registers (R227, R314, R328, R333 to R335). -/
def State.writePf (off : Nat) (v : Word) (s : State) : Result :=
  let i := off % 32 / 8
  if off / 8 == 0 then (if bitAt v.toNat 14 && bitAt v.toNat 15 then execDissolve v s else execPartitionRequest v s)
  else if off / 8 == 1 then .next (s.clearDone v)
  else if off / 8 == 2 then (if bitAt v.toNat 0 then execAlarmClear s else .next s)
  else if 0x100 ≤ off && off < 0x120 then .next { s with pfReplay := s.pfReplay.writeWord i v }
  else if 0x120 ≤ off && off < 0x140 then .next { s with pfTerminal := s.pfTerminal.writeWord i v }
  else if 0x408 ≤ off && off < 0x4C8 then .next (s.setWeight ((off - 0x400) / 8) v)
  else if 0x10000 ≤ off && off < 0x28000 then
    .next (s.modPart ((off - 0x10000) / 0x1000) (Partition.writeWindow (off % 0x1000) v))
  else if 0x100000 ≤ off && off < 0x280000 then
    .next (s.modPart ((off - 0x100000) / 0x10000) (Partition.writeSlots (off % 0x10000) v))
  else .next (s.keepReg 0 off v)

/-- A write to a partition's registers by its virtual function: byte 31 of the thread command executes it (R338), and a
one to STOPPED, bit 32 of the word at 0x160, clears it (R226, log entry 53); the others as R334 lays them out. -/
def State.writeVf (part off : Nat) (v : Word) (s : State) : Result :=
  match s.part? part with
  | none => .next (s.keepReg (vf part) off v)
  | some p =>
    if off / 8 == 0x160 / 8 then (if bitAt v.toNat 32 then execOverflowStoppedClear part s else .next s)
    else if off / 8 == 0x218 / 8 then hostRun part (putWord p.command 3 v.toNat) s
    else .next (s.modPart part (Partition.writeReg s.time off v))

/-- REGISTER_WRITE (R334): a 64-bit write to register `offset` of a function. Functions appear with the host link, the
physical function's mailbox in stage 1 if a signature failed (R312). Numbers from 32 on stand for a partition's firmware (log entry 53). -/
def execRegisterWrite (fn offset : Nat) (value : BitVec 64) (s : State) : Result :=
  let mail := fn ≤ 24 && 0x40 ≤ offset && offset < 0x100
  if !(3 ≤ s.stage || (mail && s.mailUp fn)) then .next s
  else if mail then s.writeMail fn (offset - 0x40) value
  else if fn == 0 then s.writePf offset value
  else if fn ≤ 24 then s.writeVf (fn - 1) offset value
  else if 32 ≤ fn && fn < 56 then .next (s.modPart (fn - 32) (Partition.writeSlots offset value))
  else .next (s.keepReg fn offset value)

end Sys2Proof.Machine
end

