-- ==== Sys2Proof/Machine/BringUp.lean ====
section
/-! DEFINITION. Power-on to full service (R312 to R314, R317), training-block events (R308 to R311, R315), Span
(R345) and the clock (R347). -/

namespace Sys2Proof.Machine

/-! ### Stages (R312) -/

/-- A stack after a reset of its blocks; the count of tests made keeps free values fresh (log entry 5). -/
def Stack.resetBlocks (k : Stack) : Stack :=
  { k with blocks := k.blocks.map fun b => ⟨b.group, 32, 32, none, false, 0, 0, [], false, b.tests, []⟩ }

/-- Stage 0. What lies outside the module stays, and so do the counts that keep free values fresh. -/
def State.restart (s : State) : State :=
  { State.reset with
    hbm := s.hbm.map fun k => { k.resetBlocks with failed := false }
    hostMem := s.hostMem
    draws := s.draws
    free := s.free
    agenda := s.agenda }

/-- POWER_ON (R312). -/
def execPowerOn (s : State) : Result := .next s.restart

/-- MODULE_RESET (R312): memory keeps its contents (log entry 26). -/
def execModuleReset (s : State) : Result :=
  .next { s.restart with mem := s.mem, lineKeys := s.lineKeys, badLines := s.badLines }

/-- FUSES_READ (R312): ROM reads the digest of the public key that the fuses hold. -/
def execFusesRead (s : State) : Result :=
  if s.stage == 0 then .next { s with fuses := some Config.fuseDigest, stage := 1 } else .next s

/-- Does a signed image verify against the fuses (R312)? -/
def State.trusts (s : State) (i : BootImage) : Bool := (s.fuses.map fun d => Crypto.verifies d i).getD false

/-- SIGNATURE_CHECK (R312, R327, R328): ROM checks the patch and the service firmware, ERASEPOL coming with the patch;
a patch loaded later is checked alone. A failure raises the alarm, and stage 1 goes on. -/
def execSignatureCheck (images : BootImages) (erasepol : Bool) (s : State) : Result :=
  if s.stage == 0 then .next s
  else if !(s.trusts images.patch && (s.stage != 1 || s.trusts images.service)) then
    .next ({ s with sigFailed := s.sigFailed || s.stage == 1 }.raiseAlarm (· + 1))
  else if s.stage == 1 then .next { s with signed := true, erasePol := erasepol, stage := 2 }
  else .next s

/-- Where a die's bring-up region begins (R314, log entries 4 and 26). -/
def bringUpBase (die : Nat) : Nat := 2 ^ 42 + die * 2 ^ 27

/-- One stage's tables of a bring-up context, at a table address and with pointers from another base: 16 pages of 2 MiB
from `page` on, and then 32 pages of 4 KiB, of which the first 16 begin at `phy0` and the others at `phy1` (R314). -/
def bringUpStage (at' ptr page phy0 phy1 : Nat) : List (Nat × List Nat) :=
  [(at', [ptr + 0x1001]), (at' + 0x1000, [ptr + 0x2001]),
    (at' + 0x2000, ((List.range 16).map fun i => page + i * 2 ^ 21 + 0x1F) ++ [ptr + 0x3001]),
    (at' + 0x3000, ((List.range 16).map fun i => phy0 + i * 4096 + 0x2F)
      ++ (List.range 16).map fun i => phy1 + i * 4096 + 0x2F)]

/-- The tables of a die's bring-up context: its region from intermediate and virtual address 0 on, then the PHY regions of
the die's two stacks as DEV pages (R314). -/
def bringUpTables (die : Nat) : List (Nat × List Nat) :=
  let b := bringUpBase die
  bringUpStage b b b (2 ^ 43 + 2 * die * 2 ^ 16) (2 ^ 43 + (2 * die + 1) * 2 ^ 16)
    ++ bringUpStage (b + 0x4000) 0x4000 0 (2 ^ 25) (2 ^ 25 + 2 ^ 16)

/-- R314: the bring-up partition of a die: quarter 0, with the service firmware's context loaded on it, its tables in the
die's commons. How much task log it has is the firmware's. -/
def State.openBringUp (s : State) (die : Nat) : State :=
  let d := s.drawn
  let r := d.2.fresh
  let p := newPartition (4 * die) 1 [die] 0 30 (BitVec.ofNat 64 (1 + die * 4 + (r.1 % 16 + 1) * 2 ^ 16))
    (BitVec.ofNat 256 d.1)
  let c := newContext 0 0x4000 (bringUpBase die) 0 1 0 30 true
  let s1 := { r.2 with
    mem := (bringUpTables die).foldl (fun m (t : Nat × List Nat) => writeBytes m t.1 (t.2.flatMap (leBytes 8))) s.mem }
  s1.addPart { p with ctxs := [{ c with
    loaded := true, coreTable := List.range 30, units := p.physical (List.range 30), sliceFrom := s.time }] }

/-- HOST_LINK_UP (R312, R314): the functions appear, and every die starts its bring-up context. -/
def execHostLinkUp (s : State) : Result :=
  if s.stage == 2 then
    .next ((List.range 6).foldl State.openBringUp { s with linkUp := true, stage := 3, bringUp := List.range 6 })
  else .next s

/-- DIE_TRAINED (R312, R317): stage 3 ends with the first of them. -/
def execDieTrained (die : Nat) (s : State) : Result :=
  if 3 ≤ s.stage && die < 6 && s.dieUp die then .next { s with stage := max 4 s.stage } else .next s

/-- Is every task of the die's bring-up context DONE (R314)? -/
def State.bringUpDone (s : State) (die : Nat) : Bool :=
  match s.part? (4 * die) with
  | some p => p.ctxs.all fun c => c.tasks.all fun t => t.state == .done
  | none => false

/-- BRINGUP_CONTEXT_CLOSE (R314): the context is closed, its commons region and the quarter are scrubbed with a pattern
the spec does not give (log entry 5), and quarter 0 is left unformed. -/
def execBringupContextClose (die : Nat) (s : State) : Result :=
  if s.bringUp.contains die && s.dieUp die && s.bringUpDone die then
    let r := s.fresh
    let w := BitVec.ofNat 64 r.1
    .next (({ r.2 with
      parts := s.parts.filter fun p => p.num != 4 * die
      bringUp := eraseKey die s.bringUp
      mem := writeBytes s.mem (bringUpBase die) (patternBytes w (2 ^ 25)) } : State).leavePattern w
        ((List.range 30).map (120 * die + ·)))
  else .next s

/-- FULL_SERVICE_ENTRY (R312, R313). -/
def execFullServiceEntry (s : State) : Result :=
  if s.stage == 4 && (List.range 6).all s.dieUp then .next { s with stage := 5, clock := 16 }
  else .next s

/-- CLOCK_THROTTLE (R347): in full service, steps of 1/16 of 1.7 GHz down to 0.85 GHz. -/
def execClockThrottle (sixteenths : Nat) (s : State) : Result :=
  if s.stage == 5 && 8 ≤ sixteenths && sixteenths ≤ 16 then .next { s with clock := sixteenths } else .next s

/-! ### Training blocks (R308 to R311, R315) -/

/-- A command word of an operation reaches a block, from stage 3 on (R309, R312). -/
def trainingCommand (op : Nat) (b : BlockId) (word : Word) (s : State) : Result :=
  if 3 ≤ s.stage && b.group < 96 && (s.stack? b.stack).isSome && cmdOp word == op then
    .next (s.modBlock b.stack b.group fun x => x.push (some word))
  else .next s

/-- NO_COMMAND (R309). -/
def execNoCommand (b : BlockId) (word : BitVec 64) (s : State) : Result := trainingCommand 0 b word s

/-- READ_TAP_TEST (R309). -/
def execReadTapTest (b : BlockId) (word : BitVec 64) (s : State) : Result := trainingCommand 1 b word s

/-- WRITE_TAP_TEST (R309). -/
def execWriteTapTest (b : BlockId) (word : BitVec 64) (s : State) : Result := trainingCommand 2 b word s

/-- LANE_REPAIR (R309, R310). -/
def execLaneRepair (b : BlockId) (word : BitVec 64) (s : State) : Result := trainingCommand 3 b word s

/-- PATTERN_TEST (R309). -/
def execPatternTest (b : BlockId) (word : BitVec 64) (s : State) : Result := trainingCommand 4 b word s

/-- ENTER (R315). -/
def execEnter (b : BlockId) (s : State) : Result :=
  if 3 ≤ s.stage && b.group < 96 && (s.stack? b.stack).isSome then .next (s.modBlock b.stack b.group fun x => x.push none)
  else .next s

/-- TRAINING_COMMAND_COMPLETE (R309): a test has written its bursts. -/
def execTrainingCommandComplete (b : BlockId) (s : State) : Result :=
  match s.block? b.stack b.group with
  | none => .next s
  | some x =>
    if b.group < 96 then
      .next ((s.writeBursts b.stack (x.bursts b.stack)).modBlock b.stack b.group (Block.complete b.stack))
    else .next s

/-- STACK_FAILED_WRITE (R315): ignored when TRAINED is 1. -/
def execStackFailedWrite (stack : Nat) (s : State) : Result :=
  if 3 ≤ s.stage then .next (s.phyWrite stack 0x8000 [2]) else .next s

/-- STACK_RESET (R310, R315): FAILED stays. -/
def execStackReset (stack : Nat) (s : State) : Result :=
  .next { s with hbm := modWhere (fun k => k.num == stack) Stack.resetBlocks s.hbm }

/-! ### Span (R345) -/

/-- FLIT_RECEIVE (R345): a flit whose CRC fails is replayed by the link. -/
def execFlitReceive (port : Nat) (flit : SpanFlit) (s : State) : Result :=
  if s.stage < 2 || 72 ≤ port || s.portsDown.contains port then .next s
  else if flit.crcGood then .next { s with flits := s.flits ++ [(port, flit.payload)] }
  else .next { s with replays := s.replays + 1 }

/-- SPAN_PORT_FAIL (R345): the port is removed from its direction. -/
def execSpanPortFail (port : Nat) (s : State) : Result :=
  if 72 ≤ port then .next s
  else .next { s with
    portsDown := insertKey port s.portsDown
    parts := s.parts.map fun p => { p with ctxs := p.ctxs.map fun c => { c with
      routes := c.routes.map fun r => { r with ports := r.ports.map (eraseKey port) } } } }

end Sys2Proof.Machine
end

