-- ==== Sys2Proof/Machine/ScalarFloat.lean ====
section
/-! DEFINITION. Scalar floating-point instructions: R76 to R81, with the draws of R110. -/

namespace Sys2Proof.Machine

/-- R77. -/
def execFadd (x : RegForm) (s : State) : Result := scalarFloat x s fun m a b _ => faddV m a b
/-- R77: a − b is a + (−b). -/
def execFsub (x : RegForm) (s : State) : Result := scalarFloat x s fun m a b _ => faddV m a b.neg
/-- R77. -/
def execFmul (x : RegForm) (s : State) : Result := scalarFloat x s fun _ a b _ => fmulV a b
/-- R77. -/
def execFma (x : RegForm) (s : State) : Result := scalarFloat x s fun m a b c => fmaV m a b c

/-- R78: a value of two codes, no rounding. -/
def scalarPick (x : RegForm) (s : State) (wantMax : Bool) : Result :=
  scalar x.g s fun s =>
    let r := fminmax (fmtOf x.t) wantMax (lowBits x.t.bits (s.cur.srcT x.t x.m1 x.s1))
      (lowBits x.t.bits (s.cur.srcT x.t x.m2 x.s2))
    .next (s.putSF x.dst.num5 (BitVec.ofNat 64 r.1) r.2)

/-- R78. -/
def execFmin (x : RegForm) (s : State) : Result := scalarPick x s false
/-- R78. -/
def execFmax (x : RegForm) (s : State) : Result := scalarPick x s true

/-- R79. -/
def execFcmp (x : RegForm) (s : State) : Result :=
  scalar x.g s fun s =>
    let r := condT x.t x.s3.num5.toNat (s.cur.srcT x.t x.m1 x.s1) (s.cur.srcT x.t x.m2 x.s2)
    .next (s.putC x.dst.num5.toNat r.1 r.2)

/-- R110: the draw of element i of the instruction that issues now. -/
def Thread.draw (h : Thread) (i : Nat) : Nat :=
  let n := h.rcount.toNat + i / 4
  philox h.seed n (n / 2 ^ 32) h.id.thread h.id.task i

/-- R109: the mode of a down-conversion's element i. -/
def Thread.dnMode (h : Thread) (i : Nat) : RM := if h.rmode.getLsbD 2 then .sr (h.draw i) else h.rm

/-- R110: an instruction of E elements that rounds stochastically raises the rounding counter. -/
def Thread.countDraws (h : Thread) (d t : Ty) (e : Nat) : Thread :=
  if h.rmode.getLsbD 2 && isDown d t then { h with rcount := h.rcount + BitVec.ofNat 64 ((e + 3) / 4) } else h

/-- R80. The source type stands in SRC3 (R56). -/
def execFcvt (x : RegForm) (s : State) : Result :=
  scalar x.g s fun s =>
    let h := s.cur
    let t := x.srcTy.getD .fp32
    let r := cvtT x.t t h.rm (h.dnMode 0) x.clamp (scaleOf x.scale) (h.srcT t x.m1 x.s1)
    let w := if x.t.isFloat then BitVec.ofNat 64 r.1 else extendInt x.t r.1
    .next ((s.putSF x.dst.num5 w r.2).modCur fun h => h.countDraws x.t t 1)

/-- R81. -/
def execFclass (x : RegForm) (s : State) : Result :=
  scalar x.g s fun s => .next (s.putS x.dst.num5
    (BitVec.ofNat 64 (fclassOf (fmtOf x.t) (lowBits x.t.bits (s.cur.sreg x.s1.num5).toNat))))

end Sys2Proof.Machine
end

