-- ==== Sys2Proof/Machine/ScalarInt.lean ====
section
/-! DEFINITION. Scalar integer instructions: R65 to R70. -/

namespace Sys2Proof.Machine

/-- R66. -/
def execAdd (x : RegForm) (s : State) : Result := scalarInt2 x s fun t a b => addI t x.clamp a b
/-- R66. -/
def execSub (x : RegForm) (s : State) : Result := scalarInt2 x s fun t a b => subI t x.clamp a b
/-- R66. -/
def execMul (x : RegForm) (s : State) : Result := scalarInt2 x s fun t a b => mulI t x.clamp a b
/-- R66. -/
def execMulh (x : RegForm) (s : State) : Result := scalarInt2 x s mulhI
/-- R67. -/
def execDiv (x : RegForm) (s : State) : Result := scalarInt2 x s divI
/-- R67. -/
def execRem (x : RegForm) (s : State) : Result := scalarInt2 x s remI
/-- R66. -/
def execMin (x : RegForm) (s : State) : Result := scalarInt2 x s minI
/-- R66. -/
def execMax (x : RegForm) (s : State) : Result := scalarInt2 x s maxI
/-- R66. -/
def execAnd (x : RegForm) (s : State) : Result := scalarInt2 x s andI
/-- R66. -/
def execOr (x : RegForm) (s : State) : Result := scalarInt2 x s orI
/-- R66. -/
def execXor (x : RegForm) (s : State) : Result := scalarInt2 x s xorI
/-- R66. -/
def execAndn (x : RegForm) (s : State) : Result := scalarInt2 x s andnI
/-- R66. -/
def execShl (x : RegForm) (s : State) : Result := scalarInt2 x s shlI
/-- R66. -/
def execShr (x : RegForm) (s : State) : Result := scalarInt2 x s shrI
/-- R66. -/
def execSra (x : RegForm) (s : State) : Result := scalarInt2 x s sraI
/-- R66. -/
def execRot (x : RegForm) (s : State) : Result := scalarInt2 x s rotI
/-- R66. -/
def execClz (x : RegForm) (s : State) : Result := scalarInt1 x s clzI
/-- R66. -/
def execPopc (x : RegForm) (s : State) : Result := scalarInt1 x s popcI
/-- R66. -/
def execBswap (x : RegForm) (s : State) : Result := scalarInt1 x s bswapI

/-- R68: the descriptor is read raw; only the first source takes modifiers. -/
def execExtb (x : RegForm) (s : State) : Result :=
  scalar x.g s fun s => .next (s.putS x.dst.num5
    (extbI x.t.isI (BitVec.ofNat 64 (s.cur.srcT x.t x.m1 x.s1)) (s.cur.sreg x.s2.num5)))

/-- R68. -/
def execInsb (x : RegForm) (s : State) : Result :=
  scalar x.g s fun s => .next (s.putS x.dst.num5
    (insbI (s.cur.sreg x.s1.num5) (s.cur.sreg x.s2.num5) (s.cur.sreg x.s3.num5)))

/-- R66: full 64-bit registers, no extension, no modifiers. -/
def execLea (x : RegForm) (s : State) : Result :=
  scalar x.g s fun s => .next (s.putS x.dst.num5
    (s.cur.sreg x.s1.num5 + s.cur.sreg x.s2.num5 * BitVec.ofNat 64 (x.t.bits / 8)))

/-- R69. -/
def execAddi (x : ImmForm) (s : State) : Result := scalarImm x s fun t a i => addI t .none a i
/-- R69. -/
def execAndi (x : ImmForm) (s : State) : Result := scalarImm x s andI
/-- R69. -/
def execOri (x : ImmForm) (s : State) : Result := scalarImm x s orI
/-- R69. -/
def execXori (x : ImmForm) (s : State) : Result := scalarImm x s xorI
/-- R69. -/
def execShli (x : ImmForm) (s : State) : Result := scalarImm x s shlI
/-- R69. -/
def execShri (x : ImmForm) (s : State) : Result := scalarImm x s shrI
/-- R69. -/
def execSrai (x : ImmForm) (s : State) : Result := scalarImm x s sraI
/-- R69. -/
def execMovi (x : ImmForm) (s : State) : Result := scalarImm x s fun _ _ i => i

/-- R70: one quarter of the register replaced. -/
def execMovhi (x : ImmForm) (s : State) : Result :=
  scalar x.g s fun s =>
    let k := x.imm.toNat / 2 ^ 16 % 4
    let v : Word := (BitVec.truncate 16 x.imm : BitVec 16).zeroExtend 64
    let m : Word := (0xFFFF : Word) <<< (16 * k)
    .next (s.putS x.dst.num5 ((s.cur.sreg x.src.num5 &&& ~~~ m) ||| (v <<< (16 * k))))

end Sys2Proof.Machine
end

