-- ==== Sys2Proof/Machine/Vector.lean ====
section
/-! DEFINITION. Vector lane, conversion, permute, reduction and predicate instructions: R127 to R144. -/

namespace Sys2Proof.Machine

/-! ### Lane arithmetic (R127 to R129) -/

/-- R127. -/
def execVadd (x : RegForm) (s : State) : Result :=
  lane3 0x100 x s fun h a b _ => addT x.t h.rm x.clamp (scaleOf x.scale) a b
/-- R127. -/
def execVsub (x : RegForm) (s : State) : Result :=
  lane3 0x101 x s fun h a b _ => subT x.t h.rm x.clamp (scaleOf x.scale) a b
/-- R127. -/
def execVmul (x : RegForm) (s : State) : Result :=
  lane3 0x102 x s fun h a b _ => mulT x.t h.rm x.clamp (scaleOf x.scale) a b
/-- R127. -/
def execVfma (x : RegForm) (s : State) : Result :=
  lane3 0x103 x s fun h a b c => fmaT x.t h.rm x.clamp (scaleOf x.scale) a b c
/-- R128. -/
def execVmin (x : RegForm) (s : State) : Result := lane3 0x104 x s fun _ a b _ => minT x.t a b
/-- R128. -/
def execVmax (x : RegForm) (s : State) : Result := lane3 0x105 x s fun _ a b _ => maxT x.t a b
/-- R128. -/
def execVdiv (x : RegForm) (s : State) : Result :=
  lane3 0x106 x s fun h a b _ =>
    finishF x.t h.rm x.clamp (scaleOf x.scale) (fdivV (valF x.t a) (valF x.t b))
/-- R128. -/
def execVrcp (x : RegForm) (s : State) : Result :=
  lane3 0x107 x s fun h a _ _ => finishF x.t h.rm x.clamp (scaleOf x.scale) (frcpV (valF x.t a))
/-- R128. -/
def execVrsq (x : RegForm) (s : State) : Result :=
  lane3 0x108 x s fun h a _ _ => finishF x.t h.rm x.clamp (scaleOf x.scale) (frsqV (valF x.t a))
/-- R128. -/
def execVsqrt (x : RegForm) (s : State) : Result :=
  lane3 0x109 x s fun h a _ _ => finishF x.t h.rm x.clamp (scaleOf x.scale) (fsqrtV (valF x.t a))
/-- R127. -/
def execVmulh (x : RegForm) (s : State) : Result := lane3 0x10A x s fun _ a b _ => (mulhI x.t a b, 0)
/-- R129. -/
def execVand (x : RegForm) (s : State) : Result := lane3 0x10B x s fun _ a b _ => (andI x.t a b, 0)
/-- R129. -/
def execVor (x : RegForm) (s : State) : Result := lane3 0x10C x s fun _ a b _ => (orI x.t a b, 0)
/-- R129. -/
def execVxor (x : RegForm) (s : State) : Result := lane3 0x10D x s fun _ a b _ => (xorI x.t a b, 0)
/-- R129. -/
def execVshl (x : RegForm) (s : State) : Result := lane3 0x10E x s fun _ a b _ => (shlI x.t a b, 0)
/-- R129. -/
def execVshr (x : RegForm) (s : State) : Result := lane3 0x10F x s fun _ a b _ => (shrI x.t a b, 0)
/-- R129. -/
def execVsra (x : RegForm) (s : State) : Result := lane3 0x110 x s fun _ a b _ => (sraI x.t a b, 0)
/-- R129. -/
def execVpopc (x : RegForm) (s : State) : Result := lane3 0x111 x s fun _ a _ _ => (popcI x.t a, 0)
/-- R129. -/
def execVclz (x : RegForm) (s : State) : Result := lane3 0x112 x s fun _ a _ _ => (clzI x.t a, 0)

/-! ### Compare and select (R130, R131) -/

/-- Writes the element bits of a predicate and ORs the flags of active elements. -/
def State.putPred (s : State) (n : BitVec 3) (w : Nat) (act bits : List Bool) (f : Flags) : State :=
  s.modCur fun h => (h.setP n (mergePred w act bits 0 (h.preg n))).raise f

/-- R130. -/
def execVcmp (x : RegForm) (s : State) : Result :=
  vec 0x113 x ⟨0, 1, 1, 0, x.t.bits, x.t.bits, lanes x.t, x.t.bits⟩ s fun s vi =>
    let rs := (srcElems x.t x.m1 vi.a).zipWith (condT x.t x.s3.num5.toNat) (srcElems x.t x.m2 vi.b)
    s.putPred (x.dst.num5.truncate 3) x.t.bits vi.act (rs.map (·.1))
      (activeFlags vi.act (rs.map fun r => (0, r.2)))

/-- R131. -/
def execVsel (x : RegForm) (s : State) : Result :=
  vec 0x114 x ⟨1, 1, 1, 0, x.t.bits, x.t.bits, lanes x.t, x.t.bits⟩ s fun s vi =>
    let sel := actives (s.cur.preg (x.s3.num5.truncate 3)) x.t.bits (lanes x.t)
    let rs := mergeElems sel (elems x.t.bits (lanes x.t) vi.a) (elems x.t.bits (lanes x.t) vi.b)
    s.putV x.dst 1 x.t.bits (lanes x.t) vi (rs.map fun r => (r, 0))

/-! ### Exponent and rounding (R132 to R135) -/

/-- The mode field of `FRINT`. -/
def frintMode (rm : RM) (code : Nat) : RM :=
  match code with
  | 0 => .rne
  | 1 => .rz
  | 2 => .rd
  | 3 => .ru
  | _ => rm

/-- R132. -/
def execFrint (x : RegForm) (s : State) : Result :=
  lane3 0x180 x s fun h a _ _ =>
    finishF x.t h.rm x.clamp 0 (frintV (frintMode h.rm x.s3.num5.toNat) (valF x.t a))
/-- R133: to nearest, ties to even, whatever %rmode holds. -/
def execFexf (x : RegForm) (s : State) : Result :=
  lane3 0x181 x s fun _ a _ _ => finishF x.t .rne x.clamp (scaleOf x.scale) (fexfV (valF x.t a))
/-- R134: SCALE adds to n. -/
def execFinsx (x : RegForm) (s : State) : Result :=
  lane3 0x182 x s fun h a b _ =>
    finishF x.t h.rm x.clamp (scaleOf x.scale) (finsxV (valF x.t a) (valF x.t b))
/-- R135. -/
def execFgetx (x : RegForm) (s : State) : Result :=
  lane3 0x183 x s fun h a _ _ => finishF x.t h.rm x.clamp 0 (fgetxV (valF x.t a))

/-! ### Conversions (R136 to R138) -/

/-- Elements of one type converted in order, each with its own draw (R110). -/
def cvtRow (h : Thread) (x : RegForm) (t : Ty) (es : List Nat) : List (Nat × Flags) :=
  es.mapIdx fun i e => cvtT x.t t h.rm (h.dnMode i) x.clamp (scaleOf x.scale) (modSrc t x.m1 e)

/-- R136. -/
def execVcvt (x : RegForm) (s : State) : Result :=
  let t := x.srcTy.getD .fp32
  vec 0x184 x ⟨1, 1, 0, 0, x.t.bits, t.bits, lanes x.t, x.t.bits⟩ s fun s vi =>
    let rs := cvtRow s.cur x t (elems t.bits (lanes t) vi.a)
    (s.putV x.dst 1 x.t.bits (lanes x.t) vi rs).modCur fun h => h.countDraws x.t t (lanes x.t)

/-- R137: one register into a group of g; exact, no draw. -/
def execVwiden (x : RegForm) (s : State) : Result :=
  let t := x.srcTy.getD .fp32
  let g := x.wide 0x185
  vec 0x185 x ⟨g, 1, 0, 0, x.t.bits, t.bits, lanes t, t.bits⟩ s fun s vi =>
    let rs := cvtRow s.cur x t (elems t.bits (lanes t) vi.a)
    s.putV x.dst g x.t.bits (lanes t) vi rs

/-- R138: a group of g into one register. -/
def execVnarrow (x : RegForm) (s : State) : Result :=
  let t := x.srcTy.getD .fp32
  let g := x.wide 0x186
  vec 0x186 x ⟨1, g, 0, 0, x.t.bits, t.bits, lanes x.t, x.t.bits⟩ s fun s vi =>
    let rs := cvtRow s.cur x t (elems t.bits (lanes x.t) vi.a)
    (s.putV x.dst 1 x.t.bits (lanes x.t) vi rs).modCur fun h => h.countDraws x.t t (lanes x.t)

/-! ### Permutes (R139 to R141) -/

/-- Copies rows of elements into the destination's active elements. -/
def State.putRow (s : State) (x : RegForm) (vi : VIn) (rs : List Nat) : State :=
  s.putV x.dst 1 x.t.bits (lanes x.t) vi (rs.map fun r => (r, 0))

/-- R139. -/
def execVbcast (x : RegForm) (s : State) : Result :=
  vec 0x1C0 x ⟨1, 0, 0, 0, x.t.bits, x.t.bits, lanes x.t, x.t.bits⟩ s fun s vi =>
    s.putRow x vi (List.replicate (lanes x.t) (lowBits x.t.bits (s.cur.sreg x.s1.num5).toNat))

/-- R139: scalar-tested. -/
def execVext (x : RegForm) (s : State) : Result :=
  alloc (.reg 0x1C1 x) s fun s => scalar x.g s fun s =>
    vecWith 0x1C1 x ⟨0, 1, 0, 0, x.t.bits, x.t.bits, lanes x.t, x.t.bits⟩ [true] s fun s vi =>
      let j := (s.cur.sreg x.s2.num5).toNat % lanes x.t
      s.modCur fun h => h.setS x.dst.num5 (extendInt x.t (elem x.t.bits j vi.a))

/-- R139: scalar-tested; the one element is written. -/
def execVins (x : RegForm) (s : State) : Result :=
  alloc (.reg 0x1C2 x) s fun s => scalar x.g s fun s =>
    let j := (s.cur.sreg x.s2.num5).toNat % lanes x.t
    vecWith 0x1C2 x ⟨1, 0, 0, 0, x.t.bits, x.t.bits, lanes x.t, x.t.bits⟩
      ((List.range (lanes x.t)).map (· == j)) s fun s vi =>
      s.putRow x vi (List.replicate (lanes x.t) (lowBits x.t.bits (s.cur.sreg x.s1.num5).toNat))

/-- R139. -/
def execVperm (x : RegForm) (s : State) : Result :=
  vec 0x1C3 x (VSpec.plain x.t) s fun s vi =>
    let n := lanes x.t
    s.putRow x vi ((elems x.t.bits n vi.c).map
      (pick2 (elems x.t.bits n vi.a) (elems x.t.bits n vi.b)))

/-- R139. -/
def execVslide (x : RegForm) (s : State) : Result :=
  vec 0x1C4 x ⟨1, 1, 1, 0, x.t.bits, x.t.bits, lanes x.t, x.t.bits⟩ s fun s vi =>
    let n := lanes x.t
    let k := (s.cur.sreg x.s3.num5).toNat
    s.putRow x vi ((List.range n).map fun i =>
      pick2 (elems x.t.bits n vi.a) (elems x.t.bits n vi.b) (i + k))

/-- R140: each destination register's elements governed by their own index. -/
def execVzip (x : RegForm) (s : State) : Result :=
  vec 0x1C5 x ⟨2, 1, 1, 0, x.t.bits, x.t.bits, lanes x.t, x.t.bits⟩ s fun s vi =>
    let n := lanes x.t
    let rs := zipElems (elems x.t.bits n vi.a) (elems x.t.bits n vi.b)
    s.putV x.dst 2 x.t.bits (2 * n) ⟨vi.a, vi.b, vi.c, vi.old, vi.act ++ vi.act⟩ (rs.map fun r => (r, 0))

/-- R140. -/
def execVunzip (x : RegForm) (s : State) : Result :=
  vec 0x1C6 x ⟨2, 2, 0, 0, x.t.bits, x.t.bits, lanes x.t, x.t.bits⟩ s fun s vi =>
    let n := lanes x.t
    let xs := elems x.t.bits (2 * n) vi.a
    s.putV x.dst 2 x.t.bits (2 * n) ⟨vi.a, vi.b, vi.c, vi.old, vi.act ++ vi.act⟩
      ((evens xs ++ odds xs).map fun r => (r, 0))

/-- R141: the first elements of the destination, as many as are active, are written. -/
def execVcompress (x : RegForm) (s : State) : Result :=
  vec 0x1C7 x ⟨1, 1, 0, 0, x.t.bits, x.t.bits, lanes x.t, x.t.bits⟩ s fun s vi =>
    let n := lanes x.t
    let k := vi.act.count true
    s.writeV x.dst 1 x.t.bits (List.replicate k true) (packElems x.t.bits
      (compress vi.act (elems x.t.bits n vi.a) (elems x.t.bits n vi.old)))

/-- R141. -/
def execVexpand (x : RegForm) (s : State) : Result :=
  vec 0x1C8 x ⟨1, 1, 0, 0, x.t.bits, x.t.bits, lanes x.t, x.t.bits⟩ s fun s vi =>
    let n := lanes x.t
    s.writeV x.dst 1 x.t.bits vi.act (packElems x.t.bits
      (expand vi.act (elems x.t.bits n vi.a) (elems x.t.bits n vi.old)))

/-- R141. -/
def execViota (x : RegForm) (s : State) : Result :=
  vec 0x1C9 x ⟨1, 0, 0, 0, x.t.bits, x.t.bits, lanes x.t, x.t.bits⟩ s fun s vi =>
    s.putRow x vi (iota x.t.bits vi.act 0)

/-! ### Reductions and scans (R117, R118, R142) -/

/-- A vector instruction that gathers into a scalar register (R125). -/
def gather (op : Nat) (x : RegForm) (s : State) (f : Thread → List Bool → List Nat → Word × Flags) : Result :=
  vec op x ⟨0, 1, 0, 0, x.t.bits, x.t.bits, lanes x.t, x.t.bits⟩ s fun s vi =>
    let r := f s.cur vi.act (srcElems x.t x.m1 vi.a)
    s.modCur fun h => (h.setS x.dst.num5 r.1).raise r.2

/-- How a reduction's result stands in a scalar register (R41, R65). -/
def redWord (t : Ty) (r : Nat × Flags) : Word × Flags := (extendInt t r.1, r.2)

/-- R142. -/
def execVredadd (x : RegForm) (s : State) : Result :=
  gather 0x1CA x s fun h act es => redWord x.t (redAdd x.t h.rm act es)
/-- R142. -/
def execVredmax (x : RegForm) (s : State) : Result :=
  gather 0x1CB x s fun _ act es => redWord x.t (redMinMax x.t true act es)
/-- R142. -/
def execVredmin (x : RegForm) (s : State) : Result :=
  gather 0x1CC x s fun _ act es => redWord x.t (redMinMax x.t false act es)
/-- R142. -/
def execVargmax (x : RegForm) (s : State) : Result := gather 0x1CD x s fun _ act es => argMaxOf x.t act es

/-- R118. -/
def execVscan (x : RegForm) (s : State) : Result :=
  vec 0x1CE x ⟨1, 1, 0, 0, x.t.bits, x.t.bits, lanes x.t, x.t.bits⟩ s fun s vi =>
    let r := scanGo x.t s.cur.rm vi.act (srcElems x.t x.m1 vi.a) none
    (s.putRow x vi r.1).modCur fun h => h.raise r.2

/-! ### Predicate instructions (R143, R144) -/

/-- R143: bit j written where bit j of the guard selects it. -/
def predBits (x : RegForm) (s : State) (f : Word → Word → Word) : Result :=
  let m := guardMask x.g.inv (s.cur.preg x.g.p)
  .next ((s.modCur fun h =>
    let n : BitVec 3 := x.dst.num5.truncate 3
    h.setP n ((h.preg n &&& ~~~ m) |||
      (f (h.preg (x.s1.num5.truncate 3)) (h.preg (x.s2.num5.truncate 3)) &&& m))).advance)

/-- R143. -/
def execPand (x : RegForm) (s : State) : Result := predBits x s (· &&& ·)
/-- R143. -/
def execPor (x : RegForm) (s : State) : Result := predBits x s (· ||| ·)
/-- R143. -/
def execPxor (x : RegForm) (s : State) : Result := predBits x s (· ^^^ ·)
/-- R143. -/
def execPnot (x : RegForm) (s : State) : Result := predBits x s fun a _ => ~~~ a

/-- The elements of a predicate at a type: bit i·e (R144). -/
def predElems (t : Ty) (p : Word) : List Bool := actives p t.bits (lanes t)

/-- The lowest place where both hold. -/
def firstBoth : List Bool → List Bool → Nat → Option Nat
  | a :: as, b :: bs, i => if a && b then some i else firstBoth as bs (i + 1)
  | _, _, _ => none

/-- R144. -/
def execPfirst (x : RegForm) (s : State) : Result :=
  let act := s.cur.activity x.g x.t.bits (lanes x.t)
  let f := firstBoth act (predElems x.t (s.cur.preg (x.s1.num5.truncate 3))) 0
  .next (s.putPred (x.dst.num5.truncate 3) x.t.bits act
    ((List.range (lanes x.t)).map fun i => f == some i) 0).advance

/-- R144: n is signed. -/
def execPsetn (x : RegForm) (s : State) : Result :=
  let act := s.cur.activity x.g x.t.bits (lanes x.t)
  let n := (s.cur.sreg x.s1.num5).toInt
  .next (s.putPred (x.dst.num5.truncate 3) x.t.bits act
    ((List.range (lanes x.t)).map fun (i : Nat) => decide ((i : Int) < n)) 0).advance

/-- R144: gathers. -/
def execPcount (x : RegForm) (s : State) : Result :=
  let act := s.cur.activity x.g x.t.bits (lanes x.t)
  let es := predElems x.t (s.cur.preg (x.s1.num5.truncate 3))
  .next (s.putS x.dst.num5 (BitVec.ofNat 64 ((act.zipWith (· && ·) es).count true)))

/-- R144: gathers; mode 0 ANY, 1 ALL. -/
def execPtest (x : RegForm) (s : State) : Result :=
  let act := s.cur.activity x.g x.t.bits (lanes x.t)
  let es := predElems x.t (s.cur.preg (x.s1.num5.truncate 3))
  let hit := act.zipWith (· && ·) es
  .next (s.putC x.dst.num5.toNat (if x.s3.num5.toNat == 0 then hit.any id else hit == act) 0)

end Sys2Proof.Machine
end

