-- ==== Sys2Proof/Machine/Dispatch.lean ====
section
/-! DEFINITION. `exec`: one arm per constructor of `Instr`, each one direct call of its meaning. -/

namespace Sys2Proof.Machine

def exec (i : Instr) (s : State) : Host.Outcome State Fault Refusal :=
  match i with
  | .add x => Sys2Proof.Machine.execAdd x s
  | .sub x => Sys2Proof.Machine.execSub x s
  | .mul x => Sys2Proof.Machine.execMul x s
  | .mulh x => Sys2Proof.Machine.execMulh x s
  | .div x => Sys2Proof.Machine.execDiv x s
  | .rem x => Sys2Proof.Machine.execRem x s
  | .min x => Sys2Proof.Machine.execMin x s
  | .max x => Sys2Proof.Machine.execMax x s
  | .and x => Sys2Proof.Machine.execAnd x s
  | .or x => Sys2Proof.Machine.execOr x s
  | .xor x => Sys2Proof.Machine.execXor x s
  | .andn x => Sys2Proof.Machine.execAndn x s
  | .shl x => Sys2Proof.Machine.execShl x s
  | .shr x => Sys2Proof.Machine.execShr x s
  | .sra x => Sys2Proof.Machine.execSra x s
  | .rot x => Sys2Proof.Machine.execRot x s
  | .clz x => Sys2Proof.Machine.execClz x s
  | .popc x => Sys2Proof.Machine.execPopc x s
  | .bswap x => Sys2Proof.Machine.execBswap x s
  | .extb x => Sys2Proof.Machine.execExtb x s
  | .insb x => Sys2Proof.Machine.execInsb x s
  | .lea x => Sys2Proof.Machine.execLea x s
  | .fadd x => Sys2Proof.Machine.execFadd x s
  | .fsub x => Sys2Proof.Machine.execFsub x s
  | .fmul x => Sys2Proof.Machine.execFmul x s
  | .fma x => Sys2Proof.Machine.execFma x s
  | .fmin x => Sys2Proof.Machine.execFmin x s
  | .fmax x => Sys2Proof.Machine.execFmax x s
  | .fcmp x => Sys2Proof.Machine.execFcmp x s
  | .fcvt x => Sys2Proof.Machine.execFcvt x s
  | .fclass x => Sys2Proof.Machine.execFclass x s
  | .cmp x => Sys2Proof.Machine.execCmp x s
  | .cbit x => Sys2Proof.Machine.execCbit x s
  | .cset x => Sys2Proof.Machine.execCset x s
  | .sel x => Sys2Proof.Machine.execSel x s
  | .movSS x => Sys2Proof.Machine.execMovSS x s
  | .movSA x => Sys2Proof.Machine.execMovSA x s
  | .movSC x => Sys2Proof.Machine.execMovSC x s
  | .movCS x => Sys2Proof.Machine.execMovCS x s
  | .movSP x => Sys2Proof.Machine.execMovSP x s
  | .movPS x => Sys2Proof.Machine.execMovPS x s
  | .movSQ x => Sys2Proof.Machine.execMovSQ x s
  | .movQS x => Sys2Proof.Machine.execMovQS x s
  | .gets x => Sys2Proof.Machine.execGets x s
  | .puts x => Sys2Proof.Machine.execPuts x s
  | .addi x => Sys2Proof.Machine.execAddi x s
  | .andi x => Sys2Proof.Machine.execAndi x s
  | .ori x => Sys2Proof.Machine.execOri x s
  | .xori x => Sys2Proof.Machine.execXori x s
  | .shli x => Sys2Proof.Machine.execShli x s
  | .shri x => Sys2Proof.Machine.execShri x s
  | .srai x => Sys2Proof.Machine.execSrai x s
  | .movi x => Sys2Proof.Machine.execMovi x s
  | .movhi x => Sys2Proof.Machine.execMovhi x s
  | .vadd x => Sys2Proof.Machine.execVadd x s
  | .vsub x => Sys2Proof.Machine.execVsub x s
  | .vmul x => Sys2Proof.Machine.execVmul x s
  | .vfma x => Sys2Proof.Machine.execVfma x s
  | .vmin x => Sys2Proof.Machine.execVmin x s
  | .vmax x => Sys2Proof.Machine.execVmax x s
  | .vdiv x => Sys2Proof.Machine.execVdiv x s
  | .vrcp x => Sys2Proof.Machine.execVrcp x s
  | .vrsq x => Sys2Proof.Machine.execVrsq x s
  | .vsqrt x => Sys2Proof.Machine.execVsqrt x s
  | .vmulh x => Sys2Proof.Machine.execVmulh x s
  | .vand x => Sys2Proof.Machine.execVand x s
  | .vor x => Sys2Proof.Machine.execVor x s
  | .vxor x => Sys2Proof.Machine.execVxor x s
  | .vshl x => Sys2Proof.Machine.execVshl x s
  | .vshr x => Sys2Proof.Machine.execVshr x s
  | .vsra x => Sys2Proof.Machine.execVsra x s
  | .vpopc x => Sys2Proof.Machine.execVpopc x s
  | .vclz x => Sys2Proof.Machine.execVclz x s
  | .vcmp x => Sys2Proof.Machine.execVcmp x s
  | .vsel x => Sys2Proof.Machine.execVsel x s
  | .frint x => Sys2Proof.Machine.execFrint x s
  | .fexf x => Sys2Proof.Machine.execFexf x s
  | .finsx x => Sys2Proof.Machine.execFinsx x s
  | .fgetx x => Sys2Proof.Machine.execFgetx x s
  | .vcvt x => Sys2Proof.Machine.execVcvt x s
  | .vwiden x => Sys2Proof.Machine.execVwiden x s
  | .vnarrow x => Sys2Proof.Machine.execVnarrow x s
  | .vbcast x => Sys2Proof.Machine.execVbcast x s
  | .vext x => Sys2Proof.Machine.execVext x s
  | .vins x => Sys2Proof.Machine.execVins x s
  | .vperm x => Sys2Proof.Machine.execVperm x s
  | .vslide x => Sys2Proof.Machine.execVslide x s
  | .vzip x => Sys2Proof.Machine.execVzip x s
  | .vunzip x => Sys2Proof.Machine.execVunzip x s
  | .vcompress x => Sys2Proof.Machine.execVcompress x s
  | .vexpand x => Sys2Proof.Machine.execVexpand x s
  | .viota x => Sys2Proof.Machine.execViota x s
  | .vredadd x => Sys2Proof.Machine.execVredadd x s
  | .vredmax x => Sys2Proof.Machine.execVredmax x s
  | .vredmin x => Sys2Proof.Machine.execVredmin x s
  | .vargmax x => Sys2Proof.Machine.execVargmax x s
  | .vscan x => Sys2Proof.Machine.execVscan x s
  | .pand x => Sys2Proof.Machine.execPand x s
  | .por x => Sys2Proof.Machine.execPor x s
  | .pxor x => Sys2Proof.Machine.execPxor x s
  | .pnot x => Sys2Proof.Machine.execPnot x s
  | .pfirst x => Sys2Proof.Machine.execPfirst x s
  | .psetn x => Sys2Proof.Machine.execPsetn x s
  | .pcount x => Sys2Proof.Machine.execPcount x s
  | .ptest x => Sys2Proof.Machine.execPtest x s
  | .ld x => Sys2Proof.Machine.execLd x s
  | .st x => Sys2Proof.Machine.execSt x s
  | .ldv x => Sys2Proof.Machine.execLdv x s
  | .stv x => Sys2Proof.Machine.execStv x s
  | .ldvs x => Sys2Proof.Machine.execLdvs x s
  | .stvs x => Sys2Proof.Machine.execStvs x s
  | .ldg x => Sys2Proof.Machine.execLdg x s
  | .stg x => Sys2Proof.Machine.execStg x s
  | .aadd x => Sys2Proof.Machine.execAadd x s
  | .amin x => Sys2Proof.Machine.execAmin x s
  | .amax x => Sys2Proof.Machine.execAmax x s
  | .aand x => Sys2Proof.Machine.execAand x s
  | .aor x => Sys2Proof.Machine.execAor x s
  | .axor x => Sys2Proof.Machine.execAxor x s
  | .aswap x => Sys2Proof.Machine.execAswap x s
  | .acas x => Sys2Proof.Machine.execAcas x s
  | .aaddf x => Sys2Proof.Machine.execAaddf x s
  | .cellrd x => Sys2Proof.Machine.execCellrd x s
  | .fence x => Sys2Proof.Machine.execFence x s
  | .fencer x => Sys2Proof.Machine.execFencer x s
  | .ldf x => Sys2Proof.Machine.execLdf x s
  | .ldfEmpty x => Sys2Proof.Machine.execLdfEmpty x s
  | .stf x => Sys2Proof.Machine.execStf x s
  | .clre x => Sys2Proof.Machine.execClre x s
  | .tnew x => Sys2Proof.Machine.execTnew x s
  | .twin x => Sys2Proof.Machine.execTwin x s
  | .tsubmit x => Sys2Proof.Machine.execTsubmit x s
  | .twait x => Sys2Proof.Machine.execTwait x s
  | .tstat x => Sys2Proof.Machine.execTstat x s
  | .tcancel x => Sys2Proof.Machine.execTcancel x s
  | .tretry x => Sys2Proof.Machine.execTretry x s
  | .tabort x => Sys2Proof.Machine.execTabort x s
  | .fcwait x => Sys2Proof.Machine.execFcwait x s
  | .fcadd x => Sys2Proof.Machine.execFcadd x s
  | .cpy x => Sys2Proof.Machine.execCpy x s
  | .cpyf x => Sys2Proof.Machine.execCpyf x s
  | .gath x => Sys2Proof.Machine.execGath x s
  | .scat x => Sys2Proof.Machine.execScat x s
  | .fill x => Sys2Proof.Machine.execFill x s
  | .jwait x => Sys2Proof.Machine.execJwait x s
  | .jstat x => Sys2Proof.Machine.execJstat x s
  | .rput x => Sys2Proof.Machine.execRput x s
  | .rgetTake x => Sys2Proof.Machine.execRgetTake x s
  | .rgetPoll x => Sys2Proof.Machine.execRgetPoll x s
  | .rgetDone x => Sys2Proof.Machine.execRgetDone x s
  | .feed x => Sys2Proof.Machine.execFeed x s
  | .unfeed x => Sys2Proof.Machine.execUnfeed x s
  | .coll x => Sys2Proof.Machine.execColl x s
  | .mwld x => Sys2Proof.Machine.execMwld x s
  | .mwswap x => Sys2Proof.Machine.execMwswap x s
  | .mzero x => Sys2Proof.Machine.execMzero x s
  | .mdrain x => Sys2Proof.Machine.execMdrain x s
  | .mstreamBf16Bf16 x => Sys2Proof.Machine.execMstreamBf16Bf16 x s
  | .mstreamFp16Fp16 x => Sys2Proof.Machine.execMstreamFp16Fp16 x s
  | .mstreamE4m3E4m3 x => Sys2Proof.Machine.execMstreamE4m3E4m3 x s
  | .mstreamE4m3E5m2 x => Sys2Proof.Machine.execMstreamE4m3E5m2 x s
  | .mstreamE5m2E4m3 x => Sys2Proof.Machine.execMstreamE5m2E4m3 x s
  | .mstreamE5m2E5m2 x => Sys2Proof.Machine.execMstreamE5m2E5m2 x s
  | .mstreamMxe4m3Mxe4m3 x => Sys2Proof.Machine.execMstreamMxe4m3Mxe4m3 x s
  | .mstreamMxe2m1Mxe2m1 x => Sys2Proof.Machine.execMstreamMxe2m1Mxe2m1 x s
  | .mstreamMxe2m1Mxe4m3 x => Sys2Proof.Machine.execMstreamMxe2m1Mxe4m3 x s
  | .mstreamI8I8 x => Sys2Proof.Machine.execMstreamI8I8 x s
  | .ssopen x => Sys2Proof.Machine.execSsopen x s
  | .ssload x => Sys2Proof.Machine.execSsload x s
  | .sssave x => Sys2Proof.Machine.execSssave x s
  | .ssnap x => Sys2Proof.Machine.execSsnap x s
  | .ssrewind x => Sys2Proof.Machine.execSsrewind x s
  | .ssfork x => Sys2Proof.Machine.execSsfork x s
  | .ssclose x => Sys2Proof.Machine.execSsclose x s
  | .smopen x => Sys2Proof.Machine.execSmopen x s
  | .smpost x => Sys2Proof.Machine.execSmpost x s
  | .smtake x => Sys2Proof.Machine.execSmtake x s
  | .smnoise x => Sys2Proof.Machine.execSmnoise x s
  | .gmask x => Sys2Proof.Machine.execGmask x s
  | .gwait x => Sys2Proof.Machine.execGwait x s
  | .tkstep x => Sys2Proof.Machine.execTkstep x s
  | .lmove x => Sys2Proof.Machine.execLmove x s
  | .lpop x => Sys2Proof.Machine.execLpop x s
  | .lpush x => Sys2Proof.Machine.execLpush x s
  | .next x => Sys2Proof.Machine.execNext x s
  | .matchT x => Sys2Proof.Machine.execMatch x s
  | .tbw x => Sys2Proof.Machine.execTbw x s
  | .tbr x => Sys2Proof.Machine.execTbr x s
  | .tbclr x => Sys2Proof.Machine.execTbclr x s
  | .tbcopy x => Sys2Proof.Machine.execTbcopy x s
  | .tbflip x => Sys2Proof.Machine.execTbflip x s
  | .tbpin x => Sys2Proof.Machine.execTbpin x s
  | .tbunpin x => Sys2Proof.Machine.execTbunpin x s
  | .trap x => Sys2Proof.Machine.execTrap x s
  | .resume x => Sys2Proof.Machine.execResume x s
  | .brk x => Sys2Proof.Machine.execBrk x s
  | .nop x => Sys2Proof.Machine.execNop x s
  | .waite x => Sys2Proof.Machine.execWaite x s
  | .gjoin x => Sys2Proof.Machine.execGjoin x s
  | .gleave x => Sys2Proof.Machine.execGleave x s
  | .gbar x => Sys2Proof.Machine.execGbar x s
  | .gsize x => Sys2Proof.Machine.execGsize x s
  | .xinv x => Sys2Proof.Machine.execXinv x s
  | .lookupComplete t => Sys2Proof.Machine.execLookupComplete t s
  | .stallResolves t => Sys2Proof.Machine.execStallResolves t s
  | .bankRetention t bank => Sys2Proof.Machine.execBankRetention t bank s
  | .seatGate x => Sys2Proof.Machine.execSeatGate x s
  | .threadBind x => Sys2Proof.Machine.execThreadBind x s
  | .yieldReturn t => Sys2Proof.Machine.execYieldReturn t s
  | .dispatch part => Sys2Proof.Machine.execDispatch part s
  | .commitGrant k => Sys2Proof.Machine.execCommitGrant k s
  | .flushComplete k => Sys2Proof.Machine.execFlushComplete k s
  | .taskStopComplete k => Sys2Proof.Machine.execTaskStopComplete k s
  | .energyMeterUpdate k mj => Sys2Proof.Machine.execEnergyMeterUpdate k mj s
  | .tableOpApply k cluster => Sys2Proof.Machine.execTableOpApply k cluster s
  | .tableDirectoryReply t => Sys2Proof.Machine.execTableDirectoryReply t s
  | .barrierPhaseComplete g => Sys2Proof.Machine.execBarrierPhaseComplete g s
  | .resumeMessage t => Sys2Proof.Machine.execResumeMessage t s
  | .engineCommandArrive t job => Sys2Proof.Machine.execEngineCommandArrive t job s
  | .jobQueueEntryFree t => Sys2Proof.Machine.execJobQueueEntryFree t s
  | .jobStart t job => Sys2Proof.Machine.execJobStart t job s
  | .jobComplete t job => Sys2Proof.Machine.execJobComplete t job s
  | .heldJobRelease t job => Sys2Proof.Machine.execHeldJobRelease t job s
  | .roundComplete g => Sys2Proof.Machine.execRoundComplete g s
  | .matrixSlotChange => Sys2Proof.Machine.execMatrixSlotChange s
  | .gwaitTimeout t => Sys2Proof.Machine.execGwaitTimeout t s
  | .waiteTimeout t => Sys2Proof.Machine.execWaiteTimeout t s
  | .sliceEnd k => Sys2Proof.Machine.execSliceEnd k s
  | .contextLoad k target clusters => Sys2Proof.Machine.execContextLoad k target clusters s
  | .granuleFill t granule => Sys2Proof.Machine.execGranuleFill t granule s
  | .heldRecordWrite part => Sys2Proof.Machine.execHeldRecordWrite part s
  | .reportRound => Sys2Proof.Machine.execReportRound s
  | .translationWalkComplete part w => Sys2Proof.Machine.execTranslationWalkComplete part w s
  | .shootdownComplete part => Sys2Proof.Machine.execShootdownComplete part s
  | .atsCompletion k page r => Sys2Proof.Machine.execAtsCompletion k page r s
  | .priResponse k page r => Sys2Proof.Machine.execPriResponse k page r s
  | .atsInvalidation part pasid page pages => Sys2Proof.Machine.execAtsInvalidation part pasid page pages s
  | .openContext part img => Sys2Proof.Machine.execOpenContext part img s
  | .closeContext part img => Sys2Proof.Machine.execCloseContext part img s
  | .resumeThread part img => Sys2Proof.Machine.execResumeThread part img s
  | .cancelTask part img => Sys2Proof.Machine.execCancelTask part img s
  | .retryTask part img => Sys2Proof.Machine.execRetryTask part img s
  | .shootDown part img => Sys2Proof.Machine.execShootDown part img s
  | .loadObject part img => Sys2Proof.Machine.execLoadObject part img s
  | .resumeJob part img => Sys2Proof.Machine.execResumeJob part img s
  | .hostQueueHeadWrite part q head => Sys2Proof.Machine.execHostQueueHeadWrite part q head s
  | .hostQueueSubmit part q => Sys2Proof.Machine.execHostQueueSubmit part q s
  | .hostQueueWait part q => Sys2Proof.Machine.execHostQueueWait part q s
  | .hostQueueRestart part q => Sys2Proof.Machine.execHostQueueRestart part q s
  | .faultRingTailWrite part terminal tail => Sys2Proof.Machine.execFaultRingTailWrite part terminal tail s
  | .overflowStoppedClear part => Sys2Proof.Machine.execOverflowStoppedClear part s
  | .qosWindowEnd part => Sys2Proof.Machine.execQosWindowEnd part s
  | .partitionRequest img => Sys2Proof.Machine.execPartitionRequest img s
  | .dissolve img => Sys2Proof.Machine.execDissolve img s
  | .keygen c => Sys2Proof.Machine.execKeygen c s
  | .keyerase c => Sys2Proof.Machine.execKeyerase c s
  | .mint c => Sys2Proof.Machine.execMint c s
  | .epoch c => Sys2Proof.Machine.execEpoch c s
  | .scrub c => Sys2Proof.Machine.execScrub c s
  | .logcfg c => Sys2Proof.Machine.execLogcfg c s
  | .logexport c => Sys2Proof.Machine.execLogexport c s
  | .allowscan c => Sys2Proof.Machine.execAllowscan c s
  | .freeze c => Sys2Proof.Machine.execFreeze c s
  | .thaw c => Sys2Proof.Machine.execThaw c s
  | .scanRead part what => Sys2Proof.Machine.execScanRead part what s
  | .markerCut => Sys2Proof.Machine.execMarkerCut s
  | .markerReceive unit chan => Sys2Proof.Machine.execMarkerReceive unit chan s
  | .noCommand b word => Sys2Proof.Machine.execNoCommand b word s
  | .readTapTest b word => Sys2Proof.Machine.execReadTapTest b word s
  | .writeTapTest b word => Sys2Proof.Machine.execWriteTapTest b word s
  | .laneRepair b word => Sys2Proof.Machine.execLaneRepair b word s
  | .patternTest b word => Sys2Proof.Machine.execPatternTest b word s
  | .enter b => Sys2Proof.Machine.execEnter b s
  | .stackFailedWrite stack => Sys2Proof.Machine.execStackFailedWrite stack s
  | .alarmClear => Sys2Proof.Machine.execAlarmClear s
  | .registerWrite fn offset value => Sys2Proof.Machine.execRegisterWrite fn offset value s
  | .hostWrite fn addr data => Sys2Proof.Machine.execHostWrite fn addr data s
  | .hostRead fn addr n => Sys2Proof.Machine.execHostRead fn addr n s
  | .flitReceive port flit => Sys2Proof.Machine.execFlitReceive port flit s
  | .spanPortFail port => Sys2Proof.Machine.execSpanPortFail port s
  | .powerOn => Sys2Proof.Machine.execPowerOn s
  | .moduleReset => Sys2Proof.Machine.execModuleReset s
  | .fusesRead => Sys2Proof.Machine.execFusesRead s
  | .signatureCheck images erasepol => Sys2Proof.Machine.execSignatureCheck images erasepol s
  | .hostLinkUp => Sys2Proof.Machine.execHostLinkUp s
  | .dieTrained die => Sys2Proof.Machine.execDieTrained die s
  | .bringupContextClose die => Sys2Proof.Machine.execBringupContextClose die s
  | .fullServiceEntry => Sys2Proof.Machine.execFullServiceEntry s
  | .voltageGlitch => Sys2Proof.Machine.execVoltageGlitch s
  | .tamperMeshBreak => Sys2Proof.Machine.execTamperMeshBreak s
  | .clockThrottle sixteenths => Sys2Proof.Machine.execClockThrottle sixteenths s
  | .trainingCommandComplete b => Sys2Proof.Machine.execTrainingCommandComplete b s
  | .stackReset stack => Sys2Proof.Machine.execStackReset stack s

end Sys2Proof.Machine
end

