-- ==== Sys2Proof/Machine/Issue.lean ====
section
/-! DEFINITION. Issuing an instruction: the fetch (R30, R339), the decode checks (R57), the profile of engine
firmware (R261), the stop of a FAULTED task's thread (R165), and one act of the agenda. -/

namespace Sys2Proof.Machine

/-! ### Fetch -/

/-- R30, R339: a fetch that the thread may not make. -/
def fetchTrap (s : State) : Result := .next (takeTrap 0x0A (s.cur.pc.zeroExtend 64) 0 false s)

/-- R230 for a fetch. -/
def State.countFetchSquash (s : State) (va : Nat) : State :=
  if s.squashed s.curCtx s.cur.cluster va .ex then s.modCur fun h => { h with predmiss := h.predmiss + 1 } else s

/-- R339: a fetch that its translation stops: a leaf without EX and every other permission gives the index as R30
does; an absent page and an uncorrectable error give the address as R195 does. -/
def fetchStop (va : Nat) (f : XFault) (s : State) : Result :=
  match f with
  | .trap 0x0A st2 => .next (takeTrap 0x0A (s.cur.pc.zeroExtend 64) 0 st2 (s.countFetchSquash va))
  | .trap c st2 => .next (takeTrap c (BitVec.ofNat 64 va) (s.cur.pc.zeroExtend 64) st2 (s.countFetchSquash va))
  | .hold c => .next (s.waitFor c)
  | .device => .fault .unknownDevice

/-- The eight bytes at a fetched address. -/
def State.fetchBytes (s : State) (part : Nat) (h : Home) : Except XFault (List Byte) :=
  match h with
  | .mem pa g => if s.badIn pa 8 then .error (.trap 0x0C false) else .ok (s.physRead g pa 8)
  | .host a => .ok (readBytes s.hostMem (hostKey (vf part) a) 8)
  | .phy st off => .ok ((List.range 8).map fun i => s.phyByte st (off + i))
  | .remote _ _ => .error (.trap 0x0A false)

/-- The virtual address of the issuing thread's instruction (R339). -/
def Context.fetchVa (c : Context) (h : Thread) : Nat := c.codeBase + 8 * h.pc.toNat

/-- The fetch of the issuing thread's instruction: its bytes, or why there are none. Engine firmware is read from
the engine's own copy (R261, R339). -/
def State.fetch (s : State) : Except Result (List Byte) :=
  match s.ctx? s.curCtx with
  | none => .error (.next s)
  | some c =>
    let h := s.cur
    if h.role.isSome then
      match c.engineCode[h.pc.toNat]? with
      | some w => .ok (bytesOfWord w)
      | none => .error (fetchTrap s)
    else if c.codeLen ≤ h.pc.toNat then .error (fetchTrap s)
    else
      let va := c.fetchVa h
      match s.xlate s.curCtx h.cluster va .ex with
      | .error f => .error (fetchStop va f s)
      | .ok x => match s.fetchBytes s.curCtx.part x.home with
        | .error f => .error (fetchStop va f s)
        | .ok bs => .ok bs

/-- What the fetch leaves: its translation cached (R229). -/
def State.noteFetch (s : State) : State :=
  match s.ctx? s.curCtx with
  | none => s
  | some c =>
    if s.cur.role.isSome then s else s.noteXlate s.cur.id s.curCtx s.cur.cluster (c.fetchVa s.cur) .ex

/-! ### Registers that wake or are filled (R43, R342) -/

/-- The granule of predicates, conditions and parameters. -/
def pcaGranule : Nat := 36

/-- The granules that an operand position names. -/
def posGranules (p : Pos) (o : Opnd) (g : Nat) : List Nat :=
  match p, o with
  | .s, .reg n => [32 + n.toNat / 8]
  | .p, _ => [pcaGranule]
  | .c, _ => [pcaGranule]
  | .a, _ => [pcaGranule]
  | _, _ => (p.vecs o g).flatMap fun v => (List.range v.2).map (v.1 + ·)

/-- The granule of a scalar register. -/
def scalarGranule (n : BitVec 5) : Nat := 32 + n.toNat / 8

/-- A pair of scalar registers, the first of even number, lies in one granule. -/
def dposGranules (d : DPos) (o : Opnd) : List Nat :=
  match d with
  | .zero => []
  | .v => [o.num5.toNat]
  | _ => [scalarGranule o.num5]

/-- The format 10 opcodes that write c15. -/
def answersC15 (op : Nat) : Bool :=
  op == 0x047 || [0x081, 0x083, 0x085, 0x086, 0x087, 0x0C5, 0x0C8, 0x0CA].contains op
    || (0x180 ≤ op && op ≤ 0x188) || op == 0x18A || op == 0x191 || 0x1A0 ≤ op

def guardGranules (g : Guard) : List Nat := if g.p == 0 then [] else [pcaGranule]

/-- The granules that a control instruction names besides its guard: a lookup reads c for its key and writes parameters
or c15 (R27, R28, R86), `TBW` and `TBR` name a vector register (R87). -/
def ctlGranules (op : Nat) (x : CtlForm) : List Nat :=
  let key := scalarGranule x.key
  let ind := scalarGranule x.ind
  match op with
  | 0x000 => [key, ind, pcaGranule]
  | 0x010 => [key, ind, scalarGranule (x.subop.truncate 5), pcaGranule]
  | 0x011 => [key, x.ind.toNat, pcaGranule]
  | 0x012 => [key, x.ind.toNat]
  | 0x013 | 0x014 | 0x015 | 0x024 => [pcaGranule]
  | 0x028 | 0x02A => [key, pcaGranule]
  | 0x021 => [key, ind, pcaGranule]
  | 0x029 => [key]
  | 0x02B => [key, ind]
  | 0x03F => if x.subop.toNat % 4 == 0 then [key, ind, pcaGranule] else [pcaGranule]
  | _ => []

/-- The granules that an instruction names, as a source or a destination (R342). -/
def codeGranules (c : Code) : List Nat :=
  match c with
  | .reg op x =>
    let sp := regSpec op
    let g := x.wide op
    guardGranules x.g ++ posGranules sp.dst x.dst g ++ posGranules sp.s1 x.s1 g ++ posGranules sp.s2 x.s2 g ++ posGranules sp.s3 x.s3 g
  | .imm _ x => guardGranules x.g ++ [scalarGranule x.dst.num5, scalarGranule x.src.num5]
  | .mem op x =>
    guardGranules x.g ++ dposGranules (memSpec op).data x.data ++ dposGranules (memSpec op).base x.base
      ++ (match (memSpec op).off with
        | .carvedV => [x.low8.toNat % 32]
        | .carvedS => [scalarGranule (reg3 x)]
        | .onlyS => [scalarGranule (reg3 x)]
        | _ => [])
      ++ (if answersC15 op then [pcaGranule] else [])
  | .ctl op x => guardGranules x.g ++ ctlGranules op x

/-- R43, R342: an instruction that names a retained bank or an absent granule stalls its seat until the banks are awake
and the granules filled; the two overlap. -/
def whenAwake (c : Code) (s : State) (f : State → Result) : Result :=
  let gs := codeGranules c
  let asleep := s.cur.retained.filter fun b => gs.any fun g => g < 32 && g / 8 == b
  let gone := s.cur.absent.filter gs.contains
  if asleep.isEmpty && gone.isEmpty then f s
  else .next ((s.modCur fun h => { h with retained := h.retained.filter fun b => !asleep.contains b }).waitFor
    (.regs gone (s.time + if asleep.isEmpty then 0 else 12)))

/-! ### Decode and the profile (R57, R261) -/

/-- The instructions that engine firmware may use (R261). -/
def Code.inProfile (c : Code) : Bool :=
  match c with
  | .reg _ _ => true
  | .imm _ _ => true
  | .mem op _ => op ≤ 0x008 || (0x040 ≤ op && op ≤ 0x061)
  | .ctl op _ => op ≤ 0x020 || op == 0x022 || op == 0x023

/-- R57 for a word that does not decode. -/
def decodeTrap (e : DecErr) (w : Word) (s : State) : Result :=
  match e with
  | .opcode => .next (trapHere 0x01 w s)
  | .field => .next (trapHere 0x02 w s)
  | .group n => .next (trapHere 0x04 (BitVec.ofNat 64 n) s)

/-- The issuing thread executes an instruction; engine firmware one of its profile only, which is checked where
privilege is (R57 step 5). -/
def runInstr (w : Word) (i : Instr) (s : State) : Result :=
  match i.code with
  | none => .next s
  | some c =>
    if s.cur.role.isSome && !Code.inProfile c then alloc c s fun s => .next (trapHere 0x0A w s)
    else whenAwake c s (exec i)

/-- The issuing thread executes the bytes fetched. -/
def runBytes (bs : List Byte) (s : State) : Result :=
  match decodeBytes bs with
  | .error e => decodeTrap e (wordOfBytes bs) s
  | .ok (i, _) => runInstr (wordOfBytes bs) i s

/-! ### Issue (R15, R165, R343) -/

/-- The task of a thread that issues for the first time has started: its launch latency joins the window of its
partition (R343). -/
def State.noteLaunch (t : TId) (s : State) : State :=
  match s.task? t.taskId with
  | none => s
  | some k =>
    if k.launched then s
    else (s.modTask t.taskId fun k => { k with launched := true }).modPart t.part fun p => { p with
      qos := { p.qos with lats := p.qos.lats ++ [s.time - k.arrived] } }

/-- A core that may issue. -/
structure CoreAt where
  k : CtxId
  cluster : Nat
  core : Nat
  deriving DecidableEq

def Thread.place (h : Thread) : CoreAt := ⟨h.id.ctxId, h.cluster, h.core⟩

def CoreAt.key (x : CoreAt) : Nat := 8 * x.cluster + x.core

/-- The READY threads of the contexts that are loaded and clocked. -/
def State.readyThreads (s : State) : List Thread :=
  s.parts.flatMap fun p => p.ctxs.flatMap fun c =>
    if s.active ⟨p.num, c.num⟩ then c.threads.filter fun h => h.life.isReady else []

/-- R15's order of a core's seats: from the one after that which issued last, from seat 0 where none has. -/
def seatOrder (last : Nat) : List Nat := (List.range 4).map fun i => if last < 4 then (last + 1 + i) % 4 else i

/-- R15: of the threads of a core among these, the one whose turn it is. Each context on a core has its own seat that
issued last (log entry 95). -/
def State.nextSeat (s : State) (hs : List Thread) (x : CoreAt) : Option Thread :=
  let mine := hs.filter fun h => h.place = x
  (seatOrder (((s.ctx? x.k).map fun c => getAt 4 c.lastSeat x.key).getD 4)).findSome? fun seat =>
    mine.find? fun h => h.seat == seat

/-- Has a core issued in this cycle? -/
def State.hasIssued (s : State) (x : CoreAt) : Bool :=
  ((s.ctx? x.k).map fun c => getAt 0 c.issuedAt x.key == s.time + 1).getD false

/-- R15: is it a thread's turn on its core, which has not issued in this cycle, where the instructions of the READY seats
named are not issuable? -/
def State.mayIssue (s : State) (t : TId) (stalled : List Nat) : Bool :=
  match s.thread? t with
  | none => false
  | some h =>
    !s.hasIssued h.place && (s.nextSeat (s.readyThreads.filter fun x => !stalled.contains x.seat) h.place).any fun x =>
      x.id == t

/-- The issuing thread's registers checked out, and its seat noted as the last to issue on its core (R15). -/
def State.checkOut (h : Thread) (s : State) : State :=
  let s1 := s.modCtx h.id.ctxId fun c => { c with
    lastSeat := setMany 4 c.lastSeat h.place.key [h.seat]
    issuedAt := setMany 0 c.issuedAt h.place.key [s.time + 1] }
  { s1.noteLaunch h.id with cur := h }

/-- What an issue does once the thread's registers are checked out. -/
def State.runIssue (s : State) : Result :=
  match s.fetch with
  | .error r => r
  | .ok bs => runBytes bs s.noteFetch

/-- How an issue leaves the thread's waiting: since when it waits (R43), or with no held load behind it (R309). -/
def Thread.afterIssue (time : Nat) (h : Thread) : Thread :=
  match h.life with
  | .here (.waiting _) => { h with since := time }
  | _ => { h with tickets := [] }

/-- The issuing thread's registers go back into its record. -/
def putBack (r : Result) : Result :=
  match r with
  | .next s => .next (s.modCur (Thread.afterIssue s.time)).checkIn
  | r => r

/-- A READY thread issues its next instruction; a thread of a FAULTED task is STOPPED instead (R13, R165). -/
def State.issue (t : TId) (s : State) : Result :=
  match s.awake? t with
  | none => .next s
  | some h =>
    if !h.life.isReady then .next s
    else if s.stopping t then .next (s.stopThread t)
    else putBack (s.checkOut h).runIssue

/-- One act comes about. An event of the opcode table has no instruction word. The agenda names the seat that issues and
those of its core whose instructions are not issuable, which is a matter of timing (log entry 71); R15's order holds
among the others. -/
def runAct (a : Act) (s : State) : Result :=
  match a with
  | .issue t stalled => if s.mayIssue t stalled then s.issue t else .next s
  | .event i => if i.code.isNone then exec i s else .next s

end Sys2Proof.Machine
end

