-- ==== Sys2Proof/Machine/Order.lean ====
section
/-! DEFINITION. What comes about when the agenda names nothing (log entry 3): the first event of the device that
would change something, else the next READY thread (R15), else time passes. -/

namespace Sys2Proof.Machine

/-- The events by which the device itself goes on. -/
inductive Own where
  | stallResolves (t : TId)
  | gwaitTimeout (t : TId)
  | waiteTimeout (t : TId)
  | lookupComplete (t : TId)
  | tableDirectoryReply (t : TId)
  | resumeMessage (t : TId)
  | yieldReturn (t : TId)
  | granuleFill (t : TId) (granule : Nat)
  | engineCommandArrive (t : TId) (job : Nat)
  | heldJobRelease (t : TId) (job : Nat)
  | jobComplete (t : TId) (job : Nat)
  | jobStart (t : TId) (job : Nat)
  | tableOpApply (k : CtxId) (cluster : Nat)
  | taskStopComplete (k : TaskId)
  | commitGrant (k : TaskId)
  | flushComplete (k : TaskId)
  | threadBind (x : SeatId)
  | shootdownComplete (part : Nat)
  | heldRecordWrite (part : Nat)
  | reportRound
  | qosWindowEnd (part : Nat)
  | barrierPhaseComplete (g : GroupId)
  | roundComplete (g : GroupId)
  | hostQueueSubmit (part q : Nat)
  | hostQueueWait (part q : Nat)
  | dispatch (part : Nat)
  | trainingCommandComplete (b : BlockId)
  | dieTrained (die : Nat)
  | bringupContextClose (die : Nat)
  | markerReceive (unit chan : Nat)
  | mailNext (fn : Nat)
  | commandNext (part : Nat)
  | fullServiceEntry

/-- Each is the event of its name in the opcode table; a mailbox's next request and a partition's next host
command are the events of their own names (R319, R338). -/
def Own.run (o : Own) (s : State) : Result :=
  match o with
  | .stallResolves t => execStallResolves t s
  | .gwaitTimeout t => execGwaitTimeout t s
  | .waiteTimeout t => execWaiteTimeout t s
  | .lookupComplete t => execLookupComplete t s
  | .tableDirectoryReply t => execTableDirectoryReply t s
  | .resumeMessage t => execResumeMessage t s
  | .yieldReturn t => execYieldReturn t s
  | .granuleFill t g => execGranuleFill t g s
  | .engineCommandArrive t j => execEngineCommandArrive t j s
  | .heldJobRelease t j => execHeldJobRelease t j s
  | .jobComplete t j => execJobComplete t j s
  | .jobStart t j => execJobStart t j s
  | .tableOpApply k n => execTableOpApply k n s
  | .taskStopComplete k => execTaskStopComplete k s
  | .commitGrant k => execCommitGrant k s
  | .flushComplete k => execFlushComplete k s
  | .threadBind x => execThreadBind x s
  | .shootdownComplete p => execShootdownComplete p s
  | .heldRecordWrite p => execHeldRecordWrite p s
  | .reportRound => execReportRound s
  | .qosWindowEnd p => execQosWindowEnd p s
  | .barrierPhaseComplete g => execBarrierPhaseComplete g s
  | .roundComplete g => execRoundComplete g s
  | .hostQueueSubmit p q => execHostQueueSubmit p q s
  | .hostQueueWait p q => execHostQueueWait p q s
  | .dispatch p => execDispatch p s
  | .trainingCommandComplete b => execTrainingCommandComplete b s
  | .dieTrained d => execDieTrained d s
  | .bringupContextClose d => execBringupContextClose d s
  | .markerReceive u c => execMarkerReceive u c s
  | .mailNext fn => s.mailNext fn
  | .commandNext p => s.commandNext p
  | .fullServiceEntry => execFullServiceEntry s

/-- Events of a thread. -/
def Thread.events (h : Thread) : List Own :=
  [.stallResolves h.id, .gwaitTimeout h.id, .waiteTimeout h.id, .lookupComplete h.id, .tableDirectoryReply h.id,
    .resumeMessage h.id, .yieldReturn h.id] ++ h.absent.map fun g => .granuleFill h.id g

/-- Events of a job. -/
def Job.events (j : Job) : List Own :=
  [.engineCommandArrive j.thread j.id, .heldJobRelease j.thread j.id, .jobComplete j.thread j.id,
    .jobStart j.thread j.id]

/-- Events of a context. -/
def Context.events (part : Nat) (c : Context) : List Own :=
  let k : CtxId := ⟨part, c.num⟩
  c.threads.flatMap Thread.events
    ++ (List.range c.nclusters).map (fun n => .tableOpApply k n)
    ++ c.jobs.flatMap Job.events
    ++ c.tasks.flatMap (fun t =>
      let k : TaskId := ⟨part, c.num, t.create⟩
      [.taskStopComplete k, .commitGrant k, .flushComplete k])
    ++ (List.range c.nclusters).flatMap fun n => (List.range 32).map fun i =>
      .threadBind ⟨part, c.num, n, i / 4, i % 4⟩

/-- Events of a partition. -/
def Partition.events (p : Partition) : List Own :=
  [.shootdownComplete p.num, .commandNext p.num, .heldRecordWrite p.num, .qosWindowEnd p.num]
    ++ p.groups.map (fun g => .barrierPhaseComplete ⟨p.num, g.ctx, g.cluster, g.handle⟩)
    ++ p.rounds.map (fun r => .roundComplete ⟨p.num, r.ctx, 0, r.handle⟩)
    ++ (List.range 8).flatMap (fun q => [.hostQueueSubmit p.num q, .hostQueueWait p.num q])
    ++ p.ctxs.flatMap (Context.events p.num) ++ [.dispatch p.num]

/-- Events of a stack. -/
def Stack.events (k : Stack) : List Own :=
  (k.blocks.filter fun b => !b.queue.isEmpty).map fun b => .trainingCommandComplete ⟨k.num, b.group⟩

/-- The device's own events in the default order. -/
def State.events (s : State) : List Own :=
  s.hbm.flatMap Stack.events ++ s.tokens.map (fun m => .markerReceive m.dst m.src) ++ [.reportRound] ++ s.parts.flatMap Partition.events
    ++ (List.range 6).map (fun d => .dieTrained d) ++ s.mail.map (fun m => .mailNext m.fn)
    ++ s.bringUp.map (fun d => .bringupContextClose d) ++ [.fullServiceEntry]

/-- Would an event change something? -/
def State.enabled (s : State) (o : Own) : Bool :=
  match o.run s with
  | .next t => t != s
  | _ => true

/-- The next thread to issue with an empty agenda: of the first core that has a READY thread and has not issued in this
cycle; seats as R15 says. -/
def State.nextThread (s : State) : Option TId :=
  let hs := s.readyThreads
  (((hs.map Thread.place).dedup.find? fun x => !s.hasIssued x).bind (s.nextSeat hs)).map Thread.id

/-- What comes about with an empty agenda: an event at once, an issue of a core in its cycle, or a cycle passes. -/
def State.idle (s : State) : Result :=
  match s.events.find? s.enabled with
  | some o => o.run s
  | none => match s.nextThread with
    | some t => s.issue t
    | none => .next (s.passTime 1)

/-- After every act, what it leaves behind is noticed (R213, R218), and what it delivered is recorded by a marker cut
(R331). -/
def noticed (old : State) (r : Result) : Result :=
  match r with
  | .next s => .next (old.heard s.notice)
  | r => r

end Sys2Proof.Machine
end

