-- ==== Sys2Proof/Machine/Step.lean ====
section
/-! DEFINITION. One step of the machine, and a state that fetches a given word next. -/

namespace Sys2Proof.Machine

/-- One step: the first act of the agenda, after the time that passes before it; with the agenda empty, what
`State.idle` says. -/
def step (s : State) : Host.Outcome State Fault Refusal :=
  noticed s (match s.agenda with
    | (dt, a) :: rest => runAct a ({ s with agenda := rest }.passTime dt)
    | [] => s.idle)

/-- The context, task and thread that `withFetchWord` places: one READY thread at code index 0. -/
def fetchContext : Context :=
  let t : Task := {
    create := 0, image := 0, attached := false
    tcb := ⟨0, 1, 1, false, false, 0, 32, 0, 0, 0, 0, 0, 0⟩
    windows := [], state := .running, curClass := 0, energyUsed := 0, failCause := 0, faultCause := 0
    granted := [0]
    logLines := 0, started := [(0, 1)], buffers := [], badLog := [], commitOk := false, recorded := false, arrived := 0
    launched := true }
  { newContext 0 (2 ^ 42 + 0x3000) (2 ^ 42 + 0x1000) 0 1 0 1 false with
    loaded := true
    coreTable := [0]
    object := true
    codeBase := 0
    codeLen := 1
    nextCreate := 1
    tasks := [t]
    threads := [{ Thread.blank with life := .here .ready, nthreads := 1 }] }

/-- The translation tables of that context, in die 0's commons: virtual addresses below 1 GiB lie from 2^42 on. -/
def fetchTables (m : Cells) : Cells :=
  let put (m : Cells) (a v : Nat) : Cells := writeBytes m a (leBytes 8 v)
  let leaf : Nat := 2 ^ 42 + 0x1F
  put (put (put (put m (2 ^ 42 + 0x1000 + 8 * 8) (2 ^ 42 + 0x2001)) (2 ^ 42 + 0x2000) leaf) (2 ^ 42 + 0x3000)
    (2 ^ 42 + 0x4001)) (2 ^ 42 + 0x4000) leaf

/-- `s` with the word of an opcode-table row where the next step fetches: partition 0 and its context 0 hold one
READY thread whose code page holds the word, and the agenda names its issue. It stands for the load of a
program (log entry 28). -/
def State.withFetchWord (s : State) (nbits w : Nat) : State :=
  let p := { newPartition 0 1 [0] 0 30 0x4001 0 with ctxs := [fetchContext] }
  let bytes := bytesOfWord (BitVec.ofNat 64 (w % 2 ^ min nbits 64))
  { s with
    parts := [p] ++ s.parts.filter fun q => q.num != 0
    diesHeld := false
    regions := resetRegions
    badLines := []
    mem := writeBytes (fetchTables s.mem) (2 ^ 42) bytes
    agenda := [(0, .issue ⟨0, 0, 0, 0⟩ [])] }

end Sys2Proof.Machine
end

