-- ==== Sys2Proof/Safety.lean ====
section
/-! DEFINITION. The terms claims are stated in: what an instruction writes and leaves alone, w-bit operands as bit
vectors, what R318 keeps from every instruction, and the invariant of the module. -/

namespace Sys2Proof.Machine

/-! ### What an instruction answers -/

/-- `exec` answers a next state that has a property. -/
def Completes (i : Instr) (s : State) (P : State → Prop) : Prop := ∃ t, exec i s = .next t ∧ P t

/-- The code index moves on by one and nothing else changes. -/
def Moved (s t : State) : Prop := t = { s with cur := { s.cur with pc := s.cur.pc + 1 } }

/-- Scalar register d takes v (a write to s0 is discarded, R40), the code index moves on, nothing else changes. -/
structure WroteS (s t : State) (d : BitVec 5) (v : Word) : Prop where
  value : t.cur.sreg d = if d = 0 then 0 else v
  others : ∀ n, n ≠ d → t.cur.sreg n = s.cur.sreg n
  rest : t = { s with cur := { s.cur with s := t.cur.s, pc := s.cur.pc + 1 } }

/-- As `WroteS`, and flags f join the sticky flags (R111). -/
structure WroteSF (s t : State) (d : BitVec 5) (v : Word) (f : Flags) : Prop where
  value : t.cur.sreg d = if d = 0 then 0 else v
  others : ∀ n, n ≠ d → t.cur.sreg n = s.cur.sreg n
  rest : t = { s with cur := { s.cur with s := t.cur.s, pc := s.cur.pc + 1, fflags := s.cur.fflags ||| f } }

/-- Condition bit n takes b, flags f join the sticky flags, the code index moves on, nothing else changes. -/
structure WroteC (s t : State) (n : Nat) (b : Bool) (f : Flags) : Prop where
  bits : ∀ m, t.cur.cbit m = if m = n then b else s.cur.cbit m
  rest : t = { s with cur := { s.cur with c := t.cur.c, pc := s.cur.pc + 1, fflags := s.cur.fflags ||| f } }

/-- Predicate register d takes v (a write to p0 is discarded, R40), the code index moves on, nothing else changes. -/
structure WroteP (s t : State) (d : BitVec 3) (v : Word) : Prop where
  value : t.cur.preg d = if d = 0 then BitVec.allOnes 64 else v
  others : ∀ n, n ≠ d → t.cur.preg n = s.cur.preg n
  rest : t = { s with cur := { s.cur with p := t.cur.p, pc := s.cur.pc + 1 } }

/-- The issuing thread is WAITING (R13); nothing else changes. -/
def Waits (s t : State) (w : Wait) : Prop := t = { s with cur := { s.cur with life := .here (.waiting w) } }

/-- Writing under a key of generation g at pa takes its line over from no other key (R321). -/
def KeyFits (s : State) (g pa : Nat) : Prop :=
  s.writeTag g pa = 0 ∨ getAt 0 s.lineKeys (pa / 64) = 0 ∨ getAt 0 s.lineKeys (pa / 64) = s.writeTag g pa

/-- A task that a trap of the issuing thread makes FAULTED, and whose image is written back then (R153, R165). -/
def Faults (s : State) (cause : Nat) (tk : Task) : Prop :=
  (s.cur.role.isSome = true ∨ disposition cause = 2) ∧ s.task? s.cur.id.taskId = some tk ∧ tk.faults = true ∧
    tk.attached = true

/-- A byte of an image that the tracker writes back (R149), where it stands in physical memory; or a byte of such a
byte's line that this takes over from another key. -/
def WrittenBack (s : State) (k : CtxId) (image a : Nat) : Prop :=
  ∃ w ∈ [(10, 6), (28, 4), (52, 4), (56, 1)], ∃ p ∈ pieces (image + w.1) w.2, ∃ x pa g,
    s.xlate k trackerCluster p.1 .wr = .ok x ∧ x.home = .mem pa g ∧
    (pa ≤ a ∧ a < pa + p.2 ∨
      ∃ i, i < p.2 ∧ (pa + i) / 64 = a / 64 ∧ (¬KeyFits s g (pa + i) ∨ image % 64 ≠ 0))

/-- The issuing thread took a trap (R220): its trap registers hold these values, it is PARKED at the instruction,
and every other register of it, and all memory, stays, but for the image of a task that becomes FAULTED. -/
structure Trapped (s t : State) (cause : Nat) (taddr tinfo : Word) : Prop where
  thread : t.cur = { s.cur with
    tcause := BitVec.ofNat 64 cause, taddr := taddr, tinfo := tinfo, life := .here .parked }
  mem : (∀ tk, ¬Faults s cause tk) → t.mem = s.mem
  image : ∀ tk, Faults s cause tk → ∀ a, ¬WrittenBack s s.cur.id.ctxId tk.image a → readByte t.mem a = readByte s.mem a

/-! ### Operands of width w (R50, R65, R66) -/

/-- A source's low w bits with its modifiers: the absolute value first, then the negation. -/
def srcBits (h : Thread) (t : Ty) (m : SrcMod) (o : Opnd) : BitVec t.bits :=
  let x := (h.sreg o.num5).setWidth t.bits
  let y := if m.abs then x.abs else x
  if m.neg then -y else y

/-- R65 step 4: sign-extended for an i type, zero-extended for an n type. -/
def standing (t : Ty) (r : BitVec t.bits) : Word := if t.isI then r.signExtend 64 else r.setWidth 64

/-- A w-bit pattern as its type reads it. -/
def reads (t : Ty) (r : BitVec t.bits) : Int := if t.isI then r.toInt else (r.toNat : Int)

/-- The bounds of an integer type. -/
def lowest (t : Ty) : Int := if t.isI then -2 ^ (t.bits - 1) else 0
def highest (t : Ty) : Int := if t.isI then 2 ^ (t.bits - 1) - 1 else 2 ^ t.bits - 1

/-- R51, R66: an exact result wraps, or saturates to the type's range. -/
def narrow (t : Ty) (cl : Clamp) (r : Int) : BitVec t.bits :=
  BitVec.ofInt t.bits (if cl = .sat then max (lowest t) (min (highest t) r) else r)

/-- R67. -/
def quotient (t : Ty) (a b : BitVec t.bits) : BitVec t.bits :=
  if b = 0 then BitVec.allOnes t.bits else if t.isI then a.sdiv b else a / b

/-- R67. -/
def remainder (t : Ty) (a b : BitVec t.bits) : BitVec t.bits :=
  if b = 0 then a else if t.isI then a.srem b else a % b

/-- Bits [2w−1:w] of the exact product (R66). -/
def highProduct (t : Ty) (a b : BitVec t.bits) : BitVec t.bits :=
  BitVec.ofInt t.bits (reads t a * reads t b / 2 ^ t.bits)

/-- The result of a format 00 integer instruction of two sources stands in its destination. -/
def Gives2 (mk : RegForm → Instr) (f : (t : Ty) → Clamp → BitVec t.bits → BitVec t.bits → BitVec t.bits) : Prop :=
  ∀ (x : RegForm) (s : State), x.t.isInt = true → s.cur.guardOk x.g = true →
    Completes (mk x) s fun t => WroteS s t x.dst.num5
      (standing x.t (f x.t x.clamp (srcBits s.cur x.t x.m1 x.s1) (srcBits s.cur x.t x.m2 x.s2)))

/-- The result of a format 01 integer instruction stands in its destination. -/
def GivesImm (mk : ImmForm → Instr) (f : (t : Ty) → BitVec t.bits → BitVec t.bits → BitVec t.bits) : Prop :=
  ∀ (x : ImmForm) (s : State), x.t.isInt = true → s.cur.guardOk x.g = true →
    Completes (mk x) s fun t => WroteS s t x.dst.num5
      (standing x.t (f x.t ((s.cur.sreg x.src.num5).setWidth x.t.bits) ((x.imm.signExtend 64).setWidth x.t.bits)))

/-! ### Instructions by shape -/

/-- Instructions that bit 0 of their guard decides for the thread as a whole (R49): format 00 but for the vector and
predicate instructions whose guard acts per element, format 01, format 10 but for the vector loads and stores,
`SMNOISE` and `GMASK`, and format 11 but for `NEXT`, which has no guard, and `XINV`, whose privilege comes first. -/
def scalarTested (i : Instr) : Bool :=
  match i.code with
  | some (.reg op _) => op < 0x100 || op == 0x1C1 || op == 0x1C2
  | some (.imm _ _) => true
  | some (.mem op _) => !(0x003 ≤ op && op ≤ 0x008) && op != 0x18B && op != 0x190
  | some (.ctl op _) => op != 0x000 && op != 0x03F
  | none => false

/-- The guard of an instruction word. -/
def guardOf (i : Instr) : Option Guard :=
  match i.code with
  | some (.reg _ x) => some x.g
  | some (.imm _ x) => some x.g
  | some (.mem _ x) => some x.g
  | some (.ctl _ x) => some x.g
  | none => none

/-- No live engine job of the issuing thread holds a range of its memories (R181). -/
def Unheld (s : State) : Prop := ∀ r, s.spanHeld r = false

/-- Every vector register the word names is allocated (R42, R57 step 4). -/
def Allocated (c : Code) (s : State) : Prop := badVreg c s.cur.vregs = none

/-- Every stream operand of the word stands at an address aligned to 8 with room for a group of four (R52). -/
def StreamsFit (x : RegForm) (s : State) : Prop :=
  ∀ o ∈ [x.dst, x.s1, x.s2, x.s3], Opnd.isStream o = true →
    s.cur.qaddr (Opnd.q o) % 8 = 0 ∧ s.cur.qaddr (Opnd.q o) + 256 ≤ s.cur.tcmLimit

/-! ### Floating point (R76 to R81, R100 to R108) -/

/-- The fields of the six formats (R100). -/
def mantBits (t : Ty) : Nat :=
  match t with
  | .bf16 => 7 | .fp16 => 10 | .e4m3 => 3 | .e5m2 => 2 | .e2m1 => 1 | _ => 23
def expBits (t : Ty) : Nat := t.bits - 1 - mantBits t
def biasOf (t : Ty) : Int := 2 ^ (expBits t - 1) - 1
def expField (t : Ty) (r : BitVec t.bits) : Nat := r.toNat / 2 ^ mantBits t % 2 ^ expBits t
def fraction (t : Ty) (r : BitVec t.bits) : Nat := r.toNat % 2 ^ mantBits t
def magnitude (t : Ty) (r : BitVec t.bits) : Nat := r.toNat % 2 ^ (t.bits - 1)

/-- The magnitude of the largest finite code: below the reserved exponent, but e4m3 reserves one magnitude and e2m1
none. -/
def topCode (t : Ty) : Nat :=
  if t = .e4m3 then 0x7E else if t = .e2m1 then 0x7 else (2 ^ expBits t - 1) * 2 ^ mantBits t - 1
def special (t : Ty) (r : BitVec t.bits) : Bool := topCode t < magnitude t r
def isNaN (t : Ty) (r : BitVec t.bits) : Bool := special t r && (t == .e4m3 || fraction t r ≠ 0)
def isSignalling (t : Ty) (r : BitVec t.bits) : Bool := t.isF && isNaN t r && !r.getLsbD (mantBits t - 1)
def isInfinite (t : Ty) (r : BitVec t.bits) : Bool := special t r && !isNaN t r
def isZero (t : Ty) (r : BitVec t.bits) : Bool := magnitude t r = 0

/-- The number a finite code stands for. -/
def number (t : Ty) (r : BitVec t.bits) : Rat :=
  (if r.msb then -1 else 1) * ((if expField t r = 0 then 0 else 2 ^ mantBits t) + fraction t r : Nat)
    * 2 ^ (max 1 (expField t r : Int) - biasOf t - mantBits t)

/-- A code's place in the order of R78, which puts −0 just below +0. -/
def place (t : Ty) (r : BitVec t.bits) : Int :=
  if r.msb then -(magnitude t r : Int) - 1 else magnitude t r

/-- The canonical NaN (R76, R108); +0 in e2m1, which has none. -/
def canonical (t : Ty) : BitVec t.bits :=
  BitVec.ofNat t.bits (match t with
    | .bf16 => 0x7FC0 | .fp16 => 0x7E00 | .e4m3 => 0x7F | .e5m2 => 0x7E | .e2m1 => 0 | _ => 0x7FC00000)

/-- ±∞ and ±0. -/
def infinity (t : Ty) (neg : Bool) : BitVec t.bits :=
  BitVec.ofNat t.bits ((2 ^ expBits t - 1) * 2 ^ mantBits t + neg.toNat * 2 ^ (t.bits - 1))
def zeroOf (t : Ty) (neg : Bool) : BitVec t.bits := BitVec.ofNat t.bits (neg.toNat * 2 ^ (t.bits - 1))

/-- A float code with its modifiers (R50): the sign cleared, then flipped. -/
def floatMod (t : Ty) (m : SrcMod) (r : BitVec t.bits) : BitVec t.bits :=
  let sign := zeroOf t true
  let y := if m.abs then r &&& ~~~ sign else r
  if m.neg then y ^^^ sign else y

/-- A scalar float source: the low w bits of its register, modified. -/
def floatSrc (h : Thread) (t : Ty) (m : SrcMod) (o : Opnd) : BitVec t.bits :=
  floatMod t m ((h.sreg o.num5).setWidth t.bits)

/-- The largest finite code, of either sign (R100). -/
def largest (t : Ty) (neg : Bool) : BitVec t.bits :=
  BitVec.ofNat t.bits (topCode t + neg.toNat * 2 ^ (t.bits - 1))

/-- Does a rounding mode go toward the sign of a value (R107): up for a positive one, down for a negative one? -/
def towardSign (mode : Nat) (e : Rat) : Bool := (mode == 2 && decide (e < 0)) || (mode == 3 && decide (0 < e))

/-- R107: the rounded magnitude exceeds the largest finite value: to nearest, from the tie beyond it on, which goes to
an even count but for e4m3, whose largest code is even; toward the sign, above it; else, from the next grid point
on. -/
def overflows (t : Ty) (mode : Nat) (e : Rat) : Prop :=
  let big := number t (largest t false)
  let step : Rat := 2 ^ ((topCode t / 2 ^ mantBits t : Nat) - biasOf t - mantBits t)
  if mode = 0 then (if t = .e4m3 then big + step / 2 < |e| else big + step / 2 ≤ |e|)
  else if towardSign mode e = true then big < |e| else big + step ≤ |e|

/-- R111: a nonzero value that, rounded with an unbounded range of exponents, lies below the smallest normal. -/
def tiny (t : Ty) (mode : Nat) (e : Rat) : Prop :=
  let least : Rat := 2 ^ (1 - biasOf t)
  let step : Rat := least / 2 ^ (mantBits t + 1)
  e ≠ 0 ∧ if mode = 0 then |e| < least - step / 2
    else if towardSign mode e = true then |e| ≤ least - step else |e| < least

/-- What a value that overflows becomes (R107): ∞, or e4m3's NaN, to nearest or toward its sign, else the largest
finite value; under a saturating clamp, and in e2m1, always that. -/
def overflowed (t : Ty) (mode : Nat) (sat : Bool) (e : Rat) : BitVec t.bits :=
  let neg := decide (e < 0)
  if sat = true ∨ t = .e2m1 ∨ ¬(mode = 0 ∨ towardSign mode e = true) then largest t neg
  else if t = .e4m3 then canonical t else infinity t neg

/-- What R51, R76, R84, R106, R107 and R111 ask of one rounding of an exact number, by %rmode[1:0], under a saturating
clamp or none, and with exactly the flags it raises: to nearest, ties to even; toward zero; down; up. -/
structure RoundedBy (sat : Bool) (t : Ty) (mode : Nat) (e : Rat) (r : BitVec t.bits) (f : Flags) : Prop where
  beyond : overflows t mode e → r = overflowed t mode sat e ∧ f = Fl.of ||| Fl.nx
  finite : ¬overflows t mode e → special t r = false
  nearest : ¬overflows t mode e → mode = 0 → ∀ c : BitVec t.bits, special t c = false →
    |number t r - e| ≤ |number t c - e| ∧
      (|number t r - e| = |number t c - e| → number t c ≠ number t r → r.getLsbD 0 = false)
  zero : ¬overflows t mode e → mode = 1 → |number t r| ≤ |e| ∧ 0 ≤ number t r * e ∧
    ∀ c : BitVec t.bits, special t c = false → 0 ≤ number t c * e → |number t c| ≤ |e| → |number t c| ≤ |number t r|
  down : ¬overflows t mode e → mode = 2 →
    number t r ≤ e ∧ ∀ c : BitVec t.bits, special t c = false → number t c ≤ e → number t c ≤ number t r
  up : ¬overflows t mode e → mode = 3 →
    e ≤ number t r ∧ ∀ c : BitVec t.bits, special t c = false → e ≤ number t c → number t r ≤ number t c
  exact : ¬overflows t mode e → number t r = e → f = 0
  inexact : ¬overflows t mode e → number t r ≠ e → (tiny t mode e → f = Fl.uf ||| Fl.nx) ∧ (¬tiny t mode e → f = Fl.nx)
  sign : e ≠ 0 → t ≠ .e4m3 ∨ ¬overflows t mode e → r.msb = decide (e < 0)

/-- The same without a clamp. -/
def Rounded (t : Ty) (mode : Nat) (e : Rat) (r : BitVec t.bits) (f : Flags) : Prop := RoundedBy false t mode e r f

/-- R51: a clamp on a value already rounded, saturation being part of the rounding: an interval bounds it, and takes a NaN
to +0, and so a −0 in [0, 1]. -/
structure Clamped (t : Ty) (cl : Clamp) (v r : BitVec t.bits) : Prop where
  same : cl = .none ∨ cl = .sat → r = v
  nan : cl = .c01 ∨ cl = .c11 → isNaN t v = true → r = 0
  unit : cl = .c01 → isNaN t v = false → special t r = false ∧ r.msb = false ∧
    number t r = if isInfinite t v = true then (if v.msb then 0 else 1) else max 0 (min 1 (number t v))
  both : cl = .c11 → isNaN t v = false → special t r = false ∧ r.msb = v.msb ∧
    number t r = if isInfinite t v = true then (if v.msb then -1 else 1) else max (-1) (min 1 (number t v))

/-- R51: an exact result scaled by SCALE, rounded once and clamped. -/
def Finishes (x : RegForm) (mode : Nat) (e : Rat) (r : BitVec x.t.bits) (f : Flags) : Prop :=
  ∃ v, RoundedBy (x.clamp == .sat) x.t mode (e * 2 ^ x.scale.toInt) v f ∧ Clamped x.t x.clamp v r

/-- A result that no rounding makes, clamped: the canonical NaN; an infinity, or under saturation the largest finite
value; a zero. -/
def GivesNaN (t : Ty) (cl : Clamp) (r : BitVec t.bits) : Prop := Clamped t cl (canonical t) r
def GivesInf (t : Ty) (cl : Clamp) (neg : Bool) (r : BitVec t.bits) : Prop :=
  Clamped t cl (if cl = .sat then largest t neg else infinity t neg) r
def GivesZero (t : Ty) (cl : Clamp) (neg : Bool) (r : BitVec t.bits) : Prop := Clamped t cl (zeroOf t neg) r

/-- The flag that signalling NaNs among operands raise (R76). -/
def signals (t : Ty) (vs : List (BitVec t.bits)) : Flags := if vs.any (isSignalling t) = true then Fl.nv else 0

/-- R76, R77: what a + b is but for its rounding: NaNs, infinities, the sign of a zero. -/
structure SumSpecials (t : Ty) (cl : Clamp) (mode : Nat) (a b r : BitVec t.bits) (f : Flags) : Prop where
  nan : isNaN t a = true ∨ isNaN t b = true → GivesNaN t cl r ∧ f = signals t [a, b]
  clash : isInfinite t a = true → isInfinite t b = true → a.msb ≠ b.msb → GivesNaN t cl r ∧ f = Fl.nv
  infLeft : isInfinite t a = true → special t b = false ∨ isInfinite t b = true ∧ a.msb = b.msb →
    GivesInf t cl a.msb r ∧ f = 0
  infRight : special t a = false → isInfinite t b = true → GivesInf t cl b.msb r ∧ f = 0
  zero : special t a = false → special t b = false → number t a + number t b = 0 → GivesZero t cl
    (if isZero t a = true ∧ isZero t b = true ∧ a.msb = b.msb then a.msb else mode == 2) r ∧ f = 0

/-- Zero times infinity. -/
def zeroTimesInf (t : Ty) (a b : BitVec t.bits) : Prop :=
  (isZero t a = true ∧ isInfinite t b = true) ∨ (isInfinite t a = true ∧ isZero t b = true)

/-- Infinity times infinity or a finite number that is not zero. -/
def infProduct (t : Ty) (a b : BitVec t.bits) : Prop :=
  (isInfinite t a = true ∨ isInfinite t b = true) ∧ isNaN t a = false ∧ isNaN t b = false ∧
    isZero t a = false ∧ isZero t b = false

/-- R76, R77: what a × b is but for its rounding. -/
structure ProductSpecials (t : Ty) (cl : Clamp) (a b r : BitVec t.bits) (f : Flags) : Prop where
  nan : isNaN t a = true ∨ isNaN t b = true → GivesNaN t cl r ∧ f = signals t [a, b]
  zeroInf : zeroTimesInf t a b → GivesNaN t cl r ∧ f = Fl.nv
  infinite : infProduct t a b → GivesInf t cl (a.msb != b.msb) r ∧ f = 0
  zero : special t a = false → special t b = false → isZero t a = true ∨ isZero t b = true →
    GivesZero t cl (a.msb != b.msb) r ∧ f = 0

/-- R76, R77: what a × b + c is but for its rounding. -/
structure FusedSpecials (t : Ty) (cl : Clamp) (mode : Nat) (a b c r : BitVec t.bits) (f : Flags) : Prop where
  zeroInf : zeroTimesInf t a b → GivesNaN t cl r ∧ f = Fl.nv
  nan : ¬zeroTimesInf t a b → isNaN t a = true ∨ isNaN t b = true ∨ isNaN t c = true →
    GivesNaN t cl r ∧ f = signals t [a, b, c]
  clash : infProduct t a b → isInfinite t c = true → c.msb ≠ (a.msb != b.msb) → GivesNaN t cl r ∧ f = Fl.nv
  product : infProduct t a b → special t c = false ∨ isInfinite t c = true ∧ c.msb = (a.msb != b.msb) →
    GivesInf t cl (a.msb != b.msb) r ∧ f = 0
  addend : special t a = false → special t b = false → isInfinite t c = true → GivesInf t cl c.msb r ∧ f = 0
  zero : special t a = false → special t b = false → special t c = false →
    number t a * number t b + number t c = 0 → GivesZero t cl
      (if (isZero t a = true ∨ isZero t b = true) ∧ isZero t c = true ∧ c.msb = (a.msb != b.msb)
        then c.msb else mode == 2) r ∧ f = 0

/-- R78: the larger or the smaller of two values, the other of a NaN, and the flag of a signalling one. -/
def Extreme (t : Ty) (larger : Bool) (a b r : BitVec t.bits) (f : Flags) : Prop :=
  let best := if larger then place t a < place t b else place t b < place t a
  f = signals t [a, b] ∧ r = if isNaN t a = true ∧ isNaN t b = true then canonical t else if isNaN t a = true then b
    else if isNaN t b = true then a else if best then b else a

/-- A number rounded to an integer by a mode of R84: to nearest, ties to even; toward zero; down; up. -/
def RoundsTo (mode : Nat) (q : Rat) (n : Int) : Prop :=
  (mode = 0 → |(n : Rat) - q| ≤ 1 / 2 ∧ (|(n : Rat) - q| = 1 / 2 → n % 2 = 0)) ∧
    (mode = 1 → n = if q < 0 then ⌈q⌉ else ⌊q⌋) ∧ (mode = 2 → n = ⌊q⌋) ∧ (mode = 3 → n = ⌈q⌉)

/-- What R80 asks of a float value on its way to an integer type: it is rounded, and outside the range the nearest
limit. -/
structure ToInteger (d u : Ty) (mode : Nat) (a : BitVec u.bits) (r : BitVec d.bits) (f : Flags) : Prop where
  nan : isNaN u a = true → r = 0 ∧ f = Fl.nv
  infinite : isInfinite u a = true → reads d r = (if a.msb then lowest d else highest d) ∧ f = Fl.nv
  finite : special u a = false → ∃ n : Int, RoundsTo mode (number u a) n ∧
    (n < lowest d → reads d r = lowest d ∧ f = Fl.nv) ∧ (highest d < n → reads d r = highest d ∧ f = Fl.nv) ∧
    (lowest d ≤ n → n ≤ highest d → reads d r = n ∧ f = if (n : Rat) = number u a then 0 else Fl.nx)

/-- What R106 and R108 ask of a conversion of a float to a float format, with SCALE before it, under a saturating clamp
or none, rounded otherwise than stochastically. -/
structure ToFloat (sat : Bool) (d u : Ty) (mode : Nat) (scale : Int) (a : BitVec u.bits) (r : BitVec d.bits) (f : Flags) :
    Prop where
  nan : isNaN u a = true → r = canonical d ∧ f = if isSignalling u a = true ∨ d = .e2m1 then Fl.nv else 0
  infinite : isInfinite u a = true →
    (r = if sat = true ∨ d = .e2m1 then largest d a.msb else if d = .e4m3 then canonical d else infinity d a.msb) ∧
    f = if d = .e2m1 ∨ d = .e4m3 ∧ sat = false then Fl.nv else 0
  finite : special u a = false → RoundedBy sat d mode (number u a * 2 ^ scale) r f
  zero : isZero u a = true → r = zeroOf d a.msb

/-- An integer element with its modifiers. -/
def intMod (t : Ty) (m : SrcMod) (r : BitVec t.bits) : BitVec t.bits :=
  let y := if m.abs then r.abs else r
  if m.neg then -y else y

/-- The relation of R71 on two values, by its code. -/
def relation (code : Nat) (a b : Int) : Bool :=
  if code = 0 then a = b else if code = 1 then a ≠ b else if code = 2 then a < b
  else if code = 3 then a ≤ b else if code = 4 then b < a else b ≤ a

/-- What R76, R77 and R111 ask of one float addition: NaNs, infinities, one rounding, the sign of a zero sum. -/
structure AddsTo (t : Ty) (mode : Nat) (a b r : BitVec t.bits) (f : Flags) : Prop extends
    SumSpecials t .none mode a b r f where
  finite : special t a = false → special t b = false → Rounded t mode (number t a + number t b) r f

/-- The pairwise tree of R117 over 2^k elements: its result and the flags of every addition. -/
def TreeSum (t : Ty) (mode : Nat) : Nat → (Nat → BitVec t.bits) → BitVec t.bits → Flags → Prop
  | 0, e, r, f => r = e 0 ∧ f = 0
  | k + 1, e, r, f => ∃ (e' : Nat → BitVec t.bits) (g : Nat → Flags) (f' : Flags),
    (∀ i, i < 2 ^ k → AddsTo t mode (e (2 * i)) (e (2 * i + 1)) (e' i) (g i)) ∧ TreeSum t mode k e' r f' ∧
      f = ((List.range (2 ^ k)).map g).foldl (· ||| ·) f'

/-- R142: the largest or smallest of integers at some places; `least` where there is none. -/
def BestInt (t : Ty) (places : List Nat) (e : Nat → BitVec t.bits) (least : Int) (better : Int → Int → Prop)
    (r : BitVec t.bits) : Prop :=
  (places = [] → r = BitVec.ofInt t.bits least) ∧
    (places ≠ [] → ∃ i ∈ places, r = e i ∧ ∀ j ∈ places, better (reads t (e j)) (reads t (e i)))

/-- R142: the largest or smallest of floats at some places, without the NaNs; `none` where there is no place; and the
flag of a signalling one. -/
def BestFloat (t : Ty) (places : List Nat) (e : Nat → BitVec t.bits) (none : BitVec t.bits) (better : Int → Int → Prop)
    (r : BitVec t.bits) (f : Flags) : Prop :=
  let numbers := places.filter fun i => !isNaN t (e i)
  f = signals t (places.map e) ∧ (places = [] → r = none) ∧ (places ≠ [] → numbers = [] → r = canonical t) ∧
    (numbers ≠ [] → ∃ i ∈ numbers, r = e i ∧ ∀ j ∈ numbers, better (place t (e j)) (place t (e i)))

/-- R260: what a round makes of one element of n ranks: a sum by R117's tree, integers wrapping, or the largest or
smallest. -/
def Combines (t : Ty) (op n : Nat) (e : Nat → BitVec t.bits) (r : BitVec t.bits) : Prop :=
  let ranks := List.range n
  if t.isInt = true then
    if op = 1 then BestInt t ranks e (lowest t) (· ≤ ·) r
    else if op = 2 then BestInt t ranks e (highest t) (· ≥ ·) r
    else r = BitVec.ofInt t.bits ((ranks.map fun i => reads t (e i)).sum)
  else ∃ f, if op = 1 then BestFloat t ranks e (infinity t true) (· ≤ ·) r f
    else if op = 2 then BestFloat t ranks e (infinity t false) (· ≥ ·) r f
    else ∃ k, n ≤ 2 ^ k ∧ (∀ m, n ≤ 2 ^ m → k ≤ m) ∧
      TreeSum t 0 k (fun i => if i < n then e i else zeroOf t true) r f

/-- R260: element m at rank k's destination, of ranks whose sources are x. -/
def RoundGives (t : Ty) (op count n : Nat) (x : Nat → Nat → BitVec t.bits) (k m : Nat) (r : BitVec t.bits) : Prop :=
  if op = 3 then r = x (m / count) (m % count)
  else if op = 4 then Combines t 0 n (fun q => x q (k * count + m)) r
  else if op = 5 then r = x 0 m
  else Combines t op n (fun q => x q m) r

/-- The relation of R79 on two float values and the flag it raises. -/
def floatRelation (t : Ty) (code : Nat) (a b : BitVec t.bits) : Bool × Flags :=
  let value (r : BitVec t.bits) : Int := if r.msb then -(magnitude t r : Int) else magnitude t r
  if isNaN t a = true ∨ isNaN t b = true then
    (code == 1 || code == 6, if 2 ≤ code ∧ code ≤ 5 ∨ isSignalling t a = true ∨ isSignalling t b = true then Fl.nv else 0)
  else (code != 6 && relation code (value a) (value b), 0)

/-- What R80, R106 and R136 to R138 ask of one element of a conversion from type u, its modifier applied: under a
stochastic down-conversion (R109) the result is one of the two neighbours. -/
structure Converts (x : RegForm) (u : Ty) (h : Thread) (a : BitVec u.bits) (r : BitVec x.t.bits) (f : Flags) : Prop where
  floats : x.t.isFloat = true → u.isFloat = true → (h.rmode.getLsbD 2 = false ∨ (widenGroup x.t u).isSome = true) →
    ∃ v, ToFloat (x.clamp == .sat) x.t u (h.rmode.toNat % 4) x.scale.toInt (floatMod u x.m1 a) v f ∧
      Clamped x.t x.clamp v r
  stochastic : x.t.isFloat = true → u.isFloat = true → h.rmode.getLsbD 2 = true →
    special u (floatMod u x.m1 a) = false → ∃ m ∈ [2, 3], ∃ f', Finishes x m (number u (floatMod u x.m1 a)) r f'
  fromInt : x.t.isFloat = true → u.isInt = true → Finishes x (h.rmode.toNat % 4) (reads u (intMod u x.m1 a)) r f
  toInt : x.t.isInt = true → u.isFloat = true → ToInteger x.t u (h.rmode.toNat % 4) (floatMod u x.m1 a) r f
  ints : x.t.isInt = true → u.isInt = true → r = narrow x.t x.clamp (reads u (intMod u x.m1 a)) ∧ f = 0

/-- A format 00 float instruction writes an image of its sources. -/
def GivesFloat (mk : RegForm → Instr) (x : RegForm) (s : State)
    (p : BitVec x.t.bits → Flags → Prop) : Prop :=
  Completes (mk x) s fun t => ∃ (r : BitVec x.t.bits) (f : Flags), WroteSF s t x.dst.num5 (r.setWidth 64) f ∧ p r f

/-! ### Vector elements (R41, R123, R124) -/

/-- Element i of a register at a type. -/
def lane (t : Ty) (v : VWord) (i : Nat) : BitVec t.bits := v.extractLsb' (i * t.bits) t.bits

/-- How many elements a register holds. -/
def laneCount (t : Ty) : Nat := 512 / t.bits

/-- Is element i active, when the narrowest operand has elements of w bits (R49)? -/
def active (h : Thread) (g : Guard) (w i : Nat) : Bool := (h.preg g.p).getLsbD (i * w / 8) != g.inv

/-- How many active elements stand below element i (R141). -/
def rank (h : Thread) (g : Guard) (t : Ty) (i : Nat) : Nat :=
  ((List.range i).filter fun j => active h g t.bits j).length

/-- Register k of a vector operand (R44, R52): of a group of registers, or of the bytes its stream points to by the
pointers of h. -/
def rowAt (s : State) (h : Thread) (o : Opnd) (k : Nat) : VWord :=
  match o with
  | .reg n => s.cur.vreg (n + BitVec.ofNat 5 k)
  | .inc q => BitVec.ofNat 512 (leVal (s.chip .tcm (h.qaddr q + 64 * k) 64))
  | .str q => BitVec.ofNat 512 (leVal (s.chip .tcm (h.qaddr q + 64 * k) 64))

/-- R53: a pointer after a post-increment: its low half moves by the signed 16-bit stride. -/
def stepped (v : Word) : Word :=
  v.extractLsb' 32 32 ++ (v.extractLsb' 0 32 + (v.extractLsb' 32 16).signExtend 32)

/-- The stream pointers after an instruction: each post-incremented one has stepped once. -/
def Pointers (x : RegForm) (s t : State) : Prop :=
  ∀ n, t.cur.qreg n = if n ∈ x.incs then stepped (s.cur.qreg n) else s.cur.qreg n

/-- The stream pointers put back, to say what else an instruction changed. -/
def samePointers (s t : State) : State := { t with cur := { t.cur with q := s.cur.q } }

/-- A vector instruction that can run on every element: its registers are allocated, its streams lie in TCM at
multiples of 8 with room for a group of four and step at most once each, and no live job holds a range. -/
structure VecReady (op : Nat) (x : RegForm) (s : State) : Prop where
  alloc : Allocated (.reg op x) s
  fit : StreamsFit x s
  once : x.incs.Nodup
  free : Unheld s
  home : ∃ c, s.ctx? s.curCtx = some c

/-- R299: the noise used for a word, the exact value being what `gumbel` computes to units of 2^−128: within two units in
the last place of it, or 2^−22, and cut to [−3.14, 22.88]. -/
def NoiseUsed (w : Nat) (g : Rat) : Prop :=
  ∃ e : Rat, |e - (gumbel w : Rat) / 2 ^ 128| ≤ (gumbelBound (gumbel w) : Rat) / 2 ^ 128 ∧ -314 / 100 ≤ g ∧ g ≤ 2288 / 100 ∧
    g = max (-((314 * 2 ^ 128 / 100 : Nat) : Rat) / 2 ^ 128) (min (((2288 * 2 ^ 128 / 100 : Nat) : Rat) / 2 ^ 128) e)

/-- The error marks that n bytes written from lo on leave: a line written whole has none any more (R194). -/
def mended (lo n : Nat) (ls : List Nat) : List Nat := ls.filter fun l => !(lo ≤ l * 64 && l * 64 + 64 ≤ lo + n)

/-- Does a vector instruction write byte b of its destination's registers: a byte of an active element; of `VCOMPRESS`,
of the first elements, as many as are active; of `VINS`, of its one element (R49, R124, R139 to R141)? -/
def writesByte (op : Nat) (x : RegForm) (s : State) (b : Nat) : Bool :=
  let w := x.t.bits
  let i := 8 * b / w
  if op = 0x1C7 then decide (i < rank s.cur x.g x.t (laneCount x.t))
  else if op = 0x1C2 then
    let j := (s.cur.sreg x.s2.num5).toNat % laneCount x.t
    decide (8 * b < w * (j + 1) ∧ w * j < 8 * (b + 1))
  else if op = 0x185 then active s.cur x.g (x.srcTy.getD .fp32).bits i
  else active s.cur x.g w (i % laneCount x.t)

/-- What a vector instruction with a destination of g registers leaves alone: every scalar and predicate register, the
conditions and parameters, the status registers but the sticky flags, all memory but the bytes of the thread's own TCM
that it writes, with the error marks of the lines written whole, and every other thread's registers. -/
structure VecFrame (op : Nat) (x : RegForm) (g : Nat) (s t : State) : Prop where
  cur : t.cur = { s.cur with
    v := t.cur.v, q := t.cur.q, fflags := t.cur.fflags, rcount := t.cur.rcount, pc := s.cur.pc + 1 }
  flags : t.cur.fflags &&& s.cur.fflags = s.cur.fflags
  pointers : Pointers x s t
  others : ∀ n : BitVec 5, (∀ d i, x.dst = .reg d → i < g → n ≠ d + BitVec.ofNat 5 i) → t.cur.vreg n = s.cur.vreg n
  inRegs : Opnd.isStream x.dst = false → t = { s with cur := t.cur }
  inTcm : Opnd.isStream x.dst = true → ∃ f : Context → Cells,
    let lo := coreKey s.cur.cluster s.cur.core + s.cur.qaddr (Opnd.q x.dst)
    let writes (k : Nat) : Bool := decide (lo ≤ k ∧ k < lo + 64 * g) && writesByte op x s (k - lo)
    t = { s.modCtx s.curCtx (fun c => { c with
        tcm := f c, tcmBad := c.tcmBad.filter fun l => !(List.range 64).all fun i => writes (64 * l + i) }) with
      cur := t.cur } ∧
    ∀ c k, writes k = false → readByte (f c) k = readByte c.tcm k

/-- An integer lane instruction: an active element takes its new value, an inactive one keeps its old one. -/
def GivesLanes (op : Nat) (mk : RegForm → Instr)
    (f : (t : Ty) → Clamp → BitVec t.bits → BitVec t.bits → BitVec t.bits → BitVec t.bits) : Prop :=
  ∀ (x : RegForm) (s : State), VecReady op x s → x.t.isInt = true →
    Completes (mk x) s fun t => VecFrame op x 1 s t ∧ t.cur.fflags = s.cur.fflags ∧ t.cur.rcount = s.cur.rcount ∧
      ∀ i, i < laneCount x.t → lane x.t (rowAt t s.cur x.dst 0) i =
        if active s.cur x.g x.t.bits i = true then
          f x.t x.clamp (intMod x.t x.m1 (lane x.t (rowAt s s.cur x.s1 0) i))
            (intMod x.t x.m2 (lane x.t (rowAt s s.cur x.s2 0) i))
            (intMod x.t x.m3 (lane x.t (rowAt s s.cur x.s3 0) i))
        else lane x.t (rowAt s s.cur x.dst 0) i

/-- The sticky flags after an instruction of n elements: the old ones and those of the active elements (R111). -/
def FlagsOf (s t : State) (act : Nat → Bool) (n : Nat) (f : Nat → Flags) : Prop :=
  t.cur.fflags = ((List.range n).filter act).foldl (fun y i => y ||| f i) s.cur.fflags

/-- As `GivesLanes`, of a float type: p holds of each active element's result, given its sources and the flags that it
adds to the sticky flags. -/
def GivesFloatLanes (op : Nat) (mk : RegForm → Instr) (ok : RegForm → Prop)
    (p : (x : RegForm) → Nat → BitVec x.t.bits → BitVec x.t.bits → BitVec x.t.bits → BitVec x.t.bits → Flags → Prop) :
    Prop :=
  ∀ (x : RegForm) (s : State), VecReady op x s → x.t.isF = true → ok x →
    Completes (mk x) s fun t => VecFrame op x 1 s t ∧ t.cur.rcount = s.cur.rcount ∧
      ∃ f : Nat → Flags, FlagsOf s t (active s.cur x.g x.t.bits) (laneCount x.t) f ∧ ∀ i, i < laneCount x.t →
        (active s.cur x.g x.t.bits i = true →
          p x (s.cur.rmode.toNat % 4) (floatMod x.t x.m1 (lane x.t (rowAt s s.cur x.s1 0) i))
            (floatMod x.t x.m2 (lane x.t (rowAt s s.cur x.s2 0) i)) (floatMod x.t x.m3 (lane x.t (rowAt s s.cur x.s3 0) i))
            (lane x.t (rowAt t s.cur x.dst 0) i) (f i)) ∧
        (active s.cur x.g x.t.bits i = false →
          lane x.t (rowAt t s.cur x.dst 0) i = lane x.t (rowAt s s.cur x.dst 0) i)

/-- A permute (R139 to R141): element i of the destination's g registers, counted through the group, is f of the state
before if its own place is active. -/
def Permutes (op g : Nat) (mk : RegForm → Instr) (f : (x : RegForm) → State → Nat → BitVec x.t.bits) : Prop :=
  ∀ (x : RegForm) (s : State), VecReady op x s → x.t.isM = true →
    Completes (mk x) s fun t => VecFrame op x g s t ∧ t.cur.fflags = s.cur.fflags ∧ t.cur.rcount = s.cur.rcount ∧
      ∀ k i, k < g → i < laneCount x.t → lane x.t (rowAt t s.cur x.dst k) i =
        if active s.cur x.g x.t.bits i = true then f x s (k * laneCount x.t + i)
        else lane x.t (rowAt s s.cur x.dst k) i

/-- Element j of two registers in a row, or zero past them. -/
def ofPair (t : Ty) (va vb : VWord) (j : Nat) : BitVec t.bits :=
  if j < laneCount t then lane t va j else if j < 2 * laneCount t then lane t vb (j - laneCount t) else 0

/-- A predicate's bits that stand for the elements of w bits take new values where the element is active. -/
def predOf (h : Thread) (g : Guard) (w : Nat) (old : Word) (b : Nat → Bool) (j : Nat) : Bool :=
  if active h g w (j * 8 / w) = true then b (j * 8 / w) else old.getLsbD j

/-- A conversion of vectors (R136 to R138): element i of n, governed by elements of w bits, from element `src i` of its
source; it draws for its elements where `draws` says so (R110). -/
def ConvertsLanes (op g w n : Nat) (mk : RegForm → Instr) (x : RegForm) (u : Ty) (draws : Bool) (s : State) : Prop :=
  let from' (i : Nat) := lane u (rowAt s s.cur x.s1 (i / laneCount u)) (i % laneCount u)
  let place (t : State) (i : Nat) := lane x.t (rowAt t s.cur x.dst (i / laneCount x.t)) (i % laneCount x.t)
  VecReady op x s → Completes (mk x) s fun t => VecFrame op x g s t ∧
    (t.cur.rcount = if draws = true ∧ s.cur.rmode.getLsbD 2 = true ∧ x.t.isFloat = true ∧ u.isFloat = true
      then s.cur.rcount + BitVec.ofNat 64 ((n + 3) / 4) else s.cur.rcount) ∧
    ∃ f : Nat → Flags, FlagsOf s t (active s.cur x.g w) n f ∧ ∀ i, i < n →
      (active s.cur x.g w i = true → Converts x u s.cur (from' i) (place t i) (f i)) ∧
      (active s.cur x.g w i = false → place t i = place s i)

/-- A vector instruction that gathers from one register of floats into a scalar register, with its flags. -/
def GathersFloat (op : Nat) (mk : RegForm → Instr)
    (p : (x : RegForm) → Nat → (Nat → Bool) → (Nat → BitVec x.t.bits) → Word → Flags → Prop) : Prop :=
  ∀ (x : RegForm) (s : State), VecReady op x s → x.t.isF = true →
    Completes (mk x) s fun t => ∃ v f, WroteSF s (samePointers s t) x.dst.num5 v f ∧ Pointers x s t ∧
      p x (s.cur.rmode.toNat % 4) (active s.cur x.g x.t.bits)
        (fun i => floatMod x.t x.m1 (lane x.t (rowAt s s.cur x.s1 0) i)) v f

/-- A vector instruction that gathers from one register into a scalar register. -/
def Gathers (op : Nat) (mk : RegForm → Instr) (p : (x : RegForm) → (Nat → Bool) → (Nat → BitVec x.t.bits) → Word → Prop) :
    Prop :=
  ∀ (x : RegForm) (s : State), VecReady op x s → x.t.isInt = true →
    Completes (mk x) s fun t => ∃ v, WroteS s (samePointers s t) x.dst.num5 v ∧ Pointers x s t ∧
      p x (active s.cur x.g x.t.bits) (fun i => intMod x.t x.m1 (lane x.t (rowAt s s.cur x.s1 0) i)) v

/-- The opcodes and constructors of the vector instructions that write vector registers (R126). -/
def vectorWriters : List (Nat × (RegForm → Instr)) :=
  [(0x100, .vadd), (0x101, .vsub), (0x102, .vmul), (0x103, .vfma), (0x104, .vmin), (0x105, .vmax), (0x106, .vdiv),
    (0x107, .vrcp), (0x108, .vrsq), (0x109, .vsqrt), (0x10A, .vmulh), (0x10B, .vand), (0x10C, .vor), (0x10D, .vxor),
    (0x10E, .vshl), (0x10F, .vshr), (0x110, .vsra), (0x111, .vpopc), (0x112, .vclz), (0x114, .vsel), (0x180, .frint),
    (0x181, .fexf), (0x182, .finsx), (0x183, .fgetx), (0x184, .vcvt), (0x185, .vwiden), (0x186, .vnarrow),
    (0x1C0, .vbcast), (0x1C2, .vins), (0x1C3, .vperm), (0x1C4, .vslide), (0x1C5, .vzip), (0x1C6, .vunzip), (0x1C7, .vcompress),
    (0x1C8, .vexpand), (0x1C9, .viota), (0x1CE, .vscan)]

/-- The other vector instructions: compares, reductions and the move of one element out. -/
def vectorReaders : List (Nat × (RegForm → Instr)) :=
  [(0x113, .vcmp), (0x1C1, .vext), (0x1CA, .vredadd), (0x1CB, .vredmax), (0x1CC, .vredmin),
    (0x1CD, .vargmax)]

/-- A stream operand: its pointer, the registers it stands for, the bytes of its elements, and is it the
destination? -/
structure StreamAt where
  q : BitVec 3
  regs : Nat
  size : Nat
  dst : Bool

/-- The registers that a position of a vector instruction stands for; 0 where it takes no vector. -/
def regsAt (op : Nat) (x : RegForm) (p : Pos) : Nat :=
  match p with
  | .v => 1
  | .grp 0 => x.wide op
  | .grp g => g
  | _ => 0

/-- The source type of a vector instruction. -/
def sourceTy (op : Nat) (x : RegForm) : Ty :=
  if op = 0x184 ∨ op = 0x185 ∨ op = 0x186 then x.srcTy.getD .fp32 else x.t

/-- The stream operands of a vector instruction in order: destination, then sources (R52). -/
def streamsOf (op : Nat) (x : RegForm) : List StreamAt :=
  let sp := regSpec op
  let src := max 1 ((sourceTy op x).bits / 8)
  ([(x.dst, sp.dst, max 1 (x.t.bits / 8), true), (x.s1, sp.s1, src, false), (x.s2, sp.s2, src, false),
    (x.s3, sp.s3, src, false)].filter fun y => Opnd.isStream y.1 && regsAt op x y.2.1 != 0).map fun y =>
      ⟨Opnd.q y.1, regsAt op x y.2.1, y.2.2.1, y.2.2.2⟩

/-- Does a vector instruction act: has it an active element, or, where bit 0 of the guard decides for the thread, does
that hold (R49, R124)? -/
def acts (op : Nat) (x : RegForm) (s : State) : Prop :=
  if op = 0x1C1 ∨ op = 0x1C2 then s.cur.guardOk x.g = true
  else
    let t := if op = 0x185 then sourceTy op x else x.t
    ∃ i, i < laneCount t ∧ active s.cur x.g t.bits i = true

/-! ### Memory (R170, R176, R177, R181, R194) -/

/-- The bytes and the empty words of an on-chip memory of a context. -/
def chipCells (spc : Space) (c : Context) : Cells := if spc = .tcm then c.tcm else c.sp
def chipEmpties (spc : Space) (c : Context) : List Nat := if spc = .tcm then c.tcmEmpty else c.spEmpty

/-- Where byte a of an on-chip memory stands, for the issuing thread's core or cluster. -/
def placeOf (s : State) (spc : Space) (a : Nat) : Nat := chipKey spc s.cur.cluster s.cur.core a

/-- Bytes were stored on chip from a on, and no other byte of the machine changed; the issuing thread's registers and
the error marks of the lines written whole aside, nothing else did. -/
structure ChipStore (s t : State) (spc : Space) (a : Nat) (bs : List Byte) : Prop where
  bytes : t.chip spc a bs.length = bs
  rest : ∃ f : Context → Cells,
    let lo := placeOf s spc a
    t = { s.modCtx s.curCtx (fun c => if spc = .tcm
        then { c with tcm := f c, tcmBad := mended lo bs.length c.tcmBad }
        else { c with sp := f c, spBad := mended lo bs.length c.spBad }) with cur := t.cur } ∧
    ∀ c k, k < placeOf s spc a ∨ placeOf s spc a + bs.length ≤ k → readByte (f c) k = readByte (chipCells spc c) k

/-- The full bits of n words from a on took one value, and those of every other word stayed. -/
structure FullBits (s t : State) (spc : Space) (a n : Nat) (full : Bool) : Prop where
  rest : ∃ g : Context → List Nat,
    t = { s.modCtx s.curCtx (fun c => if spc = .tcm then { c with tcmEmpty := g c } else { c with spEmpty := g c })
      with cur := t.cur } ∧
    ∀ c, (∀ i, i < n → (placeOf s spc (a + 4 * i) ∈ g c ↔ full = false)) ∧
      ∀ k, k < placeOf s spc a ∨ placeOf s spc a + 4 * n ≤ k → (k ∈ g c ↔ k ∈ chipEmpties spc c)

/-- An access of n bytes that an on-chip memory takes: a thread of a task, or engine firmware on its local memory. -/
structure OnChip (x : MemForm) (n : Nat) (s : State) : Prop where
  guard : s.cur.guardOk x.g = true
  space : isChip x.space = true
  thread : s.cur.role = none ∨ x.space = .tcm
  home : ∃ c, s.ctx? s.curCtx = some c
  aligned : s.cur.ea x % n = 0
  inside : s.cur.ea x + n ≤ s.cur.limit x.space
  free : Unheld s

/-- No line that an on-chip access of n bytes needs has an uncorrectable error (R194 step 5). -/
def Sound (s : State) (x : MemForm) (u : Use) (n : Nat) : Prop := s.chipBad x.space u (s.cur.ea x) n = none

/-- A windowed access of n bytes that passes every check of R194, in a task whose soft edges none can meet. -/
structure InWindow (x : MemForm) (u : Use) (n : Nat) (tk : Task) (s : State) : Prop where
  guard : s.cur.guardOk x.g = true
  space : isChip x.space = false
  thread : s.cur.role = none
  task : s.task? s.cur.id.taskId = some tk
  passes : s.eltStop u x.space n ⟨0, s.cur.ea x, n⟩ = none
  free : Unheld s
  settled : ∀ c, s.ctx? s.curCtx = some c → ∀ e ∈ c.edges, e.src = s.cur.id.task → e.hard = true

/-- The bytes a task sees from a on (R170, R177): its own stores on this cluster, but for bytes under an A window, and
home memory, reached by the right to read or, to change them, to write (R228). -/
def Sees (s : State) (acc : Acc) (tk : Task) (a : Nat) (bs : List Byte) : Prop :=
  ∀ i, i < bs.length → bs[i]? =
    if tk.inA (a + i) = false ∧ (findAt (tk.buffer s.cur.cluster) (a + i)).isSome = true
    then findAt (tk.buffer s.cur.cluster) (a + i)
    else (s.homeReadFor acc s.curCtx s.cur.cluster a bs.length)[i]?

/-- Home memory as a windowed access that stores nothing at home leaves it: every byte stays. -/
def HomeSame (s t : State) : Prop := t.mem = s.mem ∧ t.hostMem = s.hostMem ∧ t.lineKeys = s.lineKeys

/-- Bytes went into a task's buffer on a cluster and nowhere else; home memory stays (R170). -/
structure BufferedFor (s t : State) (id : TaskId) (cluster : Nat) (tk : Task) (a : Nat) (bs : List Byte) : Prop where
  home : HomeSame s t
  task : ∃ b, t.task? id = some { tk with
      buffers := b
      badLog := tk.badLog.filter fun e =>
        !(e.1 == cluster && decide (a ≤ e.2 * 64) && decide (e.2 * 64 + 64 ≤ a + bs.length)) } ∧
    ∀ cl k, findAt (getAt [] b cl) k =
      if cl = cluster ∧ a ≤ k ∧ k < a + bs.length then bs[k - a]? else findAt (tk.buffer cl) k

/-- The same of the issuing thread. -/
def Buffered (s t : State) (tk : Task) (a : Nat) (bs : List Byte) : Prop :=
  BufferedFor s t s.cur.id.taskId s.cur.cluster tk a bs

/-- Bytes went to physical memory from pa on and nowhere else (R177). -/
structure HomeStored (s t : State) (pa : Nat) (bs : List Byte) : Prop where
  bytes : ∀ k, readByte t.mem k = if pa ≤ k ∧ k < pa + bs.length then bs.getD (k - pa) 0 else readByte s.mem k
  host : t.hostMem = s.hostMem

/-- The translations of n bytes for a use are cached, so an access leaves the translation cache as it is. -/
def Cached (s : State) (acc : Acc) (a n : Nat) : Prop :=
  ∀ i, i < n → ∃ x, s.xlate s.curCtx s.cur.cluster (a + i) acc = .ok x ∧ x.fresh = false ∧ x.missed = false

/-- The n bytes at a reach memory from pa on for writing, by cached translations, in lines that no other key has
written (R228, R321). -/
def AtHomeBy (g : Nat) (s : State) (a n pa : Nat) : Prop :=
  ∀ i, i < n → ∃ x, s.xlate s.curCtx s.cur.cluster (a + i) .wr = .ok x ∧ x.fresh = false ∧ x.missed = false ∧
    x.home = .mem (pa + i) g ∧ KeyFits s g (pa + i)
def AtHome (s : State) (a n pa : Nat) : Prop := ∃ g, AtHomeBy g s a n pa

/-- R180: %scopeclamp after a release at system scope that the partition narrows. -/
def clampAfter (x : MemForm) (s : State) : Word :=
  if x.scope = .sys ∧ (x.order = .rel ∨ x.order = .both) ∧ (s.part? s.cur.id.part).any (fun p => !p.sysScope) = true
  then s.cur.scopeclamp ||| 1 else s.cur.scopeclamp

/-- What a memory instruction leaves of its thread's registers: all but those named, the code index, %scopeclamp and,
where a prediction was squashed, %predmiss (R230). -/
def MemFrame (x : MemForm) (s t : State) (h : Thread) : Prop :=
  t.cur = { h with pc := s.cur.pc + 1, scopeclamp := clampAfter x s, predmiss := t.cur.predmiss }

/-- The integer atomics and what each writes from the old value and its operand (R201). -/
def atomics : List ((MemForm → Instr) × Use × ((t : Ty) → BitVec t.bits → BitVec t.bits → BitVec t.bits)) :=
  [(.aadd, .add, fun _ o v => o + v),
    (.amin, .add, fun t o v => if reads t v < reads t o then v else o),
    (.amax, .add, fun t o v => if reads t o < reads t v then v else o),
    (.aand, .add, fun _ o v => o &&& v), (.aor, .add, fun _ o v => o ||| v), (.axor, .add, fun _ o v => o ^^^ v),
    (.aswap, .swap, fun _ _ v => v)]

/-- The scalar memory instructions, what each asks of its window, and how many bytes it touches. -/
def scalarAccesses : List ((MemForm → Instr) × Use × (MemForm → Nat)) :=
  [(.ld, .load, fun x => x.t.bits / 8), (.st, .store, fun x => x.t.bits / 8), (.acas, .swap, fun x => x.t.bits / 8),
    (.aaddf, .add, fun _ => 64), (.cellrd, .load, fun _ => 64), (.ldf, .load, fun _ => 4),
    (.ldfEmpty, .load, fun _ => 4), (.stf, .store, fun _ => 4)] ++
  atomics.map fun p => (p.1, p.2.1, fun x => x.t.bits / 8)

/-- The little-endian bytes of a value. -/
def bytesOf (n : Nat) (v : Nat) : List Byte := (List.range n).map fun i => BitVec.ofNat 8 (v / 2 ^ (8 * i))

/-- A w-bit value of little-endian bytes. -/
def valueOf (t : Ty) (bs : List Byte) : BitVec t.bits := BitVec.ofNat t.bits (leVal bs)

/-- The elements that a vector load or store reaches, and the width by which its guard's bits stand: that of its
narrowest vector operand, the data or the 32-bit index (R49, R198 to R200). -/
structure Reaching where
  elems : Nat
  guard : Ty → Nat

def whole : Reaching := ⟨64, fun t => 8 * memSize t⟩
def indexed : Reaching := ⟨16, fun t => min (8 * memSize t) 32⟩

/-- The vector loads and stores: opcode, constructor, address of element i, elements it reaches (R198 to R200). -/
def vectorLoads : List (Nat × (MemForm → Instr) × (MemForm → Thread → Nat → Nat) × Reaching) :=
  [(0x003, .ldv, unitAddr, whole), (0x005, .ldvs, strideAddr, whole), (0x007, .ldg, indexAddr, indexed)]
def vectorStores : List (Nat × (MemForm → Instr) × (MemForm → Thread → Nat → Nat) × Reaching) :=
  [(0x004, .stv, unitAddr, whole), (0x006, .stvs, strideAddr, whole), (0x008, .stg, indexAddr, indexed)]

/-- Is element i of a vector access made? -/
def touched (x : MemForm) (m : Reaching) (s : State) (i : Nat) : Prop :=
  i < m.elems ∧ i < 64 / memSize x.t ∧ active s.cur x.g (m.guard x.t) i = true

/-! ### Traps (R220 to R226) -/

/-- A fault record, field by field (R223). -/
def recordOf (cause kind : Nat) (device write stage2 : Bool) (part task thread cluster core seat : Nat)
    (taddr tinfo : Word) : BitVec 256 :=
  tinfo ++ taddr ++ (0 : BitVec 11) ++ BitVec.ofNat 2 seat ++ BitVec.ofNat 3 core ++ BitVec.ofNat 16 cluster
    ++ BitVec.ofNat 32 thread ++ BitVec.ofNat 32 task ++ (0 : BitVec 11) ++ BitVec.ofNat 5 part ++ (0 : BitVec 3)
    ++ BitVec.ofBool stage2 ++ BitVec.ofBool write ++ BitVec.ofBool device ++ BitVec.ofNat 2 kind ++ BitVec.ofNat 8 cause

/-! ### Tasks, jobs and stores -/

/-- An access the device makes for an instruction, all its checks passed and its translation cached (R209). -/
structure DeviceReady (x : MemForm) (u : Use) (align n : Nat) (s : State) : Prop where
  guard : s.cur.guardOk x.g = true
  passes : s.deviceStop s.curCtx s.cur.cluster u align (s.cur.ea x) n = none
  cached : Cached s (Acc.of u) (s.cur.ea x) n

/-- Of the issuing thread's registers only those of h, and the code index, which moves on, are new. -/
def OnTo (s t : State) (h : Thread) : Prop := t.cur = { h with pc := s.cur.pc + 1 }

/-- The same, with c15 written. -/
def Answers (s t : State) (b : Bool) : Prop := OnTo s t (s.cur.setCbit 15 b)

/-- `trap` with %tinfo holding the word and %taddr the code index (R57). -/
def FieldTrap (i : Instr) (c : Code) (s : State) : Prop :=
  ∃ u, exec i s = .next u ∧ Trapped s u 0x02 (s.cur.pc.setWidth 64) c.word

/-- A descriptor's fields (R244). -/
def descriptor (v : VWord) : Desc :=
  let f (lo n : Nat) : Nat := (v.extractLsb' lo n).toNat
  let spc (lo : Nat) : Space := [Space.gm, .cm, .sp, .tcm].getD (f lo 2) .gm
  { dst := f 0 64, idx := f 64 64, rowLen := f 128 32, nRows := f 160 32, sPitch := f 192 32, dPitch := f 224 32,
    dSpace := spc 256, iSpace := spc 258, door := v.extractLsb' 320 64 }

/-- The copy commands: opcode, constructor, the job's operation, and what R235, R245 and R254 ask of a descriptor and
its `ea` beside R244's bounds. -/
def copyCommands : List (Nat × (MemForm → Instr) × (Desc → JobOp) × (Desc → Nat → Prop)) :=
  let plain (d : Desc) : Prop := d.idx = 0 ∧ d.iSpace = .gm
  [(0x0C0, .cpy, .cpy, fun d _ => plain d),
    (0x0C1, .cpyf, .cpyf, fun d ea => plain d ∧ ea % 4 = 0 ∧ d.rowLen % 4 = 0 ∧ d.sPitch % 4 = 0),
    (0x0C2, .gath, .gath, fun d _ => d.idx % 4 = 0 ∧ d.door = 0),
    (0x0C3, .scat, .scat, fun d _ => d.idx % 4 = 0 ∧ d.door = 0),
    (0x0C4, .fill, .fill, fun d _ => d.dst = 0 ∧ d.sPitch = 0 ∧ d.dSpace = .gm ∧ d.iSpace = .gm ∧ d.door = 0),
    (0x0C7, .rput, .rput, fun d _ => plain d ∧ d.sPitch = 0 ∧ d.dPitch = 0 ∧ d.nRows = 1 ∧
      (d.dSpace = .sp ∨ d.dSpace = .tcm) ∧ d.dst % 64 = 0)]

/-- What R244 asks of every descriptor. -/
def WellMade (v : VWord) : Prop :=
  let d := descriptor v
  v.extractLsb' 260 60 = 0 ∧ v.extractLsb' 384 128 = 0 ∧ 1 ≤ d.rowLen ∧ d.rowLen ≤ 2 ^ 20 ∧ 1 ≤ d.nRows ∧
    d.nRows ≤ 2 ^ 16 ∧ (d.door ≠ 0 → d.dSpace ≠ .tcm)

/-- A row descriptor (R262): FIRST, COUNT and SCALE, where it is well made. -/
def rowFields (drain : Bool) (w : Word) : Option (Nat × Nat × Int) :=
  let first := (w.extractLsb' 0 8).toNat
  let count := (w.extractLsb' 8 9).toNat
  let scale := (w.extractLsb' 24 8).toInt
  if 1 ≤ count ∧ count ≤ 256 ∧ first + count ≤ 256 ∧ w.extractLsb' 17 7 = 0 ∧ w.extractLsb' 32 32 = 0 ∧
      (if drain = true then -8 ≤ scale ∧ scale ≤ 7 else scale = 0) then
    some (first, count, scale)
  else none

/-- The matrix commands: opcode, constructor, whether they have an `ea`, whether they write, and the operation. -/
def matrixCommands : List (Nat × (MemForm → Instr) × Bool × Bool × (MemForm → Thread → Option JobOp)) :=
  let rows (x : MemForm) (h : Thread) := rowFields false (h.sreg x.data.num5)
  let stream (pair : Nat) (mx : Bool) (mk : MemForm → Instr) :=
    (0x110 + pair, mk, true, false, fun (x : MemForm) (h : Thread) => (rows x h).map fun r =>
      JobOp.mstream pair r.1 r.2.1 (if mx then ((h.sreg (reg3 x)).extractLsb' 0 32).toNat else 0))
  [(0x100, .mwld, true, false, fun x _ => some (.mwld (mwldTag x))),
    (0x101, .mwswap, false, false, fun _ _ => some .mwswap),
    (0x102, .mzero, false, false, fun x h => (rows x h).map fun r => .mzero r.1 r.2.1),
    (0x103, .mdrain, true, true, fun x h => (rowFields true (h.sreg x.data.num5)).map fun r =>
      .mdrain r.1 r.2.1 r.2.2 x.t.num x.low8.toNat),
    stream 0 false .mstreamBf16Bf16, stream 1 false .mstreamFp16Fp16, stream 2 false .mstreamE4m3E4m3,
    stream 3 false .mstreamE4m3E5m2, stream 4 false .mstreamE5m2E4m3, stream 5 false .mstreamE5m2E5m2,
    stream 6 true .mstreamMxe4m3Mxe4m3, stream 7 true .mstreamMxe2m1Mxe2m1, stream 8 true .mstreamMxe2m1Mxe4m3,
    stream 9 false .mstreamI8I8]

/-- A command is issued (R238): its job joins the context, DATA takes its id, of 1 to 65,535 and then from 1 again, and
the next job's number follows; nothing else changes. -/
def Issued (s t : State) (j : Job) (d : BitVec 5) : Prop :=
  let next := s.cur.jobNext + 1
  t = { s.modCtx s.curCtx (fun c => { c with jobs := keepJobs s.cur.id next c.jobs ++ [j] }) with
    cur := { s.cur.setS d (BitVec.ofNat 64 ((s.cur.jobNext - 1) % 65535 + 1)) with
      jobNext := next, pc := s.cur.pc + 1 } }

/-- A command that passes its checks waits for scoreboard entries (R181), a feed for a place (R256), or for a queue
entry (R237, log entry 66), or is issued. -/
def IssuedOrWaits (i : Instr) (j : Job) (d : BitVec 5) (s : State) : Prop :=
  ∀ p c, s.part? s.curCtx.part = some p → s.ctx? s.curCtx = some c →
    let need := j.spans.length
    let fits := need = 0 ∨ (c.heldSpans s.cur.id).length + need ≤ 16
    let fed := j.unit ≠ .feed ∨ c.feeds s.cur.cluster < 16
    let room := p.queueUsed j.target j.unit.code < 64 ∨ s.doorOk s.curCtx.part j = false
    ∃ t, exec i s = .next t ∧
      (¬fits → Waits s t (.again (.scoreRoom need))) ∧
      (fits → ¬fed → Waits s t (.again .feedRoom)) ∧
      (fits → fed → ¬room → Waits s t (.again (.jobRoom j.target j.unit.code))) ∧
      (fits → fed → room → Issued s t j d)

/-- A `CPY` command may join a job (R246): one task and cluster, one source, one descriptor, into TCM, through no door;
the job has arrived, within 64 cycles, and has not ended. -/
def Joins (time : Nat) (j x : Job) : Prop :=
  ∃ d, j.op = .cpy d ∧ x.op = .cpy d ∧ d.dSpace = .tcm ∧ j.door = none ∧ x.thread.taskId = j.thread.taskId ∧
    x.cluster = j.cluster ∧ x.space = j.space ∧ x.ea = j.ea ∧ x.place ≠ .message ∧ x.status < 16 ∧
    time ≤ x.cameAt + 64

/-- Where row r of a copy stands and goes, its index read by i (R235, R245); indexes stand in the scratchpad. -/
def RowsOf (op : JobOp) (ea : Nat) (i : Nat → Nat) (d : Desc) (src dst : Nat → Nat) : Prop :=
  let straight (a pitch : Nat) (f : Nat → Nat) : Prop := ∀ r, f r = a + r * pitch
  let indexed (a pitch : Nat) (f : Nat → Nat) : Prop := ∀ r, f r = a + i (d.idx + 4 * r) * pitch
  let inSp : Prop := d.iSpace = .sp ∧ d.idx + 4 * d.nRows ≤ 2 ^ 21
  (op = .cpy d ∧ straight ea d.sPitch src ∧ straight d.dst d.dPitch dst) ∨
    (op = .gath d ∧ inSp ∧ indexed ea d.sPitch src ∧ straight d.dst d.dPitch dst) ∨
    (op = .scat d ∧ inSp ∧ straight ea d.sPitch src ∧ indexed d.dst d.dPitch dst)

/-! Puts into a byte ring (R251 to R253). -/

/-- The bytes of a buffer, of a record, in use, and left before the buffer's end. -/
def ringAll (cb : RingCb) : Nat := 2 ^ cb.sizeLog
def putSize (n : Nat) : Nat := 8 + 8 * ((n + 7) / 8)
def ringUsed (cb : RingCb) : Nat := (cb.head + 2 ^ 64 - cb.tail) % 2 ^ 64
def ringGap (cb : RingCb) : Nat := ringAll cb - cb.head % ringAll cb

/-- What a put of n bytes needs: its record, and the gap it skips where the record does not fit before the end. -/
def putNeed (cb : RingCb) (n : Nat) : Nat :=
  if ringGap cb < putSize n then putSize n + ringGap cb else putSize n

/-- A ring as R251 lays it down, its buffer and its control block in a memory of `limit` bytes, apart. -/
def RingSound (cb : RingCb) (block limit : Nat) : Prop :=
  6 ≤ cb.sizeLog ∧ cb.sizeLog ≤ 20 ∧ cb.head % 8 = 0 ∧ cb.base + ringAll cb ≤ limit ∧
    (block + 64 ≤ cb.base ∨ cb.base + ringAll cb ≤ block)

/-- A record was put: the skip record where it was needed, the header, the payload, the next sequence number and HEAD. -/
def RecordPut (m m' : Nat → Nat → List Byte) (block : Nat) (payload : List Byte) : Prop :=
  let cb := ringCb (m block 64)
  let n := payload.length
  let word (a w : Nat) := leVal (m' a w)
  let skips := ringGap cb < putSize n
  let head := if skips then (cb.head + ringGap cb) % 2 ^ 64 else cb.head
  let spot := cb.base + head % ringAll cb
  (skips → word (cb.base + cb.head % ringAll cb) 8 = ringGap cb - 8 + 0xFF * 2 ^ 32 + cb.seq * 2 ^ 40) ∧
    word spot 8 = n + cb.seq * 2 ^ 40 ∧ m' (spot + 8) n = payload ∧
    word (block + 32) 3 = (cb.seq + 1) % 2 ^ 24 ∧ word (block + 16) 8 = (head + putSize n) % 2 ^ 64

/-! The matrix engine's float pairs (R103, R104, R115, R274). -/

/-- The types of a pair's activations and weights. -/
def pairTypes (pair : Nat) : Ty × Ty :=
  match pair with
  | 0 => (.bf16, .bf16) | 1 => (.fp16, .fp16) | 3 => (.e4m3, .e5m2) | 4 => (.e5m2, .e4m3) | 5 => (.e5m2, .e5m2)
  | 7 => (.e2m1, .e2m1) | 8 => (.e2m1, .e4m3) | _ => (.e4m3, .e4m3)

/-- Element k of an activation row, and the scale code of block b. -/
def activation (pair : Nat) (row : Nat → Nat) (k : Nat) : BitVec (pairTypes pair).1.bits :=
  BitVec.ofNat _ (if pair ≤ 1 then row (2 * k) + 2 ^ 8 * row (2 * k + 1)
    else if pair ≤ 5 then row k
    else if pair = 6 then row (33 * (k / 32) + k % 32)
    else row (17 * (k / 32) + k % 32 / 2) / 16 ^ (k % 2))
def activationScale (pair : Nat) (row : Nat → Nat) (b : Nat) : Nat :=
  if pair = 6 then row (33 * b + 32) else row (17 * b + 16)

/-- Element k of a plane's column n. -/
def weight (pair : Nat) (pl : Plane) (n k : Nat) : BitVec (pairTypes pair).2.bits :=
  BitVec.ofNat _ (getAt 0 pl.weights (128 * k + n))

/-- The groups of a pair, by size. -/
def groupSize (pair : Nat) : Nat := if pair ≤ 5 then 16 else 32

/-- The products of group g of column n, and their exact sum. -/
def groupSum (pair : Nat) (row : Nat → Nat) (pl : Plane) (n g : Nat) : Rat :=
  ((List.range (groupSize pair)).map fun i =>
    number _ (activation pair row (groupSize pair * g + i)) * number _ (weight pair pl n (groupSize pair * g + i))).sum

/-- What multiplies the sum of a block. -/
def blockScale (pair tensor : Nat) (row : Nat → Nat) (pl : Plane) (n b : Nat) : Rat :=
  if pair ≤ 5 then 1
  else 2 ^ ((activationScale pair row b : Int) - 127) * 2 ^ (((getAt 0x7F pl.scales (4 * n + b) : Nat) : Int) - 127) *
    number .fp32 (BitVec.ofNat 32 tensor)

/-- Is a group's scaled sum, where it is zero, −0: every product is −0, or a sum that a zero tensor scale takes to it? -/
def groupMinus (pair tensor : Nat) (row : Nat → Nat) (pl : Plane) (n g : Nat) : Prop :=
  let a (i : Nat) := activation pair row (groupSize pair * g + i)
  let b (i : Nat) := weight pair pl n (groupSize pair * g + i)
  if groupSum pair row pl n g = 0 then
    ∀ i, i < groupSize pair → (isZero _ (a i) = true ∨ isZero _ (b i) = true) ∧ (a i).msb ≠ (b i).msb
  else decide (groupSum pair row pl n g < 0) ≠ (BitVec.ofNat 32 tensor).msb

/-- Every operand of column n is a finite number. -/
def FiniteColumn (pair tensor : Nat) (row : Nat → Nat) (pl : Plane) (n : Nat) : Prop :=
  (∀ k, k < 128 → special _ (activation pair row k) = false ∧ special _ (weight pair pl n k) = false) ∧
    (6 ≤ pair → special .fp32 (BitVec.ofNat 32 tensor) = false ∧
      ∀ b, b < 4 → activationScale pair row b ≠ 255 ∧ getAt 0x7F pl.scales (4 * n + b) ≠ 255)

/-- R113, R115: `acc_step` with a finite addend e, a zero of which is −0 where `minus`: one rounding to nearest, then
the flush of what is below the normals. -/
structure AccStep (acc : BitVec 32) (e : Rat) (minus : Prop) (r : BitVec 32) : Prop where
  nan : isNaN .fp32 acc = true → r = canonical .fp32
  infinite : isInfinite .fp32 acc = true → r = acc
  finite : special .fp32 acc = false → number .fp32 acc + e ≠ 0 → ∃ (v : BitVec 32) (f : Flags),
    Rounded .fp32 0 (number .fp32 acc + e) v f ∧
      r = if expField .fp32 v = 0 then zeroOf .fp32 (decide (number .fp32 acc + e < 0)) else v
  zero : special .fp32 acc = false → number .fp32 acc + e = 0 → isZero .fp32 r = true ∧
    (r.msb = true ↔ isZero .fp32 acc = true ∧ acc.msb = true ∧ minus)

/-- R115: an accumulator word over the groups of its column, ascending. -/
def Accumulates (pair tensor : Nat) (row : Nat → Nat) (pl : Plane) (n : Nat) (old new : BitVec 32) : Prop :=
  let groups := 128 / groupSize pair
  ∃ acc : Nat → BitVec 32, acc 0 = old ∧ acc groups = new ∧ ∀ g, g < groups → AccStep (acc g)
    (groupSum pair row pl n g * blockScale pair tensor row pl n g) (groupMinus pair tensor row pl n g) (acc (g + 1))

/-- The issuing thread's context changed by f, and its registers: nothing else. -/
def CtxOnly (s t : State) (f : Context → Context) (h : Thread) : Prop :=
  t = { s.modCtx s.curCtx f with cur := { h with pc := s.cur.pc + 1 } }

/-- The low 32 bits of a register. -/
def low (s : State) (o : Opnd) : Nat := ((s.cur.sreg o.num5).extractLsb' 0 32).toNat


/-- The store's books are in order (R288): sequences and pages have one number each, below the next page's, and every
page that a map or a snapshot names is there. -/
structure PagesSound (p : Partition) (c : Context) : Prop where
  seqs : (c.seqs.map (·.num)).Nodup
  pages : (c.pages.map (·.page)).Nodup
  below : ∀ d ∈ c.pages, d.page < p.poolNext
  named : ∀ q ∈ c.seqs, ∀ m ∈ q.map :: q.ring.map (·.map), ∀ pg, some pg ∈ m → (c.page? pg).isSome = true

/-! ### Threads, tables and groups -/

/-- One thread's record, as an event leaves it; no other thread's and nothing else changed, but for the copy of the
registers of the thread that issues. -/
structure OnlyThread (s u : State) (t : TId) (h : Thread) : Prop where
  thread : u.thread? t = some h
  others : ∀ n, n ≠ t → u.thread? n = s.thread? n
  rest : ∃ g : Context → List Thread, u = { s.modCtx t.ctxId (fun c => { c with threads := g c }) with cur := u.cur }

/-- A table of the issuing thread's context, named by an instruction. -/
def TableAt (s : State) (x : CtlForm) (c : Context) (t : Table) : Prop :=
  s.ctx? s.curCtx = some c ∧ c.table? x.table.toNat = some t

/-- Only the context's tables changed: the one an instruction names holds t now, and the thread is WAITING. -/
structure TableIs (s u : State) (x : CtlForm) (t : Table) (w : Wait) : Prop where
  table : ∃ c, u.ctx? s.curCtx = some c ∧ c.table? x.table.toNat = some t
  rest : ∃ g : Context → List Table, u = { s.modCtx s.curCtx (fun c => { c with tables := g c }) with
    cur := { s.cur with life := .here (.waiting w) } }

/-- The bits of a table entry or header (R25, R26). -/
def bitsOf {w : Nat} (v : BitVec w) (lo n : Nat) : Nat := (v.extractLsb' lo n).toNat

/-- R25: a header that may stand in a table of 2^n entries. -/
def GoodHeader (n : Nat) (h : Word) : Prop :=
  bitsOf h 0 4 = n ∧ bitsOf h 4 4 = 0 ∧ bitsOf h 8 2 ≠ 3 ∧ bitsOf h 10 22 = 0 ∧ (bitsOf h 32 32 = 0 ∨ bitsOf h 8 2 = 0)

/-- R26: an image that may stand in an entry. -/
def GoodEntry (e : BitVec 256) : Prop :=
  let action := bitsOf e 128 3
  let target := bitsOf e 160 32
  bitsOf e 48 16 = 0 ∧ bitsOf e 112 16 = 0 ∧ bitsOf e 132 28 = 0 ∧ action ≤ 4 ∧
    (action = 1 ∨ action = 2 → target = 0) ∧ (action = 4 → target < 2 ^ 16)

/-- The header and entries a thread's lookups of a copy see: the pinned generation, else the front (R27, R35). -/
def shown (tb : Table) (who : TId) (cp : TableCopy) : Word × List (BitVec 256) :=
  match tb.pins.find? fun p => p.thread == who with
  | some p => if cp.backGen = some p.gen ∧ cp.frontGen ≠ p.gen then (cp.backHdr, cp.back) else (cp.frontHdr, cp.front)
  | none => (cp.frontHdr, cp.front)

/-- The first valid entry of a shutter that a key matches where the entry cares (R27). -/
def winner (entries : List (BitVec 256)) (key : BitVec 48) : Option (Nat × BitVec 256) :=
  let hit (e : BitVec 256) : Bool :=
    e.getLsbD 131 && (key ^^^ e.extractLsb' 0 48) &&& e.extractLsb' 64 48 == 0
  (entries.findIdx? hit).bind fun i => (entries[i]?).map fun e => (i, e)

/-- R266: the winner after one more pair, value and index: a larger value, −0 below +0; on equal values the smaller
index; a NaN only over nothing else than NaNs, which leave no winner. -/
def bestOf (w : Option (Nat × Nat)) (v : BitVec 32) (i : Nat) : Option (Nat × Nat) :=
  if isNaN .fp32 v = true then w
  else match w with
    | none => some (v.toNat, i)
    | some (b, j) =>
      let y := BitVec.ofNat 32 b
      if isNaN .fp32 y = true ∨ place .fp32 y < place .fp32 v ∨ (place .fp32 y = place .fp32 v ∧ i < j)
      then some (v.toNat, i) else w

/-- RFC 3629's well-formed byte sequences (R302). -/
def IsChar (bs : List Nat) : Prop :=
  let cont (b : Nat) : Prop := 0x80 ≤ b ∧ b ≤ 0xBF
  match bs with
  | [a] => a ≤ 0x7F
  | [a, b] => 0xC2 ≤ a ∧ a ≤ 0xDF ∧ cont b
  | [a, b, c] => 0xE0 ≤ a ∧ a ≤ 0xEF ∧ cont b ∧ cont c ∧ (a = 0xE0 → 0xA0 ≤ b) ∧ (a = 0xED → b ≤ 0x9F)
  | [a, b, c, d] =>
    0xF0 ≤ a ∧ a ≤ 0xF4 ∧ cont b ∧ cont c ∧ cont d ∧ (a = 0xF0 → 0x90 ≤ b) ∧ (a = 0xF4 → b ≤ 0x8F)
  | _ => False

/-- The cut of an input into units (R304). -/
inductive Cut : List Nat → List Piece → Prop where
  | done : Cut [] []
  | char {bs r : List Nat} {us : List Piece} : IsChar bs → Cut r us → Cut (bs ++ r) (.char bs :: us)
  | tail {bs : List Nat} : bs ≠ [] → (∃ more, more ≠ [] ∧ IsChar (bs ++ more)) → Cut bs [.tail bs]
  | invalid {b : Nat} {r : List Nat} {us : List Piece} : (∀ more, ¬IsChar (b :: r ++ more)) →
      (∀ c q, b :: r = c ++ q → ¬IsChar c) → Cut r us → Cut (b :: r) (.invalid b :: us)

/-- R303: the walk of a trie's entries over bytes from a node: the child reached, its token id and flag. -/
def trieEnd (entries : List (BitVec 256)) : Nat → List Nat → Option (Nat × Nat × Bool)
  | _, [] => none
  | node, b :: bs => (winner entries (BitVec.ofNat 48 (node % 2 ^ 16 * 2 ^ 8 + b))).bind fun e =>
      let child := (e.2.extractLsb' 192 16).toNat
      if bs.isEmpty then some (child, (e.2.extractLsb' 208 32).toNat, e.2.getLsbD 240) else trieEnd entries child bs

/-- The first n units are characters whose bytes the trie has as a token (R304). -/
def MatchOf (entries : List (BitVec 256)) (us : List Piece) (n tok : Nat) : Prop :=
  1 ≤ n ∧ n ≤ us.length ∧ (∀ u ∈ us.take n, ∃ bs, u = .char bs) ∧
    ∃ child, trieEnd entries 0 ((us.take n).flatMap Piece.bytes) = some (child, tok, true)

/-- One turn of R304's loop: what it writes for the first unit, and how many units that takes. -/
def Turn (entries : List (BitVec 256)) (base : Nat) (us : List Piece) (out : List Nat) (n : Nat) : Prop :=
  (∃ b r, us = .invalid b :: r ∧ out = [base + b] ∧ n = 1) ∨
    ∃ bs r, us = .char bs :: r ∧
      ((∃ tok, MatchOf entries us n tok ∧ (∀ m t, n < m → ¬MatchOf entries us m t) ∧ out = [tok]) ∨
        ((∀ m t, ¬MatchOf entries us m t) ∧ out = bs.map (base + ·) ∧ n = 1))

/-- R304's loop from k tokens on: the tokens written and the units left. -/
inductive Emits (entries : List (BitVec 256)) (base : Nat) : Nat → List Piece → List Nat → List Piece → Prop where
  | none {k : Nat} : Emits entries base k [] [] []
  | tail {k : Nat} {bs : List Nat} {r : List Piece} : Emits entries base k (.tail bs :: r) [] (.tail bs :: r)
  | full {k n : Nat} {us : List Piece} {out : List Nat} : Turn entries base us out n → 16 < k + out.length →
      Emits entries base k us [] us
  | turn {k n : Nat} {us rest : List Piece} {out more : List Nat} : Turn entries base us out n → k + out.length ≤ 16 →
      Emits entries base (k + out.length) (us.drop n) more rest → Emits entries base k us (out ++ more) rest

/-- R304's end: the tokens of the whole step, the bytes held, and how many bytes are neither written nor held. -/
def Ends (base : Nat) (flush : Bool) (out : List Nat) (rest : List Piece) (toks held : List Nat) (left : Nat) : Prop :=
  match rest with
  | [] => toks = out ∧ held = [] ∧ left = 0
  | [.tail bs] =>
    let room := bs.take (16 - out.length)
    if flush = true then toks = out ++ room.map (base + ·) ∧ held = [] ∧ left = bs.length - room.length
    else toks = out ∧ held = bs ∧ left = 0
  | us => toks = out ∧ held = [] ∧ left = (us.flatMap Piece.bytes).length

/-! The list instructions of R270 and R305 on the words of home memory, by address: the words after, and every word
that is read or written, by the object it is in, that object's alignment and the word's offset. -/

/-- A word written. -/
def poke (w : Nat → Nat) (a v : Nat) : Nat → Nat := fun b => if b = a then v else w b

/-- The words that an act reads or writes, each of an object: its address, its alignment and the word's offset. -/
abbrev Touched := List (Nat × Nat × Nat)

def headWords (a : Nat) : Touched := [(a, 16, 0), (a, 16, 8)]
def descWords (a : Nat) : Touched := [(a, 64, 0), (a, 64, 8), (a, 64, 16)]

/-- R270's last four lines. -/
def appendWords (d list : Nat) (w : Nat → Nat) : (Nat → Nat) × Touched :=
  let last := w (list + 8)
  let w1 := poke (poke (poke w d 0) (d + 8) last) (d + 16) list
  (poke (if last = 0 then poke w1 list d else poke w1 last d) (list + 8) d, if last = 0 then [] else [(last, 64, 0)])

/-- R270: d leaves list o. -/
def removeWords (d o : Nat) (w : Nat → Nat) : (Nat → Nat) × Touched :=
  let next := w d
  let prev := w (d + 8)
  let w1 := if prev = 0 then poke w o next else poke w prev next
  (if next = 0 then poke w1 (o + 8) prev else poke w1 (next + 8) prev,
    [if prev = 0 then (o, 16, 0) else (prev, 64, 0), if next = 0 then (o, 16, 8) else (next, 64, 8)])

/-- What a list instruction does: the words after, those touched, what DATA takes, c15. -/
abbrev ListEffect := (Nat → Nat) × Touched × Option Nat × Bool

/-- `LMOVE` (R270). -/
def moveWords (d list : Nat) (w : Nat → Nat) : ListEffect :=
  let o := w (d + 16)
  let r := if o = 0 then (w, []) else removeWords d o w
  let q := appendWords d list r.1
  (q.1, descWords d ++ headWords list ++ r.2 ++ q.2, none, false)

/-- `LPUSH` (R305). -/
def pushWords (d list : Nat) (w : Nat → Nat) : ListEffect :=
  let q := appendWords d list w
  if w (d + 16) = 0 then (q.1, descWords d ++ headWords list ++ q.2, none, false)
  else (w, descWords d ++ headWords list, none, true)

/-- `LPOP` (R305). -/
def popWords (list : Nat) (w : Nat → Nat) : ListEffect :=
  let d := w list
  let next := w d
  if d = 0 then (w, headWords list, some 0, true)
  else
    let w1 := poke w list next
    let w2 := if next = 0 then poke w1 (list + 8) 0 else poke w1 (next + 8) 0
    (poke (poke (poke w2 d 0) (d + 8) 0) (d + 16) 0,
      headWords list ++ descWords d ++ (if next = 0 then [] else [(next, 64, 8)]), some d, false)

/-- R32, R33: the back shutter's generation is pinned, so an operation on it is refused. -/
def Busy (t : Table) : Prop := ∃ p ∈ t.pins, t.dirBack = some p.gen

/-- A table that an operation has entered (R31 to R33): its message is on its way to every cluster of the context, and
for a flip the directory's generations have moved. -/
def entered (n : Nat) (op : TableOp) (t : Table) : Table :=
  let t1 := { t with seq := t.seq + 1, inbox := t.inbox ++ (List.range n).map fun c => (⟨c, t.seq + 1, op⟩ : TableMsg) }
  if op = .flip then { t1 with dirFront := (t.dirFront + 1) % 2 ^ 32, dirBack := some t.dirFront } else t1

/-- The messages of a table of n clusters stand in flip order, and a cluster that has not applied one has applied none
after it (R31): an invariant of every table. -/
structure InOrder (n : Nat) (t : Table) : Prop where
  upto : ∀ m ∈ t.inbox, m.seq ≤ t.seq ∧ m.cluster < n
  sorted : t.inbox.Pairwise fun a b => a.seq ≤ b.seq ∧ (a.cluster = b.cluster → a.seq < b.seq)
  whole : ∀ a ∈ t.inbox, ∀ b ∈ t.inbox, a.seq ≤ b.seq → ∃ x ∈ t.inbox, x.cluster = a.cluster ∧ x.seq = b.seq

/-- No lookup elsewhere uses an older generation than a cluster's (R189, Flip visibility): a flip that the cluster has
applied stands before every other. -/
def Visible (n : Nat) (t : Table) : Prop :=
  ∀ m ∈ t.inbox, m.op = .flip → ∃ x ∈ t.inbox, x.cluster = n ∧ x.seq = m.seq

/-- One thread's record, as a lookup of a table (R28, R86) or a pin's reply (R35) leaves it, and the table's messages:
nothing else changed but for the copy of the registers of the thread that issues. `sees`: does the thread see its
cluster's generation now (R189)? -/
structure OnlyLookup (s u : State) (t : TId) (h : Thread) (tb : Table) (n : Nat) (sees : Prop) : Prop where
  thread : u.thread? t = some h
  others : ∀ n, n ≠ t → u.thread? n = s.thread? n
  rest : ∃ (g : Context → List Thread) (f : Context → List Table),
    u = { s.modCtx t.ctxId (fun c => { c with threads := g c, tables := f c }) with cur := u.cur } ∧
    ∀ c, s.ctx? t.ctxId = some c → ∀ i, i ≠ tb.id → (f c).find? (fun x => x.id == i) = c.table? i
  seen : ∃ c tb', u.ctx? t.ctxId = some c ∧ c.table? tb.id = some tb' ∧
    (¬sees → tb' = tb) ∧
    (sees → Visible n tb' ∧ InOrder c.nclusters tb' ∧
      tb' = { tb with copies := tb'.copies, inbox := tb'.inbox } ∧ tb'.copies[n]? = tb.copies[n]?)

/-- What a message does to a cluster's copy (R32, R33). -/
def AppliedTo (op : TableOp) (a b : TableCopy) : Prop :=
  match op with
  | .write none img => b = { a with backHdr := img.extractLsb' 0 64 }
  | .write (some i) img => b = { a with back := a.back.set i img }
  | .clear => b = { a with back := List.replicate a.back.length 0 }
  | .copy => b = { a with back := a.front, backHdr := a.frontHdr }
  | .flip => b = ⟨a.backHdr, a.frontHdr, a.back, a.front, (a.frontGen + 1) % 2 ^ 32, some a.frontGen⟩

/-- The group that the issuing thread's handle names (R20): its task's own where a restore has brought another (log
entry 61). -/
def groupOf (s : State) (h : Nat) : Option Group :=
  (s.part? s.cur.id.part).bind fun p => groupFor p.groups s.cur.id s.cur.cluster h

/-- The group that an event names: its context's, where a restore has brought another (log entry 61). -/
def groupAt (p : Partition) (y : GroupId) : Option Group :=
  (p.groups.find? fun g => g.named y.ctx y.cluster y.handle && g.ctx == y.ctx).orElse
    fun _ => p.groups.find? fun g => g.named y.ctx y.cluster y.handle

/-- R20: the handles. -/
def GoodHandle (h : Nat) : Prop := h < 16 ∨ (0x8000 ≤ h ∧ h ≤ 0x8FFF)

/-- The handle of a group instruction (R91). -/
def handleOf (s : State) (x : CtlForm) : Nat :=
  ((s.cur.sreg x.key).extractLsb' 0 16 + x.subop.extractLsb' 0 16).toNat

/-- The issuing thread is a member of a group. -/
def Member (s : State) (g : Group) : Prop := g.ctx = s.cur.id.ctx ∧ g.task = s.cur.id.task ∧ s.cur.id.thread ∈ g.members

/-- Only the groups of the issuing thread's partition changed, and its registers to those of h. -/
def GroupsOnly (s u : State) (h : Thread) : Prop :=
  ∃ f : List Group → List Group,
    u = { s.modPart s.cur.id.part (fun p => { p with groups := f p.groups }) with cur := h }

/-- A thread of a loaded and clocked context that waits. -/
def Waiting (s : State) (t : TId) (h : Thread) (w : Wait) : Prop := s.awake? t = some h ∧ h.life = .here (.waiting w)

/-- A thread whose wait ended: READY at its next instruction. -/
def onward (h : Thread) : Thread := { h with pc := h.pc + 1, life := .here .ready }


/-! ### The host, the anchor firmware and bring-up -/

/-- A host command of an operation (R338): no bit of bytes 0 to 30 is set but of the opcode and these fields. -/
def HostCmd (op : Nat) (fields : List (Nat × Nat)) (img : BitVec 256) : Prop :=
  bitsOf img 0 8 = op ∧
    ∀ i, i < 248 → img.getLsbD i = true → i < 8 ∨ ∃ f ∈ fields, f.1 ≤ i ∧ i < f.1 + f.2

/-- The command register as an operation leaves it: STATUS over the image. -/
def Stated (u : State) (part : Nat) (img : BitVec 256) (status : Nat) : Prop :=
  ∃ p, u.part? part = some p ∧ p.command = BitVec.ofNat 8 status ++ img.extractLsb' 0 248

/-- Only STATUS was written. -/
def StatusOnly (s u : State) (part : Nat) (img : BitVec 256) (status : Nat) : Prop :=
  u = s.modPart part fun p => { p with command := BitVec.ofNat 8 status ++ img.extractLsb' 0 248 }

/-- Physical memory the device can read: it lies somewhere that answers, without error (R313). -/
def Readable (s : State) (pa n : Nat) : Prop := s.physCheck pa = none ∧ s.badIn pa n = false

/-- No line of a range of physical memory stands under a key (R321): a read or write without a key meets it as it is. -/
def Keyless (s : State) (pa n : Nat) : Prop := ∀ l ∈ linesOf pa n, getAt 0 s.lineKeys l < Config.firstGen

/-! ### Objects (R24, R62 to R64, R339) -/

/-- n bytes of an object at a, from `off` on, as the loader reads them through the context's translation; and can they be
read? -/
def objBits (s : State) (k : CtxId) (a off n : Nat) : BitVec (8 * n) :=
  BitVec.ofNat (8 * n) (leVal (s.homeRead k trackerCluster (a + off) n))
def ObjThere (s : State) (k : CtxId) (a off n : Nat) : Prop := s.rangeFault k trackerCluster (a + off) n .rd = none

/-- R62: a header without fault, but for its section table. -/
def GoodObjHeader (h : BitVec 512) : Prop :=
  bitsOf h 0 32 = 0x014F5650 ∧ bitsOf h 32 16 = 1 ∧ bitsOf h 48 16 = 0 ∧ bitsOf h 80 48 = 0 ∧ bitsOf h 192 320 = 0

/-- R62: where a header puts its section table, and is that in the object? -/
def GoodObjTable (h : BitVec 512) (len : Nat) : Prop :=
  1 ≤ bitsOf h 64 16 ∧ bitsOf h 64 16 ≤ 256 ∧ bitsOf h 128 64 % 8 = 0 ∧ bitsOf h 128 64 + 32 * bitsOf h 64 16 ≤ len

/-- R63: the section that an entry describes, and one without fault. -/
def sectionOf (e : BitVec 256) : Section := ⟨bitsOf e 0 8, bitsOf e 64 64, bitsOf e 128 64, bitsOf e 192 64⟩
def GoodSection (len : Nat) (e : BitVec 256) : Prop :=
  (1 ≤ bitsOf e 0 8 ∧ bitsOf e 0 8 ≤ 7 ∨ 0x80 ≤ bitsOf e 0 8) ∧ bitsOf e 8 56 = 0 ∧ bitsOf e 64 64 + bitsOf e 128 64 ≤ len

/-- R62, R63: an object of `len` bytes at a has a good header and these good sections, in their order. -/
structure ObjectAt (s : State) (k : CtxId) (a len : Nat) (xs : List Section) : Prop where
  long : 64 ≤ len
  there : ObjThere s k a 0 64
  header : GoodObjHeader (objBits s k a 0 64)
  table : GoodObjTable (objBits s k a 0 64) len
  number : xs.length = bitsOf (objBits s k a 0 64) 64 16
  entries : ∀ i x, xs[i]? = some x →
    let off := bitsOf (objBits s k a 0 64) 128 64 + 32 * i
    ObjThere s k a off 32 ∧ GoodSection len (objBits s k a off 32) ∧ x = sectionOf (objBits s k a off 32)

/-- R63: one contract and one code section, at most one of tables and of tasks. -/
def GoodSections (xs : List Section) : Prop :=
  (∃ x ∈ xs, x.kind = 1) ∧ (∃ x ∈ xs, x.kind = 2) ∧
    ∀ kind ∈ [1, 2, 3, 6], (xs.filter fun x => x.kind == kind).length ≤ 1

/-- R38, R64: a contract that a partition meets. -/
def Meets (c : BitVec 128) (p : Partition) : Prop :=
  bitsOf c 0 16 ≤ p.clusters ∧ bitsOf c 16 16 ≤ 128 ∧ bitsOf c 32 16 ≤ 2048

/-- R338, R339: the loader stopped with STATUS 0x04, its DETAIL, INDEX and SUBSTATUS; of all else only what `s` holds. -/
def LoadRefused (s u : State) (part : Nat) (img : BitVec 256) (detail index sub : Nat) : Prop :=
  ∃ cmd : BitVec 256, u = s.modPart part (fun p => { p with command := cmd }) ∧ bitsOf cmd 0 192 = bitsOf img 0 192 ∧
    bitsOf cmd 192 8 = detail ∧ bitsOf cmd 200 32 = index % 2 ^ 32 ∧ bitsOf cmd 232 8 = sub ∧ bitsOf cmd 248 8 = 4

/-- R63, R146, R339 step 3: what one section of the table adds to what the loader copies. -/
def CopiesSection (k : CtxId) (a i : Nat) (x : Section) (xs : List (Nat × Section)) (s : State) : Prop :=
  let copied := ObjThere s k a x.off x.size ∧ s.rangeFault k trackerCluster x.load x.size .wr = none
  let code := x.kind = 2 → x.size / 8 ≤ 2 ^ 24 ∧ x.load % 4096 = 0
  (x.kind = 2 → ¬(x.size / 8 ≤ 2 ^ 24 ∧ x.load % 4096 = 0) →
    copySections k a ((i, x) :: xs) s = .error (.refuse 5 i 0, s)) ∧
  (x.kind ∈ [2, 4, 5] → code → ∀ y f, s.rangeFault k trackerCluster x.load x.size .wr = some (y, f) →
    (∀ w, f ≠ .hold w) → copySections k a ((i, x) :: xs) s = .error (.refuse 6 i 0, s)) ∧
  (x.kind ∈ [2, 4, 5] → code → copied → ∃ s1, copySections k a ((i, x) :: xs) s = copySections k a xs s1 ∧
    ∀ pa, AtHome { s with cur := { s.cur with id := ⟨k.part, k.ctx, 0, 0⟩, cluster := trackerCluster } } x.load x.size pa →
      HomeStored s s1 pa (s.homeRead k trackerCluster (a + x.off) x.size)) ∧
  (x.kind ∉ [2, 4, 5, 6] → copySections k a ((i, x) :: xs) s = copySections k a xs s) ∧
  (x.kind = 6 → ∀ l, s.launchList k a i x = .ok l →
    copySections k a ((i, x) :: xs) s = copySections k a ((i, { x with kind := 4, off := x.off + l.2, size := x.size - l.2 }) :: xs) s)

/-- R24, R26, R62 to R64, R146, R155, R338 and R339: the loader's steps for an object at the command's ADDR of its LENGTH,
each with what makes it stop. -/
def LoadSteps (part : Nat) (img : BitVec 256) (s : State) (p : Partition) (c : Context) : Prop :=
  let k : CtxId := ⟨part, bitsOf img 8 12⟩
  let a := bitsOf img 64 64
  let len := bitsOf img 128 64
  let stops (detail index sub : Nat) (s1 : State) := Completes (.loadObject part img) s fun u =>
    LoadRefused s1 u part img detail index sub
  let head := objBits s k a 0 64
  let entry (i : Nat) := objBits s k a (bitsOf head 128 64 + 32 * i) 32
  (len < 64 ∨ ObjThere s k a 0 64 ∧ ¬GoodObjHeader head → stops 1 0 0 s) ∧
  (64 ≤ len → ObjThere s k a 0 64 → GoodObjHeader head →
    (¬GoodObjTable head len → stops 2 0 0 s) ∧
    ∀ i, GoodObjTable head len → i < bitsOf head 64 16 →
      (∀ j, j ≤ i → ObjThere s k a (bitsOf head 128 64 + 32 * j) 32) → (∀ j, j < i → GoodSection len (entry j)) →
      ¬GoodSection len (entry i) → stops 2 i 0 s) ∧
  ∀ xs, ObjectAt s k a len xs →
    ((∀ x ∈ xs, x.kind ≠ 1) ∨ (∀ x ∈ xs, x.kind ≠ 2) → stops 2 xs.length 0 s) ∧
    (¬GoodSections xs → ∃ i, stops 2 i 0 s) ∧
    (GoodSections xs → ∀ i x l stop, xs[i]? = some x → x.kind = 6 → s.launchList k a i x = .ok l →
      s.imagesEnd k (a + x.off + l.2) x.load i (x.size / 128 + 1) 0 (x.size - l.2) = .ok stop →
      (∃ ad ∈ l.1, launchOk x stop ad = false) → stops 2 i 0 s) ∧
    ∀ ci con code lists, GoodSections xs → xs[ci]? = some con → con.kind = 1 → code ∈ xs → code.kind = 2 →
      ((ofKind 6 xs).mapM fun x => s.launches k a x.1 x.2) = .ok lists → ObjThere s k a con.off 16 →
      let contract := objBits s k a con.off 16
      (¬Meets contract p → stops 3 ci 0 s) ∧
      (Meets contract p →
        (∀ x, x ∈ xs → x.kind = 3 → 8 ≤ x.size → ObjThere s k a x.off 8 →
          let w := objBits s k a x.off 8
          (bitsOf w 12 52 ≠ 0 ∨ 64 ≤ bitsOf w 0 8 ∨ bitsOf w 8 4 < 4 ∨ 9 < bitsOf w 8 4 ∨
            x.size < 16 + 32 * 2 ^ bitsOf w 8 4 → stops 4 0 0 s) ∧
          (bitsOf w 12 52 = 0 → bitsOf w 0 8 < 64 → 4 ≤ bitsOf w 8 4 → bitsOf w 8 4 ≤ 9 →
            x.size = 16 + 32 * 2 ^ bitsOf w 8 4 → ObjThere s k a (x.off + 8) 8 →
            (∀ n, n < 2 ^ bitsOf w 8 4 → ObjThere s k a (x.off + 16 + 32 * n) 32) →
            let hdr := objBits s k a (x.off + 8) 8
            let ents := (List.range (2 ^ bitsOf w 8 4)).map fun n => objBits s k a (x.off + 16 + 32 * n) 32
            (¬(GoodHeader (bitsOf w 8 4) hdr ∧ ∀ e ∈ ents, GoodEntry e) → stops 4 0 0 s) ∧
            (GoodHeader (bitsOf w 8 4) hdr → (∀ e ∈ ents, GoodEntry e) →
              s.objTables k a (x.off + x.size) c.nclusters (x.size / 8 + 1) x.off 0 [] = .ok [⟨bitsOf w 0 8,
                bitsOf w 8 4, List.replicate c.nclusters ⟨hdr, hdr, ents, ents, 0, none⟩, 0, none, [], 0, []⟩]))) ∧
        ∀ ts, (match (ofKind 3 xs).head? with
            | some x => s.objTables k a (x.2.off + x.2.size) c.nclusters (x.2.size / 8 + 1) x.2.off 0 []
            | none => .ok []) = .ok ts →
          (∀ detail i sub s1, detail < 256 → sub < 256 →
            copySections k a (enumFrom' 0 xs) s = .error (.refuse detail i sub, s1) → stops detail i sub s1) ∧
          ∀ s1, copySections k a (enumFrom' 0 xs) s = .ok s1 →
            (∀ i x, xs[i]? = some x → x.kind = 7 →
              let words (n : Nat) := ((xs.take n).map fun y => if y.kind = 7 then y.size / 8 else 0).sum
              words i ≤ 65536 → 65536 < words (i + 1) → stops 7 i 0 s1) ∧
            (∀ i x, ofKind 7 xs = [(i, x)] → x.size / 8 ≤ 65536 → (∀ j, j < x.size / 8 → ObjThere s k a (x.off + 8 * j) 8) →
              s.objFirmware k a (ofKind 7 xs) = .ok ((List.range (x.size / 8)).map fun j => objBits s k a (x.off + 8 * j) 8)) ∧
            (ofKind 7 xs = [] → s.objFirmware k a (ofKind 7 xs) = .ok []) ∧
            ∀ ws, s.objFirmware k a (ofKind 7 xs) = .ok ws →
              let s2 := s1.modCtx k fun c => { c with
                object := true, codeBase := code.load, codeLen := code.size / 8, tables := ts, engineCode := ws
                contract := ⟨bitsOf contract 0 16, bitsOf contract 16 16, bitsOf contract 32 16,
                  (bitsOf contract 48 8, bitsOf contract 56 8, bitsOf contract 64 8), bitsOf contract 72 8,
                  bitsOf contract 80 8⟩
                routes := routesOf part (bitsOf contract 48 8, bitsOf contract 56 8, bitsOf contract 64 8) s.portsDown }
              (∀ n sub s3, submitAll k 0 (lists.flatten.take n) s2 = .ok s3 → 0 < sub → sub < 256 →
                (∃ x s4, lists.flatten[n]? = some x ∧ s3.submitAt k x s3.time = some (sub, s4)) → stops 8 n sub s1) ∧
              ∀ s3, submitAll k 0 lists.flatten s2 = .ok s3 → Completes (.loadObject part img) s fun u =>
                u = s3.modPart part fun p => { p with command := BitVec.ofNat 8 0 ++ img.extractLsb' 0 248 })

/-! ### Contexts -/

/-- R336: a context's descriptor and stage-2 root that may be opened. -/
def GoodDescriptor (p : Partition) (d : BitVec 512) (root : Nat) : Prop :=
  bitsOf d 0 12 = 0 ∧ root ≠ 0 ∧ root % 4096 = 0 ∧ bitsOf d 148 12 = 0 ∧ bitsOf d 160 32 ≠ 0 ∧ bitsOf d 192 12 = 0 ∧
    bitsOf d 256 16 ≠ 0 ∧ bitsOf d 256 16 ≤ p.clusters ∧ bitsOf d 272 240 = 0

/-- A partition's record as an event leaves it, and nothing else but the list of messages and host memory changed. -/
structure OnlyPart (s u : State) (n : Nat) (p : Partition) : Prop where
  part : u.part? n = some p
  others : ∀ m, m ≠ n → u.part? m = s.part? m
  rest : u = { s with parts := u.parts, msix := u.msix, hostMem := u.hostMem }

/-- The entry at a host queue's TAIL: the queue, and the entry's words KIND, ADDR and VALUE (R340). -/
structure Entry (s : State) (part q : Nat) (x : Queue) (kind addr value : Nat) : Prop where
  queue : ∃ p, s.part? part = some p ∧ p.queues[q]? = some x ∧ (p.ctx? x.ctx).isSome = true
  runs : x.enable = true ∧ x.stopped = false ∧ x.head ≠ x.tail ∧ s.clocked part = true
  words : let e := leVal (readBytes s.hostMem
      (hostKey (part + 1) (x.base.toNat + 32 * (x.tail.toNat % 2 ^ x.sizeLog))) 32)
    e % 2 ^ 8 = kind ∧ e / 2 ^ 64 % 2 ^ 64 = addr ∧ e / 2 ^ 128 % 2 ^ 64 = value

/-- A host queue of a partition after an event. -/
def QueueIs (u : State) (part q : Nat) (x : Queue) : Prop := ∃ p, u.part? part = some p ∧ p.queues[q]? = some x

/-- The anchor replied: STATUS in byte 0, data from byte 8 on, and the function's mailbox message (R319). -/
def Replied (s u : State) (fn status data : Nat) : Prop :=
  (u.mailbox fn).reply = BitVec.ofNat 512 (status + data * 2 ^ 64) ∧ u.msix = s.msix ++ [(fn, 3)]

/-- A function's mailbox has appeared: with the host link, the physical function's before it if a signature failed in
stage 1 (R312). -/
def Appeared (s : State) (fn : Nat) : Prop := fn ≤ 24 ∧ (3 ≤ s.stage ∨ fn = 0 ∧ s.sigFailed = true ∧ 1 ≤ s.stage)

/-- A mailbox command that the anchor takes at once, no other of its function waiting, of a partition that is formed
(R312, R319). -/
def Heard (c : MailCmd) (s : State) (p : Partition) : Prop :=
  Appeared s c.fn ∧ (s.mailbox c.fn).waiting = [] ∧ s.part? (if c.fn = 0 then c.part else c.fn - 1) = some p

/-- Only a partition, the mailboxes, the messages and the generator's count changed. -/
def Mailed (s u : State) : Prop :=
  u = { s with parts := u.parts, mail := u.mail, msix := u.msix, draws := u.draws }

/-- Is a key slot EMPTY (R320)? -/
def KeySlot.isEmpty (k : KeySlot) : Bool :=
  match k with
  | .empty => true
  | .loaded _ _ => false

/-- No key slot of the module is LOADED. -/
def State.keyless (s : State) : Prop := ∀ p ∈ s.parts, ∀ k ∈ p.keys, k.isEmpty = true

/-- The level an alarm event reaches (R327): its own row's, and one more within a second of the last rise. -/
def levelAfter (s : State) (row : Nat) : Nat :=
  min 3 (row + match s.alarmAt with
    | some t => if s.time ≤ t + Config.second then 1 else 0
    | none => 0)

/-- What an event of R327 does: a level above the old one is taken, with what R328 says of it. -/
structure Alarmed (s u : State) (row : Nat) : Prop where
  level : u.alarm = max s.alarm (levelAfter s row)
  held : u.diesHeld = (s.diesHeld || (decide (s.alarm < 3) && levelAfter s row == 3))
  keys : s.alarm < levelAfter s row → 2 ≤ levelAfter s row → (s.erasePol = true ∨ levelAfter s row = 3) → u.keyless
  kept : levelAfter s row ≤ s.alarm → u = s
  rest : u = { s with
    alarm := u.alarm, alarmAt := u.alarmAt, msix := u.msix, diesHeld := u.diesHeld, parts := u.parts }

/-- A training block as an event leaves it; nothing else changed. -/
structure OnlyBlock (s u : State) (b : BlockId) (x : Block) : Prop where
  block : ∃ k, u.stack? b.stack = some k ∧ k.block b.group = x
  others : ∀ k j, s.stack? b.stack = some k → j ≠ b.group → ∃ k', u.stack? b.stack = some k' ∧ k'.block j = k.block j
  rest : u = { s with hbm := u.hbm }

/-- One training block took this state at the end of a test, whose bursts, `count` at most, wrote lines of its stack under
no key and no other byte (R309, log entry 86). -/
structure Tested (count : Nat) (s u : State) (b : BlockId) (x : Block) : Prop where
  block : ∃ k, u.stack? b.stack = some k ∧ k.block b.group = x
  others : ∀ k j, s.stack? b.stack = some k → j ≠ b.group → ∃ k', u.stack? b.stack = some k' ∧ k'.block j = k.block j
  rest : u = { s with hbm := u.hbm, mem := u.mem, lineKeys := u.lineKeys, badLines := u.badLines }
  bursts : ∃ ls : List Nat, ls.length ≤ count ∧
    (∀ l ∈ ls, (∃ r ∈ s.regions, r.kind = .hbm b.stack ∧ r.base / 64 ≤ l ∧ l < r.base / 64 + r.size / 64) ∧
      getAt 0 u.lineKeys l = 1 ∧ l ∉ u.badLines) ∧
    ∀ a, a / 64 ∉ ls → readByte u.mem a = readByte s.mem a ∧
      getAt 0 u.lineKeys (a / 64) = getAt 0 s.lineKeys (a / 64) ∧ (a / 64 ∈ u.badLines ↔ a / 64 ∈ s.badLines)

/-! ### Words, fields and relations as the spec lists them -/

/-- The opcodes that R58 defines in each class, by its ranges. -/
def definedOpcode (cls op : Nat) : Bool :=
  let span (a b : Nat) : Bool := a ≤ op && op ≤ b
  match cls with
  | 0 => span 0x001 0x016 || span 0x040 0x048 || span 0x060 0x06D || span 0x100 0x114 || span 0x180 0x186
      || span 0x1C0 0x1D6
  | 1 => span 0x001 0x009
  | 2 => span 0x001 0x008 || span 0x040 0x049 || span 0x060 0x064 || span 0x080 0x089 || span 0x0C0 0x0CB
      || span 0x100 0x103 || span 0x110 0x119 || span 0x180 0x186 || span 0x188 0x18B || span 0x190 0x191
      || span 0x198 0x198 || span 0x1A0 0x1A2
  | _ => span 0x000 0x000 || span 0x010 0x017 || span 0x020 0x024 || span 0x028 0x02B || span 0x03F 0x03F

/-- The field a descriptor names (R68): its position, and its length cut at bit 63. -/
def fieldPos (d : Word) : Nat := (d.extractLsb' 0 6).toNat
def fieldLen (d : Word) : Nat := min (d.extractLsb' 8 7).toNat (64 - fieldPos d)
def fieldNone (d : Word) : Prop := (d.extractLsb' 8 7).toNat = 0 ∨ 64 < (d.extractLsb' 8 7).toNat

/-! ### Runs -/


/-- A machine that runs: some number of steps, each answering a next state. -/
inductive Runs : State → State → Prop where
  | refl (s : State) : Runs s s
  | step {s t u : State} (h : Machine.step s = .next t) (r : Runs t u) : Runs s u

/-- The step that runs an instruction: the agenda's head names a READY thread of a running task on a loaded and
clocked context whose turn it is on its core, and the time before it has passed. `s1` is the machine with the thread's
registers checked out. -/
structure IssuesNext (s s1 : State) (t : TId) : Prop where
  head : ∃ dt rest h stalled, s.agenda = (dt, .issue t stalled) :: rest ∧
    let now := State.passTime dt { s with agenda := rest }
    State.mayIssue now t stalled = true ∧ now.awake? t = some h ∧ h.life = .here .ready ∧ now.stopping t = false ∧
    s1 = State.checkOut h now

/-- Does an instruction name no retained bank and no absent granule of its thread (R43, R342)? -/
def Awake (c : Code) (h : Thread) : Prop := ∀ g ∈ codeGranules c, g ∉ h.absent ∧ (g < 32 → g / 8 ∉ h.retained)

/-! ### What only the anchor firmware reads or writes (R318) -/

/-- A monitor's configuration (R325). -/
def Monitor.config (m : Monitor) : Nat × Nat × Bool := (m.base, m.limit, m.enable)

/-- What R318 keeps of a partition. -/
structure Kept where
  num : Nat
  keys : List KeySlot
  secret : BitVec 256
  epochs : List (Nat × Nat)
  level : Nat
  dies : List Nat
  quarter : Nat
  clusters : Nat
  monitors : List (Nat × Nat × Bool)
  frozen : Bool
  scanOk : Bool

def Partition.kept (p : Partition) : Kept :=
  ⟨p.num, p.keys, p.secret, p.epochs, p.level, p.dies, p.quarter, p.clusters, p.monitors.map Monitor.config,
    p.frozen, p.scanOk⟩

/-- What R318 keeps of the module, with the alarm (R328) and the stage (R312). -/
def State.kept (s : State) : List Kept × Nat × Option Nat × Bool × Bool × Nat × Nat :=
  (s.parts.map Partition.kept, s.alarm, s.alarmAt, s.erasePol, s.diesHeld, s.stage, s.clock)

/-! ### The invariant of the module -/

/-- The levels, stages and clock the spec names (R312, R327, R328, R347); no partition before stage 3 (R312); at
alarm level 3 the dies are held and no key is LOADED, nor is one at level 2 where the policy erases (R328); memory
keeps its canonical form. -/
structure Inv (s : State) : Prop where
  alarm : s.alarm ≤ 3
  stage : s.stage ≤ 5
  slow : 8 ≤ s.clock
  fast : s.clock ≤ 16
  held : s.alarm = 3 → s.diesHeld = true
  keys : s.alarm = 3 ∨ (s.alarm = 2 ∧ s.erasePol = true) → s.keyless
  formed : s.stage < 3 → s.parts = []
  mem : Memory.wf s.mem = true
  host : Memory.wf s.hostMem = true

end Sys2Proof.Machine
end

