-- ==== Sys2Proof/Certificates/Slice0/Obligations.lean ====
section
/-! DEFINITION. What the provers are asked to prove of the model, each statement citing the rules of spec/ it rests on. -/

open Sys2Proof Sys2Proof.Machine

/-! ### Words and decoding -/

/-- R45 to R58. The decoder reads every well-formed instruction back from the word the encoder writes for it: no
bit of an encoding is dropped. -/
def Obligations.DecodeOfEncode : Prop :=
  ∀ (i : Instr) (w : Word), i.wf = true → encode i = some w → decode w = .ok i

/-- R45 to R57. A word the decoder accepts is the one word of a well-formed instruction. -/
def Obligations.EncodeOfDecode : Prop :=
  ∀ (w : Word) (i : Instr), decode w = .ok i → i.wf = true ∧ encode i = some w

/-- R57 step 1, R58. Exactly the opcodes of R58's table are defined; every other word fails at step 1. -/
def Obligations.ReservedOpcodes : Prop :=
  ∀ w : Word, decode w = .error .opcode ↔
    definedOpcode (w.extractLsb' 62 2).toNat (w.extractLsb' 52 10).toNat = false

/-- The words that the spec works out in R58's two encodings and in R66, R69, R73, R86, R96 and R234 are read as the
instructions it names. -/
def Obligations.WordsOfTheSpec : Prop :=
  let any : Guard := ⟨false, 0⟩
  let no : SrcMod := ⟨false, false⟩
  let fma (g : Guard) : Instr := .vfma ⟨g, .fp32, .reg 4, .sat, 2, .reg 1, .reg 2, .inc 3, ⟨true, false⟩, ⟨false, true⟩, no⟩
  decode 0x8010202044000000 = .ok (.ld ⟨any, .i32, .reg 2, .reg 4, 0x100000, .gm, .plain, .cl⟩) ∧
  decode 0x10308044804090E4 = .ok (fma any) ∧
  decode 0x103A8044804090E4 = .ok (fma ⟨true, 2⟩) ∧
  decode 0x006020600080C000 = .ok (.rem ⟨any, .i32, .reg 6, .none, 0, .reg 2, .reg 3, .reg 0, no, no, no⟩) ∧
  decode 0x4050304010000003 = .ok (.shli ⟨any, .i64, .reg 4, .reg 1, 3⟩) ∧
  decode 0x4080307000000000 = .ok (.movi ⟨any, .i64, .reg 7, .reg 0, 0⟩) ∧
  decode 0x0620002000400000 = .ok (.cset ⟨any, .i8, .reg 2, .none, 0, .reg 1, .reg 0, .reg 0, no, no, no⟩) ∧
  decode 0xC100006A0000000B = .ok (.matchT ⟨any, 0, 3, 10, 11⟩) ∧
  decode 0xC230000000000000 = .ok (.nop ⟨any, 0, 0, 0, 0⟩) ∧
  decode 0xC3F0008500000034 = .ok (.xinv ⟨any, 0, 4, 5, 0x34⟩) ∧
  decode 0 = .error .opcode

/-- A step runs the decoded instruction: where the bytes that the issuing thread fetches decode to an instruction,
the step is `exec` of it on the thread's checked-out registers, which then go back into the thread's record; what the
act left is then noticed (R213, R218). An engine's firmware must keep to its profile (R261). An instruction that names
a register bank at retention or a granule not yet restored waits for it instead (R43, R342; log entry 45). -/
def Obligations.StepRunsDecoded : Prop :=
  ∀ (s s1 : State) (t : TId) (bs tail : List Byte) (i : Instr) (c : Code), IssuesNext s s1 t → s1.fetch = .ok bs →
    decodeBytes bs = .ok (i, tail) → i.code = some c → (s1.cur.role = none ∨ Code.inProfile c = true) →
    let s2 := s1.noteFetch
    (Awake c s2.cur → step s = noticed s (putBack (exec i s2))) ∧
    (¬Awake c s2.cur → ∃ banks gone due, (∀ g, g ∈ gone ↔ g ∈ s2.cur.absent ∧ g ∈ codeGranules c) ∧
      s2.time ≤ due ∧ due ≤ s2.time + 12 ∧ step s = noticed s (putBack (.next { s2 with cur := { s2.cur with
        retained := banks, life := .here (.waiting (.again (.regs gone due))) } })))

/-- R57, R220. Fetched bytes that are no instruction trap at steps 1 to 3: cause 0x01 and 0x02 with the word in
%tinfo, 0x04 with the first register of the misaligned group; %taddr is the code index. -/
def Obligations.UndecodedTraps : Prop :=
  ∀ (s s1 : State) (t : TId) (bs : List Byte) (e : DecErr), IssuesNext s s1 t → s1.fetch = .ok bs →
    decodeBytes bs = .error e →
    ∃ u, step s = noticed s (putBack (.next u)) ∧
      Trapped s1.noteFetch u (match e with | .opcode => 0x01 | .field => 0x02 | .group _ => 0x04)
        (s1.cur.pc.setWidth 64)
        (match e with | .opcode => wordOfBytes bs | .field => wordOfBytes bs | .group n => BitVec.ofNat 64 n)

/-! ### Scalar instructions -/

/-- R49. A scalar-tested instruction whose guard fails, and whose vector registers exist, moves on and changes
nothing else: no register, no flag, no stream pointer, no memory. -/
def Obligations.GuardFails : Prop :=
  ∀ (i : Instr) (s : State) (g : Guard), scalarTested i = true → guardOf i = some g → s.cur.guardOk g = false →
    (∀ c, i.code = some c → Allocated c s) → Completes i s (Moved s)

/-- R65, R66. Addition, subtraction and multiplication wrap at the type's width, or saturate under the destination
clamp; `MULH` gives the high half of the exact product; `MIN` and `MAX` compare as the type reads its operands. -/
def Obligations.IntegerArithmetic : Prop :=
  Gives2 .add (fun t cl a b => narrow t cl (reads t a + reads t b)) ∧
  Gives2 .sub (fun t cl a b => narrow t cl (reads t a - reads t b)) ∧
  Gives2 .mul (fun t cl a b => narrow t cl (reads t a * reads t b)) ∧
  Gives2 .mulh (fun t _ a b => highProduct t a b) ∧
  Gives2 .min (fun t _ a b => if reads t b < reads t a then b else a) ∧
  Gives2 .max (fun t _ a b => if reads t a < reads t b then b else a)

/-- R67. `DIV` and `REM` truncate toward zero, and neither a zero divisor nor an overflow traps. -/
def Obligations.Division : Prop :=
  Gives2 .div (fun t _ a b => quotient t a b) ∧ Gives2 .rem (fun t _ a b => remainder t a b)

/-- R65, R66. The bitwise, shift, rotate and count instructions act on the low w bits, shift amounts modulo w. -/
def Obligations.IntegerBits : Prop :=
  Gives2 .and (fun _ _ a b => a &&& b) ∧
  Gives2 .or (fun _ _ a b => a ||| b) ∧
  Gives2 .xor (fun _ _ a b => a ^^^ b) ∧
  Gives2 .andn (fun _ _ a b => a &&& ~~~ b) ∧
  Gives2 .shl (fun t _ a b => a <<< (b.toNat % t.bits)) ∧
  Gives2 .shr (fun t _ a b => a >>> (b.toNat % t.bits)) ∧
  Gives2 .sra (fun t _ a b => a.sshiftRight (b.toNat % t.bits)) ∧
  Gives2 .rot (fun t _ a b => a.rotateLeft (b.toNat % t.bits)) ∧
  Gives2 .clz (fun t _ a _ => BitVec.ofNat t.bits
    ((List.range t.bits).takeWhile fun i => !a.getLsbD (t.bits - 1 - i)).length) ∧
  Gives2 .popc (fun t _ a _ => BitVec.ofNat t.bits ((List.range t.bits).filter fun i => a.getLsbD i).length) ∧
  Gives2 .bswap (fun t _ a _ => BitVec.ofNat t.bits
    (leVal ((List.range (t.bits / 8)).map fun i => a.extractLsb' (8 * i) 8).reverse))

/-- R68. `EXTB` and `INSB` act on the field that a descriptor register names, its length judged before it is cut to the
width (log entry 60); the decoder accepts modifiers on the first source of `EXTB` alone. -/
def Obligations.BitFields : Prop :=
  (∀ (x : RegForm) (s : State), x.t = .i64 ∨ x.t = .n64 → s.cur.guardOk x.g = true →
    let a : Word := (srcBits s.cur x.t x.m1 x.s1).setWidth 64
    let d := s.cur.sreg x.s2.num5
    Completes (.extb x) s fun t => ∃ v, WroteS s t x.dst.num5 v ∧
      (fieldNone d → v = 0) ∧
      (¬fieldNone d → ∀ j, j < 64 → v.getLsbD j =
        if j < fieldLen d then a.getLsbD (fieldPos d + j)
        else x.t == .i64 && a.getLsbD (fieldPos d + fieldLen d - 1))) ∧
  (∀ (x : RegForm) (s : State), s.cur.guardOk x.g = true →
    let a := s.cur.sreg x.s1.num5
    let b := s.cur.sreg x.s2.num5
    let d := s.cur.sreg x.s3.num5
    Completes (.insb x) s fun t => ∃ v, WroteS s t x.dst.num5 v ∧
      (fieldNone d → v = a) ∧
      (¬fieldNone d → ∀ j, j < 64 → v.getLsbD j =
        if fieldPos d ≤ j ∧ j < fieldPos d + fieldLen d then b.getLsbD (j - fieldPos d) else a.getLsbD j)) ∧
  (∀ x : RegForm, Code.fieldsOk (.reg 0x014 x) = true → x.m2.isZero = true) ∧
  (∀ x : RegForm, Code.fieldsOk (.reg 0x015 x) = true →
    x.t = .x ∧ x.m1.isZero = true ∧ x.m2.isZero = true ∧ x.m3.isZero = true)

/-- R69, R70. The immediate forms, the immediate sign-extended; `MOVHI` replaces quarter k of the register. -/
def Obligations.Immediates : Prop :=
  GivesImm .addi (fun _ a i => a + i) ∧
  GivesImm .andi (fun _ a i => a &&& i) ∧
  GivesImm .ori (fun _ a i => a ||| i) ∧
  GivesImm .xori (fun _ a i => a ^^^ i) ∧
  GivesImm .shli (fun t a i => a <<< (i.toNat % t.bits)) ∧
  GivesImm .shri (fun t a i => a >>> (i.toNat % t.bits)) ∧
  GivesImm .srai (fun t a i => a.sshiftRight (i.toNat % t.bits)) ∧
  GivesImm .movi (fun _ _ i => i) ∧
  (∀ (x : ImmForm) (s : State), s.cur.guardOk x.g = true →
    Completes (.movhi x) s fun t => ∃ v, WroteS s t x.dst.num5 v ∧ ∀ j, j < 64 → v.getLsbD j =
      if j / 16 = (x.imm.extractLsb' 16 2).toNat then x.imm.getLsbD (j % 16)
      else (s.cur.sreg x.src.num5).getLsbD j)

/-- R71 to R74. `CMP`, `CBIT` and `CSET` write one condition bit and no flag; `SEL` copies a register by a bit. -/
def Obligations.Conditions : Prop :=
  (∀ (x : RegForm) (s : State), x.t.isInt = true → x.dst.num5.toNat < 16 → x.s3.num5.toNat ≤ 5 →
    s.cur.guardOk x.g = true → Completes (.cmp x) s fun t => WroteC s t x.dst.num5.toNat
      (relation x.s3.num5.toNat (reads x.t (srcBits s.cur x.t x.m1 x.s1)) (reads x.t (srcBits s.cur x.t x.m2 x.s2))) 0) ∧
  (∀ (x : RegForm) (s : State), x.dst.num5.toNat < 16 → x.s3.num5.toNat ≤ 5 → s.cur.guardOk x.g = true →
    let a := s.cur.cbit x.s1.num5.toNat
    let b := s.cur.cbit x.s2.num5.toNat
    Completes (.cbit x) s fun t => WroteC s t x.dst.num5.toNat
      (([a && b, a || b, xor a b, a && !b, a || !b, !(xor a b)]).getD x.s3.num5.toNat false) 0) ∧
  (∀ (x : RegForm) (s : State), x.dst.num5.toNat < 16 → s.cur.guardOk x.g = true →
    Completes (.cset x) s fun t => WroteC s t x.dst.num5.toNat (x.s1.num5 == 1) 0) ∧
  (∀ (x : RegForm) (s : State), s.cur.guardOk x.g = true → Completes (.sel x) s fun t =>
    WroteS s t x.dst.num5
      (if s.cur.cbit x.s3.num5.toNat = true then s.cur.sreg x.s1.num5 else s.cur.sreg x.s2.num5))

/-- R66, R75. `LEA` adds a scaled index modulo 2^64; the moves copy bits without change between scalar registers and
parameters, conditions, predicates and stream pointers. -/
def Obligations.Moves : Prop :=
  ∀ (x : RegForm) (s : State), s.cur.guardOk x.g = true →
    let d := x.dst.num5
    let a := s.cur.sreg x.s1.num5
    Completes (.lea x) s (fun t => WroteS s t d
      (BitVec.ofNat 64 (a.toNat + (s.cur.sreg x.s2.num5).toNat * (x.t.bits / 8)))) ∧
    Completes (.movSS x) s (fun t => WroteS s t d a) ∧
    Completes (.movSA x) s (fun t => WroteS s t d ((s.cur.areg (x.s1.num5.setWidth 2)).setWidth 64)) ∧
    Completes (.movSC x) s (fun t => WroteS s t d (s.cur.c.setWidth 64)) ∧
    Completes (.movCS x) s (fun t => t = { s with cur := { s.cur with c := a.setWidth 16, pc := s.cur.pc + 1 } }) ∧
    Completes (.movSP x) s (fun t => WroteS s t d (s.cur.preg (x.s1.num5.setWidth 3))) ∧
    Completes (.movPS x) s (fun t => WroteP s t (d.setWidth 3) a) ∧
    Completes (.movSQ x) s (fun t => WroteS s t d (s.cur.qreg (x.s1.num5.setWidth 3))) ∧
    Completes (.movQS x) s (fun t => t.cur.qreg (d.setWidth 3) = a ∧
      (∀ n, n ≠ d.setWidth 3 → t.cur.qreg n = s.cur.qreg n) ∧
      t = { s with cur := { s.cur with q := t.cur.q, pc := s.cur.pc + 1 } })

/-- R82 to R84. `GETS` reads the status register that its source names, the last of them %tkstate. A reading of %time may
lead the machine's by up to 4: the lead is the model's free value (log entries 7 and 56). -/
def Obligations.StatusReads : Prop :=
  ∀ (x : RegForm) (s : State), s.cur.guardOk x.g = true → x.s1.num5.toNat ≤ 21 →
    let h := s.cur
    Completes (.gets x) s fun t => ∃ v : Word, WroteS s t x.dst.num5 v ∧
      (x.s1.num5 = 12 → ∃ k, k ≤ 4 ∧ v = BitVec.ofNat 64 (s.time + k)) ∧
      (x.s1.num5 ≠ 12 → v = ([BitVec.ofNat 64 h.id.thread, h.nthreads.setWidth 64, BitVec.ofNat 64 h.id.task,
        BitVec.ofNat 64 h.core, BitVec.ofNat 64 h.cluster, BitVec.ofNat 64 h.seat, 16, 128, 128, 131072, 2097152,
        BitVec.ofNat 64 h.vregs, 0, h.rmode, h.fflags, h.seed, h.tcause, h.taddr, h.tinfo, h.scopeclamp,
        h.predmiss, h.tkstate]).getD x.s1.num5.toNat 0)

/-- R82 to R84, R110, R298. `PUTS` writes %rmode, %fflags, %seed (which clears the rounding and draw counters) and
%tkstate, and clears bits of %scopeclamp; a value with a bit that the map gives as zero traps with cause 0x02 and
writes nothing. -/
def Obligations.StatusWrites : Prop :=
  ∀ (x : RegForm) (s : State), s.cur.guardOk x.g = true →
    let v := s.cur.sreg x.s1.num5
    let n := x.dst.num5
    let bad := ∃ u, exec (.puts x) s = .next u ∧
      Trapped s u 0x02 (s.cur.pc.setWidth 64) (Code.word (.reg 0x06D x))
    let now (h : Thread) := Completes (.puts x) s fun t => t = { s with cur := { h with pc := s.cur.pc + 1 } }
    (n = 13 → v.toNat < 8 → now { s.cur with rmode := v }) ∧
    (n = 14 → v.toNat < 64 → now { s.cur with fflags := v }) ∧
    (n = 15 → now { s.cur with seed := v, rcount := 0, dcount := 0 }) ∧
    (n = 19 → v.toNat < 2 → now { s.cur with scopeclamp := s.cur.scopeclamp &&& ~~~ v }) ∧
    (n = 21 → v.toNat < 2 ^ 26 → now { s.cur with tkstate := v }) ∧
    (n = 13 → 8 ≤ v.toNat → bad) ∧ (n = 14 → 64 ≤ v.toNat → bad) ∧ (n = 19 → 2 ≤ v.toNat → bad) ∧
    (n = 21 → 2 ^ 26 ≤ v.toNat → bad)

/-! ### Scalar floating point -/

/-- R51, R76, R77, R84, R107, R111. Sums, products and fused products of finite numbers are the exact result, scaled by
SCALE, rounded once as %rmode asks, with exactly the flags of that rounding, and clamped. -/
def Obligations.FloatRounding : Prop :=
  ∀ (x : RegForm) (s : State), x.t.isF = true → s.cur.guardOk x.g = true →
    let a := floatSrc s.cur x.t x.m1 x.s1
    let b := floatSrc s.cur x.t x.m2 x.s2
    let c := floatSrc s.cur x.t x.m3 x.s3
    let p (e : Rat) := Finishes x (s.cur.rmode.toNat % 4) e
    special x.t a = false → special x.t b = false →
    GivesFloat .fadd x s (p (number x.t a + number x.t b)) ∧
    GivesFloat .fsub x s (p (number x.t a - number x.t b)) ∧
    GivesFloat .fmul x s (p (number x.t a * number x.t b)) ∧
    (special x.t c = false → GivesFloat .fma x s (p (number x.t a * number x.t b + number x.t c)))

/-- R51, R76, R77. The scalar arithmetic completes on every operand. A NaN result is canonical; only a signalling NaN,
∞ − ∞ and 0 × ∞ are invalid; an infinity that meets neither stays one; an exact zero takes R77's sign; and each result is
clamped, to no flag. -/
def Obligations.FloatSpecials : Prop :=
  ∀ (x : RegForm) (s : State), x.t.isF = true → s.cur.guardOk x.g = true →
    let a := floatSrc s.cur x.t x.m1 x.s1
    let b := floatSrc s.cur x.t x.m2 x.s2
    let c := floatSrc s.cur x.t x.m3 x.s3
    let m := s.cur.rmode.toNat % 4
    GivesFloat .fadd x s (SumSpecials x.t x.clamp m a b) ∧
    GivesFloat .fsub x s (SumSpecials x.t x.clamp m a (b ^^^ zeroOf x.t true)) ∧
    GivesFloat .fmul x s (ProductSpecials x.t x.clamp a b) ∧
    GivesFloat .fma x s (FusedSpecials x.t x.clamp m a b c)

/-- R78, R79, R81. `FMIN` and `FMAX` give one of their operands by R78's order, `FCMP` writes one condition bit and
`FCLASS` one class bit, with the NaN rules of each. That the source modifiers act on the sources of `FMIN`, `FMAX` and
`FCMP` is the model's reading (log entry 48). -/
def Obligations.FloatComparisons : Prop :=
  ∀ (x : RegForm) (s : State), x.t.isF = true → s.cur.guardOk x.g = true →
    let t := x.t
    let a := floatSrc s.cur t x.m1 x.s1
    let b := floatSrc s.cur t x.m2 x.s2
    GivesFloat .fmin x s (Extreme t false a b) ∧
    GivesFloat .fmax x s (Extreme t true a b) ∧
    (x.dst.num5.toNat < 16 → x.s3.num5.toNat ≤ 6 →
      let code := x.s3.num5.toNat
      let value (r : BitVec t.bits) : Int := if r.msb then -(magnitude t r : Int) else magnitude t r
      Completes (.fcmp x) s fun u =>
        if isNaN t a = true ∨ isNaN t b = true then
          WroteC s u x.dst.num5.toNat (code == 1 || code == 6) (if 2 ≤ code ∧ code ≤ 5 then Fl.nv else signals t [a, b])
        else WroteC s u x.dst.num5.toNat (code != 6 && relation code (value a) (value b)) 0) ∧
    Completes (.fclass x) s fun u =>
      let r := (s.cur.sreg x.s1.num5).setWidth t.bits
      WroteS s u x.dst.num5 (BitVec.ofNat 64 (2 ^
        (if isNaN t r = true then (if isSignalling t r = true then 8 else 9)
        else if isInfinite t r = true then (if r.msb then 0 else 7)
        else if isZero t r = true then (if r.msb then 3 else 4)
        else if expField t r = 0 then (if r.msb then 2 else 5)
        else (if r.msb then 1 else 6))))

/-- R80, R106 to R110. `FCVT` completes for every pair of types it takes; it is exact to a wider float, rounded to a
narrower one unless %rmode[2] makes that stochastic, which picks a neighbour and moves the rounding counter, and
rounded and bounded to an integer; SCALE and CLAMP act as R51 and R80 say. The model's choices: the source modifier acts
on a float source (log entry 48), and an integer to an integer type, which no table row gives, wraps or saturates by value
(log entry 59). -/
def Obligations.FloatConversions : Prop :=
  ∀ (x : RegForm) (s : State) (u : Ty), Code.fieldsOk (.reg 0x047 x) = true → x.srcTy = some u →
    s.cur.guardOk x.g = true →
    let a : BitVec u.bits := (s.cur.sreg x.s1.num5).setWidth u.bits
    let narrower := x.t.isF = true ∧ u.isF = true ∧ x.t ≠ .fp32
    Completes (.fcvt x) s fun t => ∃ (r : BitVec x.t.bits) (f : Flags),
      WroteSF s { t with cur := { t.cur with rcount := s.cur.rcount } } x.dst.num5
        (if x.t.isInt = true then standing x.t r else r.setWidth 64) f ∧
      (t.cur.rcount = if s.cur.rmode.getLsbD 2 = true ∧ narrower then s.cur.rcount + 1 else s.cur.rcount) ∧
      Converts x u s.cur a r f ∧
      (x.t = .fp32 → u.isF = true → special u (floatMod u x.m1 a) = false → x.clamp = .none → x.scale = 0 →
        number x.t r = number u (floatMod u x.m1 a) ∧ r.msb = (floatMod u x.m1 a).msb ∧ f = 0)

/-! ### Vector instructions -/

/-- R124, R127, R128, R129. The integer lane instructions act on each active element at its own width, and on no other;
operands may be registers or streams. -/
def Obligations.VectorIntegers : Prop :=
  GivesLanes 0x100 .vadd (fun t cl a b _ => narrow t cl (reads t a + reads t b)) ∧
  GivesLanes 0x101 .vsub (fun t cl a b _ => narrow t cl (reads t a - reads t b)) ∧
  GivesLanes 0x102 .vmul (fun t cl a b _ => narrow t cl (reads t a * reads t b)) ∧
  GivesLanes 0x103 .vfma (fun t cl a b c => narrow t cl (reads t a * reads t b + reads t c)) ∧
  GivesLanes 0x104 .vmin (fun t _ a b _ => if reads t b < reads t a then b else a) ∧
  GivesLanes 0x105 .vmax (fun t _ a b _ => if reads t a < reads t b then b else a) ∧
  GivesLanes 0x10A .vmulh (fun t _ a b _ => highProduct t a b) ∧
  GivesLanes 0x10B .vand (fun _ _ a b _ => a &&& b) ∧
  GivesLanes 0x10C .vor (fun _ _ a b _ => a ||| b) ∧
  GivesLanes 0x10D .vxor (fun _ _ a b _ => a ^^^ b) ∧
  GivesLanes 0x10E .vshl (fun t _ a b _ => a <<< (b.toNat % t.bits)) ∧
  GivesLanes 0x10F .vshr (fun t _ a b _ => a >>> (b.toNat % t.bits)) ∧
  GivesLanes 0x110 .vsra (fun t _ a b _ => a.sshiftRight (b.toNat % t.bits)) ∧
  GivesLanes 0x111 .vpopc (fun t _ a _ _ => BitVec.ofNat t.bits ((List.range t.bits).filter fun i => a.getLsbD i).length) ∧
  GivesLanes 0x112 .vclz (fun t _ a _ _ => BitVec.ofNat t.bits
    ((List.range t.bits).takeWhile fun i => !a.getLsbD (t.bits - 1 - i)).length)

/-- R51, R76 to R78, R107, R111, R127, R128. Each active element of a float sum, difference, product or fused product of
finite numbers is the exact result scaled, rounded once and clamped; one of NaNs, infinities or an exact zero is as for
the scalar forms; a minimum or maximum is one of its operands; and %fflags gains exactly the flags of the active
elements. -/
def Obligations.VectorRounding : Prop :=
  let all (_ : RegForm) : Prop := True
  GivesFloatLanes 0x100 .vadd all (fun x m a b _ r f => SumSpecials x.t x.clamp m a b r f ∧
    (special x.t a = false → special x.t b = false → Finishes x m (number x.t a + number x.t b) r f)) ∧
  GivesFloatLanes 0x101 .vsub all (fun x m a b _ r f => SumSpecials x.t x.clamp m a (b ^^^ zeroOf x.t true) r f ∧
    (special x.t a = false → special x.t b = false → Finishes x m (number x.t a - number x.t b) r f)) ∧
  GivesFloatLanes 0x102 .vmul all (fun x m a b _ r f => ProductSpecials x.t x.clamp a b r f ∧
    (special x.t a = false → special x.t b = false → Finishes x m (number x.t a * number x.t b) r f)) ∧
  GivesFloatLanes 0x103 .vfma all (fun x m a b c r f => FusedSpecials x.t x.clamp m a b c r f ∧
    (special x.t a = false → special x.t b = false → special x.t c = false →
      Finishes x m (number x.t a * number x.t b + number x.t c) r f)) ∧
  GivesFloatLanes 0x104 .vmin all (fun x _ a b _ r f => Extreme x.t false a b r f) ∧
  GivesFloatLanes 0x105 .vmax all (fun x _ a b _ r f => Extreme x.t true a b r f)

/-- R128, R132 to R135. The division and root instructions round the exact quotient or root once (a root lies between
two rationals that round to the same value with the same flags); `FRINT` rounds to an integer by its mode; `FEXF` rounds
a number within 2^−30 of the power to nearest, exactly at −1, 0 and 1; `FINSX` scales any finite number by any finite
one; and the special cases of these and `FGETX`, each with the flag it raises. -/
def Obligations.VectorSpecials : Prop :=
  let plain (x : RegForm) : Prop := x.clamp = .none
  let nan (x : RegForm) (p : Prop) (r : BitVec x.t.bits) (f : Flags) : Prop := p → r = canonical x.t ∧ f = Fl.nv
  let quiet (x : RegForm) (a r : BitVec x.t.bits) (f : Flags) : Prop := isNaN x.t a = true →
    r = canonical x.t ∧ f = if isSignalling x.t a = true then Fl.nv else 0
  let finite (t : Ty) (a : BitVec t.bits) : Prop := special t a = false ∧ isZero t a = false
  let root (x : RegForm) (m : Nat) (q : Rat) (r : BitVec x.t.bits) (f : Flags) : Prop := ∃ lo hi : Rat,
    0 < lo ∧ lo ^ 2 ≤ q ∧ 0 < hi ∧ q ≤ hi ^ 2 ∧ Rounded x.t m (lo * 2 ^ x.scale.toInt) r f ∧
      Rounded x.t m (hi * 2 ^ x.scale.toInt) r f
  GivesFloatLanes 0x106 .vdiv plain (fun x m a b _ r f =>
    (finite x.t a → finite x.t b → Rounded x.t m (number x.t a / number x.t b * 2 ^ x.scale.toInt) r f) ∧
    (isZero x.t a = true → finite x.t b → r = zeroOf x.t (a.msb != b.msb) ∧ f = 0) ∧
    (isInfinite x.t a = true → special x.t b = false → r = infinity x.t (a.msb != b.msb) ∧ f = 0) ∧
    (finite x.t a → isZero x.t b = true → r = infinity x.t (a.msb != b.msb) ∧ f = Fl.dz) ∧
    nan x (isZero x.t a = true ∧ isZero x.t b = true ∨ isInfinite x.t a = true ∧ isInfinite x.t b = true) r f ∧
    (special x.t a = false → isInfinite x.t b = true → r = zeroOf x.t (a.msb != b.msb) ∧ f = 0) ∧
    (isNaN x.t a = true ∨ isNaN x.t b = true → r = canonical x.t ∧
      f = if isSignalling x.t a = true ∨ isSignalling x.t b = true then Fl.nv else 0)) ∧
  GivesFloatLanes 0x107 .vrcp plain (fun x m a _ _ r f =>
    (finite x.t a → Rounded x.t m (1 / number x.t a * 2 ^ x.scale.toInt) r f) ∧
    (isZero x.t a = true → r = infinity x.t a.msb ∧ f = Fl.dz) ∧
    (isInfinite x.t a = true → r = zeroOf x.t a.msb ∧ f = 0) ∧ quiet x a r f) ∧
  GivesFloatLanes 0x108 .vrsq plain (fun x m a _ _ r f =>
    (finite x.t a → a.msb = false → root x m (1 / number x.t a) r f) ∧
    (isZero x.t a = true → r = infinity x.t a.msb ∧ f = Fl.dz) ∧
    (isInfinite x.t a = true → a.msb = false → r = zeroOf x.t false ∧ f = 0) ∧
    nan x (isNaN x.t a = false ∧ isZero x.t a = false ∧ a.msb = true) r f ∧ quiet x a r f) ∧
  GivesFloatLanes 0x109 .vsqrt plain (fun x m a _ _ r f =>
    (finite x.t a → a.msb = false → root x m (number x.t a) r f) ∧
    (isInfinite x.t a = true → a.msb = false → r = a ∧ f = 0) ∧
    (isZero x.t a = true → r = a ∧ f = 0) ∧
    nan x (isNaN x.t a = false ∧ isZero x.t a = false ∧ a.msb = true) r f ∧ quiet x a r f) ∧
  GivesFloatLanes 0x180 .frint (fun x => x.clamp = .none ∧ x.s3.num5.toNat ≤ 4) (fun x m a _ _ r f =>
    (special x.t a = false → ∃ n : Int,
      RoundsTo (if x.s3.num5.toNat < 4 then x.s3.num5.toNat else m) (number x.t a) n ∧
        number x.t r = n ∧ r.msb = a.msb ∧ f = 0) ∧
    (isInfinite x.t a = true → r = a ∧ f = 0) ∧ quiet x a r f) ∧
  GivesFloatLanes 0x181 .fexf plain (fun x _ a _ _ r f =>
    let scaled (q : Rat) : Prop := Rounded x.t 0 (q * 2 ^ x.scale.toInt) r f
    (isZero x.t a = true → scaled 1) ∧
    (special x.t a = false → number x.t a = 1 → scaled 2) ∧
    (special x.t a = false → number x.t a = -1 → scaled (1 / 2)) ∧
    (finite x.t a → |number x.t a| < 1 → f = Fl.nx ∧ ∃ q : Rat, scaled q ∧
      |(q : ℝ) - (2 : ℝ) ^ ((number x.t a : Rat) : ℝ)| ≤ 1 / 2 ^ 30 ∧
      (0 < number x.t a → 1 < q) ∧ (number x.t a < 0 → q < 1)) ∧
    nan x (isInfinite x.t a = true ∨ special x.t a = false ∧ 1 < |number x.t a|) r f ∧ quiet x a r f) ∧
  GivesFloatLanes 0x182 .finsx plain (fun x m a b _ r f =>
    (∀ n : Int, finite x.t a → special x.t b = false → RoundsTo 1 (number x.t b) n →
      Rounded x.t m (number x.t a * 2 ^ (n + x.scale.toInt)) r f) ∧
    (finite x.t a → isInfinite x.t b = true → (r = if b.msb then zeroOf x.t a.msb else infinity x.t a.msb) ∧ f = 0) ∧
    (isZero x.t a = true → special x.t b = false ∨ isInfinite x.t b = true ∧ b.msb = true →
      r = zeroOf x.t a.msb ∧ f = 0) ∧
    (isNaN x.t a = true ∨ isNaN x.t b = true → r = canonical x.t ∧
      f = if isSignalling x.t a = true ∨ isSignalling x.t b = true then Fl.nv else 0) ∧
    (isInfinite x.t a = true → (special x.t b = false ∨ isInfinite x.t b = true ∧ b.msb = false) → r = a ∧ f = 0) ∧
    nan x (isZero x.t a = true ∧ isInfinite x.t b = true ∧ b.msb = false ∨
      isInfinite x.t a = true ∧ isInfinite x.t b = true ∧ b.msb = true) r f) ∧
  GivesFloatLanes 0x183 .fgetx (fun x => x.clamp = .none) (fun x _ a _ _ r f =>
    (finite x.t a → f = 0 ∧ ∃ n : Int, number x.t r = n ∧ (2 : Rat) ^ n ≤ |number x.t a| ∧
      |number x.t a| < (2 : Rat) ^ (n + 1)) ∧
    (isZero x.t a = true → r = infinity x.t true ∧ f = Fl.dz) ∧
    (isInfinite x.t a = true → r = infinity x.t false ∧ f = 0) ∧ quiet x a r f)

/-- R124, R137, R138, R140. Every instruction that writes vector registers completes on any elements, `VINS` where its
guard holds, and changes only the bytes it writes, its stream pointers, the sticky flags and the rounding counter. -/
def Obligations.VectorsComplete : Prop :=
  ∀ p ∈ vectorWriters, ∀ (x : RegForm) (s : State), VecReady p.1 x s →
    (p.1 = 0x1C2 → s.cur.guardOk x.g = true) → Completes (p.2 x) s (VecFrame p.1 x
      (if p.1 = 0x185 then x.wide 0x185 else if p.1 = 0x1C5 ∨ p.1 = 0x1C6 then 2 else 1) s)

/-- R80, R106 to R110 and R136 to R138. The vector conversions: `VCVT` takes element i of its register, `VWIDEN` puts it
into element i of its group, exactly, and `VNARROW` takes element i of its group; floats are rounded by %rmode with
exactly the flags of the active elements, integers wrap or saturate, and a stochastic rounding moves the rounding
counter by the draws of all its elements. -/
def Obligations.VectorConversions : Prop :=
  ∀ (x : RegForm) (s : State) (u : Ty), x.srcTy = some u →
    (Code.fieldsOk (.reg 0x184 x) = true → ConvertsLanes 0x184 1 x.t.bits (laneCount x.t) .vcvt x u true s) ∧
    (Code.fieldsOk (.reg 0x186 x) = true → ConvertsLanes 0x186 1 x.t.bits (laneCount x.t) .vnarrow x u true s) ∧
    (Code.fieldsOk (.reg 0x185 x) = true →
      ConvertsLanes 0x185 (x.wide 0x185) u.bits (laneCount u) .vwiden x u false s ∧
      (VecReady 0x185 x s → Completes (.vwiden x) s fun t => ∀ i, i < laneCount u → active s.cur x.g u.bits i = true →
        let a := lane u (rowAt s s.cur x.s1 0) i
        let r := lane x.t (rowAt t s.cur x.dst (i / laneCount x.t)) (i % laneCount x.t)
        (x.t.isFloat = true → u.isFloat = true → special u (floatMod u x.m1 a) = false →
          number x.t r = number u (floatMod u x.m1 a)) ∧
        (x.t.isFloat = true → u.isInt = true → number x.t r = reads u (intMod u x.m1 a))))

/-- R131, R139 to R141. What each moving instruction puts into an active element. -/
def Obligations.VectorPermutes : Prop :=
  let src (s : State) (o : Opnd) : VWord := rowAt s s.cur o 0
  let count (x : RegForm) (s : State) : Nat := rank s.cur x.g x.t (laneCount x.t)
  Permutes 0x114 1 .vsel (fun x s i => if active s.cur ⟨false, x.s3.num5.setWidth 3⟩ x.t.bits i = true
    then lane x.t (src s x.s1) i else lane x.t (src s x.s2) i) ∧
  Permutes 0x1C0 1 .vbcast (fun x s _ => (s.cur.sreg x.s1.num5).setWidth x.t.bits) ∧
  Permutes 0x1C3 1 .vperm (fun x s i => ofPair x.t (src s x.s1) (src s x.s2) (lane x.t (src s x.s3) i).toNat) ∧
  Permutes 0x1C4 1 .vslide (fun x s i => ofPair x.t (src s x.s1) (src s x.s2) (i + (s.cur.sreg x.s3.num5).toNat)) ∧
  Permutes 0x1C5 2 .vzip (fun x s i => lane x.t (src s (if i % 2 = 0 then x.s1 else x.s2)) (i / 2)) ∧
  Permutes 0x1C6 2 .vunzip (fun x s i =>
    let n := laneCount x.t
    let j := if i < n then 2 * i else 2 * (i - n) + 1
    lane x.t (rowAt s s.cur x.s1 (j / n)) (j % n)) ∧
  Permutes 0x1C8 1 .vexpand (fun x s i => lane x.t (src s x.s1) (rank s.cur x.g x.t i)) ∧
  Permutes 0x1C9 1 .viota (fun x s i => BitVec.ofNat x.t.bits (rank s.cur x.g x.t i)) ∧
  (∀ (x : RegForm) (s : State), VecReady 0x1C7 x s → x.t.isM = true →
    Completes (.vcompress x) s fun t => VecFrame 0x1C7 x 1 s t ∧
      (∀ i, i < laneCount x.t → active s.cur x.g x.t.bits i = true →
        lane x.t (rowAt t s.cur x.dst 0) (rank s.cur x.g x.t i) = lane x.t (src s x.s1) i) ∧
      ∀ i, count x s ≤ i → i < laneCount x.t →
        lane x.t (rowAt t s.cur x.dst 0) i = lane x.t (src s x.dst) i) ∧
  (∀ (x : RegForm) (s : State), VecReady 0x1C1 x s → x.t.isM = true → s.cur.guardOk x.g = true →
    Completes (.vext x) s fun t =>
      let r := lane x.t (src s x.s1) ((s.cur.sreg x.s2.num5).toNat % laneCount x.t)
      WroteS s (samePointers s t) x.dst.num5 (if x.t.isI = true then r.signExtend 64 else r.setWidth 64) ∧
        Pointers x s t) ∧
  (∀ (x : RegForm) (s : State), VecReady 0x1C2 x s → x.t.isM = true → s.cur.guardOk x.g = true →
    Completes (.vins x) s fun t => VecFrame 0x1C2 x 1 s t ∧ ∀ i, i < laneCount x.t → lane x.t (rowAt t s.cur x.dst 0) i =
      if i = (s.cur.sreg x.s2.num5).toNat % laneCount x.t then (s.cur.sreg x.s1.num5).setWidth x.t.bits
      else lane x.t (src s x.dst) i)

/-- R117, R118, R125, R142. The reductions write their scalar register from the active elements, and the prefix sums their
active elements: of floats a sum by R117's tree with the flags of every addition, the largest and smallest without the
NaNs, and the sums in ascending order. -/
def Obligations.VectorReductions : Prop :=
  let picked (x : RegForm) (act : Nat → Bool) : List Nat := (List.range (laneCount x.t)).filter act
  let extreme (x : RegForm) (act : Nat → Bool) (e : Nat → BitVec x.t.bits) (v : Word) (least : Int)
      (better : Int → Int → Prop) : Prop := ∃ r, v = standing x.t r ∧ BestInt x.t (picked x act) e least better r
  Gathers 0x1CA .vredadd (fun x act e v =>
    v = standing x.t (BitVec.ofInt x.t.bits (((picked x act).map fun i => reads x.t (e i)).sum))) ∧
  Gathers 0x1CB .vredmax (fun x act e v => extreme x act e v (lowest x.t) (· ≤ ·)) ∧
  Gathers 0x1CC .vredmin (fun x act e v => extreme x act e v (highest x.t) (· ≥ ·)) ∧
  Gathers 0x1CD .vargmax (fun x act e v => x.t.bits ≤ 32 →
    (picked x act = [] → v = 0x0000FFFF00000000) ∧
    (picked x act ≠ [] → ∃ i ∈ picked x act, v = BitVec.ofNat 64 ((e i).toNat + i * 2 ^ 32) ∧
      ∀ j ∈ picked x act, reads x.t (e j) ≤ reads x.t (e i) ∧ (reads x.t (e j) = reads x.t (e i) → i ≤ j))) ∧
  (∀ (x : RegForm) (s : State), VecReady 0x1CE x s → x.t.isInt = true →
    Completes (.vscan x) s fun t => VecFrame 0x1CE x 1 s t ∧ t.cur.fflags = s.cur.fflags ∧ ∀ i, i < laneCount x.t →
      lane x.t (rowAt t s.cur x.dst 0) i =
        if active s.cur x.g x.t.bits i = true then BitVec.ofInt x.t.bits
          ((((List.range (i + 1)).filter (active s.cur x.g x.t.bits)).map fun j =>
            reads x.t (intMod x.t x.m1 (lane x.t (rowAt s s.cur x.s1 0) j))).sum)
        else lane x.t (rowAt s s.cur x.dst 0) i) ∧
  (
    let numbers (x : RegForm) (act : Nat → Bool) (e : Nat → BitVec x.t.bits) : List Nat :=
      (picked x act).filter fun i => !isNaN x.t (e i)
    let best (x : RegForm) (act : Nat → Bool) (e : Nat → BitVec x.t.bits) (v : Word) (f : Flags) (none : BitVec x.t.bits)
        (better : Int → Int → Prop) : Prop :=
      ∃ r, v = r.setWidth 64 ∧ BestFloat x.t (picked x act) e none better r f
    GathersFloat 0x1CA .vredadd (fun x m act e v f => ∃ r : BitVec x.t.bits, v = r.setWidth 64 ∧
      TreeSum x.t m (Nat.log2 (laneCount x.t)) (fun i => if act i = true then e i else zeroOf x.t true) r f) ∧
    GathersFloat 0x1CB .vredmax (fun x _ act e v f => best x act e v f (infinity x.t true) (· ≤ ·)) ∧
    GathersFloat 0x1CC .vredmin (fun x _ act e v f => best x act e v f (infinity x.t false) (· ≥ ·)) ∧
    GathersFloat 0x1CD .vargmax (fun x _ act e v f => f = signals x.t ((picked x act).map e) ∧
      (numbers x act e = [] → v = 0x0000FFFF00000000) ∧
      (numbers x act e ≠ [] → ∃ i ∈ numbers x act e, v = BitVec.ofNat 64 ((e i).toNat + i * 2 ^ 32) ∧
        ∀ j ∈ numbers x act e, place x.t (e j) ≤ place x.t (e i) ∧ (place x.t (e j) = place x.t (e i) → i ≤ j)))) ∧
  (∀ (x : RegForm) (s : State), VecReady 0x1CE x s → x.t.isF = true →
    Completes (.vscan x) s fun t => VecFrame 0x1CE x 1 s t ∧
      ∃ (y : Nat → BitVec x.t.bits) (f : Nat → Flags),
        let u (i : Nat) : BitVec x.t.bits := if active s.cur x.g x.t.bits i = true
          then floatMod x.t x.m1 (lane x.t (rowAt s s.cur x.s1 0) i) else zeroOf x.t true
        y 0 = u 0 ∧ f 0 = 0 ∧
        (∀ i, i + 1 < laneCount x.t → AddsTo x.t (s.cur.rmode.toNat % 4) (y i) (u (i + 1)) (y (i + 1)) (f (i + 1))) ∧
        FlagsOf s t (fun _ => true) (laneCount x.t) f ∧
        ∀ i, i < laneCount x.t → lane x.t (rowAt t s.cur x.dst 0) i =
          if active s.cur x.g x.t.bits i = true then y i else lane x.t (rowAt s s.cur x.dst 0) i) ∧
  (∀ p ∈ [((0x1CA : Nat), Instr.vredadd), (0x1CB, .vredmax), (0x1CC, .vredmin), (0x1CD, .vargmax)],
    ∀ (x : RegForm) (s : State), VecReady p.1 x s → Completes (p.2 x) s fun t =>
      ∃ v f, WroteSF s (samePointers s t) x.dst.num5 v f ∧ Pointers x s t)

/-- R130, R143, R144. What the compares and the predicate instructions write: only the bits of active elements, or for
the bitwise ones only the bits the guard selects. -/
def Obligations.Predicates : Prop :=
  ∀ (x : RegForm) (s : State),
    let d : BitVec 3 := x.dst.num5.setWidth 3
    let a := s.cur.preg (x.s1.num5.setWidth 3)
    let b := s.cur.preg (x.s2.num5.setWidth 3)
    let w := x.t.bits
    let old := s.cur.preg d
    let act := active s.cur x.g w
    let hit (i : Nat) : Bool := a.getLsbD (i * w / 8)
    let hits := (List.range (laneCount x.t)).filter fun i => act i && hit i
    let bitwise (f : Bool → Bool → Bool) := fun t => ∃ v, WroteP s t d v ∧ ∀ j, j < 64 → v.getLsbD j =
      if ((s.cur.preg x.g.p).getLsbD j != x.g.inv) = true then f (a.getLsbD j) (b.getLsbD j) else old.getLsbD j
    let perElement (f : Nat → Bool) := fun t => ∃ v, WroteP s t d v ∧ ∀ j, j < 64 →
      v.getLsbD j = predOf s.cur x.g w old f j
    Completes (.pand x) s (bitwise (· && ·)) ∧ Completes (.por x) s (bitwise (· || ·)) ∧
    Completes (.pxor x) s (bitwise xor) ∧ Completes (.pnot x) s (bitwise fun p _ => !p) ∧
    (x.t.isM = true →
      Completes (.psetn x) s (perElement fun i => decide ((i : Int) < (s.cur.sreg x.s1.num5).toInt)) ∧
      Completes (.pfirst x) s (perElement fun i => hits.head? == some i) ∧
      Completes (.pcount x) s (fun t => WroteS s t x.dst.num5 (BitVec.ofNat 64 hits.length)) ∧
      (x.dst.num5.toNat < 16 → Completes (.ptest x) s fun t => WroteC s t x.dst.num5.toNat
        (if x.s3.num5 = 0 then !hits.isEmpty else hits == (List.range (laneCount x.t)).filter act) 0)) ∧
    (VecReady 0x113 x s → x.t.isInt = true → x.s3.num5.toNat ≤ 5 → Completes (.vcmp x) s fun t =>
      (∃ v, WroteP s (samePointers s t) d v ∧ ∀ j, j < 64 → v.getLsbD j = predOf s.cur x.g w old (fun i =>
        relation x.s3.num5.toNat (reads x.t (intMod x.t x.m1 (lane x.t (rowAt s s.cur x.s1 0) i)))
          (reads x.t (intMod x.t x.m2 (lane x.t (rowAt s s.cur x.s2 0) i)))) j) ∧ Pointers x s t) ∧
    (VecReady 0x113 x s → x.t.isF = true → x.s3.num5.toNat ≤ 6 → Completes (.vcmp x) s fun t =>
      let cmp (i : Nat) := floatRelation x.t x.s3.num5.toNat (floatMod x.t x.m1 (lane x.t (rowAt s s.cur x.s1 0) i))
        (floatMod x.t x.m2 (lane x.t (rowAt s s.cur x.s2 0) i))
      FlagsOf s t act (laneCount x.t) (fun i => (cmp i).2) ∧ ∃ v,
        WroteP s { samePointers s t with cur := { (samePointers s t).cur with fflags := s.cur.fflags } } d v ∧
        ∀ j, j < 64 → v.getLsbD j = predOf s.cur x.g w old (fun i => (cmp i).1) j) ∧
    (VecReady 0x113 x s → Completes (.vcmp x) s fun t =>
      ∃ v, WroteP s { samePointers s t with cur := { (samePointers s t).cur with fflags := s.cur.fflags } } d v ∧
        Pointers x s t)

/-- R42, R52, R57, R124, R220. A word that names an unallocated vector register traps with cause 0x03 and the first such
register, whatever its guard. Every vector instruction that acts checks its streams, destination and sources, in
order: the first that is not aligned to its element traps with cause 0x0B, the first that passes the end of TCM with
0x0E; the trap writes no register. -/
def Obligations.VectorTraps : Prop :=
  (∀ (i : Instr) (c : Code) (s : State) (n : Nat), i.code = some c → badVreg c s.cur.vregs = some n →
    ∃ u, exec i s = .next u ∧ Trapped s u 0x03 (s.cur.pc.setWidth 64) (BitVec.ofNat 64 n)) ∧
  (∀ p ∈ vectorWriters ++ vectorReaders, ∀ (x : RegForm) (s : State), Allocated (.reg p.1 x) s → acts p.1 x s →
    ∀ before y after, streamsOf p.1 x = before ++ y :: after →
      (∀ z ∈ before, s.cur.qaddr z.q % z.size = 0 ∧ s.cur.qaddr z.q + 64 * z.regs ≤ s.cur.tcmLimit) →
      let a := s.cur.qaddr y.q
      let info := BitVec.ofNat 64 (a + y.q.toNat * 2 ^ 32 + if y.dst = true then 2 ^ 35 else 0)
      let trap (cause : Nat) := ∃ u, exec (p.2 x) s = .next u ∧ Trapped s u cause (s.cur.pc.setWidth 64) info
      (a % y.size ≠ 0 → trap 0x0B) ∧ (a % y.size = 0 → s.cur.tcmLimit < a + 64 * y.regs → trap 0x0E))

/-! ### Memory -/

/-- R176, R180, R182, R197, R201 to R206, R267. On-chip accesses: what a load reads, the bytes a store
writes and no others, the read-modify-writes, and the full bits, which only the full/empty instructions change; a load
of an empty word waits; `CLRE` checks alignment and the end of its memory. The model's choices: a failed `ACAS` makes
no write, and so leaves %scopeclamp (log entry 12); the %taddr of a `CLRE` of which only the length is misaligned is ea
(89). -/
def Obligations.OnChipAccesses : Prop :=
  ∀ (x : MemForm) (s : State),
    let n := x.t.bits / 8
    let a := s.cur.ea x
    let d := x.data.num5
    let v := s.cur.sreg d
    let read (k : Nat) := s.chip x.space a k
    let old := valueOf x.t (read n)
    let opnd : BitVec x.t.bits := v.setWidth x.t.bits
    let isFull := placeOf s x.space a ∉ ((s.ctx? s.curCtx).map (chipEmpties x.space)).getD []
    let regs (t : State) (h : Thread) := MemFrame x s t h ∧ t.cur.predmiss = s.cur.predmiss
    (OnChip x n s → Sound s x .load n → Completes (.ld x) s fun t => WroteS s t d (standing x.t old)) ∧
    (OnChip x n s → Sound s x .store n → Completes (.st x) s fun t => ChipStore s t x.space a (bytesOf n v.toNat) ∧ regs t s.cur) ∧
    (∀ p ∈ atomics, OnChip x n s → Sound s x .load n → x.t.isInt = true → Completes (p.1 x) s fun t =>
      ChipStore s t x.space a (bytesOf n (p.2.2 x.t old opnd).toNat) ∧ regs t (s.cur.setS d (standing x.t old))) ∧
    (OnChip x n s → Sound s x .load n → x.t.isInt = true → Completes (.acas x) s fun t =>
      if old = (s.cur.sreg (d + 1)).setWidth x.t.bits then
        ChipStore s t x.space a (bytesOf n opnd.toNat) ∧ regs t ((s.cur.setCbit 15 false).setS d (standing x.t old))
      else t = { s with cur := { (s.cur.setCbit 15 true).setS d (standing x.t old) with pc := s.cur.pc + 1 } }) ∧
    (OnChip x 64 s → Sound s x .load 64 → Completes (.aaddf x) s fun t =>
      ChipStore s t x.space a (bytesOf 64 (cellAdd (leVal (read 64)) (v.extractLsb' 0 32).toNat)) ∧ regs t s.cur) ∧
    (OnChip x 64 s → Sound s x .load 64 → Completes (.cellrd x) s fun t =>
      WroteSF s t d (BitVec.ofNat 64 (cellValue (leVal (read 64))).1) (cellValue (leVal (read 64))).2) ∧
    (OnChip x 4 s → Sound s x .load 4 → isFull → Completes (.ldf x) s fun t =>
      WroteS s t d (standing x.t (valueOf x.t (read 4)))) ∧
    (OnChip x 4 s → Sound s x .load 4 → isFull → Completes (.ldfEmpty x) s fun t => FullBits s t x.space a 1 false ∧
      t.cur = { s.cur.setS d (standing x.t (valueOf x.t (read 4))) with pc := s.cur.pc + 1 }) ∧
    (OnChip x 4 s → Sound s x .load 4 → ¬isFull → Completes (.ldf x) s (fun t => Waits s t (.again (.full x.space a))) ∧
      Completes (.ldfEmpty x) s (fun t => Waits s t (.again (.full x.space a)))) ∧
    (OnChip x 4 s → Sound s x .store 4 → Completes (.stf x) s fun t => ∃ u, ChipStore s u x.space a (bytesOf 4 v.toNat) ∧ u.cur = s.cur ∧
      FullBits u t x.space a 1 true ∧ MemFrame { x with order := .rel } s t s.cur) ∧
    (OnChip x 4 s → v.toNat % 4 = 0 → a + v.toNat ≤ s.cur.limit x.space → Completes (.clre x) s fun t =>
      FullBits s t x.space a (v.toNat / 4) false ∧ t.cur = { s.cur with pc := s.cur.pc + 1 }) ∧
    (s.cur.guardOk x.g = true →
      let info := BitVec.ofNat 64 (s.cur.pc.toNat + 2 ^ 40 +
        (match x.space with | .gm => 0 | .cm => 2 ^ 41 | .sp => 2 ^ 42 | .tcm => 2 ^ 41 + 2 ^ 42))
      let trap (cause addr : Nat) := ∃ u, exec (.clre x) s = .next u ∧ Trapped s u cause (BitVec.ofNat 64 addr) info
      (a % 4 ≠ 0 ∨ v.toNat % 4 ≠ 0 → trap 0x0B a) ∧
      (a % 4 = 0 → v.toNat % 4 = 0 → v.toNat ≠ 0 → s.cur.limit x.space < a + v.toNat →
        trap 0x0A (max a (s.cur.limit x.space)))) ∧
    (OnChip x 4 s → Sound s x .load 4 → Completes (.gwait x) s fun t =>
      if isFull then t = { s with cur := { s.cur.setCbit 15 false with pc := s.cur.pc + 1 } }
      else if (v.extractLsb' 0 32) = 0 then t = { s with cur := { s.cur.setCbit 15 true with pc := s.cur.pc + 1 } }
      else Waits s t (.gwait x.space a (s.time + (v.extractLsb' 0 32).toNat)))

/-- R119 to R121, R203. A fixed-point cell adds fp32 values exactly: adding a finite value moves the cell's signed
480-bit count by the value in units of 2^−160, and reading a cell without marks rounds it once to nearest. A cell with
marks reads as the NaN, or the infinity, that they stand for; that OVF raises NV whatever other mark stands with it is
the model's reading (log entry 75). -/
def Obligations.Cells : Prop :=
  (∀ (c : Nat) (x : BitVec 32), c < 2 ^ 512 → special .fp32 x = false →
    let k (n : Nat) : BitVec 480 := BitVec.ofNat 480 n
    ∃ d : Int, (d : Rat) = number .fp32 x * 2 ^ (160 : Nat) ∧
      k (cellAdd c x.toNat) = k c + BitVec.ofInt 480 d ∧
      (∀ i, 480 ≤ i → i < 512 → i ≠ 483 → (cellAdd c x.toNat).testBit i = c.testBit i) ∧
      ((cellAdd c x.toNat).testBit 483 = (c.testBit 483 ||
        decide ((k c).toInt + d < -2 ^ 479 ∨ 2 ^ 479 ≤ (k c).toInt + d)))) ∧
  (∀ (c : Nat) (x : BitVec 32), c < 2 ^ 512 → special .fp32 x = true →
    cellAdd c x.toNat = c ||| 2 ^ (if isNaN .fp32 x = true then 480 else if x.msb then 482 else 481)) ∧
  (∀ c : Nat, c < 2 ^ 512 → (∀ i, 480 ≤ i → i ≤ 483 → c.testBit i = false) →
    ∃ r : BitVec 32, (cellValue c).1 = r.toNat ∧
      Rounded .fp32 0 ((BitVec.ofNat 480 c).toInt / 2 ^ (160 : Nat)) r (cellValue c).2) ∧
  (∀ c : Nat, c < 2 ^ 512 →
    let mark (i : Nat) : Prop := c.testBit (480 + i) = true
    let nan := mark 0 ∨ mark 1 ∧ mark 2 ∨ mark 3
    let reads (r : BitVec 32) (f : Flags) := cellValue c = (r.toNat, f)
    (nan → (mark 3 → reads (canonical .fp32) Fl.nv) ∧ (¬mark 3 → reads (canonical .fp32) 0)) ∧
    (¬nan → mark 1 → reads (infinity .fp32 false) 0) ∧ (¬nan → mark 2 → reads (infinity .fp32 true) 0))

/-- R194, R195 and R230. The checks of an access, in order, with the trap registers of each: alignment (0x0B), the end of an
on-chip memory (0x0A), the task's windows (0x08), translation, where R230's %predmiss counts a squashed prediction, and
lines with an uncorrectable error (0x0C). The model's choices: a trap found by the walk of a predicted access counts as a
squash (log entry 84), and an `LDF` of an empty word traps on its line's error and does not wait (88). -/
def Obligations.AccessTraps : Prop :=
  ∀ p ∈ scalarAccesses, ∀ (x : MemForm) (s : State), s.cur.guardOk x.g = true →
    let n := p.2.2 x
    let a := s.cur.ea x
    let wr := p.2.1 ≠ .load
    let info := BitVec.ofNat 64 (s.cur.pc.toNat + (if wr then 2 ^ 40 else 0) +
      (match x.space with | .gm => 0 | .cm => 2 ^ 41 | .sp => 2 ^ 42 | .tcm => 2 ^ 41 + 2 ^ 42))
    let trap (cause addr : Nat) := ∃ u, exec (p.1 x) s = .next u ∧ Trapped s u cause (BitVec.ofNat 64 addr) info
    let squashes (cause addr : Nat) := ∃ u, exec (p.1 x) s = .next u ∧
      Trapped (if s.squashed s.curCtx s.cur.cluster addr (Acc.of p.2.1) then
        { s with cur := { s.cur with predmiss := s.cur.predmiss + 1 } } else s) u cause (BitVec.ofNat 64 addr) info
    (a % n ≠ 0 → trap 0x0B a) ∧
    (a % n = 0 → isChip x.space = true → (s.cur.role = none ∨ x.space = .tcm) → s.cur.limit x.space < a + n →
      trap 0x0A (max a (s.cur.limit x.space))) ∧
    (∀ b, a % n = 0 → isChip x.space = true → (s.cur.role = none ∨ x.space = .tcm) → a + n ≤ s.cur.limit x.space →
      s.chipBad x.space p.2.1 a n = some b → trap 0x0C b) ∧
    (∀ tk, a % n = 0 → isChip x.space = false → s.cur.role = none → s.task? s.cur.id.taskId = some tk →
      (∀ b, tk.firstDenied a n p.2.1 = some b → trap 0x08 b) ∧
      (∀ cause st2, tk.firstDenied a n p.2.1 = none → 0 < n → n ≤ 64 → a / 4096 = (a + n - 1) / 4096 →
        s.xlate s.curCtx s.cur.cluster a (Acc.of p.2.1) = .error (.trap cause st2) →
        squashes cause a) ∧
      ∀ y pa g b, tk.firstDenied a n p.2.1 = none → 0 < n → n ≤ 64 → a / 4096 = (a + n - 1) / 4096 →
        s.xlate s.curCtx s.cur.cluster a (Acc.of p.2.1) = .ok y → y.home = .mem pa g →
        s.firstBad tk s.cur.cluster p.2.1 y.entry.dev a pa n = some b → squashes 0x0C (a + b))

/-- R156, R170, R177, R197, R201, R202. Windowed accesses that pass every check complete: a load reads what the task
sees, and home memory stays; a store goes to the task's buffer, or home for a byte under an A window, and to no other
byte; an atomic, `ACAS` and `AADDF` among them, takes the old value by the right to write (R228). A failed `ACAS` makes
no write, and so leaves %scopeclamp (log entry 12). A load that a training block had held gives what it waited for (R309,
log entry 44), which is left to that rule. -/
def Obligations.WindowedAccesses : Prop :=
  ∀ (x : MemForm) (s : State) (tk : Task),
    let n := x.t.bits / 8
    let a := s.cur.ea x
    let d := x.data.num5
    let v := s.cur.sreg d
    let opnd : BitVec x.t.bits := v.setWidth x.t.bits
    let own := (∀ i, i < n → tk.inA (a + i) = false) ∧ s.devPage s.curCtx s.cur.cluster a .wr = false
    let shared := (∀ i, i < n → tk.inA (a + i) = true) ∧ s.devPage s.curCtx s.cur.cluster a .wr = false
    (InWindow x .load n tk s → 0 < n → Completes (.ld x) s fun t => ∃ bs, bs.length = n ∧
      (s.cur.tickets = [] → Sees s .rd tk a bs) ∧
      MemFrame { x with order := .plain } s t (s.cur.setS d (standing x.t (valueOf x.t bs))) ∧ HomeSame s t ∧
      t.task? s.cur.id.taskId = some tk) ∧
    (InWindow x .load 64 tk s → Completes (.cellrd x) s fun t => ∃ bs r f, bs.length = 64 ∧
      (s.cur.tickets = [] → Sees s .rd tk a bs) ∧
      cellValue (leVal bs) = (r, f) ∧
      MemFrame { x with order := .plain } s t ((s.cur.setS d (BitVec.ofNat 64 r)).raise f) ∧ HomeSame s t) ∧
    (InWindow x .store n tk s → 0 < n → own → Completes (.st x) s fun t =>
      Buffered s t tk a (bytesOf n v.toNat) ∧ MemFrame x s t s.cur) ∧
    (∀ pa, InWindow x .store n tk s → 0 < n → shared → AtHome s a n pa → Completes (.st x) s fun t =>
      HomeStored s t pa (bytesOf n v.toNat) ∧ MemFrame x s t s.cur) ∧
    (InWindow x .store n tk s → Completes (.st x) s fun t => MemFrame x s t s.cur) ∧
    (∀ p ∈ atomics, InWindow x p.2.1 n tk s → x.t.isInt = true →
      (Completes (p.1 x) s fun t => ∃ r, MemFrame x s t (s.cur.setS d r)) ∧
      (Cached s .wr a n → s.phyAt x.space a n = none → own → Completes (p.1 x) s fun t => ∃ bs, bs.length = n ∧
        Sees s .wr tk a bs ∧ Buffered s t tk a (bytesOf n (p.2.2 x.t (valueOf x.t bs) opnd).toNat) ∧
        MemFrame x s t (s.cur.setS d (standing x.t (valueOf x.t bs)))) ∧
      (∀ pa, shared → AtHome s a n pa → Completes (p.1 x) s fun t => ∃ bs, bs.length = n ∧ Sees s .wr tk a bs ∧
        HomeStored s t pa (bytesOf n (p.2.2 x.t (valueOf x.t bs) opnd).toNat) ∧
        MemFrame x s t (s.cur.setS d (standing x.t (valueOf x.t bs))))) ∧
    (InWindow x .swap n tk s → x.t.isInt = true → Cached s .wr a n → s.phyAt x.space a n = none → own →
      Completes (.acas x) s fun t => ∃ bs, bs.length = n ∧ Sees s .wr tk a bs ∧
        if valueOf x.t bs = (s.cur.sreg (d + 1)).setWidth x.t.bits then
          Buffered s t tk a (bytesOf n opnd.toNat) ∧
            MemFrame x s t ((s.cur.setCbit 15 false).setS d (standing x.t (valueOf x.t bs)))
        else HomeSame s t ∧ t.task? s.cur.id.taskId = some tk ∧
          MemFrame { x with order := .plain } s t ((s.cur.setCbit 15 true).setS d (standing x.t (valueOf x.t bs)))) ∧
    (∀ pa, InWindow x .swap n tk s → x.t.isInt = true → shared → AtHome s a n pa →
      Completes (.acas x) s fun t => ∃ bs, bs.length = n ∧ Sees s .wr tk a bs ∧
        if valueOf x.t bs = (s.cur.sreg (d + 1)).setWidth x.t.bits then HomeStored s t pa (bytesOf n opnd.toNat) ∧
          MemFrame x s t ((s.cur.setCbit 15 false).setS d (standing x.t (valueOf x.t bs)))
        else HomeSame s t ∧
          MemFrame { x with order := .plain } s t ((s.cur.setCbit 15 true).setS d (standing x.t (valueOf x.t bs)))) ∧
    (InWindow x .add 64 tk s → Cached s .wr a 64 → s.phyAt x.space a 64 = none → (∀ i, i < 64 → tk.inA (a + i) = false) →
      s.devPage s.curCtx s.cur.cluster a .wr = false → Completes (.aaddf x) s fun t => ∃ bs, bs.length = 64 ∧
        Sees s .wr tk a bs ∧ Buffered s t tk a (bytesOf 64 (cellAdd (leVal bs) (v.extractLsb' 0 32).toNat)) ∧
        MemFrame x s t s.cur) ∧
    ∀ pa, InWindow x .add 64 tk s → (∀ i, i < 64 → tk.inA (a + i) = true) →
      s.devPage s.curCtx s.cur.cluster a .wr = false → AtHome s a 64 pa → Completes (.aaddf x) s fun t =>
        ∃ bs, bs.length = 64 ∧ Sees s .wr tk a bs ∧
          HomeStored s t pa (bytesOf 64 (cellAdd (leVal bs) (v.extractLsb' 0 32).toNat)) ∧ MemFrame x s t s.cur

/-- R198 to R200. Vector loads and stores make one access per active element, at the address its form computes; a load
leaves memory and every other register alone, a store every byte outside its elements; an element that no later one
overlaps is stored. Windowed forms load what the task sees, and store into its buffer, or at home under A windows. -/
def Obligations.VectorMemory : Prop :=
  ∀ (x : MemForm) (s : State), (∃ c, s.ctx? s.curCtx = some c) → s.cur.role = none → Unheld s →
    let n := memSize x.t
    let d := x.data.num5
    let piece (v : VWord) (i : Nat) : BitVec (8 * n) := v.extractLsb' (8 * n * i) (8 * n)
    let fits (u : Use) (a : Nat) := a % n = 0 ∧ a + n ≤ s.cur.limit x.space ∧ s.chipBad x.space u a n = none
    (∀ p ∈ vectorLoads, Allocated (.mem p.1 x) s →
      let addr := p.2.2.1 x s.cur
      (isChip x.space = true → (∀ i, touched x p.2.2.2 s i → fits .load (addr i)) →
        Completes (p.2.1 x) s fun t =>
          t = { s with cur := { s.cur with v := t.cur.v, pc := s.cur.pc + 1 } } ∧
          (∀ m, m ≠ d → t.cur.vreg m = s.cur.vreg m) ∧
          ∀ i, i < 64 / n →
            (touched x p.2.2.2 s i → piece (t.cur.vreg d) i = BitVec.ofNat (8 * n) (leVal (s.chip x.space (addr i) n))) ∧
            (¬touched x p.2.2.2 s i → piece (t.cur.vreg d) i = piece (s.cur.vreg d) i)) ∧
      (isChip x.space = false → (∀ i, touched x p.2.2.2 s i → s.eltStop .load x.space n ⟨i, addr i, n⟩ = none) →
        Completes (p.2.1 x) s fun t => HomeSame s t ∧ (∀ m, m ≠ d → t.cur.vreg m = s.cur.vreg m) ∧
          t.cur = { s.cur with v := t.cur.v, pc := s.cur.pc + 1, predmiss := t.cur.predmiss } ∧
          ∀ tk, s.task? s.cur.id.taskId = some tk → s.cur.tickets = [] → ∀ i, i < 64 / n →
            (touched x p.2.2.2 s i → ∃ bs, bs.length = n ∧ Sees s .rd tk (addr i) bs ∧
              piece (t.cur.vreg d) i = BitVec.ofNat (8 * n) (leVal bs)) ∧
            (¬touched x p.2.2.2 s i → piece (t.cur.vreg d) i = piece (s.cur.vreg d) i))) ∧
    (∀ p ∈ vectorStores, Allocated (.mem p.1 x) s →
      let addr := p.2.2.1 x s.cur
      let frame (t : State) := t.cur = { s.cur with
        pc := s.cur.pc + 1, scopeclamp := t.cur.scopeclamp, predmiss := t.cur.predmiss }
      (isChip x.space = true → (∀ i, touched x p.2.2.2 s i → fits .store (addr i)) →
        Completes (p.2.1 x) s fun t => frame t ∧ HomeSame s t ∧
          (∀ i, touched x p.2.2.2 s i →
            (∀ j, touched x p.2.2.2 s j → i < j → addr i + n ≤ addr j ∨ addr j + n ≤ addr i) →
            t.chip x.space (addr i) n = bytesOf n (piece (s.cur.vreg d) i).toNat) ∧
          ∀ b, (∀ i, touched x p.2.2.2 s i → b < addr i ∨ addr i + n ≤ b) →
            t.chip x.space b 1 = s.chip x.space b 1) ∧
      (isChip x.space = false → (∀ i, touched x p.2.2.2 s i → s.eltStop .store x.space n ⟨i, addr i, n⟩ = none) →
        (∀ c, s.ctx? s.curCtx = some c → ∀ e ∈ c.edges, e.src = s.cur.id.task → e.hard = true) →
        Completes (p.2.1 x) s frame ∧
        (∀ tk, s.task? s.cur.id.taskId = some tk → (∀ i, touched x p.2.2.2 s i → Cached s .wr (addr i) n ∧
            s.devPage s.curCtx s.cur.cluster (addr i) .wr = false ∧ ∀ j, j < n → tk.inA (addr i + j) = false) →
          Completes (p.2.1 x) s fun t => HomeSame s t ∧ ∃ b, t.task? s.cur.id.taskId = some { tk with buffers := b } ∧
            (∀ i, touched x p.2.2.2 s i →
              (∀ j, touched x p.2.2.2 s j → i < j → addr i + n ≤ addr j ∨ addr j + n ≤ addr i) → ∀ q, q < n →
              findAt (getAt [] b s.cur.cluster) (addr i + q) = some ((piece (s.cur.vreg d) i).extractLsb' (8 * q) 8)) ∧
            ∀ cl k, cl ≠ s.cur.cluster ∨ (∀ i, touched x p.2.2.2 s i → k < addr i ∨ addr i + n ≤ k) →
              findAt (getAt [] b cl) k = findAt (tk.buffer cl) k) ∧
        ∀ tk g (pa : Nat → Nat), s.task? s.cur.id.taskId = some tk → (∀ i, touched x p.2.2.2 s i →
            AtHomeBy g s (addr i) n (pa i) ∧ s.devPage s.curCtx s.cur.cluster (addr i) .wr = false ∧
            ∀ j, j < n → tk.inA (addr i + j) = true) →
          Completes (p.2.1 x) s fun t =>
            (∀ i, touched x p.2.2.2 s i →
              (∀ j, touched x p.2.2.2 s j → i < j → pa i + n ≤ pa j ∨ pa j + n ≤ pa i) → ∀ q, q < n →
              readByte t.mem (pa i + q) = (piece (s.cur.vreg d) i).extractLsb' (8 * q) 8) ∧
            ∀ k, (∀ i, touched x p.2.2.2 s i → k < pa i ∨ pa i + n ≤ k) → readByte t.mem k = readByte s.mem k))

/-- R180, R207, R208. A fence only moves on, which is the model's choice: its machine makes each access at once (log
entry 6). One that releases at system scope, in a partition limited to its own scope, is narrowed and says so in
%scopeclamp. -/
def Obligations.Fences : Prop :=
  ∀ (x : MemForm) (s : State), s.cur.guardOk x.g = true →
    let moved (t : State) := t = { s with cur := { s.cur with pc := s.cur.pc + 1, scopeclamp := clampAfter x s } }
    Completes (.fence x) s moved ∧ Completes (.fencer x) s moved

/-- R181. An access that passes its checks and meets a range that a live job of the thread holds waits for it and does
nothing else; that the atomics, the full/empty loads and stores and `CELLRD` wait so too is the model's reading (log
entry 35). -/
def Obligations.HeldRanges : Prop :=
  ∀ p ∈ scalarAccesses, ∀ (x : MemForm) (s : State), s.cur.guardOk x.g = true →
    let n := p.2.2 x
    let a := s.cur.ea x
    s.eltStop p.2.1 x.space n ⟨0, a, n⟩ = none → s.spanHeld ⟨x.space, a, n⟩ = true →
    ∃ t, exec (p.1 x) s = .next t ∧ Waits s t (.again (.scoreClear x.space a n))

/-- R153, R165, R220 to R227. Taking a trap: the thread is parked with its trap registers written; a terminal cause, the
first of the run, makes a running task FAULTED, in the tracker and in its image, with FAILCAUSE still zero; the record goes to the
ring of its kind, at HEAD, which moves on, while the ring has room and the function its turn at the reporting port (log
entry 73 says what a turn is), and else is held, waits or overflows; a task's stop leaves no record. `mem`: is it the
trap of a memory access, whose %tinfo R195 lays out? -/
def Obligations.TrapTaken : Prop :=
  ∀ (mem : Bool) (s : State) (cause : Nat) (taddr tinfo : Word) (stage2 : Bool) (p : Partition) (tk : Task),
    let h := s.cur
    let n := h.id.part
    let t := takeTrapAs mem cause taddr tinfo stage2 s
    let kind := if cause ∈ [0x05, 0x06, 0x07, 0x0D, 0x0F] then 0 else if cause = 0x09 then 1 else 2
    let final := decide (kind = 2)
    let g := s.ringOf p final
    let home (i pa g : Nat) := ∃ x, s.xlate h.id.ctxId trackerCluster (tk.image + i) .wr = .ok x ∧
      x.home = .mem (pa + i) g ∧ KeyFits s g (pa + i)
    let unhosted := ∀ i, i < 64 → ∀ x, s.xlate h.id.ctxId trackerCluster (tk.image + i) .wr = .ok x → ∀ b, x.home ≠ .host b
    let r := recordOf cause kind false (mem && tinfo.getLsbD 40) stage2
      n h.id.task h.id.thread h.cluster h.core h.seat taddr tinfo
    let goes := if kind = 2 then tk.recorded = false else tk.state ≠ .faulted
    let turn := p.late = [] ∧ p.sent < getAt 1 s.weights (s.ringFn n)
    Trapped s t cause taddr tinfo ∧
    (h.role = none → s.part? n = some p → s.task? h.id.taskId = some tk → cause < 256 →
      (kind = 2 → tk.state = .running → (∃ tk', t.task? h.id.taskId = some tk' ∧ tk'.state = .faulted ∧
          tk'.faultCause = cause ∧ tk'.failCause = 0) ∧
        ∀ pa g, tk.attached = true → (∀ i, i < 64 → home i pa g) →
          readByte t.mem (pa + 11) = 4 ∧ readByte t.mem (pa + 56) = 0) ∧
      (kind ≠ 2 → t.task? h.id.taskId = some tk) ∧
      (¬goes → t.msix = s.msix ∧ (unhosted → t.hostMem = s.hostMem)) ∧
      (goes → ∃ p', t.part? n = some p' ∧
        (turn → g.full = false → (kind ≠ 2 → p.held = []) →
          let a := hostKey (s.ringFn n) (g.base.toNat + 32 * (g.head.toNat % 2 ^ g.sizeLog))
          readBytes t.hostMem a 32 = bytesOf 32 r.toNat ∧
          (unhosted → ∀ k, k < a ∨ a + 32 ≤ k → readByte t.hostMem k = readByte s.hostMem k) ∧
          t.ringOf p' final = { g with head := g.head + 1 } ∧ p'.sent = p.sent + 1 ∧
          t.msix = if g.head = g.tail then s.msix ++ [(s.ringFn n, if kind = 2 then 2 else 1)] else s.msix) ∧
        (kind ≠ 2 → ¬turn ∨ g.full = true ∨ p.held ≠ [] → p'.held = p.held ++ [r] ∧ t.msix = s.msix) ∧
        (kind = 2 → ¬turn → p'.late = p.late ++ [r] ∧ t.msix = s.msix) ∧
        (kind = 2 → turn → g.full = true → p'.overflow = some (p.overflow.getD r) ∧
          p'.overflowCount = min (p.overflowCount + 1) (2 ^ 32 - 1) ∧ p'.stopped = true ∧ t.msix = s.msix)))

/-! ### Tasks, engines and stores -/

/-- R209 to R219. The task instructions and the fence counters complete on the images they name, with the answers their
rules give: `TWIN` refuses or takes a window, `TSUBMIT` answers the lowest status of R212's table that holds, or accepts.
One that a later access stops has counted no line of an earlier one (R325).
The model's choices: which accesses are tested first (log entry 64), that an access has the image's 128 bytes, and
`TWIN`'s its first 64 (80), and that the image is read and written at home (81). -/
def Obligations.TaskInstructions : Prop :=
  ∀ (x : MemForm) (s : State),
    let a := s.cur.ea x
    let d := x.data.num5
    let live := s.attachedTo a
    (∀ pa, Allocated (.mem 0x080 x) s → DeviceReady x .store 128 64 s → AtHome s a 64 pa → Completes (.tnew x) s fun t =>
      OnTo s t s.cur ∧ (∃ v : VWord, HomeStored s t pa (bytesOf 64 v.toNat) ∧ ∀ j, j < 512 → v.getLsbD j =
        ((s.cur.vreg d).getLsbD j &&
          !((86 ≤ j && j < 128) || (224 ≤ j && j < 256) || (416 ≤ j && j < 456)))) ∧
      ∀ c, t.ctx? s.curCtx = some c → ∀ tk ∈ c.tasks, tk.image = a → tk.attached = false) ∧
    (Allocated (.mem 0x081 x) s →
      let v := s.cur.vreg d
      let k := (v.extractLsb' 128 8).toNat
      let w := windowOf (v.extractLsb' 0 128).toNat
      let tcb := match live with | some tk => tk.tcb | none => tcbOf (s.imageWord a)
      let n := tcb.nwin
      let slot := if k < 4 then a + 64 + 16 * k else tcb.ovfptr + 16 * (k - 4)
      let barred (tk : Task) (c : Context) := tk.state ∉ [.new, .waiting, .failed] ∨
        ∃ u ∈ c.tasks, u.create ≠ tk.create ∧ precedes tk u = true ∧
          u.state ∈ [.running, .faulted, .committing, .done] ∧ ∃ y ∈ u.windows, w.conflicts y = true
      let good := k ≤ n ∧ (k < 4 ∨ tcb.ovfptr % 16 = 0) ∧ w.valid = true ∧
        ∀ tk c, live = some tk → s.ctx? s.curCtx = some c → ¬barred tk c
      (s.cur.guardOk x.g = true → 64 ≤ k → ∃ u, exec (.twin x) s = .next u ∧
        Trapped s u 0x02 (s.cur.pc.setWidth 64) (BitVec.ofNat 64 k)) ∧
      (k < 64 → DeviceReady x .load 128 64 s →
        (¬good → Completes (.twin x) s fun t => Answers s t true ∧ HomeSame s t ∧
          ∀ tk, live = some tk → s.task? (s.mate tk.create) = some tk → t.task? (s.mate tk.create) = some tk) ∧
        ∀ g pa pb, good → AtHomeBy g s slot 16 pa → s.deviceStop s.curCtx s.cur.cluster .store 16 slot 16 = none →
          (k = n → AtHomeBy g s (a + 44) 1 pb ∧ s.deviceStop s.curCtx s.cur.cluster .store 1 (a + 44) 1 = none) →
          Completes (.twin x) s fun t => Answers s t false ∧
            (live = none → ∀ b, readByte t.mem b ≠ (if pa ≤ b ∧ b < pa + 16 then v.extractLsb' (8 * (b - pa)) 8
              else readByte s.mem b) → k = n ∧ b = pb) ∧
            (live = none → k = n → (readByte t.mem pb).extractLsb' 0 7 = BitVec.ofNat 7 (k + 1)) ∧
            ∀ tk, live = some tk → s.task? (s.mate tk.create) = some tk → ∃ tk', t.task? (s.mate tk.create) = some tk' ∧
              tk'.windows = tk.windows.take k ++ w :: tk.windows.drop (k + 1) ∧
              tk'.tcb = { tk.tcb with nwin := if k = n then k + 1 else n })) ∧
    (DeviceReady x .load 128 128 s → ∀ p c, s.part? s.curCtx.part = some p → s.ctx? s.curCtx = some c →
      let img := s.homeRead s.curCtx s.cur.cluster a 128
      let word := leVal (img.take 64)
      let tcb := tcbOf word
      let more := 4 < tcb.nwin ∧ tcb.nwin ≤ 64 ∧ tcb.ovfptr % 16 = 0
      let m := 16 * (tcb.nwin - 4)
      ∀ ovf, (more → s.deviceStop s.curCtx s.cur.cluster .load 16 tcb.ovfptr m = none ∧ Cached s .rd tcb.ovfptr m ∧
          ovf = s.homeRead s.curCtx s.cur.cluster tcb.ovfptr m) → (¬more → ovf = []) →
        let ws := windowsOf tcb img ovf
        let nt := newTask c a s.time img ovf
        let r1 := nbits word 92 4 ≠ 0 ∨ nbits word 304 16 ≠ 0 ∨ nbits word 359 9 ≠ 0 ∨ nbits word 456 56 ≠ 0
        let r2 := tcb.nthreads = 0 ∨ tcb.clusters = 0 ∨ p.clusters < tcb.clusters
        let r3 := tcb.gang = true ∧ 32 * tcb.clusters < tcb.nthreads
        let r4 := 64 < tcb.nwin ∨ tcb.fcaddr % 8 ≠ 0 ∨ (4 < tcb.nwin ∧ tcb.ovfptr % 16 ≠ 0)
        let r6 := tcb.spec = true ∧ ∃ u ∈ c.tasks, precedes nt u = true ∧ u.pastGrant = true ∧
          ((∃ y ∈ ws, ∃ z ∈ u.windows, y.conflicts z = true) ∨
            u.tcb.spec = true ∧ u.tcb.ts / 2 ^ 32 = tcb.ts / 2 ^ 32)
        let r7 := 65536 ≤ ((p.ctxs.flatMap fun c => c.tasks.filter Task.inTracker)).length
        let r8 := p.logLines < logNeed ws
        let r14 := r1 ∨ r2 ∨ r3 ∨ r4
        let refuse (st slot : Nat) := Completes (.tsubmit x) s fun t => HomeSame s t ∧
          OnTo s t (s.cur.setS d (BitVec.ofNat 64 (st + slot * 2 ^ 8))) ∧
          ∃ c', t.ctx? s.curCtx = some c' ∧ c'.tasks = c.tasks ∧ c'.edges = c.edges ∧ c'.nextCreate = c.nextCreate
        (r1 → refuse 1 0) ∧ (¬r1 → r2 → refuse 2 0) ∧ (¬(r1 ∨ r2) → r3 → refuse 3 0) ∧
        (¬(r1 ∨ r2 ∨ r3) → r4 → refuse 4 0) ∧
        (∀ i, ¬r14 → ws.findIdx? (fun w => !w.valid) = some i → refuse 5 i) ∧
        (¬r14 → (∀ w ∈ ws, w.valid = true) → (r6 → refuse 6 0) ∧ (¬r6 → r7 → refuse 7 0) ∧
          (¬r6 → ¬r7 → r8 → refuse 8 0) ∧
          (¬r6 → ¬r7 → ¬r8 → c.task? c.nextCreate = none → Cached s .wr (a + 10) 47 →
            s.deviceStop s.curCtx s.cur.cluster .store 1 (a + 10) 47 = none → Completes (.tsubmit x) s fun t =>
              t.cur.sreg d = (if d = 0 then 0 else BitVec.ofNat 64 (c.nextCreate * 2 ^ 32)) ∧ t.cur.pc = s.cur.pc + 1 ∧
              ∃ c' tk, t.ctx? s.curCtx = some c' ∧ c'.nextCreate = (c.nextCreate + 1) % 2 ^ 32 ∧
                t.task? (s.mate c.nextCreate) = some tk ∧ tk.image = a ∧ tk.attached = true ∧ tk.tcb = tcb ∧
                tk.windows = ws ∧ tk.state = (if c'.preds c.nextCreate = 0 then .ready else .waiting) ∧
                ∀ u ∈ c'.tasks, u.image = a → u.create ≠ c.nextCreate → u.attached = false))) ∧
    (∀ p cause b st2, DeviceReady x .load 128 128 s → s.cur.role = none → s.part? s.cur.id.part = some p →
      let tcb := tcbOf (leVal ((s.homeRead s.curCtx s.cur.cluster a 128).take 64))
      4 < tcb.nwin → tcb.nwin ≤ 64 → tcb.ovfptr % 16 = 0 →
      (s.noteDevice .load a 128).deviceStop s.curCtx s.cur.cluster .load 16 tcb.ovfptr (16 * (tcb.nwin - 4)) =
        some (.trap cause b st2) →
      ∃ u p', exec (.tsubmit x) s = .next u ∧ u.part? s.cur.id.part = some p' ∧ p'.monitors = p.monitors ∧
        Trapped s u cause (BitVec.ofNat 64 b) (s.cur.pc.setWidth 64)) ∧
    (DeviceReady x .load 128 128 s →
      let give (v : Nat) (b : Bool) := fun t => OnTo s t ((s.cur.setCbit 15 b).setS d (BitVec.ofNat 64 v))
      (∀ tk, live = some tk → tk.create = s.cur.id.task → Completes (.twait x) s (give 3 true)) ∧
      (∀ tk, live = some tk → tk.create ≠ s.cur.id.task → tk.state = .failed → Completes (.twait x) s (give 7 false)) ∧
      (∀ tk, live = some tk → tk.create ≠ s.cur.id.task → tk.state ≠ .failed → Completes (.twait x) s fun t =>
        t.cur.life = .here (.waiting (.again (.taskEnd tk.create d.toNat))) ∧ t.cur.pc = s.cur.pc) ∧
      (live = none → Completes (.twait x) s
        (give (imageState (s.imageWord a)) (imageState (s.imageWord a) == 0)))) ∧
    (DeviceReady x .load 128 128 s → ∀ c, s.ctx? s.curCtx = some c →
      let stat (state cls cause preds create : Nat) := fun t => OnTo s t (s.cur.setS d (BitVec.ofNat 64
        (state + cls * 2 ^ 4 + cause * 2 ^ 8 + min preds 65535 * 2 ^ 16 + create * 2 ^ 32)))
      (∀ tk, live = some tk → Completes (.tstat x) s
        (stat tk.state.code tk.curClass tk.failCause (c.preds tk.create) tk.create)) ∧
      (live = none → imageState (s.imageWord a) = 0 → Completes (.tstat x) s fun t => OnTo s t (s.cur.setS d 0)) ∧
      (live = none → imageState (s.imageWord a) ≠ 0 →
        let f := nbits (s.imageWord a)
        Completes (.tstat x) s (stat (f 88 4) (f 86 2) (f 448 8) (f 96 32) (f 416 32)))) ∧
    (DeviceReady x .load 128 128 s → live = none →
      Completes (.tcancel x) s (fun t => Answers s t true) ∧ Completes (.tretry x) s (fun t => Answers s t true)) ∧
    (∀ tk, DeviceReady x .load 128 128 s → live = some tk → s.task? (s.mate tk.create) = some tk →
      tk.pastGrant = false → Completes (.tcancel x) s fun t =>
      t.cur.cbit 15 = false ∧ t.cur.pc = s.cur.pc + 1 ∧
        ∃ tk', t.task? (s.mate tk.create) = some tk' ∧ tk'.state = .aborted) ∧
    (∀ tk, DeviceReady x .load 128 128 s → live = some tk → s.task? (s.mate tk.create) = some tk →
      tk.state = .failed → Completes (.tretry x) s fun t =>
      Answers s t false ∧ ∃ tk', t.task? (s.mate tk.create) = some tk' ∧ tk'.failCause = 0 ∧
        (tk'.state = .ready ∨ tk'.state = .waiting)) ∧
    (∀ c, s.cur.guardOk x.g = true → s.ctx? s.curCtx = some c →
      let hit := c.tasks.any fun tk => tk.tcb.spec && tk.tcb.ts / 2 ^ 32 == low s x.data &&
        decide (low s x.base ≤ tk.tcb.ts % 2 ^ 32) && tk.inTracker && !tk.pastGrant
      Completes (.tabort x) s fun t => t.cur.cbit 15 = !hit ∧ t.cur.pc = s.cur.pc + 1) ∧
    (DeviceReady x .load 8 8 s → Completes (.fcwait x) s fun t =>
      if (s.cur.sreg d).toNat ≤ s.counterAt s.curCtx s.cur.cluster a then OnTo s t s.cur
      else t.cur = { s.cur with life := .here (.waiting (.again (.counter a (s.cur.sreg d).toNat))) }) ∧
    (∀ pa, DeviceReady x .add 8 8 s → AtHome s a 8 pa → Completes (.fcadd x) s fun t => OnTo s t s.cur ∧
      HomeStored s t pa (bytesOf 8 (leVal (s.homeReadFor .wr s.curCtx s.cur.cluster a 8) + (s.cur.sreg d).toNat)))

/-- R181, R235 to R238, R243 to R245, R250, R254, R256, R262, R274 to R280. An engine command whose descriptor and
registers are well made becomes a job whose id DATA takes, or waits for room; one that is not traps with cause 0x02,
and a matrix command's misaligned `ea` with 0x0B. What takes an entry of a queue is the model's reading (log entry
66). -/
def Obligations.EngineCommands : Prop :=
  (∀ p ∈ copyCommands, ∀ (x : MemForm) (s : State), Allocated (.mem p.1 x) s → s.cur.guardOk x.g = true →
    let v := s.cur.vreg (reg3 x)
    let d := descriptor v
    let ea := s.cur.eaCarved x
    let good := WellMade v ∧ p.2.2.2 d ea
    let j := s.newJob (p.2.2.1 d) .copy ea x (if d.door = 0 then none else some d.door)
    (good → IssuedOrWaits (p.2.1 x) j x.data.num5 s) ∧ (¬good → FieldTrap (p.2.1 x) (.mem p.1 x) s)) ∧
  (∀ (x : MemForm) (s : State), Allocated (.mem 0x0C9 x) s → s.cur.guardOk x.g = true →
    let v := s.cur.vreg (reg3 x)
    let w := windowOf (v.extractLsb' 0 128).toNat
    let rows := (v.extractLsb' 128 16).toNat
    let store := v.getLsbD 144
    let good := w.valid = true ∧ w.mode = (if store = true then 2 else 1) ∧ 1 ≤ rows ∧ v.extractLsb' 145 367 = 0 ∧
      w.rowLen * rows ≤ 2 ^ 20
    let j := s.newJob (.feed w rows store) .feed (s.cur.eaCarved x) x none
    (¬good → FieldTrap (.feed x) (.mem 0x0C9 x) s) ∧
    (good → IssuedOrWaits (.feed x) j x.data.num5 s)) ∧
  (∀ p ∈ matrixCommands, ∀ (x : MemForm) (s : State), s.cur.guardOk x.g = true →
    let ea := if p.2.2.1 = true then s.cur.eaCarved x else 0
    let door := if x.order = .acq then some (s.cur.sreg (x.data.num5 + 1)) else none
    let info := BitVec.ofNat 64 (s.cur.pc.toNat + (if p.2.2.2.1 = true then 2 ^ 40 else 0) +
      (match x.space with | .gm => 0 | .cm => 2 ^ 41 | .sp => 2 ^ 42 | .tcm => 2 ^ 41 + 2 ^ 42))
    (x.order = .acq ∧ x.space = .tcm → FieldTrap (p.2.1 x) (.mem p.1 x) s) ∧
    (¬(x.order = .acq ∧ x.space = .tcm) →
      (p.2.2.2.2 x s.cur = none → FieldTrap (p.2.1 x) (.mem p.1 x) s) ∧
      ∀ op, p.2.2.2.2 x s.cur = some op →
        (ea % 4 ≠ 0 → ∃ u, exec (p.2.1 x) s = .next u ∧ Trapped s u 0x0B (BitVec.ofNat 64 ea) info) ∧
        (ea % 4 = 0 → IssuedOrWaits (p.2.1 x) (s.newJob op .matrix ea x door) x.data.num5 s)))

/-- R236, R238, R242, R251, R252, R255, R258 to R260. What a thread learns of its jobs and takes from its rings, and how a
collective joins its round; an id names the thread's last job of it, if that is one of its last 256 (R238). The reads of a ring's control block and header wait for a held range, and a `COLL` waits for
a queue entry and for the round its thread is in, by the model's reading (log entries 14, 35 and 66). -/
def Obligations.JobsAndRings : Prop :=
  ∀ (x : MemForm) (s : State), s.cur.guardOk x.g = true →
    let d := x.data.num5
    let id (o : Opnd) := ((s.cur.sreg o.num5).extractLsb' 0 16).toNat
    let cb := s.cur.ea x
    let r := ringCb (s.chip x.space cb 64)
    let inside (p : Nat) := p % 8 = 0 ∧ p + 8 ≤ s.cur.limit x.space
    let rec8 (p : Nat) := leVal (s.chip x.space p 8)
    let size := 8 + 8 * ((rec8 (r.at r.tail) % 2 ^ 32 + 7) / 8)
    (s.ownJob (id x.data) = none → Completes (.jwait x) s (fun t => t = { s with cur := t.cur } ∧ Answers s t true) ∧
      Completes (.unfeed x) s (fun t => t = { s with cur := t.cur } ∧ Answers s t true)) ∧
    (∀ j, s.ownJob (id x.data) = some j →
      (16 ≤ j.status → Completes (.jwait x) s fun t => t = { s with cur := t.cur } ∧
        Answers s t (j.status != 0x10 && j.status != 0x18)) ∧
      (∀ n, j.status < 16 → s.ownNumber (id x.data) = some n → Completes (.jwait x) s fun t =>
        Waits s t (.again (.jobFinal n))) ∧
      (j.unit ≠ .feed ∨ 16 ≤ j.status → Completes (.unfeed x) s fun t => t = { s with cur := t.cur } ∧ Answers s t true) ∧
      (∀ w n, j.op = .feed w n false → j.unit = .feed → j.status < 16 → Completes (.unfeed x) s fun t =>
        t.cur.cbit 15 = false ∧ t.cur.pc = s.cur.pc + 1 ∧
          ∃ c j', t.ctx? s.curCtx = some c ∧ c.job? j.thread j.id = some j' ∧ j'.status = 0x18) ∧
      (∀ w n c, j.op = .feed w n true → j.unit = .feed → j.status < 16 → j.stopHead = none → s.ctx? s.curCtx = some c →
        j.ea + 64 ≤ 131072 → (∀ core ∈ j.cores, c.chipBad .tcm j.cluster core true j.ea 64 = none) →
        let cb := ringCb (c.chip .tcm j.cluster j.core j.ea 64)
        let stops (P : Job → Prop) := Completes (.unfeed x) s fun t => t.cur.cbit 15 = false ∧ t.cur.pc = s.cur.pc + 1 ∧
          ∃ c j', t.ctx? s.curCtx = some c ∧ c.job? j.thread j.id = some j' ∧ P j'
        (∀ va, j.place = .heldPage va → stops fun j' => j' = { j with stopHead := some cb.head }) ∧
        (j.place ∈ [.queued, .running, .heldRing] → cb.head = cb.tail → stops fun j' => j'.status = 0x18))) ∧
    Completes (.jstat x) s (fun t => WroteS s t d (BitVec.ofNat 64 (match s.ownJob (id x.base) with
      | none => 0xFF + id x.base * 2 ^ 16
      | some j => j.status + id x.base * 2 ^ 16 + min j.bytes (2 ^ 32 - 1) * 2 ^ 32))) ∧
    (OnChip x 64 s → Sound s x .load 64 → r.head = r.tail →
      Completes (.rgetPoll x) s (fun t => t = { s with cur := t.cur } ∧ Answers s t true) ∧
      Completes (.rgetTake x) s (fun t => Waits s t (.again (.ringData x.space cb))) ∧
      Completes (.rgetDone x) s (fun t => t = { s with cur := t.cur } ∧ Answers s t true)) ∧
    (OnChip x 64 s → Sound s x .load 64 → r.head ≠ r.tail → inside (r.at r.tail) →
      s.chipBad x.space .load (r.at r.tail) 8 = none →
      (rec8 (r.at r.tail) / 2 ^ 32 % 256 = 0 → size ≤ (r.head + 2 ^ 64 - r.tail) % 2 ^ 64 →
        ∀ mk ∈ [Instr.rgetPoll, .rgetTake], Completes (mk x) s fun t => t = { s with cur := t.cur } ∧
          OnTo s t (((s.cur.setS d (BitVec.ofNat 64 (rec8 (r.at r.tail)))).setS (d + 1)
            (BitVec.ofNat 64 (r.at r.tail + 8))).setCbit 15 false)) ∧
      Completes (.rgetDone x) s (fun t => ChipStore s t x.space (cb + 24) (bytesOf 8 (r.tail + size)) ∧
        t.cur.cbit 15 = false ∧ t.cur.pc = s.cur.pc + 1 ∧ t.cur.s = s.cur.s)) ∧
    (Allocated (.mem 0x0CB x) s →
      let v := (s.cur.vreg (reg3 x)).toNat
      let c := collOf v
      let j := s.newJob (.coll c) .coll (s.cur.eaCarved x) x none
      (collOk v = false → FieldTrap (.coll x) (.mem 0x0CB x) s) ∧
      (∀ p cx, collOk v = true → s.part? s.cur.id.part = some p → s.ctx? s.curCtx = some cx →
        (p.rounds.find? fun q => q.isAt s.cur.id c.group) = none → p.queueUsed j.target 3 < 64 →
        ∀ g, (p.groups.find? fun g => g.named s.cur.id.ctx s.cur.cluster c.group && g.hasMember s.cur.id) = some g →
          Completes (.coll x) s fun t => ∃ u, Issued s u j d ∧ t = { u with parts := t.parts } ∧
            ∃ p', t.part? s.cur.id.part = some p' ∧ p'.rounds = p.rounds ++
              [⟨s.cur.id.ctx, s.cur.id.task, c.group, g.members, c, [(s.cur.id.thread, s.cur.jobNext)], false, none⟩])) ∧
    (∀ n, 1 ≤ n → n < s.cur.jobNext → s.cur.jobNext ≤ n + 256 → s.ownNumber ((n - 1) % 65535 + 1) = some n) ∧
    (∀ i n, i < 2 ^ 16 → s.ownNumber i = some n → 1 ≤ n ∧ n < s.cur.jobNext ∧ s.cur.jobNext ≤ n + 256 ∧
      (n - 1) % 65535 + 1 = i)

/-- R264, R288 to R295. The sequence store: opening, loading and saving ranges, snapshots, rewinding, forking and
closing; an unopened sequence answers c15, an absent snapshot traps with cause 0x0D. A save gives fresh pages to the map
entries that are zero or whose page is named elsewhere, copies what it does not write, and answers c15 where the pool
has too few. The trap address of a byte that only a copy reads is the model's choice (log entry 63). -/
def Obligations.SequenceStore : Prop :=
  ∀ (x : MemForm) (s : State), s.cur.guardOk x.g = true → ∀ p c, s.part? s.curCtx.part = some p →
    s.ctx? s.curCtx = some c →
    let n := low s x.data
    let cfg := s.cur.sreg x.base.num5
    let pages := (cfg.extractLsb' 0 9).toNat
    let rl := (cfg.extractLsb' 16 3).toNat
    let cfgOk := 1 ≤ pages ∧ pages ≤ 256 ∧ cfg.extractLsb' 9 7 = 0 ∧ 3 ≤ rl ∧ rl ≤ 6 ∧ cfg.extractLsb' 19 45 = 0
    let shut := fun t => t = { s with cur := t.cur } ∧ Answers s t true
    let snapTrap (mk : MemForm → Instr) (seq pos : Nat) := ∃ u, exec (mk x) s = .next u ∧
      Trapped s u 0x0D (s.cur.pc.setWidth 64) (BitVec.ofNat 64 (seq * 2 ^ 32 + pos))
    let range := s.cur.sreg (x.data.num5 + 1)
    let off := (range.extractLsb' 0 32).toNat
    let len := (range.extractLsb' 32 32).toNat
    (¬cfgOk → FieldTrap (.ssopen x) (.mem 0x180 x) s) ∧
    (cfgOk → (c.seq? n).isSome = true ∨ 65536 ≤ c.seqs.length → Completes (.ssopen x) s shut) ∧
    (cfgOk → c.seq? n = none → c.seqs.length < 65536 → Completes (.ssopen x) s fun t => CtxOnly s t
      (fun c => { c with seqs := c.seqs ++ [⟨n, rl, List.replicate pages none, []⟩] }) (s.cur.setCbit 15 false)) ∧
    (c.seq? n = none → ∀ mk ∈ [Instr.ssnap, .ssrewind, .ssclose], Completes (mk x) s shut) ∧
    (c.seq? (low s x.base) = none → Completes (.ssfork x) s shut) ∧
    (∀ q, c.seq? n = some q →
      (∀ sn, q.snap? (low s x.base) = some sn → Completes (.ssrewind x) s fun t => Answers s t false ∧
        ∃ c' q', t.ctx? s.curCtx = some c' ∧ c'.seq? n = some q' ∧
          q' = { q with map := sn.map, ring := q.ring.filter fun y => y.pos ≤ low s x.base }) ∧
      (q.snap? (low s x.base) = none → snapTrap .ssrewind q.num (low s x.base)) ∧
      (let at' := low s x.base
       let snaps (ring : List Snapshot) := Completes (.ssnap x) s fun t => Answers s t false ∧
         ∃ c', t.ctx? s.curCtx = some c' ∧ c'.seq? n = some { q with ring := ring }
       ((∃ y ∈ q.ring, y.pos = at') →
         snaps (q.ring.map fun y => if y.pos = at' then { y with map := q.map } else y)) ∧
       ((∀ y ∈ q.ring, y.pos ≠ at') → (∃ y ∈ q.ring, at' < y.pos) → Completes (.ssnap x) s shut) ∧
       ((∀ y ∈ q.ring, y.pos < at') →
         snaps ((if 2 ^ q.ringLog ≤ q.ring.length then q.ring.drop 1 else q.ring) ++ [⟨at', q.map⟩]))) ∧
      Completes (.ssclose x) s (fun t => Answers s t false ∧
        ∃ c', t.ctx? s.curCtx = some c' ∧ c'.seqs = c.seqs.filter fun r => r.num != q.num)) ∧
    (∀ q, c.seq? (low s x.base) = some q →
      let pos := ((s.cur.sreg (reg3 x)).extractLsb' 0 32).toNat
      ((c.seq? n).isSome = true ∨ 65536 ≤ c.seqs.length → Completes (.ssfork x) s shut) ∧
      (c.seq? n = none → c.seqs.length < 65536 →
        (∀ sn, q.snap? pos = some sn → Completes (.ssfork x) s fun t => CtxOnly s t
          (fun c => { c with seqs := c.seqs ++ [⟨n, q.ringLog, sn.map, []⟩] }) (s.cur.setCbit 15 false)) ∧
        (q.snap? pos = none → snapTrap .ssfork q.num pos))) ∧
    (isChip x.space = true →
      let a := s.cur.ea x
      let info (wr : Bool) := BitVec.ofNat 64 (s.cur.pc.toNat + (if wr = true then 2 ^ 40 else 0) +
        (match x.space with | .gm => 0 | .cm => 2 ^ 41 | .sp => 2 ^ 42 | .tcm => 2 ^ 41 + 2 ^ 42))
      let trap (mk : MemForm → Instr) (wr : Bool) (cause : Nat) (addr : Int) := ∃ u, exec (mk x) s = .next u ∧
        Trapped s u cause (BitVec.ofInt 64 addr) (info wr)
      let both (P : (MemForm → Instr) → Bool → Prop) := P .ssload true ∧ P .sssave false
      (a % 64 ≠ 0 → both fun mk wr => trap mk wr 0x0B a) ∧
      (a % 64 = 0 → len ≠ 0 → s.cur.limit x.space < a + len → both fun mk wr =>
        trap mk wr 0x0A (max a (s.cur.limit x.space) : Nat)) ∧
      (a % 64 = 0 → len = 0 ∨ a + len ≤ s.cur.limit x.space →
        (off % 64 ≠ 0 ∨ len % 64 ≠ 0 → FieldTrap (.ssload x) (.mem 0x181 x) s ∧ FieldTrap (.sssave x) (.mem 0x182 x) s) ∧
        (off % 64 = 0 → len % 64 = 0 →
          (c.seq? n = none → Completes (.ssload x) s shut ∧ Completes (.sssave x) s shut) ∧
          ∀ q, c.seq? n = some q →
            let need := ((pieces off len).filter (c.needPage q)).length
            (q.map.length * 4096 < off + len → FieldTrap (.ssload x) (.mem 0x181 x) s ∧
              FieldTrap (.sssave x) (.mem 0x182 x) s) ∧
            (off + len ≤ q.map.length * 4096 →
              let done := fun t => t = { s with cur := t.cur } ∧ Answers s t false
              (len = 0 → Completes (.ssload x) s done ∧ Completes (.sssave x) s done) ∧
              (p.poolFree < need → Completes (.sssave x) s shut) ∧
              (0 < len →
                (∀ i, c.badRead q off len = some i → trap .ssload true 0x0C (a + i)) ∧
                (c.badRead q off len = none → Completes (.ssload x) s fun t => Answers s t false ∧
                  t.chip x.space a len = c.stateBytes q off len) ∧
                (Unheld s → need ≤ p.poolFree →
                  (∀ b, s.chipBad x.space .load a len = some b → trap .sssave false 0x0C b) ∧
                  (s.chipBad x.space .load a len = none →
                    (∀ b, c.badCopy q off len = some b → trap .sssave false 0x0C (a + (b - off))) ∧
                    (c.badCopy q off len = none → PagesSound p c → Completes (.sssave x) s fun t => Answers s t false ∧
                      ∃ c' q', t.ctx? s.curCtx = some c' ∧ c'.seq? n = some q' ∧ q'.ring = q.ring ∧
                        c'.stateBytes q' off len = s.chip x.space a len ∧
                        (∀ i, i < off ∨ off + len ≤ i → c'.stateBytes q' i 1 = c.stateBytes q i 1) ∧
                        (∀ r ∈ c.seqs, r.num ≠ q.num → r ∈ c'.seqs) ∧
                        ∀ r ∈ c.seqs, ∀ m, m ∈ r.ring.map (·.map) ∨ (r.num ≠ q.num ∧ m = r.map) →
                          ∀ i, c'.stateBytes { r with map := m } i 1 = c.stateBytes { r with map := m } i 1))))))))

/-- R265, R266, R268, R270, R298 to R306. Combines, whose winner no order of arrival changes, noise, masks, the
tokenizer step, and the lists: the words of home memory that an act changes, and no others. A finite active element takes
its value with the noise within R299's bound, rounded once. The model's choices: the noise is a free value in that bound
about the exact one (log entry 5) of the published Philox (8); `TKSTEP` checks its length, then its table, then its bytes
(34), and waits while its flip stands behind a marker of R331 (29 and 49); the sizes of the list objects that are checked
(33); what `GMASK` takes from a load of RESULT that was held (44). -/
def Obligations.SamplingAndLists : Prop :=
  ∀ (x : MemForm) (s : State) (c : Context), s.ctx? s.curCtx = some c →
    let d := x.data.num5
    let id := (s.cur.sreg d).toNat
    let arg := (s.cur.sreg x.base.num5).toNat
    let only (h : Thread) := fun t => t = { s with cur := { h with pc := s.cur.pc + 1 } }
    let give (v : Nat) (b : Bool) : Thread := (s.cur.setCbit 15 b).setS d (BitVec.ofNat 64 v)
    (s.cur.guardOk x.g = true →
      (256 ≤ id ∨ arg = 0 ∨ 65535 < arg → FieldTrap (.smopen x) (.mem 0x188 x) s) ∧
      (id < 256 → 0 < arg → arg ≤ 65535 →
        ((c.combine? id).isSome = true → Completes (.smopen x) s (only (s.cur.setCbit 15 true))) ∧
        (c.combine? id = none → Completes (.smopen x) s fun t => CtxOnly s t
          (fun c => { c with combines := c.combines ++ [⟨id, s.cur.id, arg, 0, none⟩] }) (s.cur.setCbit 15 false))) ∧
      (256 ≤ id → FieldTrap (.smpost x) (.mem 0x189 x) s) ∧
      (id < 256 → ∀ m, c.combine? id = some m → m.got < m.want → Completes (.smpost x) s fun t => CtxOnly s t
        (fun c => { c with combines := modWhere (fun m => m.id == id) (fun m => { m with
          got := m.got + 1,
          winner := bestOf m.winner (BitVec.ofNat 32 arg) (arg / 2 ^ 32 % 2 ^ 16) } : Combine → Combine) c.combines })
        s.cur) ∧
      (∀ (w : Option (Nat × Nat)) (u v : BitVec 32) (i j : Nat),
        (∀ y, w = some y → y.1 < 2 ^ 32 ∧ isNaN .fp32 (BitVec.ofNat 32 y.1) = false) →
        bestOf (bestOf w u i) v j = bestOf (bestOf w v j) u i) ∧
      (id < 256 → (∀ m, c.combine? id = some m → m.want ≤ m.got) → Completes (.smpost x) s fun t =>
        Waits s t (.again (.post id))) ∧
      (256 ≤ arg → FieldTrap (.smtake x) (.mem 0x18A x) s) ∧
      (arg < 256 → (∀ m, c.combine? arg = some m → m.owner ≠ s.cur.id) → Completes (.smtake x) s (only (give 0 true))) ∧
      (arg < 256 → ∀ m, c.combine? arg = some m → m.owner = s.cur.id →
        (m.got < m.want → Completes (.smtake x) s fun t => Waits s t (.again (.take arg))) ∧
        (m.want ≤ m.got → Completes (.smtake x) s fun t => CtxOnly s t
          (fun c => { c with combines := c.combines.filter fun m => m.id != arg })
          (give ((m.winner.map fun w => w.1 + w.2 * 2 ^ 32).getD 0x0000FFFF00000000) false)))) ∧
    (Allocated (.mem 0x18B x) s → Completes (.smnoise x) s fun t =>
      t = { s with cur := { s.cur with
        v := t.cur.v, fflags := t.cur.fflags, dcount := s.cur.dcount + 1, pc := s.cur.pc + 1 } } ∧
      (∀ n, n ≠ d → t.cur.vreg n = s.cur.vreg n) ∧
      ∃ F : Nat → Flags, FlagsOf s t (active s.cur x.g 32) 16 F ∧ ∀ i, i < 16 →
        let old := lane .fp32 (s.cur.vreg d) i
        let new := lane .fp32 (t.cur.vreg d) i
        let v := (s.cur.low32 (reg3 x) + i) % 2 ^ 32
        let word := philox s.cur.seed (arg % 2 ^ 32) (arg / 2 ^ 32) s.cur.dcount.toNat (v / 4) v
        (active s.cur x.g 32 i = false → new = old) ∧
        (active s.cur x.g 32 i = true → isNaN .fp32 old = true →
          new = canonical .fp32 ∧ F i = if isSignalling .fp32 old = true then Fl.nv else 0) ∧
        (active s.cur x.g 32 i = true → isInfinite .fp32 old = true → new = old ∧ F i = 0) ∧
        (active s.cur x.g 32 i = true → special .fp32 old = false → ∃ g f, NoiseUsed word g ∧
          Rounded .fp32 0 (number .fp32 old + g) new f ∧ F i = f &&& (Fl.of ||| Fl.nx))) ∧
    (Allocated (.mem 0x190 x) s → x.t.isF = true →
      let n := laneCount x.t / 8
      let masks (bs : List Byte) := fun t : State => (∀ n, n ≠ d → t.cur.vreg n = s.cur.vreg n) ∧
        ∀ i, i < laneCount x.t → lane x.t (t.cur.vreg d) i =
          if active s.cur x.g x.t.bits i = true ∧ (leVal bs).testBit i = false
          then infinity x.t true else lane x.t (s.cur.vreg d) i
      ((∀ i, i < laneCount x.t → active s.cur x.g x.t.bits i = false) → Completes (.gmask x) s (Moved s)) ∧
      (s.cur.role = none → Unheld s →
        (isChip x.space = true → s.cur.ea x + n ≤ s.cur.limit x.space → Sound s x .load n → Completes (.gmask x) s fun t =>
          t = { s with cur := { s.cur with v := t.cur.v, pc := s.cur.pc + 1 } } ∧
          masks (s.chip x.space (s.cur.ea x) n) t) ∧
        ∀ tk, isChip x.space = false → s.task? s.cur.id.taskId = some tk →
          s.eltStop .load x.space 1 ⟨0, s.cur.ea x, n⟩ = none → Completes (.gmask x) s fun t =>
            t.cur = { s.cur with v := t.cur.v, pc := s.cur.pc + 1, predmiss := t.cur.predmiss } ∧ HomeSame s t ∧
            ∃ bs, bs.length = n ∧ (s.cur.tickets = [] → Sees s .rd tk (s.cur.ea x) bs) ∧ masks bs t)) ∧
    (Allocated (.mem 0x198 x) s → s.cur.guardOk x.g = true → s.cur.role = none →
      let w := s.cur.sreg (reg3 x)
      let n := (w.extractLsb' 0 5).toNat
      let flush := w.getLsbD 5
      let table := (w.extractLsb' 8 6).toNat
      let base := (w.extractLsb' 32 32).toNat
      let absent := ∃ u, exec (.tkstep x) s = .next u ∧
        Trapped s u 0x02 (s.cur.pc.setWidth 64) (BitVec.ofNat 64 table)
      (16 < n → FieldTrap (.tkstep x) (.mem 0x198 x) s) ∧
      (n ≤ 16 → c.table? table = none → absent) ∧
      ∀ tb cp, n ≤ 16 → c.table? table = some tb → tb.copies[s.cur.cluster]? = some cp →
        let sh := shown tb s.cur.id cp
        let a := s.cur.eaCarved x
        (bitsOf sh.1 0 4 = 0 → absent) ∧
        (bitsOf sh.1 0 4 ≠ 0 → s.seesHeld s.cur table = true → Completes (.tkstep x) s fun t =>
          Waits s t (.again (.flipSeen table))) ∧
        (bitsOf sh.1 0 4 ≠ 0 → s.seesHeld s.cur table = false → isChip x.space = true → Unheld s → n = 0 ∨ a + n ≤ s.cur.limit x.space →
          n = 0 ∨ s.chipBad x.space .load a n = none → Completes (.tkstep x) s fun t =>
            ∃ us out rest toks held left,
              Cut ((List.range (s.cur.tkstate.extractLsb' 24 2).toNat).map (fun i =>
                  (s.cur.tkstate.extractLsb' (8 * i) 8).toNat) ++
                (if n = 0 then [] else (s.chip x.space a n).map BitVec.toNat)) us ∧
              Emits sh.2 base 0 us out rest ∧ Ends base flush out rest toks held left ∧ toks.length ≤ 16 ∧
              (∃ f : Context → List Table, t = { s.modCtx s.curCtx (fun c => { c with tables := f c }) with cur := t.cur }) ∧
              t.cur = { s.cur with
                v := t.cur.v, s := t.cur.s, pc := s.cur.pc + 1
                tkstate := BitVec.ofNat 64 (leVal (held.map (BitVec.ofNat 8)) + held.length * 2 ^ 24) } ∧
              t.cur.sreg (reg3 x) = (if reg3 x = 0 then 0 else BitVec.ofNat 64 (n + flush.toNat * 2 ^ 5 +
                table * 2 ^ 8 + toks.length * 2 ^ 16 + (n - left) * 2 ^ 24 + base * 2 ^ 32)) ∧
              (∀ r, r ≠ reg3 x → t.cur.sreg r = s.cur.sreg r) ∧ (∀ r, r ≠ d → t.cur.vreg r = s.cur.vreg r) ∧
              ∀ i, i < 16 → lane .fp32 (t.cur.vreg d) i = match toks[i]? with
                | some k => BitVec.ofNat 32 k
                | none => lane .fp32 (s.cur.vreg d) i)) ∧
    (s.cur.guardOk x.g = true →
      (∀ mk ∈ [(Instr.lmove, lmoveAct), (.lpush, lpushAct), (.lpop, fun s a _ => lpopAct s a)],
        (∀ st cause a st2, mk.2 s (s.cur.ea x) id = .error st → st = .trap cause a st2 →
          ∃ u, exec (mk.1 x) s = .next u ∧
            Trapped (s.countSquash x.space true cause a) u cause (BitVec.ofNat 64 a) (s.memInfo x.space 0 true)) ∧
        ∀ l v b, mk.2 s (s.cur.ea x) id = .ok (l, v, b) →
          (∀ e ∈ c.edges, e.src = s.cur.id.task → e.hard = true) → Completes (mk.1 x) s fun t =>
            MemFrame x s t ((match v with
              | some v => s.cur.setS d (BitVec.ofNat 64 v)
              | none => s.cur).setCbit 15 b)) ∧
      let w (a : Nat) : Nat := leVal (s.homeReadFor .wr s.curCtx s.cur.cluster a 8)
      ∀ mk ∈ [(Instr.lmove, moveWords), (.lpush, pushWords), (.lpop, fun a _ => popWords a)],
        let r : ListEffect := mk.2 (s.cur.ea x) id w
        ∀ tk g (pa : Nat → Nat), s.task? s.cur.id.taskId = some tk →
          (∀ e ∈ r.2.1, e.1 % e.2.1 = 0 ∧ AtHomeBy g s (e.1 + e.2.2) 8 (pa (e.1 + e.2.2)) ∧
            s.badIn (pa (e.1 + e.2.2)) 8 = false ∧ ∀ i, i < 8 → tk.inA (e.1 + e.2.2 + i) = true) →
          (∀ e ∈ r.2.1, ∀ f ∈ r.2.1, e.1 + e.2.2 ≠ f.1 + f.2.2 →
            pa (e.1 + e.2.2) + 8 ≤ pa (f.1 + f.2.2) ∨ pa (f.1 + f.2.2) + 8 ≤ pa (e.1 + e.2.2)) →
          (∀ e ∈ c.edges, e.src = s.cur.id.task → e.hard = true) → Completes (mk.1 x) s fun t =>
            MemFrame x s t ((match r.2.2.1 with
              | some v => s.cur.setS d (BitVec.ofNat 64 v)
              | none => s.cur).setCbit 15 r.2.2.2) ∧ t.hostMem = s.hostMem ∧
            (∀ e ∈ r.2.1, readBytes t.mem (pa (e.1 + e.2.2)) 8 = bytesOf 8 (r.1 (e.1 + e.2.2))) ∧
            ∀ k, (∀ e ∈ r.2.1, k < pa (e.1 + e.2.2) ∨ pa (e.1 + e.2.2) + 8 ≤ k) → readByte t.mem k = readByte s.mem k)


/-- R94 and R96. `TRAP` and `BRK` park the thread with their code in %tinfo; `NOP` does nothing. Fields that must be
zero are zero in every word that decodes; a word of `NOP` with another traps with cause 0x02. -/
def Obligations.SystemTraps : Prop :=
  (∀ (x : CtlForm) (s : State), s.cur.guardOk x.g = true →
    (∃ u, exec (.trap x) s = .next u ∧
      Trapped s u 0x07 (s.cur.pc.setWidth 64) ((x.subop.extractLsb' 0 16).setWidth 64)) ∧
    (∃ u, exec (.brk x) s = .next u ∧
      Trapped s u 0x0F (s.cur.pc.setWidth 64) ((x.subop.extractLsb' 0 16).setWidth 64)) ∧
    Completes (.nop x) s (Moved s)) ∧
  (∀ x : CtlForm,
    let plain := x.table = 0 ∧ x.key = 0 ∧ x.ind = 0
    (Code.fieldsOk (.ctl 0x020 x) = true ↔ plain ∧ x.subop.extractLsb' 16 16 = 0) ∧
    (Code.fieldsOk (.ctl 0x022 x) = true ↔ plain ∧ x.subop.extractLsb' 16 16 = 0) ∧
    (Code.fieldsOk (.ctl 0x023 x) = true ↔ plain ∧ x.subop = 0)) ∧
  decode 0xC230000000000000 = .ok (.nop ⟨⟨false, 0⟩, 0, 0, 0, 0⟩) ∧
  (∀ x : CtlForm, ¬(x.table = 0 ∧ x.key = 0 ∧ x.ind = 0 ∧ x.subop = 0) →
    decode (Code.ctl 0x023 x).word = .error .field) ∧
  ∀ (w : Word) (s : State), ∃ u, decodeTrap .field w s = .next u ∧ Trapped s u 0x02 (s.cur.pc.setWidth 64) w

/-- R95, R97 and R234. `RESUME` waits for the target's controller; `WAITE` takes the event latch or waits; `XINV` is
privileged, checks its page range and its context, and waits for the shoot-down. -/
def Obligations.SystemInstructions : Prop :=
  ∀ (x : CtlForm) (s : State),
    let field (r : BitVec 5) := ((s.cur.sreg r).extractLsb' 0 32).toNat
    let n := (x.subop.extractLsb' 0 24).toNat
    (s.cur.guardOk x.g = true →
      Completes (.resume x) s (fun u => Waits s u (.resume (field x.key) (x.subop.extractLsb' 0 2).toNat (field x.ind))) ∧
      (n = 0 ∨ s.cur.latch = true → Completes (.waite x) s fun u =>
        u = { s with cur := { s.cur.setCbit 15 s.cur.latch with latch := false, pc := s.cur.pc + 1 } }) ∧
      (n ≠ 0 → s.cur.latch = false → Completes (.waite x) s fun u => Waits s u (.event (s.time + n)))) ∧
    ((∀ c, s.ctx? s.curCtx = some c → c.firmware = false) → ∃ u, exec (.xinv x) s = .next u ∧
      Trapped s u 0x0A (s.cur.pc.setWidth 64) (Code.ctl 0x03F x).word) ∧
    ∀ c p, s.ctx? s.curCtx = some c → s.part? s.curCtx.part = some p → c.firmware = true → s.cur.guardOk x.g = true →
      let mode := (x.subop.extractLsb' 0 2).toNat
      let num := (x.subop.extractLsb' 4 12).toNat
      let a := (s.cur.sreg x.key).toNat
      let b := (s.cur.sreg x.ind).toNat
      let pages := a % 4096 = 0 ∧ b ≠ 0 ∧ b % 4096 = 0 ∧ a + b ≤ 2 ^ 48
      let shoots (sh : Shoot) := Completes (.xinv x) s fun u =>
        u = { s.modPart p.num (fun p => { p with shoots := p.shoots ++ [sh] }) with
          cur := { s.cur with life := .here (.waiting .shootdown) } }
      let stages := (x.subop.extractLsb' 2 2).toNat
      (mode = 0 → ¬pages → FieldTrap (.xinv x) (.ctl 0x03F x) s) ∧
      (mode = 0 ∧ pages ∨ mode = 1 → s.ctx? ⟨s.curCtx.part, num⟩ = none →
        Completes (.xinv x) s fun u => u = { s with cur := u.cur } ∧ Answers s u true) ∧
      (mode = 0 → pages → (s.ctx? ⟨s.curCtx.part, num⟩).isSome = true →
        shoots ⟨some num, stages, a, a + b, .thread s.cur.id⟩) ∧
      (mode = 1 → (s.ctx? ⟨s.curCtx.part, num⟩).isSome = true →
        shoots ⟨some num, stages, 0, 2 ^ 64, .thread s.cur.id⟩) ∧
      (mode = 2 → shoots ⟨none, stages, 0, 2 ^ 64, .thread s.cur.id⟩)

/-- R5, R27 to R29, R85 and R86. `NEXT` and `MATCH` wait for their lookup; it takes the first entry whose cared-for bits
agree with c and the key register, and the entry's or the header's action decides how the thread goes on. The model's
choices: a lookup whose flip stands behind a marker waits (log entry 29) and its event then leaves everything as it was
(15); what a lookup makes visible and the copies it leaves (49). -/
def Obligations.Lookups : Prop :=
  (∀ (x : CtlForm) (s : State),
    let key := (s.cur.c ++ (s.cur.sreg x.key).extractLsb' 0 32).toNat
    Completes (.next x) s (fun u => Waits s u (.lookup x.table.toNat key x.ind.toNat none)) ∧
    (s.cur.guardOk x.g = true → Completes (.matchT x) s fun u =>
      Waits s u (.lookup x.table.toNat key 0 (some (x.ind.toNat, (x.subop.extractLsb' 0 5).toNat))))) ∧
  ∀ (t : TId) (s : State) (h : Thread) (c : Context) (table key ind : Nat) (dst : Option (Nat × Nat)),
    Waiting s t h (.lookup table key ind dst) → h.role = none → key < 2 ^ 48 → s.ctx? t.ctxId = some c →
    let traps (cause : Nat) (taddr : Word) (a : Vector (BitVec 32) 4) := Completes (.lookupComplete t) s fun u =>
      u.thread? t = some { h with
        a := a, tcause := BitVec.ofNat 64 cause, taddr := taddr, tinfo := BitVec.ofNat 64 (key + table * 2 ^ 48),
        life := .here .parked }
    let ends := (∀ j ∈ c.jobs, j.unit ≠ .feed) → Completes (.lookupComplete t) s fun u =>
      (∃ h', u.thread? t = some h' ∧ h'.life = .retired ∧ h'.s = h.s) ∧
      ∀ tk, s.task? t.taskId = some tk → tk.state = .running → tk.allStarted = true →
        (∀ n ∈ c.threads, n.id.taskId = t.taskId → n.role = none → n.id = t ∨ n.life = .retired) →
        ∃ tk', u.task? t.taskId = some tk' ∧ tk'.state = .committing
    let nothing := traps 0x05 (h.pc.setWidth 64) h.a
    (s.seesHeld h table = true → Completes (.lookupComplete t) s fun u => u = s) ∧
    (c.table? table = none → nothing) ∧ (s.seesHeld h table = false →
    ∀ tb cp, c.table? table = some tb → tb.copies[h.cluster]? = some cp → InOrder c.nclusters tb →
      let goes (h' : Thread) := Completes (.lookupComplete t) s fun u => OnlyLookup s u t h' tb h.cluster
        (∀ p ∈ tb.pins, p.thread ≠ t)
      let sh := shown tb t cp
      let action := bitsOf sh.1 8 2
      let target := bitsOf sh.1 32 32
      (bitsOf sh.1 0 4 = 0 → nothing) ∧
      (bitsOf sh.1 0 4 ≠ 0 → winner sh.2 (BitVec.ofNat 48 key) = none → (action = 2 → nothing) ∧
        match dst with
        | none =>
          (action = 0 → goes { h with
            a := Vector.replicate 4 0, pc := BitVec.ofNat 32 target, life := .here .ready }) ∧
          (action = 1 → ends)
        | some (d, e) => action < 2 → goes (onward ((h.setS (BitVec.ofNat 5 d) 0).setS (BitVec.ofNat 5 e)
            (BitVec.ofNat 64 (target * 2 ^ 32 + 2 * action))))) ∧
      ∀ i ent, bitsOf sh.1 0 4 ≠ 0 → winner sh.2 (BitVec.ofNat 48 key) = some (i, ent) →
        let act := bitsOf ent 128 3
        let dest := bitsOf ent 160 32
        let a : Vector (BitVec 32) 4 := Vector.ofFn fun n => BitVec.ofNat 32 (bitsOf ent (192 + 16 * n.val) 16)
        match dst with
        | none =>
          (act = 0 → goes { h with a := a, pc := BitVec.ofNat 32 dest, life := .here .ready }) ∧
          (act = 1 → goes { h with
            a := a, pc := (h.sreg (BitVec.ofNat 5 ind)).extractLsb' 0 32, life := .here .ready }) ∧
          (act = 2 → ends) ∧
          (act = 3 → goes { h with a := a, pc := BitVec.ofNat 32 dest, life := .yielded }) ∧
          (act = 4 → traps 0x06 (BitVec.ofNat 16 i ++ (ent.extractLsb' 160 16 ++ h.pc)) a)
        | some (d, e) => goes (onward ((h.setS (BitVec.ofNat 5 d) (ent.extractLsb' 192 64)).setS (BitVec.ofNat 5 e)
            (BitVec.ofNat 64 (dest * 2 ^ 32 + i * 2 ^ 4 + 8 + act)))))

/-- R25, R26, R31 to R36 and R87 to R90. The table instructions and the directory's messages, which keep their order.
The model's choices: an operation enters flip order, is refused and pins as it issues (log entry 49), and a message or
reply behind a marker of R331 waits (29) and leaves everything as it was (15). -/
def Obligations.Tables : Prop :=
  (∀ (x : CtlForm) (s : State), s.cur.guardOk x.g = true →
    let ops : List (Nat × (CtlForm → Instr)) := [(0x011, .tbw), (0x012, .tbr), (0x013, .tbclr), (0x014, .tbcopy),
      (0x015, .tbflip), (0x016, .tbpin), (0x017, .tbunpin)]
    (∀ p ∈ ops, Allocated (.ctl p.1 x) s → (∀ c t, ¬TableAt s x c t) → ∃ u, exec (p.2 x) s = .next u ∧
      Trapped s u 0x02 (s.cur.pc.setWidth 64) (x.table.setWidth 64)) ∧
    ∀ c t, TableAt s x c t →
      let enters (i : Instr) (op : TableOp) :=
        (Busy t → Completes i s fun u => TableIs s u x t (.tableOp t.id t.seq (some true))) ∧
        (¬Busy t → Completes i s fun u =>
          TableIs s u x (entered c.nclusters op t) (.tableOp t.id (t.seq + 1) (some false)))
      let index := (s.cur.sreg x.key).extractLsb' 0 32
      let img := (s.cur.vreg x.ind).extractLsb' 0 256
      let header := index = BitVec.allOnes 32
      let entry := index.toNat < 2 ^ t.sizeLog ∧ ¬header
      (Allocated (.ctl 0x011 x) s →
        (¬header → ¬entry → ∃ u, exec (.tbw x) s = .next u ∧
          Trapped s u 0x02 (s.cur.pc.setWidth 64) (index.setWidth 64)) ∧
        (header → (img.toNat < 2 ^ 64 ∧ GoodHeader t.sizeLog (img.extractLsb' 0 64) → enters (.tbw x) (.write none img)) ∧
          (¬(img.toNat < 2 ^ 64 ∧ GoodHeader t.sizeLog (img.extractLsb' 0 64)) → FieldTrap (.tbw x) (.ctl 0x011 x) s)) ∧
        (entry → (GoodEntry img → enters (.tbw x) (.write (some index.toNat) img)) ∧
          (¬GoodEntry img → FieldTrap (.tbw x) (.ctl 0x011 x) s))) ∧
      (Allocated (.ctl 0x012 x) s →
        (¬header → ¬entry → ∃ u, exec (.tbr x) s = .next u ∧
          Trapped s u 0x02 (s.cur.pc.setWidth 64) (index.setWidth 64)) ∧
        ∀ cp, t.copies[s.cur.cluster]? = some cp → s.cur.role = none → header ∨ entry →
          Completes (.tbr x) s fun u =>
            let back := x.subop = 0 ∨ ∃ p, t.pins.find? (fun p => p.thread == s.cur.id) = some p ∧
              cp.backGen = some p.gen ∧ cp.frontGen ≠ p.gen
            u = { s with cur := { s.cur with v := u.cur.v, pc := s.cur.pc + 1 } } ∧
            (∀ n, n ≠ x.ind → u.cur.vreg n = s.cur.vreg n) ∧
            (entry → (back → u.cur.vreg x.ind = (cp.back.getD index.toNat 0).setWidth 512) ∧
              (¬back → u.cur.vreg x.ind = (cp.front.getD index.toNat 0).setWidth 512)) ∧
            (header → back → cp.backGen = none →
              u.cur.vreg x.ind = BitVec.ofNat 512 (cp.backHdr.toNat + 0xFFFFFFFF * 2 ^ 64)) ∧
            (header → ∀ hdr gen, (back → hdr = cp.backHdr ∧ cp.backGen = some gen) →
              (¬back → hdr = cp.frontHdr ∧ gen = cp.frontGen) → gen < 2 ^ 32 →
              u.cur.vreg x.ind = BitVec.ofNat 512 (hdr.toNat + gen * 2 ^ 64 +
                (t.pins.filter fun p => p.gen == gen).length % 2 ^ 32 * 2 ^ 96))) ∧
      enters (.tbclr x) .clear ∧ enters (.tbcopy x) .copy ∧ enters (.tbflip x) .flip ∧
      (let mine := fun (u : Table) => ∃ p ∈ u.pins, p.thread = s.cur.id
        let held := (c.tables.filter fun u => u.pins.any fun p => p.thread == s.cur.id).length
        (mine t → Completes (.tbpin x) s fun u => Waits s u (.tableOp t.id t.seq none)) ∧
        (¬mine t → 4 ≤ held → FieldTrap (.tbpin x) (.ctl 0x016 x) s) ∧
        (¬mine t → held < 4 → Completes (.tbpin x) s fun u =>
          TableIs s u x { t with pins := t.pins ++ [⟨s.cur.id, t.dirFront⟩] } (.tableOp t.id t.seq none))) ∧
      Completes (.tbunpin x) s (fun u => TableIs s u x
        { t with pins := t.pins.filter fun p => p.thread ≠ s.cur.id } (.tableOp t.id t.seq none))) ∧
  (∀ (n : Nat) (op : TableOp) (tb : Table), InOrder n tb → InOrder n (entered n op tb)) ∧
  (∀ (k : CtxId) (n : Nat) (s : State), s.active k = true → Completes (.tableOpApply k n) s fun u =>
    ∃ f : Table → Table, u = s.modCtx k (fun c => { c with tables := c.tables.map f }) ∧
      ∀ tb, ((∀ m ∈ tb.inbox, m.cluster ≠ n) → f tb = tb) ∧ (∀ i, InOrder i tb → InOrder i (f tb)) ∧
        ∀ m, (tb.inbox.find? fun m => m.cluster == n) = some m →
          let blocked := s.sentBehind k fun p c => p.tableSent c tb.id m
          (blocked = true → f tb = tb) ∧ (blocked = false → f tb = { tb with
            copies := (f tb).copies, inbox := tb.inbox.filter fun y => y.cluster ≠ n ∨ y.seq ≠ m.seq } ∧
          (∀ j, j ≠ n → (f tb).copies[j]? = tb.copies[j]?) ∧
          ∀ cp, tb.copies[n]? = some cp → ∃ cp', (f tb).copies[n]? = some cp' ∧ AppliedTo m.op cp cp')) ∧
  ∀ (t : TId) (s : State) (h : Thread) (c : Context) (tb : Table) (id seq : Nat) (c15 : Option Bool),
    Waiting s t h (.tableOp id seq c15) → h.role = none → s.ctx? t.ctxId = some c → c.table? id = some tb →
    (∀ m ∈ tb.inbox, seq < m.seq ∨ (m.cluster ≠ h.cluster ∧ c15 ≠ some false)) →
    let blocked := s.sentBehind t.ctxId fun p c => p.replySent c h
    (blocked = true → Completes (.tableDirectoryReply t) s fun u => u = s) ∧
    match c15 with
    | some b => blocked = false →
        Completes (.tableDirectoryReply t) s fun u => OnlyThread s u t (onward (h.setCbit 15 b))
    | none => blocked = false → s.seesHeld h id = false → InOrder c.nclusters tb →
      Completes (.tableDirectoryReply t) s fun u => OnlyLookup s u t (onward h) tb h.cluster (∃ p ∈ tb.pins, p.thread = t)

/-- R20 to R22 and R91 to R93. Groups: joining, leaving, counting and the phases of the barrier. That a thread in four
groups traps before it waits for a handle is the model's choice (log entry 70); where a restore has brought another
context's group of the same wide handle, each thread reaches its own (log entry 61); a member whose phase completes while
it is saved returns to WAITING, with nothing left to wait for (log entry 103). -/
def Obligations.Groups : Prop :=
  (∀ (x : CtlForm) (s : State), s.cur.guardOk x.g = true →
    let n := handleOf s x
    let me := s.cur.id.thread
    let done (b : Bool) := fun u => u = { s with cur := { s.cur.setCbit 15 b with pc := s.cur.pc + 1 } }
    (¬GoodHandle n → ∀ mk ∈ [Instr.gjoin, .gleave, .gbar, .gsize], ∃ u, exec (mk x) s = .next u ∧
      Trapped s u 0x02 (s.cur.pc.setWidth 64) (BitVec.ofNat 64 n)) ∧
    (GoodHandle n → ∀ p, s.part? s.cur.id.part = some p →
      let mine := (p.groups.filter fun g => g.ctx == s.cur.id.ctx && g.task == s.cur.id.task &&
        g.members.contains me).length
      let joined := fun u => GroupsOnly s u { s.cur.setCbit 15 false with pc := s.cur.pc + 1 }
      (groupOf s n = none →
        (4 ≤ mine → FieldTrap (.gjoin x) (.ctl 0x028 x) s) ∧
        (mine < 4 → Completes (.gjoin x) s fun u => joined u ∧
          groupOf u n = some ⟨s.cur.id.ctx, s.cur.cluster, n, s.cur.id.task, [me], false, [], [], []⟩) ∧
        Completes (.gleave x) s (Moved s) ∧ Completes (.gbar x) s (done true) ∧
        Completes (.gsize x) s (fun u => WroteS s u x.ind 0)) ∧
      ∀ g, groupOf s n = some g →
        let own := g.ctx = s.cur.id.ctx ∧ g.task = s.cur.id.task
        (Member s g → Completes (.gjoin x) s (done false)) ∧
        (¬Member s g → 4 ≤ mine → FieldTrap (.gjoin x) (.ctl 0x028 x) s) ∧
        (¬Member s g → mine < 4 → ¬own → Completes (.gjoin x) s fun u => Waits s u (.again (.handleFree n))) ∧
        (¬Member s g → mine < 4 → own → g.members.length < 65535 → Completes (.gjoin x) s fun u => joined u ∧
          ∃ ms, groupOf u n = some { g with members := ms } ∧ ∀ i, i ∈ ms ↔ i = me ∨ i ∈ g.members) ∧
        (¬Member s g → mine < 4 → own → 65535 ≤ g.members.length → Completes (.gjoin x) s (done true)) ∧
        (¬Member s g → Completes (.gleave x) s (Moved s) ∧ Completes (.gbar x) s (done true)) ∧
        (Member s g → Completes (.gleave x) s fun u => u.cur.pc = s.cur.pc + 1 ∧ u.cur.c = s.cur.c ∧
          (∀ p' g', u.part? s.cur.id.part = some p' → g' ∈ p'.groups →
            g'.named s.cur.id.ctx s.cur.cluster n = true → ¬Member s g') ∧
          ((∃ i ∈ g.members, i ≠ me) → ∃ g', groupOf u n = some g' ∧ g'.members = g.members.filter (· ≠ me) ∧
            g'.awaited = g.awaited.filter (· ≠ me) ∧ g'.isOpen = g.isOpen)) ∧
        (Member s g → Completes (.gbar x) s fun u =>
          GroupsOnly s u { s.cur.setCbit 15 false with pc := s.cur.pc + 1, life := .here (.waiting (.barrier n)) } ∧
          ∃ g', groupOf u n = some g' ∧ g'.members = g.members ∧ g'.isOpen = true ∧
            (g.isOpen = false → g'.awaited = g.members.filter (· ≠ me) ∧ g'.arrived = [me] ∧ g'.early = g.early) ∧
            (g.isOpen = true → me ∈ g.awaited → g'.awaited = g.awaited.filter (· ≠ me) ∧ g'.early = g.early ∧
              ∀ i, i ∈ g'.arrived ↔ i = me ∨ i ∈ g.arrived) ∧
            (g.isOpen = true → me ∉ g.awaited → g'.awaited = g.awaited ∧ g'.arrived = g.arrived ∧
              ∀ i, i ∈ g'.early ↔ i = me ∨ i ∈ g.early)) ∧
        (own → Completes (.gsize x) s fun u => WroteS s u x.ind (BitVec.ofNat 64 g.members.length)) ∧
        (¬own → Completes (.gsize x) s fun u => WroteS s u x.ind 0))) ∧
  ∀ (y : GroupId) (s : State) (p : Partition) (g : Group), s.part? y.part = some p →
    groupAt p y = some g → s.clocked y.part = true →
    g.isOpen = true → g.awaited = [] → Completes (.barrierPhaseComplete y) s fun u =>
      (∀ i ∈ g.arrived, ∀ h, s.thread? ⟨y.part, g.ctx, g.task, i⟩ = some h →
        (h.life = .here (.waiting (.barrier g.handle)) →
          u.thread? ⟨y.part, g.ctx, g.task, i⟩ = some { h with life := .here .ready }) ∧
        (h.life = .saved (.waiting (.barrier g.handle)) →
          u.thread? ⟨y.part, g.ctx, g.task, i⟩ = some { h with
            life := .saved (.waiting (.again (.regs [] 0))) })) ∧
      ∃ p' g', u.part? y.part = some p' ∧
        groupAt p' y = some g' ∧ g'.members = g.members ∧
        (g.early = [] → g'.isOpen = false ∧ g'.arrived = []) ∧
        (g.early ≠ [] → g'.isOpen = true ∧ g'.awaited = g.members.filter (· ∉ g.early) ∧ g'.arrived = g.early ∧
          g'.early = [])

/-- R13, R95, R97, R204, R213, R218, R255, R267 and R43. How a thread's wait ends, and what befalls its seat meanwhile;
the end of a task, a counter's value or a full bit that a thread waits for is kept for it, whatever follows; a count of cycles is over
when the cycle of its end has passed, and what came by then decides it. That an event whose condition does not hold changes
nothing is log entry 15, that a bank at retention changes no register entry 45, and that a RESUME waits behind a marker
entry 29. -/
def Obligations.WaitsEnd : Prop :=
  ∀ (t : TId) (s : State) (h : Thread) (c : Context), s.ctx? t.ctxId = some c →
    let only (i : Instr) (h' : Thread) := Completes i s fun u => OnlyThread s u t h'
    let ready := { h with life := Life.here .ready }
    (∀ w, Waiting s t h (.again w) → (∀ n d, w ≠ .taskEnd n d) →
      (w.holds s h = true → only (.stallResolves t) ready) ∧
      (w.holds s h = false → Completes (.stallResolves t) s fun u => u = s) ∧
      (∀ cl un, w = .jobRoom cl un → w.holds s h = true → only (.jobQueueEntryFree t) ready)) ∧
    (∀ n d, Waiting s t h (.again (.taskEnd n d)) → ∀ tk, s.task? ⟨t.part, t.ctx, n⟩ = some tk →
      tk.state = .done ∨ tk.state = .failed ∨ tk.state = .aborted →
      only (.stallResolves t) (onward ((h.setS (BitVec.ofNat 5 d) (BitVec.ofNat 64 tk.state.code)).setCbit 15 false))) ∧
    (∀ d, Waiting s t h (.answered d) → only (.stallResolves t) (onward (match d with
      | some (r, v) => (h.setS (BitVec.ofNat 5 r) (BitVec.ofNat 64 v)).setCbit 15 false
      | none => h))) ∧
    (∀ n d, Waiting s t h (.again (.taskEnd n d)) → ∀ tk, s.task? ⟨t.part, t.ctx, n⟩ = some tk →
      tk.state = .done ∨ tk.state = .failed ∨ tk.state = .aborted →
      s.tellThreads.thread? t = some { h with life := .here (.waiting (.answered (some (d, tk.state.code)))) }) ∧
    (∀ va v, Waiting s t h (.again (.counter va v)) → v ≤ s.counterAt t.ctxId h.cluster va →
      s.tellThreads.thread? t = some { h with life := .here (.waiting (.answered none)) }) ∧
    (∀ spc a d, Waiting s t h (.gwait spc a d) → c.isFull spc h.cluster h.core a = true → s.time ≤ d →
      s.tellThreads.thread? t = some { h with life := .here (.waiting (.answered (some (0, 0)))) }) ∧
    (∀ w, Waiting s t h (.again w) → (∀ n d, w ≠ .taskEnd n d) → (∀ va v, w ≠ .counter va v) →
      s.tellThreads.thread? t = some h) ∧
    s.notice = s.payOwed.tellThreads ∧ ((∀ p ∈ s.parts, p.owed = []) → s.payOwed = s) ∧
    (∀ d, Waiting s t h (.event d) →
      let ended := onward (({ h with latch := false } : Thread).setCbit 15 h.latch)
      (h.latch = true → s.time ≤ d → only (.stallResolves t) ended) ∧ (d < s.time → only (.waiteTimeout t) ended) ∧
      (s.time ≤ d → Completes (.waiteTimeout t) s fun u => u = s) ∧
      ∀ n, 0 < n → (s.passTime n).thread? t = some (if d < s.time + n then ended else h)) ∧
    (∀ spc a d p, Waiting s t h (.gwait spc a d) → s.part? t.part = some p →
      let full := c.isFull spc h.cluster h.core a
      let ended := onward (h.setCbit 15 (!full))
      (full = true → s.time ≤ d → only (.stallResolves t) ended) ∧ (d < s.time → only (.gwaitTimeout t) ended) ∧
      (s.time ≤ d → Completes (.gwaitTimeout t) s fun u => u = s) ∧
      ∀ n, 0 < n → (s.passTime n).thread? t = some (if d < s.time + n then ended else h)) ∧
    (∀ n mode addr, Waiting s t h (.resume n mode addr) → s.sentBehind t.ctxId (fun p c => p.resumeSent c h n) = true →
      Completes (.resumeMessage t) s fun u => u = s) ∧
    (∀ n mode addr, Waiting s t h (.resume n mode addr) → s.sentBehind t.ctxId (fun p c => p.resumeSent c h n) = false →
      let target : TId := ⟨t.part, t.ctx, t.task, n⟩
      (∀ g, n < h.nthreads.toNat → s.awake? target = some g → g.life = .here .parked →
        Completes (.resumeMessage t) s fun u => u.thread? t = some (onward (h.setCbit 15 false)) ∧
          u.thread? target = some { g with
            life := .here .ready
            pc := if mode = 0 then g.pc else if mode = 1 then g.pc + 1 else BitVec.ofNat 32 addr }) ∧
      ((∀ g, n < h.nthreads.toNat → s.awake? target = some g → g.life ≠ .here .parked) →
        only (.resumeMessage t) (onward (h.setCbit 15 true)))) ∧
    (∀ w bank, Waiting s t h w → 8 * bank < h.vregs → h.since + 256 ≤ s.time → ∃ r, only (.bankRetention t bank) { h with retained := r } ∧
      ∀ n, n ∈ r ↔ n = bank ∨ n ∈ h.retained) ∧
    (s.awake? t = some h → h.life = .yielded → c.seatHeld h.cluster h.core h.seat = false →
      Completes (.yieldReturn t) s fun u => u.thread? t = some ready ∧
        ∃ c', u.ctx? t.ctxId = some c' ∧ (8 * h.cluster + h.core, h.seat) ∉ c'.gated)

/-- R4, R14, R16 and R17. The gate on a free seat, and the thread that takes one: with its registers as a thread is
created, at the task's entry, in its slot. A seat that a gang task stands first for is held for it while it is READY, and taken by no
other; one that a thread has taken is held for nothing more. The model's choices: that a bind to such a seat changes nothing (log entry 15), and which seats are held while the
clusters of a gang task are chosen anew (78). -/
def Obligations.Seats : Prop :=
  ∀ (x : SeatId) (s : State) (p : Partition) (c : Context), s.part? x.part = some p → s.ctx? x.ctxId = some c →
    s.active x.ctxId = true → c.seatHeld x.cluster x.core x.seat = false →
    (x.cluster < c.nclusters → x.core < 8 → x.seat < 4 → (8 * x.cluster + x.core, x.seat) ∉ c.gated →
      Completes (.seatGate x) s fun u => ∃ g : Context → List (Nat × Nat),
        u = s.modCtx x.ctxId (fun c => { c with gated := g c }) ∧ ∀ y, y ∈ g c ↔
          y = (8 * x.cluster + x.core, x.seat) ∨ y ∈ c.gated) ∧
    (p.seatKept x = true → Completes (.threadBind x) s fun u => u = s) ∧
    (∀ t cl, p.seatKept x = false → p.head? = some (x.ctx, t) → s.chosen p c t = some cl → t.tcb.gang = true →
      (∃ j, j < t.tcb.nthreads ∧ slotOf cl j = (x.cluster, x.core, x.seat)) →
      (∀ v ∈ c.tasks, (c.claim x.ctxId v x.cluster x.core x.seat).isSome = true →
        queueBefore t v = true ∧ queueBefore v t = false) →
      Completes (.threadBind x) s fun u => ∃ f : Partition → List (SeatId × Nat),
        u = s.modPart x.part (fun p => { p with heldSeats := f p }) ∧
        ∀ y, y ∈ f p ↔ y = (x, t.create) ∨ (y ∈ p.heldSeats ∧ y.1 ≠ x)) ∧
    (p.seatKept x = false → p.head? = none →
      ∀ t j, t ∈ c.tasks → s.task? ⟨x.part, x.ctx, t.create⟩ = some t →
        c.claim x.ctxId t x.cluster x.core x.seat = some j →
        (∀ v ∈ c.tasks, v ≠ t → (c.claim x.ctxId v x.cluster x.core x.seat).isSome = true →
          queueBefore t v = true ∧ queueBefore v t = false) →
        Completes (.threadBind x) s fun u => ∃ h, u.thread? ⟨x.part, x.ctx, t.create, j⟩ = some h ∧
          h.life = .here .ready ∧ (h.cluster, h.core, h.seat) = (x.cluster, x.core, x.seat) ∧
          h.pc = BitVec.ofNat 32 t.tcb.entry ∧ h.nthreads = BitVec.ofNat 32 t.tcb.nthreads ∧
          h.vregs = 8 * (t.tcb.vregs + 1) ∧ (∀ n, h.sreg n = 0) ∧ (∀ n, h.vreg n = 0) ∧ h.c = 0 ∧
          (∀ n, h.preg n = if n = 0 then BitVec.allOnes 64 else 0) ∧ (∀ n, h.areg n = 0) ∧ (∀ n, h.qreg n = 0) ∧
          h.fflags = 0 ∧ h.rmode = 0 ∧ h.seed = 0 ∧ h.tcause = 0 ∧ h.jobNext = 1 ∧ h.latch = false ∧
          ∃ p', u.part? x.part = some p' ∧ ∀ y ∈ p'.heldSeats, y.1 ≠ x) ∧
    ∀ tk st, st ≠ .ready → ∃ p', (s.setTaskState tk st).part? x.part = some p' ∧
      ∀ y ∈ p'.heldSeats, x.part = tk.part → ¬(y.1.ctx = tk.ctx ∧ y.2 = tk.task)

/-- R17, R162 to R165, R170, R172, R174 and R240. A task placed, granted commit, flushed, stopped and metered. A gang
task takes all its seats at once, and none that is kept for another or that a PENDING thread before it claims; until then
nothing changes (log entry 15). A task that was FAULTED takes its fault's cause as FAILCAUSE when it is FAILED. How a flush
meets an error is log entry 16. -/
def Obligations.TaskEvents : Prop :=
  (∀ (part n : Nat) (s : State) (p : Partition) (c : Context) (t : Task) (cl : List Nat),
    let k : TaskId := ⟨part, n, t.create⟩
    s.part? part = some p → p.head? = some (n, t) → p.ctx? n = some c → s.task? k = some t → s.chosen p c t = some cl →
    s.dispatches p = true → p.logUsed + logNeed t.windows ≤ p.logLines →
    let open' (j : Nat) := let y := slotOf cl j; c.seatHeld y.1 y.2.1 y.2.2 = false ∧
      p.seatTaken c t ⟨part, n, y.1, y.2.1, y.2.2⟩ = false
    (t.tcb.gang = true → (∃ j, j < t.tcb.nthreads ∧ ¬open' j) → Completes (.dispatch part) s fun u => u = s) ∧
    ((t.tcb.gang = true → ∀ j, j < t.tcb.nthreads → open' j) → Completes (.dispatch part) s fun u =>
      (∃ t', u.task? k = some t' ∧ t'.state = .running ∧ t'.granted = cl ∧ t'.logLines = logNeed t.windows ∧
        t'.buffers = [] ∧ t'.tcb = t.tcb ∧ t'.windows = t.windows) ∧
      (t.tcb.gang = true → ∀ j, j < t.tcb.nthreads → ∃ h, u.thread? ⟨part, n, t.create, j⟩ = some h ∧
        h.life = .here .ready ∧ h.pc = BitVec.ofNat 32 t.tcb.entry))) ∧
  (∀ (k : TaskId) (s : State) (c : Context) (t : Task), s.ctx? k.ctxId = some c → s.task? k = some t →
    (s.active k.ctxId = true → t.state = .committing → t.commitOk = false →
      (∀ e ∈ c.edges, e.dst = t.create → e.hard = true) → c.liveJobs ⟨k.part, k.ctx, t.create⟩ = [] →
      (t.tcb.spec = true → ∀ v ∈ c.tasks, v.create ≠ t.create → v.tcb.spec = true → v.inTracker = true →
        v.tcb.ts / 2 ^ 32 = t.tcb.ts / 2 ^ 32 → precedes v t = false) →
      Completes (.commitGrant k) s fun u => u.task? k = some { t with commitOk := true } ∧ u.mem = s.mem) ∧
    (s.active k.ctxId = true → t.state = .committing → t.commitOk = true →
      (s.flushStop k t = none → s.fenceHeld k t = false → Completes (.flushComplete k) s fun u =>
        (∃ t', u.task? k = some t' ∧ t'.state = .done ∧ t'.buffers = [] ∧ t'.logLines = 0 ∧ t'.granted = []) ∧
        (∃ c', u.ctx? k.ctxId = some c' ∧ ∀ e ∈ c'.edges, e.src ≠ k.task) ∧
        (t.buffers = [] → t.tcb.fcaddr = 0 → t.attached = false → (∀ e ∈ c.edges, e.src ≠ k.task) → u.mem = s.mem) ∧
        ∀ cl a bs pa, t.flushRuns = [(cl, a, bs)] → t.tcb.fcaddr = 0 → t.attached = false →
          (∀ e ∈ c.edges, e.src ≠ k.task) →
          AtHome { s with cur := { s.cur with id := ⟨k.part, k.ctx, k.task, 0⟩, cluster := cl } } a bs.length pa →
          HomeStored s u pa bs) ∧
      ((∃ e ∈ t.badLog, ∃ y ∈ t.buffer e.1, y.1 / 64 = e.2) → Completes (.flushComplete k) s fun u =>
        ∃ t', u.task? k = some t' ∧ t'.state = .failed ∧ t'.failCause = 0x0C ∧ t'.buffers = [])) ∧
    (s.clocked k.part = true → t.state = .faulted → Completes (.taskStopComplete k) s fun u =>
      (∃ t', u.task? k = some t' ∧ t'.state = .failed ∧ t'.buffers = [] ∧ t'.logLines = 0 ∧ t'.granted = [] ∧
        t'.failCause = t.faultCause) ∧
      ∃ c', u.ctx? k.ctxId = some c' ∧
        (∀ h ∈ c.threads, h.id.taskId = k → ∀ h', c'.thread? h.id = some h' → h'.life = .retired ∨ h'.life = .stopped) ∧
        ∀ j ∈ c'.jobs, j.thread.taskId = k → 16 ≤ j.status) ∧
    ∀ mj, s.clocked k.part = true → t.state ≠ .done → t.state ≠ .aborted → t.tcb.energy ≠ 0 →
      Completes (.energyMeterUpdate k mj) s fun u =>
        let used := min (t.energyUsed + mj) (2 ^ 32 - 1)
        u.task? k = some { t with
          energyUsed := used
          curClass := min 3 (t.curClass + (used / t.tcb.energy - t.energyUsed / t.tcb.energy)) })

/-- R142, R237, R239, R246, R249, R260, R261 and R285. Commands arrive, and those of one `CPY` join its job; jobs
complete, held jobs and rounds go on, and a round writes what its OP makes of the ranks' sources. That a job's bytes
have moved when it starts is the model's choice (log entry 13), and so is that a command joins none where R237's order
of starts could not hold then, whose copied rows are no longer what the source holds, or of whose issuers one would meet an error of its TCM
(log entry 17), that a command
waits behind a marker (29), that it then leaves everything as it was (15), and a released job's status (99). -/
def Obligations.EngineEvents : Prop :=
  (∀ (t : TId) (id : Nat) (s : State) (c : Context) (j : Job), s.ctx? t.ctxId = some c → c.job? t id = some j →
    j.thread = t → j.id = id → s.active t.ctxId = true →
    let job (u : State) (P : Job → Prop) := ∃ c' j', u.ctx? t.ctxId = some c' ∧ c'.job? t id = some j' ∧ P j'
    let blocked := s.sentBehind t.ctxId fun p c => p.commandSent c j
    (j.place = .message → blocked = true → Completes (.engineCommandArrive t id) s fun u => u = s) ∧
    (j.place = .message → blocked = false → (∀ y ∈ c.earlier j, y.place ≠ .message) →
      (s.doorOk t.part j = false → Completes (.engineCommandArrive t id) s fun u =>
        job u (fun y => y.status = 0x14 ∧ y.place = .finished) ∧
        ∃ p p', s.part? t.part = some p ∧ u.part? t.part = some p' ∧ p'.refusals = p.refusals + 1) ∧
      (s.doorOk t.part j = true → j.unit = .coll → Completes (.engineCommandArrive t id) s fun u =>
        job u (fun y => y = { j with place := .heldRound, status := 2 })) ∧
      (s.doorOk t.part j = true → j.unit ≠ .coll → (∀ x ∈ c.jobs, Joins s.time j x →
          c.orderLets j x = false ∨ s.rowsStand t.ctxId x = false ∨ ∃ core ∈ j.core :: x.cores, c.tcmSound x core = false) →
          Completes (.engineCommandArrive t id) s fun u =>
          job u (fun y => y = { j with place := .queued, arr := c.nextArr, cameAt := s.time })) ∧
      (∀ x, (∀ y ∈ c.earlier j, y.status ≠ 0) → c.orderLets j x = true) ∧
      (∀ x, (∃ y ∈ c.earlier j, y.status = 0) → x.status ≠ 0 → c.orderLets j x = false) ∧
      (∀ x, x.moved = [] ∨ x.space = .tcm → s.rowsStand t.ctxId x = true) ∧
      (∀ x d a bs, x.op = .cpy d → x.space = .sp → x.door = none → x.moved = [(a, bs)] → c.spBad = [] →
        x.ea + bs.length ≤ 2 ^ 21 → s.rowsStand t.ctxId x = (c.chip .sp x.cluster 0 x.ea bs.length == bs)) ∧
      (∀ x d core, x.op = .cpy d → x.space ≠ .tcm → d.nRows = 1 → d.dst < 2 ^ 64 →
        c.tcmSound x core = (c.chipBad .tcm x.cluster core false d.dst d.rowLen).isNone) ∧
      (∀ x core, c.tcmBad = [] → c.tcmSound x core = true) ∧
      (s.doorOk t.part j = true → j.unit ≠ .coll → ∀ x ∈ c.jobs, Joins s.time j x → c.orderLets j x = true →
        s.rowsStand t.ctxId x = true → (∀ core ∈ j.core :: x.cores, c.tcmSound x core = true) →
        (∀ y ∈ c.jobs, Joins s.time j y → y = x) → (c.jobs.map fun y => (y.thread, y.id)).Nodup →
        (∀ y ∈ c.jobs, ∀ m ∈ y.merged, (m.1, m.2.1) ≠ (t, id)) →
        Completes (.engineCommandArrive t id) s fun u =>
          job u (fun y => y = { x with merged := x.merged ++ [(t, id, j.core)] }) ∧
          ∃ c', u.ctx? t.ctxId = some c' ∧
            (∀ y ∈ c'.jobs, (y.thread, y.id) ≠ (t, id)) ∧ (x.moved = [] → c'.tcm = c.tcm) ∧
            ∀ a bs, x.moved = [(a, bs)] → x.space ≠ .tcm → c'.chip .tcm j.cluster j.core a bs.length = bs)) ∧
    (j.place = .running → Completes (.jobComplete t id) s fun u =>
      job u (fun y => y.status = 0x10 ∧ y.place = .finished ∧ y.bytes = j.bytes) ∧
      ∀ h, s.thread? t = some h → j.merged = [] → u.thread? t = some { h with
        fflags := h.fflags ||| j.flags, latch := true }) ∧
    (s.released t.ctxId j = true → Completes (.heldJobRelease t id) s fun u =>
      (j.unit ≠ .coll → job u (fun y => y = { j with place := .queued })) ∧
      ∀ d, j.unit = .coll → j.op = .coll d →
        job u (fun y => y = { j with place := .heldRound, status := if d.op = 7 then 1 else 2 }))) ∧
  (∀ (g : GroupId) (s : State) (p : Partition) (r : Round), s.part? g.part = some p →
    (p.rounds.find? fun r => r.ctx == g.ctx && r.handle == g.handle) = some r → s.active ⟨g.part, g.ctx⟩ = true →
    s.roundReady ⟨g.part, g.ctx⟩ r = true →
    let gone (u : State) := ∀ p', u.part? g.part = some p' → ∀ q ∈ p'.rounds,
      ¬(q.ctx = r.ctx ∧ q.task = r.task ∧ q.handle = r.handle)
    let all (u : State) (st : Nat) := ∀ i ∈ r.ranks, ∀ y, r.issued.find? (fun y => y.1 == i) = some y →
      ∃ c' j', u.ctx? ⟨g.part, g.ctx⟩ = some c' ∧ c'.job? ⟨g.part, g.ctx, r.task, i⟩ y.2 = some j' ∧ j'.status = st
    (r.desc.op = 7 → r.ended = some 0 → Completes (.roundComplete g) s fun u => gone u ∧ all u 0x10) ∧
    (r.desc.op = 7 → ∀ e, r.ended = some (e + 1) → (∀ y ∈ s.rankJobs ⟨g.part, g.ctx⟩ r, y.status < 16) → Completes (.roundComplete g) s fun u => gone u ∧ all u 0x17) ∧
    (r.desc.op ≠ 7 → ∀ s1, runRound ⟨g.part, g.ctx⟩ r (s.rankJobs ⟨g.part, g.ctx⟩ r) s = .ok s1 →
      Completes (.roundComplete g) s fun u => gone u ∧ all u 0x10) ∧
    ∀ s1 c ty, runRound ⟨g.part, g.ctx⟩ r (s.rankJobs ⟨g.part, g.ctx⟩ r) s = .ok s1 → r.desc.op ≤ 5 →
      s.ctx? ⟨g.part, g.ctx⟩ = some c → Ty.ofNum r.desc.ety = some ty → ty.isInt = true ∨ ty.isF = true →
      let js := s.rankJobs ⟨g.part, g.ctx⟩ r
      let size := ty.bits / 8
      let count := if r.desc.op = 3 then js.length * r.desc.count else r.desc.count
      (∀ y ∈ js, y.space = .sp ∧ y.door = none ∧ y.merged = [] ∧ ∃ d, y.op = .coll d ∧ d.dSpace = .tcm) →
      (js.Pairwise fun y z => (y.cluster, y.core) ≠ (z.cluster, z.core) ∨ ∀ d e, y.op = .coll d → z.op = .coll e →
        d.dst + count * size ≤ e.dst ∨ e.dst + count * size ≤ d.dst) →
      Completes (.roundComplete g) s fun u => ∃ c', u.ctx? ⟨g.part, g.ctx⟩ = some c' ∧
        ∀ k y d m, js[k]? = some y → y.op = .coll d → m < count →
          RoundGives ty r.desc.op r.desc.count js.length (fun q i => match js[q]? with
            | some z => valueOf ty (c.chip .sp z.cluster z.core (z.ea + size * i) size)
            | none => 0) k m (valueOf ty (c'.chip .tcm y.cluster y.core (d.dst + size * m) size))) ∧
  ∀ s : State, Completes .matrixSlotChange s fun u =>
    u = { s with time := u.time, parts := u.parts } ∧ s.time < u.time ∧ u.time % 4096 = 0 ∧ u.time ≤ s.time + 4096 ∧
    ((∀ p ∈ s.parts, ∀ c ∈ p.ctxs, ∀ h ∈ c.threads, (∀ d, h.life = .here (.waiting (.event d)) → u.time ≤ d) ∧
      ∀ spc a d, h.life = .here (.waiting (.gwait spc a d)) → u.time ≤ d) → u.parts = s.parts)

/-- R113, R115, R235, R237, R245, R253 to R257, R260, R271, R276 to R279. A job that starts does its work: the rows a
copy moves between on-chip memories, the record an `RPUT` or a load feed puts into its ring, the record a store feed
takes out, the planes a swap exchanges, the accumulator rows that streams add to, a clear makes zero and a drain writes,
the firmware an OP 7 round starts. An error in the TCM of any issuer ends a joined copy for all (R239, R246; log entry 17).
The model's choices: a job out of its turn leaves all as it was (log entry 15); it
runs whole as it starts (13); the firmware's registers (18); an `RPUT`'s bytes are its payload's (37). -/
def Obligations.JobsRun : Prop :=
  ∀ (t : TId) (id : Nat) (s : State) (p : Partition) (c : Context) (j : Job), s.part? t.part = some p →
    s.ctx? t.ctxId = some c → c.job? t id = some j → j.thread = t → j.id = id → s.active t.ctxId = true →
    let k := t.ctxId
    let runs (u : State) (P : Context → Job → Prop) := ∃ c' j', u.ctx? k = some c' ∧ c'.job? t id = some j' ∧
      j'.place = .running ∧ j'.status = 1 ∧ P c' j'
    let mine (spc : Space) (c : Context) (a n : Nat) := c.chip spc j.cluster j.core a n
    let stands (P : Job → Prop) := Completes (.jobStart t id) s fun u => ∃ c' j', u.ctx? k = some c' ∧
      c'.job? t id = some j' ∧ P j'
    let puts (ring : Space) (block : Nat) (payload : List Byte) (count : Nat) : Prop :=
      let cb := ringCb (mine ring c block 64)
      let n := payload.length
      (ringAll cb < putSize n → stands fun j' => j'.status = 0x16) ∧
      (putSize n ≤ ringAll cb → ringAll cb < putNeed cb n + ringUsed cb →
        stands fun j' => j' = { j with place := .heldRing, status := 2 }) ∧
      (putSize n ≤ ringAll cb → putNeed cb n + ringUsed cb ≤ ringAll cb → RingSound cb block (chipLimit ring) →
        Completes (.jobStart t id) s fun u => runs u fun c' j' => j'.bytes = j.bytes + count ∧
          RecordPut (mine ring c) (mine ring c') block payload)
    ((∀ d, j.op ≠ .coll d) → s.turn p c j = false → Completes (.jobStart t id) s fun u => u = s) ∧
    (∀ tag o i, s.turn p c j = true → j.op = .mwld tag → s.jobHome k j .sp = some o → o.1 = k →
      j.ea + tileBytes tag ≤ 2 ^ 21 → c.chipBad .sp o.2.1 o.2.2 true j.ea (tileBytes tag) = some i →
      Completes (.jobStart t id) s fun u => ∃ c' j', u.ctx? k = some c' ∧ c'.job? t id = some j' ∧ j'.status = 0x13 ∧
        (c'.matrix j.target).active = (c.matrix j.target).active) ∧
    (∀ d core i, s.turn p c j = true → j.op = .cpy d → j.unit = .copy → j.door = none → j.space = .sp → d.dSpace = .tcm →
      j.row = 0 → 0 < d.nRows → c.spBad = [] → j.ea + d.rowLen ≤ 2 ^ 21 → d.dst + d.rowLen ≤ 2 ^ 17 → core ∈ j.cores →
      c.chipBad .tcm j.cluster core false d.dst d.rowLen = some i → stands fun j' => j'.status = 0x13) ∧
    (s.turn p c j = true → j.stopHead = none → c.tcmBad = [] → c.spBad = [] →
      (∀ d, j.op = .rput d → j.unit = .copy → j.door = none → j.space = .tcm → isChip d.dSpace = true → j.merged = [] →
        j.ea + d.rowLen ≤ 2 ^ 17 → d.dst + 64 ≤ chipLimit d.dSpace →
        puts d.dSpace d.dst (mine .tcm c j.ea d.rowLen) d.rowLen) ∧
      (∀ w trows, j.op = .feed w trows false → j.unit = .feed → j.merged = [] → j.row = 0 → w.rows = 1 → 1 ≤ trows →
        j.ea + 64 ≤ 2 ^ 17 → s.tileStop k j w 0 1 .rd = none →
        s.winStop t.taskId j.cluster .load ⟨false, true, []⟩ w.base w.rowLen = none →
        puts .tcm j.ea (s.homeRead k j.cluster w.base w.rowLen) 1) ∧
      (∀ w trows tk, j.op = .feed w trows true → j.unit = .feed → j.merged = [] → j.row = 0 → w.rows = 1 → 1 ≤ trows →
        s.task? t.taskId = some tk → (∀ e ∈ c.edges, e.src = t.task → e.hard = true) → j.ea + 64 ≤ 2 ^ 17 →
        let cb := ringCb (mine .tcm c j.ea 64)
        let spot := cb.base + cb.tail % ringAll cb
        let header := leVal (mine .tcm c spot 8)
        spot + 8 + w.rowLen ≤ 2 ^ 17 → cb.tail ≠ cb.head → header % 2 ^ 32 = w.rowLen → header / 2 ^ 32 % 2 ^ 8 = 0 →
        putSize w.rowLen ≤ ringUsed cb → s.tileStop k j w 0 1 .wr = none →
        s.winStop t.taskId j.cluster .store (.ofEngine []) w.base w.rowLen = none →
        (s.remoteIn k j.cluster w.base w.rowLen .wr).2 = false →
        (∀ i, i < w.rowLen → s.devPage k j.cluster (w.base + i) .wr = false ∧ tk.inA (w.base + i) = false) →
        Completes (.jobStart t id) s fun u =>
          BufferedFor s u t.taskId j.cluster tk w.base (mine .tcm c (spot + 8) w.rowLen) ∧ runs u fun c' j' =>
            j'.bytes = j.bytes + 1 ∧ leVal (mine .tcm c' (j.ea + 24) 8) = (cb.tail + putSize w.rowLen) % 2 ^ 64) ∧
      (∀ d, j.op = .fill d → j.space = .tcm → j.merged = [] → j.row = 0 → d.nRows = 1 → j.ea + d.rowLen ≤ 2 ^ 17 →
        Completes (.jobStart t id) s fun u => runs u fun c' j' => j'.bytes = j.bytes + d.rowLen ∧
          mine .tcm c' j.ea d.rowLen = (List.range d.rowLen).map fun b => BitVec.ofNat 8 (d.idx / 2 ^ (8 * (b % 8)))) ∧
      (∀ d src dst, RowsOf j.op j.ea (fun a => leVal (mine .sp c a 4)) d src dst → j.unit = .copy → j.door = none →
        j.space = .sp → d.dSpace = .tcm → j.merged = [] → j.row = 0 →
        (∀ r, r < d.nRows → src r + d.rowLen ≤ 2 ^ 21 ∧ dst r + d.rowLen ≤ 2 ^ 17) →
        Completes (.jobStart t id) s fun u => runs u fun c' j' => j'.bytes = j.bytes + d.nRows * d.rowLen ∧
          (∀ r, r < d.nRows → (∀ q, r < q → q < d.nRows → dst r + d.rowLen ≤ dst q ∨ dst q + d.rowLen ≤ dst r) →
            mine .tcm c' (dst r) d.rowLen = mine .sp c (src r) d.rowLen) ∧
          ∀ a, (∀ r, r < d.nRows → a < dst r ∨ dst r + d.rowLen ≤ a) → mine .tcm c' a 1 = mine .tcm c a 1) ∧
      (∀ d n, j.op = .cpyf d → j.unit = .copy → j.door = none → j.space = .sp → d.dSpace = .tcm → j.merged = [] →
        j.row = 0 → d.nRows = 1 → j.part = [] → d.rowLen % 4 = 0 → j.ea + d.rowLen ≤ 2 ^ 21 → d.dst + d.rowLen ≤ 2 ^ 17 →
        let empty (c : Context) (q : Nat) : Prop := chipKey .sp j.cluster j.core (j.ea + 4 * q) ∈ c.spEmpty
        (∀ q, q < n → ¬empty c q) →
        (4 * n = d.rowLen → Completes (.jobStart t id) s fun u => runs u fun c' j' => j'.bytes = j.bytes + d.rowLen ∧
          mine .tcm c' d.dst d.rowLen = mine .sp c j.ea d.rowLen ∧ ∀ q, q < n → empty c' q) ∧
        (4 * n < d.rowLen → empty c n → Completes (.jobStart t id) s fun u => ∃ c' j', u.ctx? k = some c' ∧
          c'.job? t id = some j' ∧ j' = { j with place := .heldWord, status := 2, part := mine .sp c j.ea (4 * n) } ∧
          c'.tcm = c.tcm ∧ ∀ q, q < n → empty c' q)) ∧
      (j.op = .mwswap → Completes (.jobStart t id) s fun u => runs u fun c' _ =>
        (c'.matrix j.target).active = (c.matrix j.target).shadow ∧
        (c'.matrix j.target).shadow = (c.matrix j.target).active ∧ (c'.matrix j.target).acc = (c.matrix j.target).acc) ∧
      (∀ first count, j.op = .mzero first count → Completes (.jobStart t id) s fun u => runs u fun c' _ =>
        ∀ i, getAt 0 (c'.matrix j.target).acc i = if 128 * first ≤ i ∧ i < 128 * (first + count) then 0
          else getAt 0 (c.matrix j.target).acc i) ∧
      (∀ tag o, j.op = .mwld tag → s.jobHome k j .sp = some o → o.1 = k → j.ea + tileBytes tag ≤ 2 ^ 21 →
        Completes (.jobStart t id) s fun u => runs u fun c' _ =>
          (c'.matrix j.target).shadow = planeOf tag ((c.chip .sp o.2.1 o.2.2 j.ea (tileBytes tag)).map
            BitVec.toNat).toArray (c.matrix j.target).shadow ∧
          (c'.matrix j.target).active = (c.matrix j.target).active) ∧
      (∀ first tensor o, j.op = .mstream 9 first 1 tensor → (c.matrix j.target).active.tag = 0 → j.row = 0 →
        s.jobHome k j .sp = some o → o.1 = k → j.ea + 128 ≤ 2 ^ 21 →
        ((c.matrix j.target).active.weights.map (·.1)).Nodup →
        Completes (.jobStart t id) s fun u => runs u fun c' _ => ∀ n, n < 128 →
          let a (i : Nat) := ((c.chip .sp o.2.1 o.2.2 j.ea 128).getD i 0).toInt
          let w (i : Nat) := (BitVec.ofNat 8 (getAt 0 (c.matrix j.target).active.weights (128 * i + n))).toInt
          BitVec.ofNat 32 (getAt 0 (c'.matrix j.target).acc (128 * first + n)) =
            BitVec.ofNat 32 (getAt 0 (c.matrix j.target).acc (128 * first + n)) +
              BitVec.ofInt 32 ((List.range 128).map fun i => a i * w i).sum) ∧
      (∀ pair first tensor o n, j.op = .mstream pair first 1 tensor → pair ≤ 8 →
        (c.matrix j.target).active.tag = (pairTags pair).2 → j.row = 0 → s.jobHome k j .sp = some o → o.1 = k →
        j.ea + actBytes pair ≤ 2 ^ 21 → ((c.matrix j.target).active.weights.map (·.1)).Nodup →
        ((c.matrix j.target).active.scales.map (·.1)).Nodup → n < 128 →
        let row (i : Nat) := ((c.chip .sp o.2.1 o.2.2 j.ea (actBytes pair)).getD i 0).toNat
        let acc (c : Context) := BitVec.ofNat 32 (getAt 0 (c.matrix j.target).acc (128 * first + n))
        FiniteColumn pair tensor row (c.matrix j.target).active n → Completes (.jobStart t id) s fun u =>
          runs u fun c' _ => Accumulates pair tensor row (c.matrix j.target).active n (acc c) (acc c')) ∧
      (∀ first src, j.op = .mdrain first 1 0 (Ty.num .i32) src → src ≠ Ty.num .fp32 → j.row = 0 → j.space = .tcm →
        j.merged = [] → j.ea + 512 ≤ 2 ^ 17 → (∀ n, n < 128 → getAt 0 (c.matrix j.target).acc (128 * first + n) < 2 ^ 32) →
        Completes (.jobStart t id) s fun u => runs u fun c' j' => j'.bytes = j.bytes + 512 ∧ mine .tcm c' j.ea 512 =
          (List.range 128).flatMap fun n => bytesOf 4 (getAt 0 (c.matrix j.target).acc (128 * first + n))) ∧
      (∀ pair first count tensor, j.op = .mstream pair first count tensor → (c.matrix j.target).active.tag ≠
        (pairTags pair).2 → Completes (.jobStart t id) s fun u => ∃ c' j', u.ctx? k = some c' ∧ c'.job? t id = some j' ∧
          j'.status = 0x19 ∧ (c'.matrix j.target).acc = (c.matrix j.target).acc)) ∧
    ∀ d r, j.op = .coll d → p.roundOf j d = some r → d.op = 7 → r.started = false → s.roundReady k r = true →
      Completes (.jobStart t id) s fun u => ∃ h, u.thread? ⟨k.part, k.ctx, r.task, 2 ^ 32 + r.handle⟩ = some h ∧
        h.life = .here .ready ∧ h.pc = BitVec.ofNat 32 r.desc.entry ∧ h.areg 0 = BitVec.ofNat 32 r.desc.arg ∧
        h.role.isSome = true ∧ ∀ n, h.sreg n = 0

/-- R95, R215, R216, R234, R241, R329 and R335 to R339. The host's commands: a malformed image has STATUS 3, a missing
target 1, a target in no state for it 2; the others have their effect and STATUS 0. One for a frozen partition is held
until THAW; one whose accesses wait for a stack or a page waits, and those after it wait behind it. LOAD_OBJECT: what it
copies, writes and submits, and what it refuses with which DETAIL. The model's choices: an accepted SHOOT_DOWN leaves the
image in the register, with STATUS only at its completion (log entry 54); the order of commands behind one that waits (87);
the loader's refusals of log entry 72, a LENGTH below 64 among them; where images may stand (79); OPEN_CONTEXT's STATUS
(20); of two jobs of one id the one RESUME_JOB means (102), and a released job's status (99). -/
def Obligations.HostCommands : Prop :=
  let ops : List ((Nat → BitVec 256 → Instr) × Nat × List (Nat × Nat)) := [(.openContext, 1, [(8, 12)]), (.closeContext, 2, [(8, 12)]), (.cancelTask, 4, [(8, 12), (32, 32)]),
      (.retryTask, 5, [(8, 12), (32, 32)]), (.shootDown, 6, [(32, 32), (64, 64), (128, 64)]),
      (.loadObject, 7, [(8, 12), (64, 64), (128, 64)]), (.resumeJob, 8, [(8, 12), (32, 32), (64, 32), (128, 16)])]
  (∀ o ∈ ops, ∀ (part : Nat) (img : BitVec 256) (s : State) (p : Partition), s.part? part = some p → p.frozen = false →
    p.cmdWait = [] → bitsOf img 0 8 = o.2.1 → ¬HostCmd o.2.1 o.2.2 img →
    Completes (o.1 part img) s fun u => StatusOnly s u part img 3) ∧
  (∀ o ∈ (.resumeThread, 3, []) :: ops, ∀ (part : Nat) (img : BitVec 256) (s : State) (p : Partition),
    s.part? part = some p → p.frozen = true → bitsOf img 0 8 = o.2.1 → Completes (o.1 part img) s fun u =>
      u = s.modPart part fun p => { p with heldIn := p.heldIn ++ [.command img] }) ∧
  (∀ o ∈ (.resumeThread, 3, []) :: ops, ∀ (part : Nat) (img x : BitVec 256) (rest : List (BitVec 256)) (s : State)
    (p : Partition), s.part? part = some p → p.frozen = false → p.cmdWait = x :: rest → bitsOf img 0 8 = o.2.1 →
    (img ≠ x → Completes (o.1 part img) s fun u =>
      u = s.modPart part fun p => { p with cmdWait := x :: rest ++ [img] }) ∧
    (img = x → ∀ v, exec (o.1 part img) (s.modPart part fun p => { p with cmdWait := [] }) = .next v →
      Completes (o.1 part img) s fun u => u = v.modPart part fun p => { p with cmdWait := p.cmdWait ++ rest })) ∧
  (∀ (k : CtxId) (a i : Nat) (x : Section) (xs : List (Nat × Section)) (s : State), CopiesSection k a i x xs s) ∧
  ∀ (part : Nat) (img : BitVec 256) (s : State) (p : Partition), s.part? part = some p → p.frozen = false →
    p.cmdWait = [] →
    let waits (i : Instr) := Completes i s fun u => u = s.modPart part fun p => { p with cmdWait := [img] }
    let k : CtxId := ⟨part, bitsOf img 8 12⟩
    let tid : TaskId := ⟨part, k.ctx, bitsOf img 32 32⟩
    let only (i : Instr) (st : Nat) := Completes i s fun u => StatusOnly s u part img st
    (HostCmd 1 [(8, 12)] img →
      let at' := p.ctxBase.toNat + 64 * k.ctx
      let d : BitVec 512 := BitVec.ofNat 512 (leVal (s.physRead 0 at' 64))
      let root := leVal (s.physRead 0 (p.s2table.toNat + 8 * k.ctx) 8)
      ((p.ctx? k.ctx).isSome = true ∨ p.ctxBase = 0 ∨ p.s2table = 0 → only (.openContext part img) 2) ∧
      (p.ctx? k.ctx = none → p.ctxBase ≠ 0 → p.s2table ≠ 0 → ∀ w, s.physCheck at' = some (.hold w) →
        waits (.openContext part img)) ∧
      (p.ctx? k.ctx = none → p.ctxBase ≠ 0 → p.s2table ≠ 0 → Readable s at' 64 →
        Readable s (p.s2table.toNat + 8 * k.ctx) 8 →
        (¬GoodDescriptor p d root → only (.openContext part img) 2) ∧
        (GoodDescriptor p d root → Completes (.openContext part img) s fun u => Stated u part img 0 ∧
          (∃ c, u.ctx? k = some c ∧ c.s1root = bitsOf d 0 64 ∧ c.s2root = root ∧ c.pasid = bitsOf d 128 20 ∧
            c.slice = bitsOf d 160 32 ∧ c.save = bitsOf d 192 64 ∧ c.nclusters = bitsOf d 256 16 ∧ c.loaded = false ∧
            c.object = false ∧ c.tasks = [] ∧ c.tables = [] ∧ c.tcmEmpty = [] ∧ c.spEmpty = []) ∧
          (Keyless s (at' + 8) 8 → ∀ a, readByte u.mem a = if at' + 8 ≤ a ∧ a < at' + 16 then BitVec.ofNat 8 (root / 2 ^ (8 * (a - (at' + 8))))
            else readByte s.mem a)))) ∧
    (HostCmd 2 [(8, 12)] img → (p.ctx? k.ctx = none → only (.closeContext part img) 1) ∧
      ∀ c, p.ctx? k.ctx = some c →
        ((∃ t ∈ c.tasks, t.inTracker = true) ∨ s.isBringUp part = true → only (.closeContext part img) 2) ∧
        ((∀ t ∈ c.tasks, t.inTracker = false) → s.isBringUp part = false → Completes (.closeContext part img) s fun u => Stated u part img 0 ∧
          u.ctx? k = none ∧ ∃ p', u.part? part = some p' ∧ p'.poolFree = p.poolFree + c.pages.length)) ∧
    (
      let mode := bitsOf img 96 2
      let fields := [(8, 12), (32, 32), (64, 32), (96, 2)] ++ if mode = 2 then [(128, 32)] else []
      let target : TId := ⟨part, k.ctx, tid.task, bitsOf img 64 32⟩
      (bitsOf img 0 8 = 3 → ¬HostCmd 3 fields img ∨ mode = 3 → only (.resumeThread part img) 3) ∧
      (HostCmd 3 fields img → mode ≠ 3 → (∀ t, s.task? tid = some t → t.tcb.nthreads ≤ bitsOf img 64 32) →
        only (.resumeThread part img) 1) ∧
      (HostCmd 3 fields img → mode ≠ 3 → ∀ t, s.task? tid = some t → bitsOf img 64 32 < t.tcb.nthreads →
        ((∀ h, s.awake? target = some h → h.life ≠ .here .parked) → only (.resumeThread part img) 2) ∧
        ∀ h, s.awake? target = some h → h.life = .here .parked → Completes (.resumeThread part img) s fun u =>
          Stated u part img 0 ∧ u.thread? target = some { h with
            life := .here .ready
            pc := if mode = 0 then h.pc else if mode = 1 then h.pc + 1 else img.extractLsb' 128 32 })) ∧
    (
      let fields := [(8, 12), (32, 32)]
      (s.task? tid = none → (HostCmd 4 fields img → only (.cancelTask part img) 1) ∧
        (HostCmd 5 fields img → only (.retryTask part img) 1)) ∧
      ∀ t, s.task? tid = some t →
        (HostCmd 4 fields img → t.inTracker = false ∨ t.pastGrant = true → only (.cancelTask part img) 2) ∧
        (HostCmd 4 fields img → t.inTracker = true → t.pastGrant = false → Completes (.cancelTask part img) s fun u =>
          Stated u part img 0 ∧ ∃ t', u.task? tid = some t' ∧ t'.state = .aborted) ∧
        (HostCmd 5 fields img → t.state ≠ .failed → only (.retryTask part img) 2) ∧
        (HostCmd 5 fields img → t.state = .failed → Completes (.retryTask part img) s fun u =>
          Stated u part img 0 ∧ ∃ t', u.task? tid = some t' ∧ t'.failCause = 0 ∧
            (t'.state = .ready ∨ t'.state = .waiting))) ∧
    (HostCmd 6 [(32, 32), (64, 64), (128, 64)] img →
      let span := bitsOf img 32 2
      let stages := bitsOf img 34 2
      let n := bitsOf img 36 12
      let a := bitsOf img 64 64
      let b := bitsOf img 128 64
      let pages := a % 4096 = 0 ∧ b ≠ 0 ∧ b % 4096 = 0 ∧ a + b ≤ 2 ^ 48
      let good := bitsOf img 48 16 = 0 ∧ stages ≠ 0 ∧
        (span = 0 ∧ pages ∨ span = 1 ∧ a = 0 ∧ b = 0 ∨ span = 2 ∧ n = 0 ∧ a = 0 ∧ b = 0)
      (¬good → only (.shootDown part img) 3) ∧
      (good → span ≠ 2 → p.ctx? n = none → only (.shootDown part img) 1) ∧
      (good → span = 2 ∨ (p.ctx? n).isSome = true → Completes (.shootDown part img) s fun u =>
        u = s.modPart part fun p => { p with
          shoots := p.shoots ++ [⟨if span = 2 then none else some n, stages, if span = 0 then a else 0,
            if span = 0 then a + b else 2 ^ 64, .host⟩]
          command := img })) ∧
    (HostCmd 7 [(8, 12), (64, 64), (128, 64)] img → (p.ctx? k.ctx = none → only (.loadObject part img) 2) ∧
      ∀ c, p.ctx? k.ctx = some c →
        (c.object = true ∨ (∃ t ∈ c.tasks, t.inTracker = true) → only (.loadObject part img) 2) ∧
        (c.object = false → (∀ t ∈ c.tasks, t.inTracker = false) →
          LoadSteps part img s p c ∧
          (∀ s1, loadObject k p c (bitsOf img 64 64) (bitsOf img 128 64) s = .error (.hold, s1) →
            waits (.loadObject part img)) ∧
          ∀ s1, loadObject k p c (bitsOf img 64 64) (bitsOf img 128 64) s = .ok s1 →
            Completes (.loadObject part img) s fun u => Stated u part img 0 ∧
              ∃ c', u.ctx? k = some c' ∧ c'.object = true)) ∧
    (HostCmd 8 [(8, 12), (32, 32), (64, 32), (128, 16)] img →
      let who : TId := ⟨part, k.ctx, tid.task, bitsOf img 64 32⟩
      let id := bitsOf img 128 16
      ((∀ t c, s.task? tid = some t → s.ctx? k = some c → bitsOf img 64 32 < t.tcb.nthreads → c.named? who id = none) →
        only (.resumeJob part img) 1) ∧
      (∀ (c : Context) (j : Job), c.named? who id = some j → (j.thread = who ∧ (j.id - 1) % 65535 + 1 = id) ∨
        ∃ m ∈ j.merged, m.1 = who ∧ (m.2.1 - 1) % 65535 + 1 = id) ∧
      ∀ t c j, s.task? tid = some t → s.ctx? k = some c → bitsOf img 64 32 < t.tcb.nthreads → c.named? who id = some j →
        ((∀ va, j.place ≠ .heldPage va) → only (.resumeJob part img) 2) ∧
        ∀ va, j.place = .heldPage va → j.thread = who → c.job? who j.id = some j → Completes (.resumeJob part img) s fun u =>
          Stated u part img 0 ∧ ∃ c' j', u.ctx? k = some c' ∧ c'.job? who j.id = some j' ∧
            j'.place = (if j.unit = .coll then .heldRound else .queued) ∧
            j'.status = if j.unit = .coll then (if j.op.isFirmware then 1 else 2) else j.status)

/-- R224 to R227, R284, R313, R314, R333 to R335, R338, R340, R343 and R344. Fault rings (the physical function's for a
die's bring-up context), held records, the reporting port's rounds, host queues, the QoS block, and the host's writes and
reads of registers and of memory. The model's choices: overflow windows that cannot be read (log entry 21), a WINLOG or a
reporting weight out of its range (23), a queue's image address that is no multiple of 128 (79), host accesses without a
key (24), the places of registers and the firmware's function numbers (53), exact percentiles (55),
rounds (73), a queue that waits on a counter it cannot read (90), a ring's BASE and a backward TAIL as the host writes them
(91), and the events that leave everything as it was because their condition fails (15). -/
def Obligations.RingsAndHostAccesses : Prop :=
  let full (r : Ring) := r.enable = false ∨ r.head - r.tail = BitVec.ofNat 32 (2 ^ r.sizeLog)
  let moved (r : Ring) (t : BitVec 32) := if (t - r.tail).toNat ≤ (r.head - r.tail).toNat then { r with tail := t } else r
  let next (r : Ring) (n : Nat) : Ring := { r with head := r.head + BitVec.ofNat 32 n }
  (∀ (part : Nat) (s : State) (p : Partition), s.part? part = some p →
    let ring (terminal : Bool) := match s.isBringUp part, terminal with
      | true, true => s.pfTerminal
      | true, false => s.pfReplay
      | false, true => p.terminal
      | false, false => p.replay
    let weight := getAt 1 s.weights (s.ringFn part)
    (∀ t, (s.isBringUp part = false →
        Completes (.faultRingTailWrite part true t) s (fun u =>
          OnlyPart s u part { p with terminal := moved p.terminal t }) ∧
        Completes (.faultRingTailWrite part false t) s (fun u =>
          OnlyPart s u part { p with replay := moved p.replay t })) ∧
      (s.isBringUp part = true →
        Completes (.faultRingTailWrite part true t) s (fun u => u = { s with pfTerminal := moved s.pfTerminal t }) ∧
        Completes (.faultRingTailWrite part false t) s (fun u => u = { s with pfReplay := moved s.pfReplay t }))) ∧
    ((ring true).sizeLog < 32 →
      (full (ring true) → Completes (.overflowStoppedClear part) s fun u => OnlyPart s u part p) ∧
      (¬full (ring true) → Completes (.overflowStoppedClear part) s fun u =>
        OnlyPart s u part { p with stopped := false, overflow := none, overflowCount := 0 })) ∧
    ((ring false).sizeLog < 32 →
      (p.late ≠ [] ∨ weight ≤ p.sent ∨ p.held = [] ∨ full (ring false) ∨ s.clocked part = false →
        Completes (.heldRecordWrite part) s fun u => u = s) ∧
      ∀ r rs, p.late = [] → p.sent < weight → p.held = r :: rs → ¬full (ring false) → s.clocked part = true →
        Completes (.heldRecordWrite part) s fun u =>
          (s.isBringUp part = false →
            OnlyPart s u part { p with held := rs, sent := p.sent + 1, replay := next p.replay 1 }) ∧
          (s.isBringUp part = true → u.pfReplay = next s.pfReplay 1 ∧
            u.part? part = some { p with held := rs, sent := p.sent + 1 }) ∧
          readBytes u.hostMem (hostKey (s.ringFn part)
            ((ring false).base.toNat + 32 * ((ring false).head.toNat % 2 ^ (ring false).sizeLog))) 32 = bytesOf 32 r.toNat ∧
          u.msix = s.msix ++ if (ring false).head = (ring false).tail then [(s.ringFn part, 1)] else []) ∧
    (∀ q x, p.queues[q]? = some x →
      (∀ h, Completes (.hostQueueHeadWrite part q h) s fun u =>
        QueueIs u part q (if (h - x.tail).toNat ≤ 2 ^ x.sizeLog then { x with
          head := h
          came := x.came.take (h - x.tail).toNat
            ++ List.replicate ((h - x.tail).toNat - x.came.length) s.time } else x)) ∧
      Completes (.hostQueueRestart part q) s fun u =>
        QueueIs u part q { x with stopped := false, errIndex := 0, errStatus := 0 }) ∧
    (p.qos.lats.length < 2 ^ p.qos.winLog → Completes (.qosWindowEnd part) s fun u => u = s) ∧
    (2 ^ p.qos.winLog ≤ p.qos.lats.length →
      let rank (n : Nat) := (n * 2 ^ p.qos.winLog + 999) / 1000
      let late (n bound : Nat) := bound ≠ 0 ∧
        ((p.qos.lats.take (2 ^ p.qos.winLog)).filter fun l => decide (l * 10 ≤ bound * 17)).length < rank n
      let any := late 500 p.qos.b50 ∨ late 990 p.qos.b99 ∨ late 999 p.qos.b999
      Completes (.qosWindowEnd part) s fun u => (∃ p', u.part? part = some p' ∧
        p'.qos.lats = p.qos.lats.drop (2 ^ p.qos.winLog) ∧
        (∀ b, p'.qos.breach.testBit b = true ↔ p.qos.breach.testBit b = true ∨
          (b = 0 ∧ late 500 p.qos.b50) ∨ (b = 1 ∧ late 990 p.qos.b99) ∨ (b = 2 ∧ late 999 p.qos.b999))) ∧
        (any → u.msix = s.msix ++ [(0, 5), (part + 1, 5)]) ∧ (¬any → u.msix = s.msix))) ∧
  (∀ (s : State) (p : Partition), s.part? p.num = some p → p.num < 24 → s.isBringUp p.num = false →
    (∀ n q, s.part? n = some q → n ≠ p.num → q.late = [] ∧ q.held = []) → p.terminal.sizeLog < 32 → p.replay.sizeLog < 32 →
    (p.replay.head - p.replay.tail).toNat ≤ 2 ^ p.replay.sizeLog →
    let weight := getAt 1 s.weights (p.num + 1)
    let m := min weight p.late.length
    let room := if p.replay.enable ∧ s.clocked p.num = true then
      2 ^ p.replay.sizeLog - (p.replay.head - p.replay.tail).toNat else 0
    let n := min (min (weight - m) p.held.length) room
    (m ≠ 0 → p.terminal.enable = true ∧ (p.terminal.head - p.terminal.tail).toNat + m ≤ 2 ^ p.terminal.sizeLog) →
    Completes .reportRound s fun u =>
      u.part? p.num = some { p with
        late := p.late.drop m, held := p.held.drop n, sent := m + n
        terminal := next p.terminal m, replay := next p.replay n } ∧
      (∀ k, k ≠ p.num → u.part? k = (s.part? k).map fun q => if k < 24 then { q with sent := 0 } else q) ∧
      u = { s with parts := u.parts, msix := u.msix, hostMem := u.hostMem }) ∧
  (∀ (part q addr value : Nat) (s : State) (x : Queue),
    let k : CtxId := ⟨part, x.ctx⟩
    let gone (x : Queue) : Queue := { x with tail := x.tail + 1, came := x.came.drop 1 }
    let stops (st : Nat) := Completes (.hostQueueSubmit part q) s fun u =>
      QueueIs u part q { gone x with stopped := true, errIndex := x.tail, errStatus := st } ∧
      u.msix = s.msix ++ [(part + 1, 4)];
    (Entry s part q x 1 addr value →
      (addr % 128 ≠ 0 → stops 1) ∧
      (addr % 128 = 0 →
        (s.submitAt k addr (x.came.headD s.time) = none → Completes (.hostQueueSubmit part q) s fun u => u = s) ∧
        (∀ s1, s.submitAt k addr (x.came.headD s.time) = some (0, s1) → Completes (.hostQueueSubmit part q) s fun u =>
          u = s1.modPart part fun p => { p with queues := p.queues.modify q gone }) ∧
        ∀ st s1, st ≠ 0 → s.submitAt k addr (x.came.headD s.time) = some (st, s1) → stops st)) ∧
    (∀ kind, Entry s part q x kind addr value → kind ≠ 1 → kind ≠ 2 → stops 0xFF) ∧
    (Entry s part q x 2 addr value →
      let goes := addr % 8 = 0 ∧ s.mayRead k addr 8 = some true ∧ value ≤ s.counterAt k trackerCluster addr
      (goes → Completes (.hostQueueWait part q) s fun u => QueueIs u part q (gone x)) ∧
      (¬goes → Completes (.hostQueueWait part q) s fun u => u = s))) ∧
  (∀ (fn off : Nat) (v : Word) (s : State) (p : Partition), 0 < fn → fn ≤ 24 → 3 ≤ s.stage → s.part? (fn - 1) = some p →
    let part (P : Partition) := Completes (.registerWrite fn off v) s fun u => OnlyPart s u (fn - 1) P;
    (off = 0x100 → part { p with replay := { p.replay with base := v } }) ∧
    (off = 0x128 → 6 ≤ bitsOf v 0 4 → part { p with
      terminal := { p.terminal with sizeLog := bitsOf v 0 4, enable := v.getLsbD 4 } }) ∧
    (off = 0x180 → part { p with qos := { p.qos with b50 := bitsOf v 0 32, b99 := bitsOf v 32 32 } }) ∧
    (off = 0x160 → v.getLsbD 32 = true → exec (.registerWrite fn off v) s = exec (.overflowStoppedClear (fn - 1)) s) ∧
    (∀ i, i < 3 → off = 0x200 + 8 * i → part { p with
      command := BitVec.ofNat 256 (∑ j ∈ Finset.range 4, (if j = i then v.toNat else bitsOf p.command (64 * j) 64) * 2 ^ (64 * j)) }) ∧
    (off = 0x218 →
      let img : BitVec 256 := v ++ p.command.extractLsb' 0 192
      let ops : List ((Nat → BitVec 256 → Instr) × Nat) := [(.openContext, 1), (.closeContext, 2), (.resumeThread, 3),
        (.cancelTask, 4), (.retryTask, 5), (.shootDown, 6), (.loadObject, 7), (.resumeJob, 8)]
      (∀ o ∈ ops, bitsOf img 0 8 = o.2 → exec (.registerWrite fn off v) s = exec (o.1 (fn - 1) img) s) ∧
      ((∀ o ∈ ops, bitsOf img 0 8 ≠ o.2) → Completes (.registerWrite fn off v) s fun u => StatusOnly s u (fn - 1) img 3)) ∧
    (∀ c, off = 0x1000 + 32 * c → c < 1920 → part p ∧
      (c < p.clusters → ∀ w : Nat × Nat, w = (0, 0x100000 + 0x10000 * (fn - 1) + off) ∨ w = (32 + (fn - 1), off) →
        Completes (.registerWrite w.1 w.2 v) s fun u => ∃ p', u.part? (fn - 1) = some p' ∧
          bitsOf (getAt 0 p'.slotTables c) 0 64 = (v &&& 0x3FFF3FFF3FFF3FFF).toNat)) ∧
    (∀ w, w = 0x400 + 8 * fn → Completes (.registerWrite 0 w v) s fun u =>
      getAt 1 u.weights fn = if 1 ≤ v.toNat ∧ v.toNat ≤ 255 then v.toNat else getAt 1 s.weights fn) ∧
    (let w := 0x10000 + 0x1000 * (fn - 1);
      (p.ctxs ≠ [] → Completes (.registerWrite 0 w v) s fun u => OnlyPart s u (fn - 1) p) ∧
      (p.ctxs = [] → Completes (.registerWrite 0 w v) s (fun u => OnlyPart s u (fn - 1) { p with ctxBase := v }) ∧
        Completes (.registerWrite 0 (w + 16) v) s fun u => OnlyPart s u (fn - 1) { p with s2table := v }))) ∧
  (∀ (v : Word) (s : State), 3 ≤ s.stage → Completes (.registerWrite 0 8 v) s fun u =>
    u = { s with partStat := if v.getLsbD 13 then s.partStat &&& ~~~(1#64 <<< 13) else s.partStat }) ∧
  ∀ (fn addr : Nat) (data : List Byte) (n : Nat) (s : State) (r : Region), 3 ≤ s.stage → s.regionAt addr = some r →
    ((∃ i, r.kind = .hbm i) ∨ ∃ i, r.kind = .commons i) →
    (∀ c, s.physCheck addr = some (.hold c) → Completes (.hostWrite fn addr data) s (fun u => u = s) ∧
      Completes (.hostRead fn addr n) s fun u => u = s) ∧
    (addr + data.length ≤ r.base + r.size → s.physCheck addr = none → Keyless s addr data.length →
      Completes (.hostWrite fn addr data) s fun u => ∀ a, readByte u.mem a =
        if addr ≤ a ∧ a < addr + data.length then data.getD (a - addr) 0 else readByte s.mem a) ∧
    (addr + n ≤ r.base + r.size → s.physCheck addr = none → Keyless s addr n →
      Completes (.hostRead fn addr n) s fun u =>
        u = { s with hostReply := (List.range n).map fun i => readByte s.mem (addr + i) })

/-- R37, R39, R228 to R232, R234, R329, R332, R333, R336, R337, R341 and R342. Cached translations, shoot-downs and ATS;
partitions of quarters, halves and whole dies formed and dissolved; contexts saved, loaded and their threads filled. The
model's choices: the HBM that a partition may take (log entry 19), a PRI failure kept as a denial (22), the full/empty
bits that a load sets to the saved ones (30), which of a scrub's patterns a context finds (27), what a save area's bytes
are and that it waits for its stack (31), physical numbers and the torus of a partition (40), which granules are absent (45), the host's reply at
SHOOTDOWN_COMPLETE (54), restores on another partition (61), and the events that leave everything as it was because their condition fails (15). -/
def Obligations.TranslationAndContexts : Prop :=
  (∀ (part : Nat) (w : WalkId) (s : State) (c : Context), s.ctx? ⟨part, w.ctx⟩ = some c → s.active ⟨part, w.ctx⟩ = true →
    w.va < 2 ^ 48 → w.cluster < c.nclusters →
    (∀ e, s.walk part c w.cluster w.va .rd = .ok e → Completes (.translationWalkComplete part w) s fun u =>
      ∃ c' ias, u.ctx? ⟨part, w.ctx⟩ = some c' ∧ { e with run := ias.length, runIas := ias } ∈ c'.tlb ∧ u.mem = s.mem) ∧
    (∀ f, s.walk part c w.cluster w.va .rd = .error f → Completes (.translationWalkComplete part w) s fun u => u = s)) ∧
  (∀ (part : Nat) (s : State) (p : Partition) (x : Shoot) (xs : List Shoot), s.part? part = some p →
    p.shoots = x :: xs → s.clocked part = true → Completes (.shootdownComplete part) s fun u =>
      (∃ p', u.part? part = some p' ∧ p'.shoots = xs ∧ ∀ c' ∈ p'.ctxs,
        ((∀ n, x.who ≠ .ats n) → ∀ e ∈ c'.tlb, x.ctx = none ∨ x.ctx = some c'.num →
          (x.stages.testBit 0 = true → ∀ i, i ≤ e.run →
            e.va + (i + 1) * 2 ^ e.sizeLog ≤ x.lo ∨ x.hi ≤ e.va + i * 2 ^ e.sizeLog) ∧
          (x.stages.testBit 1 = true → ∀ ia ∈ e.ia :: e.runIas, ia + 2 ^ e.sizeLog ≤ x.lo ∨ x.hi ≤ ia)) ∧
        ∀ n, x.who = .ats n → c'.pasid = n → ∀ e ∈ c'.ats, e.page * 4096 < x.lo ∨ x.hi ≤ e.page * 4096) ∧
      (∀ t h, x.who = .thread t → s.thread? t = some h → t.part = part → h.life = .here (.waiting .shootdown) →
        u.thread? t = some (onward (h.setCbit 15 false))) ∧
      (x.who = .host → Stated u part p.command 0) ∧
      ∀ n, x.who = .ats n → u.atsDone = s.atsDone ++ [(part + 1, n)]) ∧
  (∀ (k : CtxId) (page : Nat) (s : State) (c : Context), s.ctx? k = some c →
    (s.clocked k.part = false →
      let held (i : Instr) (x : Inbound) := Completes i s fun u => u = s.modPart k.part fun p =>
        if p.frozen = true then { p with heldIn := p.heldIn ++ [x] } else p
      (∀ r, held (.atsCompletion k page r) (.ats k.ctx page r)) ∧ ∀ r, held (.priResponse k page r) (.pri k.ctx page r)) ∧
    (s.clocked k.part = true →
    let after (i : Instr) (e : List AtsEntry) (P : List Nat → Prop) := Completes i s fun u => ∃ c', u.ctx? k = some c' ∧
      (c'.ats.filter fun x => x.page == page) = e ∧ P c'.pri
    (∀ host rd wr, after (.atsCompletion k page (.grant host rd wr)) [⟨page, some host, rd, wr⟩] (page ∉ ·)) ∧
    after (.atsCompletion k page .denied) [⟨page, none, false, false⟩] (page ∉ ·) ∧
    after (.atsCompletion k page .absent) (c.ats.filter fun x => x.page == page) (page ∈ ·) ∧
    (page ∈ c.pri → (c.ats.all fun x => x.page != page) = true →
      after (.priResponse k page .success) [] (page ∉ ·) ∧
      after (.priResponse k page .invalid) [⟨page, none, false, false⟩] (page ∉ ·) ∧
      after (.priResponse k page .failure) [⟨page, none, false, false⟩] (page ∉ ·)) ∧
    (page ∉ c.pri → Completes (.priResponse k page .success) s fun u => u.ctx? k = some c))) ∧
  (∀ (part pasid page pages : Nat) (s : State), Completes (.atsInvalidation part pasid page pages) s fun u =>
    u = s.modPart part fun p => { p with
      shoots := p.shoots ++ [⟨none, 3, page * 4096, (page + pages) * 4096, .ats pasid⟩] }) ∧
  (∀ (img : BitVec 64) (s : State), 3 ≤ s.stage → img.getLsbD 14 = false → Completes (.partitionRequest img) s fun u =>
    u = { s with partReq := img }) ∧
  (∀ (img : BitVec 64) (s : State), 3 ≤ s.stage → img.getLsbD 14 = true →
    let stat (u : State) (st num : Nat) := u.partStat = BitVec.ofNat 64 (st + num * 2 ^ 8 + 2 ^ 13) ∧
      u.partReq = img &&& ~~~(1#64 <<< 14)
    let i := if img.getLsbD 15 = true then Instr.dissolve img else .partitionRequest img
    let kind := bitsOf img 0 2
    let mask := bitsOf img 7 6
    let dies := if kind = 3 then (List.range 6).filter mask.testBit else [bitsOf img 2 3]
    let first := if kind = 1 then bitsOf img 5 2 else if kind = 2 then 2 * bitsOf img 5 2 else 0
    let size := if kind = 1 then 1 else if kind = 2 then 2 else 4
    let good := bitsOf img 32 32 ≤ 2 ^ 24 ∧ (kind = 1 ∧ bitsOf img 2 3 ≤ 5 ∧ mask = 0 ∨
      kind = 2 ∧ bitsOf img 2 3 ≤ 5 ∧ mask = 0 ∧ bitsOf img 5 2 ≤ 1 ∨ kind = 3 ∧ mask ≠ 0)
    let number := 4 * dies.headD 0 + first
    let meets (p : Partition) := ∃ q ∈ p.quarters, q.1 ∈ dies ∧ first ≤ q.2 ∧ q.2 < first + size
    let idle (p : Partition) := p.ctxs = [] ∧ p.scrubbing = []
    let stays (p : Partition) := ∀ q ∈ s.parts, q.num = p.num → ¬meets q
    (¬good → Completes i s fun u => stat u 1 0 ∧ u.parts = s.parts) ∧
    (good →
      ((∃ p ∈ s.parts, meets p ∧ ¬idle p) → Completes i s fun u => stat u 2 0 ∧ u.parts = s.parts) ∧
      ((∀ p ∈ s.parts, meets p → idle p) →
        (img.getLsbD 15 = true → Completes i s fun u => stat u 0 number ∧ ∀ p, p ∈ u.parts ↔ p ∈ s.parts ∧ stays p) ∧
        (img.getLsbD 15 = false →
          let log := (if bitsOf img 16 16 = 0 then 1024 else bitsOf img 16 16) * 2 ^ 20
          let fits := bitsOf img 32 32 * 4096 + log ≤ s.nodeHbm (dies, first, 30 * size * dies.length)
          (¬fits → Completes i s fun u => stat u 3 0 ∧ u.parts = s.parts) ∧
          (fits → Completes i s fun u => stat u 0 number ∧
            (∀ p ∈ s.parts, stays p → p.num ≠ number → p ∈ u.parts) ∧ ∃ p, u.part? number = some p ∧
            p.dies = dies ∧ p.quarter = first ∧ p.clusters = 30 * size * dies.length ∧ p.level = kind ∧ p.ctxs = [] ∧
            p.keys = List.replicate 16 .empty ∧ p.epochs = [] ∧ p.poolFree = bitsOf img 32 32 ∧
            p.secret = BitVec.ofNat 256 (Config.draw s.draws) ∧ u.draws = s.draws + 1 ∧
            p.replay.enable = false ∧ p.terminal.enable = false))))) ∧
  (∀ (k : CtxId) (s : State) (c : Context), s.ctx? k = some c → s.active k = true →
    let out := s.quiet k = true ∧ s.saveHeld k = false ∧ c.sliceFrom + 4096 * c.slice ≤ s.time
    (∀ p l n, s.part? k.part = some p → p.saveSize = 4096 → s.stage2 c c.save = .ok l → s.stackOf (l.at c.save) = some n →
      s.stackFailed n = false → s.saveHeld k = !s.stackUp n) ∧
    (¬out → Completes (.sliceEnd k) s fun u => u = s) ∧
    (out → (∀ p l g, s.part? k.part = some p → c.save % 4096 = 0 → p.saveSize = 4096 → s.stage2 c c.save = .ok l →
      l.at c.save % 64 = 0 → s.saveGen k.part l.key (l.at c.save) = some g →
      Completes (.sliceEnd k) s fun u => ∀ a, readByte u.mem a =
        if l.at c.save ≤ a ∧ a < l.at c.save + 4096 then BitVec.ofNat 8 (Config.saveByte s.free (a - l.at c.save))
        else readByte s.mem a) ∧ Completes (.sliceEnd k) s fun u => ∃ c', u.ctx? k = some c' ∧ c'.loaded = false ∧ c'.tlb = [] ∧
      (∀ t h, s.thread? t = some h → t.ctxId = k → ∃ l, u.thread? t = some { h with life := l } ∧
        (h.life = .here .ready → l = .saved .ready) ∧ (h.life = .here .parked → l = .saved .parked) ∧
        (∀ w, h.life = .here (.waiting w) → (∀ d, w ≠ .event d) → (∀ spc a d, w ≠ .gwait spc a d) → l = .saved (.waiting w)) ∧
        (∀ d, h.life = .here (.waiting (.event d)) → l = .saved (.waiting (.event (d - s.time)))) ∧
        (h.life = .retired → l = .retired) ∧ (h.life = .yielded → l = .yielded) ∧ (h.life = .pending → l = .pending)) ∧
      c'.tcm = c.tcm ∧ c'.sp = c.sp ∧ c'.jobs = c.jobs)) ∧
  (∀ (k target : CtxId) (clusters : List Nat) (s : State) (p : Partition) (c d : Context),
    s.part? target.part = some p → s.ctx? k = some c → s.ctx? target = some d → s.clocked target.part = true →
    c.loaded = false → (target = k ∨ d.vacant = true) →
    (c.coreTable ≠ [] → s.saveHeld k = true → Completes (.contextLoad k target clusters) s fun u => u = s) ∧
    (c.coreTable = [] ∨ s.saveHeld k = false →
    let status (n : Nat) := Completes (.contextLoad k target clusters) s fun u => u = { s with restoreStat := n }
    let short := p.clusters < c.nclusters
    let tcm := 128 < c.contract.tcmKib
    let scratch := 2048 < c.contract.spKib
    let tile := c.object = true ∧ ¬(c.contract.tileM % 256 = 128 ∧ c.contract.tileN % 256 = 128)
    let pool := target.part ≠ k.part ∧ p.poolFree < c.pages.length
    (short → status 1) ∧ (¬short → tcm → status 2) ∧ (¬short → ¬tcm → scratch → status 3) ∧
    (¬short → ¬tcm → ¬scratch → tile → status 4) ∧
    (¬short → ¬tcm → ¬scratch → ¬tile →
      if torusFits c.contract.torus (torusOf p.num) = false then status 5
      else (pool → status 6) ∧ (¬pool → p.canLoad c clusters = true →
        Completes (.contextLoad k target clusters) s fun u => u.restoreStat = 0 ∧ ∃ c', u.ctx? target = some c' ∧
          c'.loaded = true ∧ c'.coreTable = clusters ∧ c'.sliceFrom = s.time ∧
          c'.units = p.physical clusters ∧ c'.tcmEmpty = c.tcmEmpty ∧ c'.spEmpty = c.spEmpty ∧
          (target ≠ k ∨ c.coreTable ≠ [] ∨ (∀ e ∈ s.scrubbed, e.1 ∉ clusters.map p.unitOf) → c'.tcm = c.tcm ∧ c'.sp = c.sp) ∧
          (∀ e ∈ u.scrubbed, e.1 ∉ clusters.map p.unitOf) ∧
          (∀ x w, target = k → c.coreTable = [] → clusters = [x] → findAt s.scrubbed (p.unitOf x) = some w →
            (∀ i, i < 8 * 2 ^ 17 → readByte c'.tcm i = w.extractLsb' (8 * (i % 8)) 8) ∧
            ∀ i, i < 2 ^ 21 → readByte c'.sp i = w.extractLsb' (8 * (i % 8)) 8) ∧
          c'.threads.length = c.threads.length ∧ (target = k →
            ∀ t h, s.thread? t = some h → t.ctxId = k →
              (h.life = .saved .ready → u.thread? t = some { h with
                life := .here .ready, absent := List.range 37, since := s.time }) ∧
              (h.life = .yielded → u.thread? t = some { h with absent := List.range 37 }) ∧
              (h.life = .retired → u.thread? t = some h)))))) ∧
  ∀ (t : TId) (g : Nat) (s : State) (h : Thread), s.awake? t = some h →
    (s.saveHeld t.ctxId = true → Completes (.granuleFill t g) s fun u => u = s) ∧
    (s.saveHeld t.ctxId = false → Completes (.granuleFill t g) s fun u =>
      OnlyThread s u t { h with absent := h.absent.filter (· ≠ g) })

/-- R247, R248, R312, R318 to R331. The mailboxes and the anchor firmware's commands: keys, doors, receipts, monitors,
freezing and scanning, the alarm's levels, and the marker cuts. The model's choices: the published AES-256 behind the
answers to MINT and receipts (log entry 8), where a command's arguments and a reply's data stand, and a partition that is
not formed (25), what a scan names and the list it replies (85), what a receipt's ranges are and when they are
written (27), the units and channels of a cut (29), KEYERASE done in its own event (32), and the events that leave
everything as it was because their condition fails (15). -/
def Obligations.AnchorCommands : Prop :=
  (∀ (c : MailCmd) (s : State),
    let all : List (MailCmd → Instr) := [.keygen, .keyerase, .mint, .epoch, .scrub, .logcfg, .logexport, .allowscan,
      .freeze, .thaw]
    let target := if c.fn = 0 then c.part else c.fn - 1
    let reply (i : Instr) (st : Nat) := Completes i s fun u => Replied s u c.fn st 0 ∧ Mailed s u ∧ u.parts = s.parts
    (¬Appeared s c.fn → ∀ mk ∈ all, Completes (mk c) s fun u => u = s) ∧
    (Appeared s c.fn → (s.mailbox c.fn).waiting = [] → s.part? target = none → ∀ mk ∈ all, reply (mk c) 1) ∧
    (∀ n mk, all[n]? = some mk → ∀ x rest, Appeared s c.fn → (s.mailbox c.fn).waiting = x :: rest →
      (x ≠ .cmd (n + 1) c → Completes (mk c) s fun u => u = { s with mail := u.mail } ∧
        (u.mailbox c.fn).waiting = x :: rest ++ [.cmd (n + 1) c] ∧ (u.mailbox c.fn).reply = (s.mailbox c.fn).reply) ∧
      (x = .cmd (n + 1) c → ∀ v, exec (mk c) (s.setWaiting c.fn []) = .next v → Completes (mk c) s fun u =>
        u = { v with mail := u.mail } ∧ (u.mailbox c.fn).reply = (v.mailbox c.fn).reply ∧
        (u.mailbox c.fn).waiting = (v.mailbox c.fn).waiting ++ rest)) ∧
    ∀ p, Heard c s p →
      let gives (i : Instr) (data : Nat) (p' : Partition) := Completes i s fun u =>
        Replied s u c.fn 0 data ∧ Mailed s u ∧ u.part? target = some p'
      (∀ mk ∈ [Instr.keygen, .keyerase],
        (16 ≤ c.slot → Completes (mk c) s fun u => ∃ v, Alarmed s v (s.alarm + 1) ∧
          Replied v u c.fn (if 2 ≤ v.alarm then 4 else 3) 0 ∧ u = { v with mail := u.mail, msix := u.msix }) ∧
        (c.slot < 16 → 2 ≤ s.alarm → reply (mk c) 4)) ∧
      (c.slot < 16 → s.alarm < 2 →
        (p.keys.getD c.slot .empty = .empty → gives (.keygen c) 0
          { p with keys := p.keys.set c.slot (.loaded (s.draws + Config.firstGen) (BitVec.ofNat 512 (Config.draw s.draws))) }) ∧
        (p.keys.getD c.slot .empty ≠ .empty → reply (.keygen c) 2) ∧
        gives (.keyerase c) 0 { p with keys := p.keys.set c.slot .empty }) ∧
      (
        let door := c.unit = 0 ∧ c.rights < 8 ∨ c.unit = 1 ∧ c.rights < 64 ∧ c.rights % 8 = 0
        let epoch := getAt 0 p.epochs (2 * c.cluster + c.unit)
        let high := c.cluster + p.num * 2 ^ 12 + c.unit * 2 ^ 17 + c.rights * 2 ^ 18 + epoch % 256 * 2 ^ 24
        (¬door → reply (.mint c) 1) ∧
        (door → p.clusters ≤ c.cluster → reply (.mint c) 3) ∧
        (door → c.cluster < p.clusters → gives (.mint c) (Crypto.doorCheck p.secret high + high * 2 ^ 24) p) ∧
        (2 ≤ c.unit → reply (.epoch c) 1) ∧
        (c.unit < 2 → p.clusters ≤ c.cluster → reply (.epoch c) 3) ∧
        (c.unit < 2 → c.cluster < p.clusters → epoch < 0xFF → gives (.epoch c) (epoch + 1)
          { p with epochs := setMany 0 p.epochs (2 * c.cluster + c.unit) [epoch + 1] }) ∧
        (c.unit < 2 → c.cluster < p.clusters → 0xFF ≤ epoch → gives (.epoch c) 0
          { p with
            epochs := setMany 0 p.epochs (2 * c.cluster + c.unit) [0]
            secret := BitVec.ofNat 256 (Config.draw s.draws) })) ∧
      (
        let x := (p.closed.find? fun x => x.ctx == c.ctx).getD ⟨c.ctx, [], 0, [], []⟩
        let ranges := s.scrubRanges p x
        let receipt := sealed (receiptHeader 0x01524353 p.num c.ctx c.pattern ranges.length
          ((ranges.map fun r => r.differ).sum) c.nonce ++ ranges.flatMap ScrubRange.image)
        ((p.ctx? c.ctx).isSome = true → reply (.scrub c) 2) ∧
        (p.ctx? c.ctx = none → s.scrubHeld x = true → Completes (.scrub c) s fun u =>
          u.part? target = some { p with
            scrubbing := p.scrubbing.filter (· < c.ctx) ++ [c.ctx] ++ p.scrubbing.filter (c.ctx < ·) } ∧
          (u.mailbox c.fn).waiting = [.cmd 5 c] ∧ (u.mailbox c.fn).reply = (s.mailbox c.fn).reply ∧
          u = { s with parts := u.parts, mail := u.mail }) ∧
        (p.ctx? c.ctx = none → s.scrubHeld x = false → Completes (.scrub c) s fun u => Replied s u c.fn 0 0 ∧
          readBytes u.hostMem (hostKey c.fn c.addr) receipt.length = receipt ∧
          u.part? target = some { p with scrubbing := p.scrubbing.filter (· ≠ c.ctx) } ∧
          (∀ n ∈ x.clusters, n ∉ p.taken → findAt u.scrubbed (p.unitOf n) = some c.pattern) ∧
          ∀ f, s.scrubPages x 7 ++ s.scrubPages x 8 = [f] → (∀ n, s.stackOf f.pa = some n → s.stackFailed n = false) →
            ∀ i, i < 2 ^ f.sizeLog → readByte u.mem (f.pa + i) = c.pattern.extractLsb' (8 * (i % 8)) 8)) ∧
      (64 ≤ c.monitor → reply (.logcfg c) 1) ∧
      (c.monitor < 64 → gives (.logcfg c) 0 { p with
        monitors := p.monitors.set c.monitor ⟨c.base / 64 * 64, c.limit / 64 * 64, c.flag, 0, 0, 0, 0⟩ }) ∧
      Completes (.logexport c) s (fun u => Replied s u c.fn 0 0 ∧ u.mem = s.mem ∧
        (
          let log := monitorLog p s.time c.nonce
          readBytes u.hostMem (hostKey c.fn c.addr) log.length = log) ∧
        ∃ p', u.part? target = some p' ∧ p'.monitors.map Monitor.config = p.monitors.map Monitor.config ∧
          (c.flag = false → p' = p) ∧
          (c.flag = true → ∀ m ∈ p'.monitors, m.reads = 0 ∧ m.writes = 0 ∧ m.first = 0 ∧ m.last = 0)) ∧
      (c.fn = 0 → reply (.allowscan c) 3) ∧
      (c.fn ≠ 0 → gives (.allowscan c) 0 { p with scanOk := true } ∧ reply (.freeze c) 3 ∧ reply (.thaw c) 3) ∧
      (c.fn = 0 → p.frozen = false → gives (.freeze c) 0 { p with frozen := true, frozenAt := s.time } ∧ reply (.thaw c) 2) ∧
      (c.fn = 0 → p.frozen = true →
        let d := s.time - p.frozenAt
        let thawed : Partition := { p with frozen := false, heldIn := [], ctxs := p.ctxs.map (Context.delay d) }
        let delivers (i : Instr) := ∃ v, Replied s v 0 0 0 ∧ Mailed s v ∧ v.part? target = some thawed ∧
          exec (.thaw c) s = exec i v
        reply (.freeze c) 2 ∧ (p.heldIn = [] → gives (.thaw c) 0 thawed ∧ Completes (.thaw c) s fun u =>
          ∀ t h spc a n, t.part = target → s.thread? t = some h → ∃ h', u.thread? t = some h' ∧
            (h.life = .here (.waiting (.event n)) → h'.life = .here (.waiting (.event (n + d)))) ∧
            (h.life = .here (.waiting (.gwait spc a n)) → h'.life = .here (.waiting (.gwait spc a (n + d))))) ∧
        (∀ n page r, p.heldIn = [.ats n page r] → delivers (.atsCompletion ⟨target, n⟩ page r)) ∧
        (∀ n page r, p.heldIn = [.pri n page r] → delivers (.priResponse ⟨target, n⟩ page r)) ∧
        ∀ img, p.heldIn = [.command img] → ∀ o ∈ ([(.openContext, 1), (.closeContext, 2), (.resumeThread, 3), (.cancelTask, 4),
            (.retryTask, 5), (.shootDown, 6), (.loadObject, 7), (.resumeJob, 8)] :
            List ((Nat → BitVec 256 → Instr) × Nat)), bitsOf img 0 8 = o.2 →
          delivers (o.1 target img))) ∧
  (∀ (fn : Nat) (v : Word) (s : State), Appeared s fn →
    let cmd := (s.mailbox fn).cmd
    (∀ i, i < 8 → Completes (.registerWrite fn (0x40 + 8 * i) v) s fun u =>
      (u.mailbox fn).reply = (s.mailbox fn).reply ∧
      ∀ j, j < 8 → (u.mailbox fn).cmd.extractLsb' (64 * j) 64 = if j = i then v else cmd.extractLsb' (64 * j) 64) ∧
    (∀ m ∈ ([(1, .keygen), (2, .keyerase), (3, .mint), (4, .epoch), (5, .scrub), (6, .logcfg), (7, .logexport),
        (8, .allowscan), (9, .freeze), (10, .thaw)] : List (Nat × (MailCmd → Instr))), bitsOf cmd 0 8 = m.1 →
      ∃ c : MailCmd, c.fn = fn ∧ c.part = bitsOf cmd 8 8 ∧ exec (.registerWrite fn 0xC0 v) s = exec (m.2 c) s) ∧
    (bitsOf cmd 0 8 = 0 ∨ 10 < bitsOf cmd 0 8 → (s.mailbox fn).waiting = [] →
      Completes (.registerWrite fn 0xC0 v) s fun u => Replied s u fn 1 0)) ∧
  (∀ (part : Nat) (what : ScanItem) (s : State),
    let refused (st : Nat) := Completes (.scanRead part what) s fun u => Replied s u 0 st 0 ∧ Mailed s u ∧ u.parts = s.parts
    let shows (xs : List Nat) := Completes (.scanRead part what) s fun u => Replied s u 0 0 0 ∧ u.scanReply = xs ∧
      u.parts = s.parts
    (¬Appeared s 0 → Completes (.scanRead part what) s fun u => u = s) ∧
    (∀ x rest, Appeared s 0 → (s.mailbox 0).waiting = x :: rest →
      (x ≠ .scan part what → Completes (.scanRead part what) s fun u => u = { s with mail := u.mail } ∧
        (u.mailbox 0).waiting = x :: rest ++ [.scan part what] ∧ (u.mailbox 0).reply = (s.mailbox 0).reply) ∧
      (x = .scan part what → ∀ v, exec (.scanRead part what) (s.setWaiting 0 []) = .next v →
        Completes (.scanRead part what) s fun u => u = { v with mail := u.mail } ∧
          (u.mailbox 0).reply = (v.mailbox 0).reply ∧ (u.mailbox 0).waiting = (v.mailbox 0).waiting ++ rest)) ∧
    (Appeared s 0 → (s.mailbox 0).waiting = [] → s.part? part = none → refused 1) ∧
    ∀ p, Appeared s 0 → (s.mailbox 0).waiting = [] → s.part? part = some p → (p.frozen = false → refused 2) ∧
      (p.frozen = true → p.ctxs ≠ [] → p.scanOk = false → refused 3) ∧
      (p.frozen = true → p.ctxs = [] ∨ p.scanOk = true →
        (∀ n, what = .keySlot n → shows [0]) ∧ (what = .doorSecret → shows [0]) ∧ (what = .attestationKey → shows [0]) ∧
        (∀ t n h, t.part = part → s.thread? t = some h →
          (what = .scalar t n → shows [(h.sreg n).toNat]) ∧ (what = .vector t n → shows [(h.vreg n).toNat]) ∧
          (what = .pc t → shows [h.pc.toNat]) ∧ (what = .conditions t → shows [h.c.toNat]) ∧
          (∀ m, what = .predicate t m → shows [(h.preg m).toNat]) ∧ (∀ m, what = .stream t m → shows [(h.qreg m).toNat]) ∧
          ∀ m, what = .parameter t m → shows [(h.areg m).toNat]) ∧
        ∀ n c, s.ctx? ⟨part, n⟩ = some c → ∀ cl a b,
          let plane (shadow : Bool) := let m := c.matrix (c.coreTable.getD cl cl); if shadow then m.shadow else m.active
          (what = .accWord n cl a b → shows [getAt 0 (c.matrix (c.coreTable.getD cl cl)).acc (128 * a + b)]) ∧
          (∀ w, what = .weight n cl w a b → shows [getAt 0 (plane w).weights (128 * a + b)]) ∧
          (∀ w, what = .planeTag n cl w → shows [(plane w).tag]) ∧
          ∀ t, t.part = part → t.ctx = n → what = .scoreboard t →
            shows ((c.heldSpans t).flatMap fun r => [Space.code r.spc, r.lo, r.len]))) ∧
  ∀ s : State,
    (s.alarm = 1 → 3 ≤ s.stage → Completes .alarmClear s fun u => u = { s with alarm := 0, alarmAt := none }) ∧
    (s.alarm ≠ 1 ∨ s.stage < 3 → Completes .alarmClear s fun u => u = s) ∧
    Completes .voltageGlitch s (fun u => Alarmed s u (s.alarm + 1)) ∧
    Completes .tamperMeshBreak s (fun u => Alarmed s u (max (s.alarm + 1) 2)) ∧
    Completes .markerCut s (fun u => u = { s with
      cuts := s.cuts + 1, markers := [], tokens := (List.range 744).map fun n => ⟨744, n, s.onChannel 744 n⟩ }) ∧
    ∀ unit chan,
      let sent (m : Marker) := m.src = chan ∧ m.dst = unit
      ((∀ m ∈ s.tokens, ¬sent m) → Completes (.markerReceive unit chan) s fun u => u = s) ∧
      (∀ m, s.tokens.filter (fun x => x.src == chan && x.dst == unit) = [m] →
        ((∃ x ∈ m.before, x ∈ s.onChannel chan unit) → Completes (.markerReceive unit chan) s fun u => u = s) ∧
        ((∀ x ∈ m.before, x ∉ s.onChannel chan unit) →
          ((∀ r ∈ s.markers, r.unit ≠ unit) → Completes (.markerReceive unit chan) s fun u =>
            (∃ r, u.markers = s.markers ++ [r] ∧ r.unit = unit ∧ r.time = s.time ∧ r.chans = [chan] ∧ r.msgs = [] ∧
              (∀ p ∈ s.parts, unit = 720 + p.num → ∃ q ∈ r.state, q.num = p.num ∧ q.rounds = p.rounds ∧
                q.shoots = p.shoots ∧ q.held = p.held ∧ q.late = p.late ∧ q.queues = p.queues ∧ q.replay = p.replay ∧
                q.terminal = p.terminal ∧ q.keys = [] ∧ q.secret = 0 ∧
                (∀ g, g ∈ q.groups ↔ g ∈ p.groups ∧ 0x8000 ≤ g.handle) ∧
                ∀ c ∈ p.ctxs, c.loaded = true → ∃ x ∈ q.ctxs, x.num = c.num ∧ x.edges = c.edges ∧ x.seqs = c.seqs ∧
                  x.combines = c.combines ∧
                  ∀ j, j ∈ x.jobs ↔ j ∈ c.jobs ∧ (j.unit = .feed ∨ j.unit = .coll) ∧ j.place ≠ .message) ∧
              ∀ p ∈ s.parts, ∀ n, n < p.clusters → unit < 720 → p.unitOf n = unit → ∃ q ∈ r.state, q.num = p.num ∧
                q.keys = [] ∧ q.secret = 0 ∧ (∀ e, e ∈ q.slotTables ↔ e ∈ p.slotTables ∧ e.1 = n) ∧
                ∀ c ∈ p.ctxs, c.loaded = true → ∀ i, c.coreTable.Nodup → c.coreTable[i]? = some n →
                  ∃ x ∈ q.ctxs, x.num = c.num ∧ (∀ h, h ∈ x.threads ↔ h ∈ c.threads ∧ h.cluster = i) ∧
                    ∀ j, j ∈ x.jobs ↔ j ∈ c.jobs ∧ (j.unit = .copy ∨ j.unit = .matrix) ∧ j.target = n ∧
                      (j.place ≠ .message ∨ p.unitAt c j.cluster = p.unitOf n)) ∧
            u.tokens = s.tokens.filter (fun x => !(x.src == chan && x.dst == unit)) ++
              (s.peers unit).map fun n => ⟨unit, n, s.onChannel unit n⟩) ∧
          ((∃ r ∈ s.markers, r.unit = unit) → Completes (.markerReceive unit chan) s fun u =>
            u.tokens = s.tokens.filter (fun x => !(x.src == chan && x.dst == unit)) ∧
            u.markers = s.markers.map fun r => if r.unit == unit then { r with chans := r.chans ++ [chan] } else r)))

/-- R308 to R317, R345 and R347. The stages from power-on to full service, the training blocks' commands, and the Span
ports. The model's choices: where a die's commons and its bring-up tables stand (log entries 4 and 26), a module reset's
memory (26), what the fuses and a signed image hold (74), what a test leaves in its bursts (5 and 86), and the events that leave everything as it was because their condition fails (15). -/
def Obligations.BringUpAndTraining : Prop :=
  (∀ s : State,
    let fresh (u : State) := u = { State.reset with
        hbm := u.hbm, hostMem := s.hostMem, draws := s.draws, free := s.free, agenda := s.agenda
        mem := u.mem, lineKeys := u.lineKeys, badLines := u.badLines } ∧
      ∀ k ∈ u.hbm, k.failed = false ∧ ∀ g, (k.block g).inService = false ∧ (k.block g).queue = [] ∧
        (k.block g).rdtap = 32 ∧ (k.block g).wrtap = 32 ∧ (k.block g).spare = none
    Completes .powerOn s (fun u => fresh u ∧ u.mem = []) ∧ Completes .moduleReset s (fun u => fresh u ∧ u.mem = s.mem) ∧
    (s.stage = 0 → Completes .fusesRead s fun u => u = { s with fuses := some Config.fuseDigest, stage := 1 }) ∧
    (s.stage ≠ 0 → Completes .fusesRead s fun u => u = s) ∧
    (∀ patch service e,
      let good (i : BootImage) := ∃ d, s.fuses = some d ∧ Crypto.verifies d i = true
      (s.stage = 1 → good patch → good service → Completes (.signatureCheck ⟨patch, service⟩ e) s fun u =>
        u = { s with signed := true, erasePol := e, stage := 2 }) ∧
      (2 ≤ s.stage → good patch → Completes (.signatureCheck ⟨patch, service⟩ e) s fun u => u = s) ∧
      (s.stage ≠ 0 → ¬good patch ∨ s.stage = 1 ∧ ¬good service →
        Completes (.signatureCheck ⟨patch, service⟩ e) s fun u =>
          Alarmed { s with sigFailed := s.sigFailed || s.stage == 1 } u (s.alarm + 1)) ∧
      (s.stage = 0 → Completes (.signatureCheck ⟨patch, service⟩ e) s fun u => u = s)) ∧
    (s.stage = 2 → Completes .hostLinkUp s fun u => u.stage = 3 ∧ u.linkUp = true ∧ u.bringUp = List.range 6 ∧
      ∀ d, d < 6 → ∃ p c, u.part? (4 * d) = some p ∧ p.ctx? 0 = some c ∧ p.dies = [d] ∧ p.quarter = 0 ∧ p.clusters = 30 ∧
        c.firmware = true ∧ c.loaded = true ∧ c.nclusters = 30 ∧ c.coreTable = List.range 30 ∧
        (∀ k ∈ p.keys, k.isEmpty = true) ∧
        let b := 2 ^ 42 + d * 2 ^ 27
        c.s2root = b ∧ c.s1root = 0x4000 ∧
        ∀ n, n < 16 → leVal (readBytes u.mem (b + 0x2000 + 8 * n) 8) = b + n * 2 ^ 21 + 0x1F) ∧
    (∀ d, 3 ≤ s.stage → d < 6 → s.stackUp (2 * d) = true → s.stackUp (2 * d + 1) = true →
      Completes (.dieTrained d) s fun u => u = { s with stage := max 4 s.stage }) ∧
    (∀ d, s.stage < 3 ∨ 6 ≤ d ∨ s.stackUp (2 * d) = false ∨ s.stackUp (2 * d + 1) = false →
      Completes (.dieTrained d) s fun u => u = s) ∧
    (∀ d, d ∈ s.bringUp → s.stackUp (2 * d) = true → s.stackUp (2 * d + 1) = true →
      (∀ p, s.part? (4 * d) = some p → ∀ c ∈ p.ctxs, ∀ t ∈ c.tasks, t.state = .done) → (s.part? (4 * d)).isSome = true →
      Completes (.bringupContextClose d) s fun u => u.part? (4 * d) = none ∧ d ∉ u.bringUp ∧
        (∀ n, n ≠ 4 * d → u.part? n = s.part? n) ∧ ∃ pattern : Word,
          (∀ i, i < 30 → findAt u.scrubbed (120 * d + i) = some pattern) ∧ ∀ a, readByte u.mem a =
          if 2 ^ 42 + d * 2 ^ 27 ≤ a ∧ a < 2 ^ 42 + d * 2 ^ 27 + 2 ^ 25 then
            pattern.extractLsb' (8 * ((a - (2 ^ 42 + d * 2 ^ 27)) % 8)) 8
          else readByte s.mem a) ∧
    (∀ d, s.stackUp (2 * d) = false ∨ s.stackUp (2 * d + 1) = false →
      Completes (.bringupContextClose d) s fun u => u = s) ∧
    (s.stage = 4 → (∀ n, n < 12 → s.stackUp n = true) → Completes .fullServiceEntry s fun u =>
      u = { s with stage := 5, clock := 16 }) ∧
    (s.stage = 4 → (∃ n, n < 12 ∧ s.stackUp n = false) → Completes .fullServiceEntry s fun u => u = s) ∧
    ∀ n, s.stage = 5 → (8 ≤ n → n ≤ 16 → Completes (.clockThrottle n) s fun u => u = { s with clock := n }) ∧
      (n < 8 ∨ 16 < n → Completes (.clockThrottle n) s fun u => u = s)) ∧
  (∀ (b : BlockId) (w : Word) (s : State) (k : Stack), b.group < 96 → 3 ≤ s.stage → s.stack? b.stack = some k →
    let x := k.block b.group
    let op := bitsOf w 0 4
    let arg := bitsOf w 8 6
    let good := bitsOf w 4 4 = 0 ∧ bitsOf w 14 50 = 0
    let done (y : Block) : Block := { y with results := y.results ++ [y.result] }
    let runs (i : Instr) (x' : Block) := Completes i s fun u => OnlyBlock s u b { x' with queue := [some w] }
    let refused (i : Instr) (st : Nat) := Completes i s fun u =>
      OnlyBlock s u b (done { x with pass := 0, status := st, lastPassed := false, queue := [] })
    (op = 0 → Completes (.noCommand b w) s fun u => OnlyBlock s u b x) ∧
    (x.queue = [] →
      (∀ m ∈ ([(1, .readTapTest), (2, .writeTapTest), (3, .laneRepair), (4, .patternTest)] :
        List (Nat × (BlockId → BitVec 64 → Instr))), op = m.1 →
          (¬good ∨ op = 3 ∧ 32 ≤ arg → refused (m.2 b w) 2) ∧
          (good → ¬(op = 3 ∧ 32 ≤ arg) → x.inService = true → refused (m.2 b w) 4)) ∧
      (good → x.inService = false →
        (op = 1 → runs (.readTapTest b w) { x with rdtap := arg }) ∧
        (op = 2 → runs (.writeTapTest b w) { x with wrtap := arg }) ∧
        (op = 3 → arg < 32 → x.spare = none → runs (.laneRepair b w) { x with spare := some arg }) ∧
        (op = 3 → arg < 32 → x.spare ≠ none → refused (.laneRepair b w) 3) ∧
        (op = 4 → runs (.patternTest b w) x)) ∧
      Completes (.enter b) s (fun u => OnlyBlock s u b (done { x with inService := x.inService || x.lastPassed, queue := [] }))) ∧
    (x.queue ≠ [] → ∀ m ∈ ([(1, .readTapTest), (2, .writeTapTest), (3, .laneRepair), (4, .patternTest)] :
      List (Nat × (BlockId → BitVec 64 → Instr))), op = m.1 → Completes (m.2 b w) s fun u =>
        OnlyBlock s u b { x with queue := x.queue ++ [some w] }) ∧
    (x.queue = [some w] →
      (op = 3 → Completes (.trainingCommandComplete b) s fun u =>
        OnlyBlock s u b (done { x with pass := 0, status := 0, lastPassed := false, queue := [] })) ∧
      (op ≠ 3 → Completes (.trainingCommandComplete b) s fun u => ∃ lanes : BitVec 33,
        let own : BitVec 32 := lanes.extractLsb' 0 32
        ∃ pass : BitVec 32, (x.spare = none → pass = own) ∧
          (∀ l, x.spare = some l → ∀ i, i < 32 → pass.getLsbD i = if i = l then lanes.getLsbD 32 else own.getLsbD i) ∧
          Tested (if op = 4 then 65536 else 256) s u b (done { x with
            pass := pass, status := 0, queue := [], tests := x.tests + 1
            lastPassed := op == 4 && pass == BitVec.allOnes 32 })))) ∧
  (∀ (n : Nat) (s : State) (k : Stack), s.stack? n = some k →
    (3 ≤ s.stage → k.trained = true → Completes (.stackFailedWrite n) s fun u => u = s) ∧
    (3 ≤ s.stage → k.trained = false → Completes (.stackFailedWrite n) s fun u =>
      u.stack? n = some { k with failed := true } ∧ u = { s with hbm := u.hbm }) ∧
    Completes (.stackReset n) s (fun u => u = { s with hbm := u.hbm } ∧ ∃ k', u.stack? n = some k' ∧
      k'.failed = k.failed ∧ ∀ g, (k'.block g).inService = false ∧ (k'.block g).queue = [] ∧ (k'.block g).spare = none ∧
        (k'.block g).rdtap = 32 ∧ (k'.block g).wrtap = 32)) ∧
  ∀ (port : Nat) (f : SpanFlit) (s : State), port < 72 →
    (2 ≤ s.stage → port ∉ s.portsDown →
      (f.crcGood = true → Completes (.flitReceive port f) s fun u => u = { s with flits := s.flits ++ [(port, f.payload)] }) ∧
      (f.crcGood = false → Completes (.flitReceive port f) s fun u => u = { s with replays := s.replays + 1 })) ∧
    (port ∈ s.portsDown → Completes (.flitReceive port f) s fun u => u = s) ∧
    Completes (.spanPortFail port) s (fun u => port ∈ u.portsDown ∧
      ∀ p ∈ u.parts, ∀ c ∈ p.ctxs, ∀ r ∈ c.routes, ∀ ps ∈ r.ports, port ∉ ps)

/-- R318. Keys, door secrets, epochs, partition tables, monitor configurations, alarm and stage: no instruction word
changes any of it. -/
def Obligations.KeptFromInstructions : Prop :=
  ∀ (i : Instr) (s t : State), i.code.isSome = true → exec i s = .next t → t.kept = s.kept

/-- R312, R320, R327, R328, R347. Every step keeps the module's invariant, so every state of a run has it that begins
with it; and no step is refused. -/
def Obligations.InvariantKept : Prop :=
  (∀ s t : State, Inv s → Machine.step s = .next t → Inv t) ∧ (∀ s t : State, Inv s → Runs s t → Inv t) ∧
    ∀ (s : State) (r : Refusal), Machine.step s ≠ .refused r

/-- R182, R224, R312, R340. The module at reset: the invariant holds, nothing is formed, and rings and queues are as
they reset. -/
def Obligations.Reset : Prop :=
  Inv State.reset ∧ State.reset.stage = 0 ∧ State.reset.parts = [] ∧ State.reset.alarm = 0 ∧ State.reset.mem = [] ∧
    State.reset.mail = [] ∧ Ring.reset.enable = false ∧ Ring.reset.head = 0 ∧ Ring.reset.tail = 0 ∧
    Ring.reset.sizeLog = 6 ∧ Queue.reset.enable = false ∧ Queue.reset.stopped = false ∧ Queue.reset.sizeLog = 6 ∧
    (∀ n < 12, ∃ k, State.reset.stack? n = some k ∧ k.failed = false ∧ k.trained = false)
end

