-- ==== Sys2Proof/Laws/Memory.lean ====
section
/-! SUPPORT. Memory as a canonical list: a byte read after a write, and that every operation keeps the form. -/

namespace Sys2Proof.Machine

/-! ### What is found at a key -/

theorem findAt_append {α : Type} (a b : List (Nat × α)) (k : Nat) :
    findAt (a ++ b) k = (findAt a k).or (findAt b k) := by
  induction a with
  | nil => rfl
  | cons e r ih =>
    by_cases h : e.1 = k
    · simp [findAt, h]
    · simp [findAt, h, ih]

theorem findAt_filter_key {α : Type} (q : Nat → Bool) (m : List (Nat × α)) (k : Nat) :
    findAt (m.filter fun e => q e.1) k = if q k then findAt m k else none := by
  induction m with
  | nil => simp [findAt]
  | cons e r ih =>
    by_cases h : e.1 = k
    · subst h
      cases hq : q e.1 <;> simp [hq, ih, findAt]
    · cases hq : q e.1 <;> simp [hq, ih, findAt, h]

theorem findAt_enumFrom' {α : Type} (vs : List α) (a k : Nat) :
    findAt (enumFrom' a vs) k = if a ≤ k then vs[k - a]? else none := by
  induction vs generalizing a with
  | nil => simp [enumFrom', findAt]
  | cons v r ih =>
    by_cases h : a = k
    · subst h
      simp [enumFrom', findAt]
    · by_cases hk : a ≤ k
      · have e : k - a = (k - (a + 1)) + 1 := by omega
        simp [enumFrom', findAt, h, ih, hk, e, show a + 1 ≤ k by omega]
      · simp [enumFrom', findAt, h, ih, hk, show ¬a + 1 ≤ k by omega]

theorem findAt_enumFrom'_filter {α : Type} (q : α → Bool) (vs : List α) (a k : Nat) :
    findAt ((enumFrom' a vs).filter fun e => q e.2) k =
      if a ≤ k then vs[k - a]?.filter q else none := by
  induction vs generalizing a with
  | nil => simp [enumFrom', findAt]
  | cons v r ih =>
    by_cases h : a = k
    · subst h
      cases hq : q v <;> simp [enumFrom', findAt, hq, ih, Option.filter]
    · by_cases hk : a ≤ k
      · have e : k - a = (k - (a + 1)) + 1 := by omega
        cases hq : q v <;> simp [enumFrom', findAt, h, hq, ih, hk, e, show a + 1 ≤ k by omega]
      · cases hq : q v <;> simp [enumFrom', findAt, h, hq, ih, hk, show ¬a + 1 ≤ k by omega]

/-- A value read after consecutive values are written: theirs in the range, the old one elsewhere. -/
theorem getAt_setMany {α : Type} [DecidableEq α] (d : α) (m : List (Nat × α)) (a : Nat) (vs : List α) (k : Nat) :
    getAt d (setMany d m a vs) k =
      if a ≤ k ∧ k < a + vs.length then vs.getD (k - a) d else getAt d m k := by
  have h1 := findAt_filter_key (fun x => decide (x < a)) m k
  have h2 := findAt_enumFrom'_filter (fun v => decide (v ≠ d)) vs a k
  have h3 := findAt_filter_key (fun x => decide (a + vs.length ≤ x)) m k
  unfold getAt setMany
  rw [findAt_append, findAt_append, h1, h2, h3]
  by_cases ha : a ≤ k
  · by_cases hb : k < a + vs.length
    · have hlt : k - a < vs.length := by omega
      by_cases hv : vs[k - a] = d <;>
        simp [ha, hb, hlt, Option.filter, hv, show ¬k < a by omega, show ¬a + vs.length ≤ k by omega]
    · have hge : vs.length ≤ k - a := by omega
      simp [ha, hb, show ¬k < a by omega, show a + vs.length ≤ k by omega, List.getElem?_eq_none hge]
  · simp [ha, show k < a by omega, show ¬a + vs.length ≤ k by omega]

/-- A byte of memory after a write (R176): the byte written, or what stood there. -/
theorem readByte_writeBytes (m : Cells) (a : Nat) (bs : List Byte) (k : Nat) :
    readByte (writeBytes m a bs) k =
      if a ≤ k ∧ k < a + bs.length then bs.getD (k - a) 0 else readByte m k :=
  getAt_setMany 0 m a bs k

/-- A byte outside a write keeps its value. -/
theorem readByte_writeBytes_outside (m : Cells) (a : Nat) (bs : List Byte) (k : Nat)
    (h : k < a ∨ a + bs.length ≤ k) : readByte (writeBytes m a bs) k = readByte m k := by
  rw [readByte_writeBytes, if_neg (by omega)]

/-- Consecutive reads, one by one. -/
theorem getMany_eq {α : Type} (d : α) (m : List (Nat × α)) (a n : Nat) :
    getMany d m a n = (List.range n).map fun i => getAt d m (a + i) := by
  unfold getMany
  apply List.map_congr_left
  intro i hi
  have hi := List.mem_range.mp hi
  have := findAt_filter_key (fun x => decide (a ≤ x) && decide (x < a + n)) m (a + i)
  simp only [getAt]
  rw [this]
  simp [hi]

theorem readBytes_eq (m : Cells) (a n : Nat) :
    readBytes m a n = (List.range n).map fun i => readByte m (a + i) := getMany_eq 0 m a n

/-- Bytes read where they have just been written. -/
theorem readBytes_writeBytes_same (m : Cells) (a : Nat) (bs : List Byte) :
    readBytes (writeBytes m a bs) a bs.length = bs := by
  rw [readBytes_eq]
  apply List.ext_getElem
  · simp
  · intro i h1 h2
    have h2' : i < bs.length := h2
    simp [readByte_writeBytes, h2']

/-- Bytes read outside a write. -/
theorem readBytes_writeBytes_outside (m : Cells) (a : Nat) (bs : List Byte) (b n : Nat)
    (h : b + n ≤ a ∨ a + bs.length ≤ b) : readBytes (writeBytes m a bs) b n = readBytes m b n := by
  rw [readBytes_eq, readBytes_eq]
  apply List.map_congr_left
  intro i hi
  have hi := List.mem_range.mp hi
  exact readByte_writeBytes_outside m a bs (b + i) (by omega)

theorem leBytes_length (n v : Nat) : (leBytes n v).length = n := by
  induction n generalizing v with
  | zero => rfl
  | succ n ih => simp [leBytes, ih]

/-- The little-endian value of little-endian bytes (R3). -/
theorem leVal_leBytes (n v : Nat) : leVal (leBytes n v) = v % 2 ^ (8 * n) := by
  induction n generalizing v with
  | zero => simp [leBytes, leVal, Nat.mod_one]
  | succ n ih =>
    have e : 2 ^ (8 * (n + 1)) = 256 * 2 ^ (8 * n) := by rw [Nat.mul_add, Nat.pow_add]; omega
    simp only [leBytes, leVal, ih, BitVec.toNat_ofNat]
    rw [e, Nat.mod_mul]

theorem leVal_lt (bs : List Byte) : leVal bs < 2 ^ (8 * bs.length) := by
  induction bs with
  | nil => simp [leVal]
  | cons b r ih =>
    have e : 2 ^ (8 * (r.length + 1)) = 256 * 2 ^ (8 * r.length) := by rw [Nat.mul_add, Nat.pow_add]; omega
    have hb := b.isLt
    simp only [leVal, List.length_cons, e]
    omega

/-! ### The canonical form -/

theorem rising_iff {α : Type} (m : List (Nat × α)) :
    rising m = true ↔ m.Pairwise fun x y => x.1 < y.1 := by
  induction m with
  | nil => simp [rising]
  | cons a r ih =>
    cases r with
    | nil => simp [rising]
    | cons b r =>
      simp only [rising, Bool.and_eq_true, decide_eq_true_eq, ih, List.pairwise_cons]
      constructor
      · rintro ⟨hab, hb, hr⟩
        refine ⟨?_, hb, hr⟩
        intro e he
        rcases List.mem_cons.mp he with rfl | he
        · exact hab
        · exact Nat.lt_trans hab (hb e he)
      · rintro ⟨ha, hb, hr⟩
        exact ⟨ha b (List.mem_cons_self ..), hb, hr⟩

theorem mem_enumFrom' {α : Type} (vs : List α) (a : Nat) (e : Nat × α) (h : e ∈ enumFrom' a vs) :
    a ≤ e.1 ∧ e.1 < a + vs.length := by
  induction vs generalizing a with
  | nil => simp [enumFrom'] at h
  | cons v r ih =>
    rcases List.mem_cons.mp h with rfl | h
    · simp
    · have := ih (a + 1) h
      simp only [List.length_cons]
      omega

theorem enumFrom'_pairwise {α : Type} (vs : List α) (a : Nat) :
    (enumFrom' a vs).Pairwise fun x y => x.1 < y.1 := by
  induction vs generalizing a with
  | nil => simp [enumFrom']
  | cons v r ih =>
    simp only [enumFrom', List.pairwise_cons]
    exact ⟨fun e he => by have := mem_enumFrom' r (a + 1) e he; omega, ih (a + 1)⟩

/-- Three stretches of keys one after another. -/
theorem pairwise_three {α : Type} (m mid : List (Nat × α)) (lo hi : Nat) (hm : m.Pairwise fun x y => x.1 < y.1)
    (hmid : mid.Pairwise fun x y => x.1 < y.1) (hin : ∀ e ∈ mid, lo ≤ e.1 ∧ e.1 < hi) (hle : lo ≤ hi) :
    (m.filter (fun e => e.1 < lo) ++ mid ++ m.filter (fun e => hi ≤ e.1)).Pairwise fun x y => x.1 < y.1 := by
  rw [List.append_assoc, List.pairwise_append, List.pairwise_append]
  refine ⟨hm.filter _, ⟨hmid, hm.filter _, ?_⟩, ?_⟩
  · intro x hx y hy
    have h1 := hin x hx
    have h2 := (List.mem_filter.mp hy).2
    simp only [decide_eq_true_eq] at h2
    omega
  · intro x hx y hy
    have h1 := (List.mem_filter.mp hx).2
    simp only [decide_eq_true_eq] at h1
    rcases List.mem_append.mp hy with hy | hy
    · have := hin y hy
      omega
    · have h2 := (List.mem_filter.mp hy).2
      simp only [decide_eq_true_eq] at h2
      omega

/-- A write keeps addresses rising and lists no default. -/
theorem setMany_canonical {α : Type} [DecidableEq α] (d : α) (m : List (Nat × α)) (a : Nat) (vs : List α)
    (hr : rising m = true) (hd : ∀ e ∈ m, e.2 ≠ d) :
    rising (setMany d m a vs) = true ∧ ∀ e ∈ setMany d m a vs, e.2 ≠ d := by
  rw [rising_iff] at hr
  constructor
  · rw [rising_iff]
    exact pairwise_three m _ a (a + vs.length) hr ((enumFrom'_pairwise vs a).filter _)
      (fun e he => mem_enumFrom' vs a e (List.mem_filter.mp he).1) (by omega)
  · intro e he
    simp only [setMany, List.mem_append, List.mem_filter] at he
    rcases he with (⟨h, -⟩ | ⟨-, h⟩) | ⟨h, -⟩
    · exact hd e h
    · simpa using h
    · exact hd e h

theorem Memory.wf_iff (m : Cells) : Memory.wf m = true ↔ rising m = true ∧ ∀ e ∈ m, e.2 ≠ 0 := by
  simp [Memory.wf, List.all_eq_true]

/-- A write keeps memory canonical. -/
theorem Memory.wf_writeBytes (m : Cells) (a : Nat) (bs : List Byte) (h : Memory.wf m = true) :
    Memory.wf (writeBytes m a bs) = true := by
  rw [Memory.wf_iff] at h ⊢
  exact setMany_canonical 0 m a bs h.1 h.2

theorem Memory.wf_nil : Memory.wf [] = true := rfl

/-- Dropping addresses keeps memory canonical. -/
theorem Memory.wf_dropMany (m : Cells) (a n : Nat) (h : Memory.wf m = true) :
    Memory.wf (dropMany m a n) = true := by
  rw [Memory.wf_iff, rising_iff] at h ⊢
  exact ⟨h.1.filter _, fun e he => h.2 e (List.mem_filter.mp he).1⟩

/-- A key below every listed one is not listed. -/
theorem findAt_eq_none {α : Type} (m : List (Nat × α)) (k : Nat) (h : ∀ e ∈ m, k < e.1) : findAt m k = none := by
  induction m with
  | nil => rfl
  | cons e r ih =>
    have h0 := h e (List.mem_cons_self ..)
    simp only [findAt, beq_iff_eq]
    rw [if_neg (by omega)]
    exact ih fun x hx => h x (List.mem_cons_of_mem _ hx)

/-- Putting consecutive values, every one listed. -/
theorem findAt_putMany {α : Type} (m : List (Nat × α)) (a : Nat) (vs : List α) (k : Nat) :
    findAt (putMany m a vs) k = if a ≤ k ∧ k < a + vs.length then vs[k - a]? else findAt m k := by
  have h1 := findAt_filter_key (fun x => decide (x < a)) m k
  have h3 := findAt_filter_key (fun x => decide (a + vs.length ≤ x)) m k
  unfold putMany
  rw [findAt_append, findAt_append, h1, findAt_enumFrom', h3]
  by_cases ha : a ≤ k
  · by_cases hb : k < a + vs.length
    · simp [ha, hb, show ¬k < a by omega, show ¬a + vs.length ≤ k by omega]
    · have hge : vs.length ≤ k - a := by omega
      simp [ha, hb, show ¬k < a by omega, show a + vs.length ≤ k by omega, List.getElem?_eq_none hge]
  · simp [ha, show k < a by omega, show ¬a + vs.length ≤ k by omega]

/-! ### Records of a list -/

theorem modWhere_id {α : Type} (p : α → Bool) (f : α → α) (xs : List α) (h : ∀ x ∈ xs, p x = true → f x = x) :
    modWhere p f xs = xs := by
  unfold modWhere
  conv => rhs; rw [← List.map_id xs]
  apply List.map_congr_left
  intro x hx
  by_cases hp : p x = true
  · simp [hp, h x hx hp]
  · simp [hp]

/-- A property of the records that the change keeps stays a property of all of them. -/
theorem all_modWhere {α : Type} (P : α → Prop) (p : α → Bool) (f : α → α) (xs : List α)
    (h : ∀ x ∈ xs, P x) (hf : ∀ x, P x → p x = true → P (f x)) : ∀ x ∈ modWhere p f xs, P x := by
  intro y hy
  obtain ⟨x, hx, rfl⟩ := List.mem_map.mp hy
  by_cases hp : p x = true
  · simpa [hp] using hf x (h x hx) hp
  · simpa [hp] using h x hx

/-- A projection that the change keeps stays as it was. -/
theorem map_modWhere {α β : Type} (g : α → β) (p : α → Bool) (f : α → α) (xs : List α)
    (h : ∀ x, p x = true → g (f x) = g x) : (modWhere p f xs).map g = xs.map g := by
  unfold modWhere
  rw [List.map_map]
  apply List.map_congr_left
  intro x _
  by_cases hp : p x = true
  · simp [hp, h x hp]
  · simp [hp]

end Sys2Proof.Machine
end

