-- ==== Sys2Proof/Laws/State.lean ====
section
/-! SUPPORT. One lemma per field per update: what each named update of the state and of a thread leaves in
every field. -/

namespace Sys2Proof.Machine

/-! ### Updates of the state -/

@[simp] theorem State.modCur_cur (s : State) (f : Thread → Thread) : (s.modCur f).cur = f s.cur := rfl
@[simp] theorem State.modCur_stage (s : State) (f : Thread → Thread) : (s.modCur f).stage = s.stage := rfl
@[simp] theorem State.modCur_fuses (s : State) (f : Thread → Thread) : (s.modCur f).fuses = s.fuses := rfl
@[simp] theorem State.modCur_signed (s : State) (f : Thread → Thread) : (s.modCur f).signed = s.signed := rfl
@[simp] theorem State.modCur_sigFailed (s : State) (f : Thread → Thread) : (s.modCur f).sigFailed = s.sigFailed := rfl
@[simp] theorem State.modCur_linkUp (s : State) (f : Thread → Thread) : (s.modCur f).linkUp = s.linkUp := rfl
@[simp] theorem State.modCur_clock (s : State) (f : Thread → Thread) : (s.modCur f).clock = s.clock := rfl
@[simp] theorem State.modCur_time (s : State) (f : Thread → Thread) : (s.modCur f).time = s.time := rfl
@[simp] theorem State.modCur_alarm (s : State) (f : Thread → Thread) : (s.modCur f).alarm = s.alarm := rfl
@[simp] theorem State.modCur_alarmAt (s : State) (f : Thread → Thread) : (s.modCur f).alarmAt = s.alarmAt := rfl
@[simp] theorem State.modCur_erasePol (s : State) (f : Thread → Thread) : (s.modCur f).erasePol = s.erasePol := rfl
@[simp] theorem State.modCur_diesHeld (s : State) (f : Thread → Thread) : (s.modCur f).diesHeld = s.diesHeld := rfl
@[simp] theorem State.modCur_hbm (s : State) (f : Thread → Thread) : (s.modCur f).hbm = s.hbm := rfl
@[simp] theorem State.modCur_bringUp (s : State) (f : Thread → Thread) : (s.modCur f).bringUp = s.bringUp := rfl
@[simp] theorem State.modCur_portsDown (s : State) (f : Thread → Thread) : (s.modCur f).portsDown = s.portsDown := rfl
@[simp] theorem State.modCur_flits (s : State) (f : Thread → Thread) : (s.modCur f).flits = s.flits := rfl
@[simp] theorem State.modCur_replays (s : State) (f : Thread → Thread) : (s.modCur f).replays = s.replays := rfl
@[simp] theorem State.modCur_mem (s : State) (f : Thread → Thread) : (s.modCur f).mem = s.mem := rfl
@[simp] theorem State.modCur_lineKeys (s : State) (f : Thread → Thread) : (s.modCur f).lineKeys = s.lineKeys := rfl
@[simp] theorem State.modCur_badLines (s : State) (f : Thread → Thread) : (s.modCur f).badLines = s.badLines := rfl
@[simp] theorem State.modCur_regions (s : State) (f : Thread → Thread) : (s.modCur f).regions = s.regions := rfl
@[simp] theorem State.modCur_hostMem (s : State) (f : Thread → Thread) : (s.modCur f).hostMem = s.hostMem := rfl
@[simp] theorem State.modCur_hostReply (s : State) (f : Thread → Thread) : (s.modCur f).hostReply = s.hostReply := rfl
@[simp] theorem State.modCur_msix (s : State) (f : Thread → Thread) : (s.modCur f).msix = s.msix := rfl
@[simp] theorem State.modCur_partReq (s : State) (f : Thread → Thread) : (s.modCur f).partReq = s.partReq := rfl
@[simp] theorem State.modCur_partStat (s : State) (f : Thread → Thread) : (s.modCur f).partStat = s.partStat := rfl
@[simp] theorem State.modCur_restoreStat (s : State) (f : Thread → Thread) : (s.modCur f).restoreStat = s.restoreStat := rfl
@[simp] theorem State.modCur_pfReplay (s : State) (f : Thread → Thread) : (s.modCur f).pfReplay = s.pfReplay := rfl
@[simp] theorem State.modCur_pfTerminal (s : State) (f : Thread → Thread) : (s.modCur f).pfTerminal = s.pfTerminal := rfl
@[simp] theorem State.modCur_atsDone (s : State) (f : Thread → Thread) : (s.modCur f).atsDone = s.atsDone := rfl
@[simp] theorem State.modCur_weights (s : State) (f : Thread → Thread) : (s.modCur f).weights = s.weights := rfl
@[simp] theorem State.modCur_scrubbed (s : State) (f : Thread → Thread) : (s.modCur f).scrubbed = s.scrubbed := rfl
@[simp] theorem State.modCur_mail (s : State) (f : Thread → Thread) : (s.modCur f).mail = s.mail := rfl
@[simp] theorem State.modCur_scanReply (s : State) (f : Thread → Thread) : (s.modCur f).scanReply = s.scanReply := rfl
@[simp] theorem State.modCur_cuts (s : State) (f : Thread → Thread) : (s.modCur f).cuts = s.cuts := rfl
@[simp] theorem State.modCur_markers (s : State) (f : Thread → Thread) : (s.modCur f).markers = s.markers := rfl
@[simp] theorem State.modCur_tokens (s : State) (f : Thread → Thread) : (s.modCur f).tokens = s.tokens := rfl
@[simp] theorem State.modCur_draws (s : State) (f : Thread → Thread) : (s.modCur f).draws = s.draws := rfl
@[simp] theorem State.modCur_free (s : State) (f : Thread → Thread) : (s.modCur f).free = s.free := rfl
@[simp] theorem State.modCur_devRegs (s : State) (f : Thread → Thread) : (s.modCur f).devRegs = s.devRegs := rfl
@[simp] theorem State.modCur_agenda (s : State) (f : Thread → Thread) : (s.modCur f).agenda = s.agenda := rfl
@[simp] theorem State.modCur_parts (s : State) (f : Thread → Thread) : (s.modCur f).parts = s.parts := rfl

@[simp] theorem State.modPart_cur (s : State) (n : Nat) (f : Partition → Partition) : (s.modPart n f).cur = s.cur := rfl
@[simp] theorem State.modPart_stage (s : State) (n : Nat) (f : Partition → Partition) : (s.modPart n f).stage = s.stage := rfl
@[simp] theorem State.modPart_fuses (s : State) (n : Nat) (f : Partition → Partition) : (s.modPart n f).fuses = s.fuses := rfl
@[simp] theorem State.modPart_signed (s : State) (n : Nat) (f : Partition → Partition) : (s.modPart n f).signed = s.signed := rfl
@[simp] theorem State.modPart_sigFailed (s : State) (n : Nat) (f : Partition → Partition) : (s.modPart n f).sigFailed = s.sigFailed := rfl
@[simp] theorem State.modPart_linkUp (s : State) (n : Nat) (f : Partition → Partition) : (s.modPart n f).linkUp = s.linkUp := rfl
@[simp] theorem State.modPart_clock (s : State) (n : Nat) (f : Partition → Partition) : (s.modPart n f).clock = s.clock := rfl
@[simp] theorem State.modPart_time (s : State) (n : Nat) (f : Partition → Partition) : (s.modPart n f).time = s.time := rfl
@[simp] theorem State.modPart_alarm (s : State) (n : Nat) (f : Partition → Partition) : (s.modPart n f).alarm = s.alarm := rfl
@[simp] theorem State.modPart_alarmAt (s : State) (n : Nat) (f : Partition → Partition) : (s.modPart n f).alarmAt = s.alarmAt := rfl
@[simp] theorem State.modPart_erasePol (s : State) (n : Nat) (f : Partition → Partition) : (s.modPart n f).erasePol = s.erasePol := rfl
@[simp] theorem State.modPart_diesHeld (s : State) (n : Nat) (f : Partition → Partition) : (s.modPart n f).diesHeld = s.diesHeld := rfl
@[simp] theorem State.modPart_hbm (s : State) (n : Nat) (f : Partition → Partition) : (s.modPart n f).hbm = s.hbm := rfl
@[simp] theorem State.modPart_bringUp (s : State) (n : Nat) (f : Partition → Partition) : (s.modPart n f).bringUp = s.bringUp := rfl
@[simp] theorem State.modPart_portsDown (s : State) (n : Nat) (f : Partition → Partition) : (s.modPart n f).portsDown = s.portsDown := rfl
@[simp] theorem State.modPart_flits (s : State) (n : Nat) (f : Partition → Partition) : (s.modPart n f).flits = s.flits := rfl
@[simp] theorem State.modPart_replays (s : State) (n : Nat) (f : Partition → Partition) : (s.modPart n f).replays = s.replays := rfl
@[simp] theorem State.modPart_mem (s : State) (n : Nat) (f : Partition → Partition) : (s.modPart n f).mem = s.mem := rfl
@[simp] theorem State.modPart_lineKeys (s : State) (n : Nat) (f : Partition → Partition) : (s.modPart n f).lineKeys = s.lineKeys := rfl
@[simp] theorem State.modPart_badLines (s : State) (n : Nat) (f : Partition → Partition) : (s.modPart n f).badLines = s.badLines := rfl
@[simp] theorem State.modPart_regions (s : State) (n : Nat) (f : Partition → Partition) : (s.modPart n f).regions = s.regions := rfl
@[simp] theorem State.modPart_hostMem (s : State) (n : Nat) (f : Partition → Partition) : (s.modPart n f).hostMem = s.hostMem := rfl
@[simp] theorem State.modPart_hostReply (s : State) (n : Nat) (f : Partition → Partition) : (s.modPart n f).hostReply = s.hostReply := rfl
@[simp] theorem State.modPart_msix (s : State) (n : Nat) (f : Partition → Partition) : (s.modPart n f).msix = s.msix := rfl
@[simp] theorem State.modPart_partReq (s : State) (n : Nat) (f : Partition → Partition) : (s.modPart n f).partReq = s.partReq := rfl
@[simp] theorem State.modPart_partStat (s : State) (n : Nat) (f : Partition → Partition) : (s.modPart n f).partStat = s.partStat := rfl
@[simp] theorem State.modPart_restoreStat (s : State) (n : Nat) (f : Partition → Partition) : (s.modPart n f).restoreStat = s.restoreStat := rfl
@[simp] theorem State.modPart_pfReplay (s : State) (n : Nat) (f : Partition → Partition) : (s.modPart n f).pfReplay = s.pfReplay := rfl
@[simp] theorem State.modPart_pfTerminal (s : State) (n : Nat) (f : Partition → Partition) : (s.modPart n f).pfTerminal = s.pfTerminal := rfl
@[simp] theorem State.modPart_atsDone (s : State) (n : Nat) (f : Partition → Partition) : (s.modPart n f).atsDone = s.atsDone := rfl
@[simp] theorem State.modPart_weights (s : State) (n : Nat) (f : Partition → Partition) : (s.modPart n f).weights = s.weights := rfl
@[simp] theorem State.modPart_scrubbed (s : State) (n : Nat) (f : Partition → Partition) : (s.modPart n f).scrubbed = s.scrubbed := rfl
@[simp] theorem State.modPart_mail (s : State) (n : Nat) (f : Partition → Partition) : (s.modPart n f).mail = s.mail := rfl
@[simp] theorem State.modPart_scanReply (s : State) (n : Nat) (f : Partition → Partition) : (s.modPart n f).scanReply = s.scanReply := rfl
@[simp] theorem State.modPart_cuts (s : State) (n : Nat) (f : Partition → Partition) : (s.modPart n f).cuts = s.cuts := rfl
@[simp] theorem State.modPart_markers (s : State) (n : Nat) (f : Partition → Partition) : (s.modPart n f).markers = s.markers := rfl
@[simp] theorem State.modPart_tokens (s : State) (n : Nat) (f : Partition → Partition) : (s.modPart n f).tokens = s.tokens := rfl
@[simp] theorem State.modPart_draws (s : State) (n : Nat) (f : Partition → Partition) : (s.modPart n f).draws = s.draws := rfl
@[simp] theorem State.modPart_free (s : State) (n : Nat) (f : Partition → Partition) : (s.modPart n f).free = s.free := rfl
@[simp] theorem State.modPart_devRegs (s : State) (n : Nat) (f : Partition → Partition) : (s.modPart n f).devRegs = s.devRegs := rfl
@[simp] theorem State.modPart_agenda (s : State) (n : Nat) (f : Partition → Partition) : (s.modPart n f).agenda = s.agenda := rfl
@[simp] theorem State.modPart_parts (s : State) (n : Nat) (f : Partition → Partition) : (s.modPart n f).parts = modWhere (fun p => p.num == n) f s.parts := rfl

@[simp] theorem State.modCtx_cur (s : State) (k : CtxId) (f : Context → Context) : (s.modCtx k f).cur = s.cur := rfl
@[simp] theorem State.modCtx_stage (s : State) (k : CtxId) (f : Context → Context) : (s.modCtx k f).stage = s.stage := rfl
@[simp] theorem State.modCtx_fuses (s : State) (k : CtxId) (f : Context → Context) : (s.modCtx k f).fuses = s.fuses := rfl
@[simp] theorem State.modCtx_signed (s : State) (k : CtxId) (f : Context → Context) : (s.modCtx k f).signed = s.signed := rfl
@[simp] theorem State.modCtx_sigFailed (s : State) (k : CtxId) (f : Context → Context) : (s.modCtx k f).sigFailed = s.sigFailed := rfl
@[simp] theorem State.modCtx_linkUp (s : State) (k : CtxId) (f : Context → Context) : (s.modCtx k f).linkUp = s.linkUp := rfl
@[simp] theorem State.modCtx_clock (s : State) (k : CtxId) (f : Context → Context) : (s.modCtx k f).clock = s.clock := rfl
@[simp] theorem State.modCtx_time (s : State) (k : CtxId) (f : Context → Context) : (s.modCtx k f).time = s.time := rfl
@[simp] theorem State.modCtx_alarm (s : State) (k : CtxId) (f : Context → Context) : (s.modCtx k f).alarm = s.alarm := rfl
@[simp] theorem State.modCtx_alarmAt (s : State) (k : CtxId) (f : Context → Context) : (s.modCtx k f).alarmAt = s.alarmAt := rfl
@[simp] theorem State.modCtx_erasePol (s : State) (k : CtxId) (f : Context → Context) : (s.modCtx k f).erasePol = s.erasePol := rfl
@[simp] theorem State.modCtx_diesHeld (s : State) (k : CtxId) (f : Context → Context) : (s.modCtx k f).diesHeld = s.diesHeld := rfl
@[simp] theorem State.modCtx_hbm (s : State) (k : CtxId) (f : Context → Context) : (s.modCtx k f).hbm = s.hbm := rfl
@[simp] theorem State.modCtx_bringUp (s : State) (k : CtxId) (f : Context → Context) : (s.modCtx k f).bringUp = s.bringUp := rfl
@[simp] theorem State.modCtx_portsDown (s : State) (k : CtxId) (f : Context → Context) : (s.modCtx k f).portsDown = s.portsDown := rfl
@[simp] theorem State.modCtx_flits (s : State) (k : CtxId) (f : Context → Context) : (s.modCtx k f).flits = s.flits := rfl
@[simp] theorem State.modCtx_replays (s : State) (k : CtxId) (f : Context → Context) : (s.modCtx k f).replays = s.replays := rfl
@[simp] theorem State.modCtx_mem (s : State) (k : CtxId) (f : Context → Context) : (s.modCtx k f).mem = s.mem := rfl
@[simp] theorem State.modCtx_lineKeys (s : State) (k : CtxId) (f : Context → Context) : (s.modCtx k f).lineKeys = s.lineKeys := rfl
@[simp] theorem State.modCtx_badLines (s : State) (k : CtxId) (f : Context → Context) : (s.modCtx k f).badLines = s.badLines := rfl
@[simp] theorem State.modCtx_regions (s : State) (k : CtxId) (f : Context → Context) : (s.modCtx k f).regions = s.regions := rfl
@[simp] theorem State.modCtx_hostMem (s : State) (k : CtxId) (f : Context → Context) : (s.modCtx k f).hostMem = s.hostMem := rfl
@[simp] theorem State.modCtx_hostReply (s : State) (k : CtxId) (f : Context → Context) : (s.modCtx k f).hostReply = s.hostReply := rfl
@[simp] theorem State.modCtx_msix (s : State) (k : CtxId) (f : Context → Context) : (s.modCtx k f).msix = s.msix := rfl
@[simp] theorem State.modCtx_partReq (s : State) (k : CtxId) (f : Context → Context) : (s.modCtx k f).partReq = s.partReq := rfl
@[simp] theorem State.modCtx_partStat (s : State) (k : CtxId) (f : Context → Context) : (s.modCtx k f).partStat = s.partStat := rfl
@[simp] theorem State.modCtx_restoreStat (s : State) (k : CtxId) (f : Context → Context) : (s.modCtx k f).restoreStat = s.restoreStat := rfl
@[simp] theorem State.modCtx_pfReplay (s : State) (k : CtxId) (f : Context → Context) : (s.modCtx k f).pfReplay = s.pfReplay := rfl
@[simp] theorem State.modCtx_pfTerminal (s : State) (k : CtxId) (f : Context → Context) : (s.modCtx k f).pfTerminal = s.pfTerminal := rfl
@[simp] theorem State.modCtx_atsDone (s : State) (k : CtxId) (f : Context → Context) : (s.modCtx k f).atsDone = s.atsDone := rfl
@[simp] theorem State.modCtx_weights (s : State) (k : CtxId) (f : Context → Context) : (s.modCtx k f).weights = s.weights := rfl
@[simp] theorem State.modCtx_scrubbed (s : State) (k : CtxId) (f : Context → Context) : (s.modCtx k f).scrubbed = s.scrubbed := rfl
@[simp] theorem State.modCtx_mail (s : State) (k : CtxId) (f : Context → Context) : (s.modCtx k f).mail = s.mail := rfl
@[simp] theorem State.modCtx_scanReply (s : State) (k : CtxId) (f : Context → Context) : (s.modCtx k f).scanReply = s.scanReply := rfl
@[simp] theorem State.modCtx_cuts (s : State) (k : CtxId) (f : Context → Context) : (s.modCtx k f).cuts = s.cuts := rfl
@[simp] theorem State.modCtx_markers (s : State) (k : CtxId) (f : Context → Context) : (s.modCtx k f).markers = s.markers := rfl
@[simp] theorem State.modCtx_tokens (s : State) (k : CtxId) (f : Context → Context) : (s.modCtx k f).tokens = s.tokens := rfl
@[simp] theorem State.modCtx_draws (s : State) (k : CtxId) (f : Context → Context) : (s.modCtx k f).draws = s.draws := rfl
@[simp] theorem State.modCtx_free (s : State) (k : CtxId) (f : Context → Context) : (s.modCtx k f).free = s.free := rfl
@[simp] theorem State.modCtx_devRegs (s : State) (k : CtxId) (f : Context → Context) : (s.modCtx k f).devRegs = s.devRegs := rfl
@[simp] theorem State.modCtx_agenda (s : State) (k : CtxId) (f : Context → Context) : (s.modCtx k f).agenda = s.agenda := rfl

@[simp] theorem State.modTask_cur (s : State) (k : TaskId) (f : Task → Task) : (s.modTask k f).cur = s.cur := rfl
@[simp] theorem State.modTask_stage (s : State) (k : TaskId) (f : Task → Task) : (s.modTask k f).stage = s.stage := rfl
@[simp] theorem State.modTask_fuses (s : State) (k : TaskId) (f : Task → Task) : (s.modTask k f).fuses = s.fuses := rfl
@[simp] theorem State.modTask_signed (s : State) (k : TaskId) (f : Task → Task) : (s.modTask k f).signed = s.signed := rfl
@[simp] theorem State.modTask_sigFailed (s : State) (k : TaskId) (f : Task → Task) : (s.modTask k f).sigFailed = s.sigFailed := rfl
@[simp] theorem State.modTask_linkUp (s : State) (k : TaskId) (f : Task → Task) : (s.modTask k f).linkUp = s.linkUp := rfl
@[simp] theorem State.modTask_clock (s : State) (k : TaskId) (f : Task → Task) : (s.modTask k f).clock = s.clock := rfl
@[simp] theorem State.modTask_time (s : State) (k : TaskId) (f : Task → Task) : (s.modTask k f).time = s.time := rfl
@[simp] theorem State.modTask_alarm (s : State) (k : TaskId) (f : Task → Task) : (s.modTask k f).alarm = s.alarm := rfl
@[simp] theorem State.modTask_alarmAt (s : State) (k : TaskId) (f : Task → Task) : (s.modTask k f).alarmAt = s.alarmAt := rfl
@[simp] theorem State.modTask_erasePol (s : State) (k : TaskId) (f : Task → Task) : (s.modTask k f).erasePol = s.erasePol := rfl
@[simp] theorem State.modTask_diesHeld (s : State) (k : TaskId) (f : Task → Task) : (s.modTask k f).diesHeld = s.diesHeld := rfl
@[simp] theorem State.modTask_hbm (s : State) (k : TaskId) (f : Task → Task) : (s.modTask k f).hbm = s.hbm := rfl
@[simp] theorem State.modTask_bringUp (s : State) (k : TaskId) (f : Task → Task) : (s.modTask k f).bringUp = s.bringUp := rfl
@[simp] theorem State.modTask_portsDown (s : State) (k : TaskId) (f : Task → Task) : (s.modTask k f).portsDown = s.portsDown := rfl
@[simp] theorem State.modTask_flits (s : State) (k : TaskId) (f : Task → Task) : (s.modTask k f).flits = s.flits := rfl
@[simp] theorem State.modTask_replays (s : State) (k : TaskId) (f : Task → Task) : (s.modTask k f).replays = s.replays := rfl
@[simp] theorem State.modTask_mem (s : State) (k : TaskId) (f : Task → Task) : (s.modTask k f).mem = s.mem := rfl
@[simp] theorem State.modTask_lineKeys (s : State) (k : TaskId) (f : Task → Task) : (s.modTask k f).lineKeys = s.lineKeys := rfl
@[simp] theorem State.modTask_badLines (s : State) (k : TaskId) (f : Task → Task) : (s.modTask k f).badLines = s.badLines := rfl
@[simp] theorem State.modTask_regions (s : State) (k : TaskId) (f : Task → Task) : (s.modTask k f).regions = s.regions := rfl
@[simp] theorem State.modTask_hostMem (s : State) (k : TaskId) (f : Task → Task) : (s.modTask k f).hostMem = s.hostMem := rfl
@[simp] theorem State.modTask_hostReply (s : State) (k : TaskId) (f : Task → Task) : (s.modTask k f).hostReply = s.hostReply := rfl
@[simp] theorem State.modTask_msix (s : State) (k : TaskId) (f : Task → Task) : (s.modTask k f).msix = s.msix := rfl
@[simp] theorem State.modTask_partReq (s : State) (k : TaskId) (f : Task → Task) : (s.modTask k f).partReq = s.partReq := rfl
@[simp] theorem State.modTask_partStat (s : State) (k : TaskId) (f : Task → Task) : (s.modTask k f).partStat = s.partStat := rfl
@[simp] theorem State.modTask_restoreStat (s : State) (k : TaskId) (f : Task → Task) : (s.modTask k f).restoreStat = s.restoreStat := rfl
@[simp] theorem State.modTask_pfReplay (s : State) (k : TaskId) (f : Task → Task) : (s.modTask k f).pfReplay = s.pfReplay := rfl
@[simp] theorem State.modTask_pfTerminal (s : State) (k : TaskId) (f : Task → Task) : (s.modTask k f).pfTerminal = s.pfTerminal := rfl
@[simp] theorem State.modTask_atsDone (s : State) (k : TaskId) (f : Task → Task) : (s.modTask k f).atsDone = s.atsDone := rfl
@[simp] theorem State.modTask_weights (s : State) (k : TaskId) (f : Task → Task) : (s.modTask k f).weights = s.weights := rfl
@[simp] theorem State.modTask_scrubbed (s : State) (k : TaskId) (f : Task → Task) : (s.modTask k f).scrubbed = s.scrubbed := rfl
@[simp] theorem State.modTask_mail (s : State) (k : TaskId) (f : Task → Task) : (s.modTask k f).mail = s.mail := rfl
@[simp] theorem State.modTask_scanReply (s : State) (k : TaskId) (f : Task → Task) : (s.modTask k f).scanReply = s.scanReply := rfl
@[simp] theorem State.modTask_cuts (s : State) (k : TaskId) (f : Task → Task) : (s.modTask k f).cuts = s.cuts := rfl
@[simp] theorem State.modTask_markers (s : State) (k : TaskId) (f : Task → Task) : (s.modTask k f).markers = s.markers := rfl
@[simp] theorem State.modTask_tokens (s : State) (k : TaskId) (f : Task → Task) : (s.modTask k f).tokens = s.tokens := rfl
@[simp] theorem State.modTask_draws (s : State) (k : TaskId) (f : Task → Task) : (s.modTask k f).draws = s.draws := rfl
@[simp] theorem State.modTask_free (s : State) (k : TaskId) (f : Task → Task) : (s.modTask k f).free = s.free := rfl
@[simp] theorem State.modTask_devRegs (s : State) (k : TaskId) (f : Task → Task) : (s.modTask k f).devRegs = s.devRegs := rfl
@[simp] theorem State.modTask_agenda (s : State) (k : TaskId) (f : Task → Task) : (s.modTask k f).agenda = s.agenda := rfl

@[simp] theorem State.checkIn_cur (s : State) : (s.checkIn).cur = s.cur := rfl
@[simp] theorem State.checkIn_stage (s : State) : (s.checkIn).stage = s.stage := rfl
@[simp] theorem State.checkIn_fuses (s : State) : (s.checkIn).fuses = s.fuses := rfl
@[simp] theorem State.checkIn_signed (s : State) : (s.checkIn).signed = s.signed := rfl
@[simp] theorem State.checkIn_sigFailed (s : State) : (s.checkIn).sigFailed = s.sigFailed := rfl
@[simp] theorem State.checkIn_linkUp (s : State) : (s.checkIn).linkUp = s.linkUp := rfl
@[simp] theorem State.checkIn_clock (s : State) : (s.checkIn).clock = s.clock := rfl
@[simp] theorem State.checkIn_time (s : State) : (s.checkIn).time = s.time := rfl
@[simp] theorem State.checkIn_alarm (s : State) : (s.checkIn).alarm = s.alarm := rfl
@[simp] theorem State.checkIn_alarmAt (s : State) : (s.checkIn).alarmAt = s.alarmAt := rfl
@[simp] theorem State.checkIn_erasePol (s : State) : (s.checkIn).erasePol = s.erasePol := rfl
@[simp] theorem State.checkIn_diesHeld (s : State) : (s.checkIn).diesHeld = s.diesHeld := rfl
@[simp] theorem State.checkIn_hbm (s : State) : (s.checkIn).hbm = s.hbm := rfl
@[simp] theorem State.checkIn_bringUp (s : State) : (s.checkIn).bringUp = s.bringUp := rfl
@[simp] theorem State.checkIn_portsDown (s : State) : (s.checkIn).portsDown = s.portsDown := rfl
@[simp] theorem State.checkIn_flits (s : State) : (s.checkIn).flits = s.flits := rfl
@[simp] theorem State.checkIn_replays (s : State) : (s.checkIn).replays = s.replays := rfl
@[simp] theorem State.checkIn_mem (s : State) : (s.checkIn).mem = s.mem := rfl
@[simp] theorem State.checkIn_lineKeys (s : State) : (s.checkIn).lineKeys = s.lineKeys := rfl
@[simp] theorem State.checkIn_badLines (s : State) : (s.checkIn).badLines = s.badLines := rfl
@[simp] theorem State.checkIn_regions (s : State) : (s.checkIn).regions = s.regions := rfl
@[simp] theorem State.checkIn_hostMem (s : State) : (s.checkIn).hostMem = s.hostMem := rfl
@[simp] theorem State.checkIn_hostReply (s : State) : (s.checkIn).hostReply = s.hostReply := rfl
@[simp] theorem State.checkIn_msix (s : State) : (s.checkIn).msix = s.msix := rfl
@[simp] theorem State.checkIn_partReq (s : State) : (s.checkIn).partReq = s.partReq := rfl
@[simp] theorem State.checkIn_partStat (s : State) : (s.checkIn).partStat = s.partStat := rfl
@[simp] theorem State.checkIn_restoreStat (s : State) : (s.checkIn).restoreStat = s.restoreStat := rfl
@[simp] theorem State.checkIn_pfReplay (s : State) : (s.checkIn).pfReplay = s.pfReplay := rfl
@[simp] theorem State.checkIn_pfTerminal (s : State) : (s.checkIn).pfTerminal = s.pfTerminal := rfl
@[simp] theorem State.checkIn_atsDone (s : State) : (s.checkIn).atsDone = s.atsDone := rfl
@[simp] theorem State.checkIn_weights (s : State) : (s.checkIn).weights = s.weights := rfl
@[simp] theorem State.checkIn_scrubbed (s : State) : (s.checkIn).scrubbed = s.scrubbed := rfl
@[simp] theorem State.checkIn_mail (s : State) : (s.checkIn).mail = s.mail := rfl
@[simp] theorem State.checkIn_scanReply (s : State) : (s.checkIn).scanReply = s.scanReply := rfl
@[simp] theorem State.checkIn_cuts (s : State) : (s.checkIn).cuts = s.cuts := rfl
@[simp] theorem State.checkIn_markers (s : State) : (s.checkIn).markers = s.markers := rfl
@[simp] theorem State.checkIn_tokens (s : State) : (s.checkIn).tokens = s.tokens := rfl
@[simp] theorem State.checkIn_draws (s : State) : (s.checkIn).draws = s.draws := rfl
@[simp] theorem State.checkIn_free (s : State) : (s.checkIn).free = s.free := rfl
@[simp] theorem State.checkIn_devRegs (s : State) : (s.checkIn).devRegs = s.devRegs := rfl
@[simp] theorem State.checkIn_agenda (s : State) : (s.checkIn).agenda = s.agenda := rfl

@[simp] theorem State.advance_cur (s : State)  : (s.advance).cur = { s.cur with pc := s.cur.pc + 1 } := rfl
@[simp] theorem State.advance_stage (s : State) : (s.advance).stage = s.stage := rfl
@[simp] theorem State.advance_fuses (s : State) : (s.advance).fuses = s.fuses := rfl
@[simp] theorem State.advance_signed (s : State) : (s.advance).signed = s.signed := rfl
@[simp] theorem State.advance_sigFailed (s : State) : (s.advance).sigFailed = s.sigFailed := rfl
@[simp] theorem State.advance_linkUp (s : State) : (s.advance).linkUp = s.linkUp := rfl
@[simp] theorem State.advance_clock (s : State) : (s.advance).clock = s.clock := rfl
@[simp] theorem State.advance_time (s : State) : (s.advance).time = s.time := rfl
@[simp] theorem State.advance_alarm (s : State) : (s.advance).alarm = s.alarm := rfl
@[simp] theorem State.advance_alarmAt (s : State) : (s.advance).alarmAt = s.alarmAt := rfl
@[simp] theorem State.advance_erasePol (s : State) : (s.advance).erasePol = s.erasePol := rfl
@[simp] theorem State.advance_diesHeld (s : State) : (s.advance).diesHeld = s.diesHeld := rfl
@[simp] theorem State.advance_hbm (s : State) : (s.advance).hbm = s.hbm := rfl
@[simp] theorem State.advance_bringUp (s : State) : (s.advance).bringUp = s.bringUp := rfl
@[simp] theorem State.advance_portsDown (s : State) : (s.advance).portsDown = s.portsDown := rfl
@[simp] theorem State.advance_flits (s : State) : (s.advance).flits = s.flits := rfl
@[simp] theorem State.advance_replays (s : State) : (s.advance).replays = s.replays := rfl
@[simp] theorem State.advance_mem (s : State) : (s.advance).mem = s.mem := rfl
@[simp] theorem State.advance_lineKeys (s : State) : (s.advance).lineKeys = s.lineKeys := rfl
@[simp] theorem State.advance_badLines (s : State) : (s.advance).badLines = s.badLines := rfl
@[simp] theorem State.advance_regions (s : State) : (s.advance).regions = s.regions := rfl
@[simp] theorem State.advance_hostMem (s : State) : (s.advance).hostMem = s.hostMem := rfl
@[simp] theorem State.advance_hostReply (s : State) : (s.advance).hostReply = s.hostReply := rfl
@[simp] theorem State.advance_msix (s : State) : (s.advance).msix = s.msix := rfl
@[simp] theorem State.advance_partReq (s : State) : (s.advance).partReq = s.partReq := rfl
@[simp] theorem State.advance_partStat (s : State) : (s.advance).partStat = s.partStat := rfl
@[simp] theorem State.advance_restoreStat (s : State) : (s.advance).restoreStat = s.restoreStat := rfl
@[simp] theorem State.advance_pfReplay (s : State) : (s.advance).pfReplay = s.pfReplay := rfl
@[simp] theorem State.advance_pfTerminal (s : State) : (s.advance).pfTerminal = s.pfTerminal := rfl
@[simp] theorem State.advance_atsDone (s : State) : (s.advance).atsDone = s.atsDone := rfl
@[simp] theorem State.advance_weights (s : State) : (s.advance).weights = s.weights := rfl
@[simp] theorem State.advance_scrubbed (s : State) : (s.advance).scrubbed = s.scrubbed := rfl
@[simp] theorem State.advance_mail (s : State) : (s.advance).mail = s.mail := rfl
@[simp] theorem State.advance_scanReply (s : State) : (s.advance).scanReply = s.scanReply := rfl
@[simp] theorem State.advance_cuts (s : State) : (s.advance).cuts = s.cuts := rfl
@[simp] theorem State.advance_markers (s : State) : (s.advance).markers = s.markers := rfl
@[simp] theorem State.advance_tokens (s : State) : (s.advance).tokens = s.tokens := rfl
@[simp] theorem State.advance_draws (s : State) : (s.advance).draws = s.draws := rfl
@[simp] theorem State.advance_free (s : State) : (s.advance).free = s.free := rfl
@[simp] theorem State.advance_devRegs (s : State) : (s.advance).devRegs = s.devRegs := rfl
@[simp] theorem State.advance_agenda (s : State) : (s.advance).agenda = s.agenda := rfl
@[simp] theorem State.advance_parts (s : State) : (s.advance).parts = s.parts := rfl

@[simp] theorem State.wait_cur (s : State) (x : Wait) : (s.wait x).cur = { s.cur with life := .here (.waiting x) } := rfl
@[simp] theorem State.wait_stage (s : State) (x : Wait) : (s.wait x).stage = s.stage := rfl
@[simp] theorem State.wait_fuses (s : State) (x : Wait) : (s.wait x).fuses = s.fuses := rfl
@[simp] theorem State.wait_signed (s : State) (x : Wait) : (s.wait x).signed = s.signed := rfl
@[simp] theorem State.wait_sigFailed (s : State) (x : Wait) : (s.wait x).sigFailed = s.sigFailed := rfl
@[simp] theorem State.wait_linkUp (s : State) (x : Wait) : (s.wait x).linkUp = s.linkUp := rfl
@[simp] theorem State.wait_clock (s : State) (x : Wait) : (s.wait x).clock = s.clock := rfl
@[simp] theorem State.wait_time (s : State) (x : Wait) : (s.wait x).time = s.time := rfl
@[simp] theorem State.wait_alarm (s : State) (x : Wait) : (s.wait x).alarm = s.alarm := rfl
@[simp] theorem State.wait_alarmAt (s : State) (x : Wait) : (s.wait x).alarmAt = s.alarmAt := rfl
@[simp] theorem State.wait_erasePol (s : State) (x : Wait) : (s.wait x).erasePol = s.erasePol := rfl
@[simp] theorem State.wait_diesHeld (s : State) (x : Wait) : (s.wait x).diesHeld = s.diesHeld := rfl
@[simp] theorem State.wait_hbm (s : State) (x : Wait) : (s.wait x).hbm = s.hbm := rfl
@[simp] theorem State.wait_bringUp (s : State) (x : Wait) : (s.wait x).bringUp = s.bringUp := rfl
@[simp] theorem State.wait_portsDown (s : State) (x : Wait) : (s.wait x).portsDown = s.portsDown := rfl
@[simp] theorem State.wait_flits (s : State) (x : Wait) : (s.wait x).flits = s.flits := rfl
@[simp] theorem State.wait_replays (s : State) (x : Wait) : (s.wait x).replays = s.replays := rfl
@[simp] theorem State.wait_mem (s : State) (x : Wait) : (s.wait x).mem = s.mem := rfl
@[simp] theorem State.wait_lineKeys (s : State) (x : Wait) : (s.wait x).lineKeys = s.lineKeys := rfl
@[simp] theorem State.wait_badLines (s : State) (x : Wait) : (s.wait x).badLines = s.badLines := rfl
@[simp] theorem State.wait_regions (s : State) (x : Wait) : (s.wait x).regions = s.regions := rfl
@[simp] theorem State.wait_hostMem (s : State) (x : Wait) : (s.wait x).hostMem = s.hostMem := rfl
@[simp] theorem State.wait_hostReply (s : State) (x : Wait) : (s.wait x).hostReply = s.hostReply := rfl
@[simp] theorem State.wait_msix (s : State) (x : Wait) : (s.wait x).msix = s.msix := rfl
@[simp] theorem State.wait_partReq (s : State) (x : Wait) : (s.wait x).partReq = s.partReq := rfl
@[simp] theorem State.wait_partStat (s : State) (x : Wait) : (s.wait x).partStat = s.partStat := rfl
@[simp] theorem State.wait_restoreStat (s : State) (x : Wait) : (s.wait x).restoreStat = s.restoreStat := rfl
@[simp] theorem State.wait_pfReplay (s : State) (x : Wait) : (s.wait x).pfReplay = s.pfReplay := rfl
@[simp] theorem State.wait_pfTerminal (s : State) (x : Wait) : (s.wait x).pfTerminal = s.pfTerminal := rfl
@[simp] theorem State.wait_atsDone (s : State) (x : Wait) : (s.wait x).atsDone = s.atsDone := rfl
@[simp] theorem State.wait_weights (s : State) (x : Wait) : (s.wait x).weights = s.weights := rfl
@[simp] theorem State.wait_scrubbed (s : State) (x : Wait) : (s.wait x).scrubbed = s.scrubbed := rfl
@[simp] theorem State.wait_mail (s : State) (x : Wait) : (s.wait x).mail = s.mail := rfl
@[simp] theorem State.wait_scanReply (s : State) (x : Wait) : (s.wait x).scanReply = s.scanReply := rfl
@[simp] theorem State.wait_cuts (s : State) (x : Wait) : (s.wait x).cuts = s.cuts := rfl
@[simp] theorem State.wait_markers (s : State) (x : Wait) : (s.wait x).markers = s.markers := rfl
@[simp] theorem State.wait_tokens (s : State) (x : Wait) : (s.wait x).tokens = s.tokens := rfl
@[simp] theorem State.wait_draws (s : State) (x : Wait) : (s.wait x).draws = s.draws := rfl
@[simp] theorem State.wait_free (s : State) (x : Wait) : (s.wait x).free = s.free := rfl
@[simp] theorem State.wait_devRegs (s : State) (x : Wait) : (s.wait x).devRegs = s.devRegs := rfl
@[simp] theorem State.wait_agenda (s : State) (x : Wait) : (s.wait x).agenda = s.agenda := rfl
@[simp] theorem State.wait_parts (s : State) (x : Wait) : (s.wait x).parts = s.parts := rfl

@[simp] theorem State.waitFor_cur (s : State) (x : Cond) : (s.waitFor x).cur = { s.cur with life := .here (.waiting (.again x)) } := rfl
@[simp] theorem State.waitFor_stage (s : State) (x : Cond) : (s.waitFor x).stage = s.stage := rfl
@[simp] theorem State.waitFor_fuses (s : State) (x : Cond) : (s.waitFor x).fuses = s.fuses := rfl
@[simp] theorem State.waitFor_signed (s : State) (x : Cond) : (s.waitFor x).signed = s.signed := rfl
@[simp] theorem State.waitFor_sigFailed (s : State) (x : Cond) : (s.waitFor x).sigFailed = s.sigFailed := rfl
@[simp] theorem State.waitFor_linkUp (s : State) (x : Cond) : (s.waitFor x).linkUp = s.linkUp := rfl
@[simp] theorem State.waitFor_clock (s : State) (x : Cond) : (s.waitFor x).clock = s.clock := rfl
@[simp] theorem State.waitFor_time (s : State) (x : Cond) : (s.waitFor x).time = s.time := rfl
@[simp] theorem State.waitFor_alarm (s : State) (x : Cond) : (s.waitFor x).alarm = s.alarm := rfl
@[simp] theorem State.waitFor_alarmAt (s : State) (x : Cond) : (s.waitFor x).alarmAt = s.alarmAt := rfl
@[simp] theorem State.waitFor_erasePol (s : State) (x : Cond) : (s.waitFor x).erasePol = s.erasePol := rfl
@[simp] theorem State.waitFor_diesHeld (s : State) (x : Cond) : (s.waitFor x).diesHeld = s.diesHeld := rfl
@[simp] theorem State.waitFor_hbm (s : State) (x : Cond) : (s.waitFor x).hbm = s.hbm := rfl
@[simp] theorem State.waitFor_bringUp (s : State) (x : Cond) : (s.waitFor x).bringUp = s.bringUp := rfl
@[simp] theorem State.waitFor_portsDown (s : State) (x : Cond) : (s.waitFor x).portsDown = s.portsDown := rfl
@[simp] theorem State.waitFor_flits (s : State) (x : Cond) : (s.waitFor x).flits = s.flits := rfl
@[simp] theorem State.waitFor_replays (s : State) (x : Cond) : (s.waitFor x).replays = s.replays := rfl
@[simp] theorem State.waitFor_mem (s : State) (x : Cond) : (s.waitFor x).mem = s.mem := rfl
@[simp] theorem State.waitFor_lineKeys (s : State) (x : Cond) : (s.waitFor x).lineKeys = s.lineKeys := rfl
@[simp] theorem State.waitFor_badLines (s : State) (x : Cond) : (s.waitFor x).badLines = s.badLines := rfl
@[simp] theorem State.waitFor_regions (s : State) (x : Cond) : (s.waitFor x).regions = s.regions := rfl
@[simp] theorem State.waitFor_hostMem (s : State) (x : Cond) : (s.waitFor x).hostMem = s.hostMem := rfl
@[simp] theorem State.waitFor_hostReply (s : State) (x : Cond) : (s.waitFor x).hostReply = s.hostReply := rfl
@[simp] theorem State.waitFor_msix (s : State) (x : Cond) : (s.waitFor x).msix = s.msix := rfl
@[simp] theorem State.waitFor_partReq (s : State) (x : Cond) : (s.waitFor x).partReq = s.partReq := rfl
@[simp] theorem State.waitFor_partStat (s : State) (x : Cond) : (s.waitFor x).partStat = s.partStat := rfl
@[simp] theorem State.waitFor_restoreStat (s : State) (x : Cond) : (s.waitFor x).restoreStat = s.restoreStat := rfl
@[simp] theorem State.waitFor_pfReplay (s : State) (x : Cond) : (s.waitFor x).pfReplay = s.pfReplay := rfl
@[simp] theorem State.waitFor_pfTerminal (s : State) (x : Cond) : (s.waitFor x).pfTerminal = s.pfTerminal := rfl
@[simp] theorem State.waitFor_atsDone (s : State) (x : Cond) : (s.waitFor x).atsDone = s.atsDone := rfl
@[simp] theorem State.waitFor_weights (s : State) (x : Cond) : (s.waitFor x).weights = s.weights := rfl
@[simp] theorem State.waitFor_scrubbed (s : State) (x : Cond) : (s.waitFor x).scrubbed = s.scrubbed := rfl
@[simp] theorem State.waitFor_mail (s : State) (x : Cond) : (s.waitFor x).mail = s.mail := rfl
@[simp] theorem State.waitFor_scanReply (s : State) (x : Cond) : (s.waitFor x).scanReply = s.scanReply := rfl
@[simp] theorem State.waitFor_cuts (s : State) (x : Cond) : (s.waitFor x).cuts = s.cuts := rfl
@[simp] theorem State.waitFor_markers (s : State) (x : Cond) : (s.waitFor x).markers = s.markers := rfl
@[simp] theorem State.waitFor_tokens (s : State) (x : Cond) : (s.waitFor x).tokens = s.tokens := rfl
@[simp] theorem State.waitFor_draws (s : State) (x : Cond) : (s.waitFor x).draws = s.draws := rfl
@[simp] theorem State.waitFor_free (s : State) (x : Cond) : (s.waitFor x).free = s.free := rfl
@[simp] theorem State.waitFor_devRegs (s : State) (x : Cond) : (s.waitFor x).devRegs = s.devRegs := rfl
@[simp] theorem State.waitFor_agenda (s : State) (x : Cond) : (s.waitFor x).agenda = s.agenda := rfl
@[simp] theorem State.waitFor_parts (s : State) (x : Cond) : (s.waitFor x).parts = s.parts := rfl

@[simp] theorem State.putS_cur (s : State) (n : BitVec 5) (v : Word) : (s.putS n v).cur = { s.cur.setS n v with pc := (s.cur.setS n v).pc + 1 } := rfl
@[simp] theorem State.putS_stage (s : State) (n : BitVec 5) (v : Word) : (s.putS n v).stage = s.stage := rfl
@[simp] theorem State.putS_fuses (s : State) (n : BitVec 5) (v : Word) : (s.putS n v).fuses = s.fuses := rfl
@[simp] theorem State.putS_signed (s : State) (n : BitVec 5) (v : Word) : (s.putS n v).signed = s.signed := rfl
@[simp] theorem State.putS_sigFailed (s : State) (n : BitVec 5) (v : Word) : (s.putS n v).sigFailed = s.sigFailed := rfl
@[simp] theorem State.putS_linkUp (s : State) (n : BitVec 5) (v : Word) : (s.putS n v).linkUp = s.linkUp := rfl
@[simp] theorem State.putS_clock (s : State) (n : BitVec 5) (v : Word) : (s.putS n v).clock = s.clock := rfl
@[simp] theorem State.putS_time (s : State) (n : BitVec 5) (v : Word) : (s.putS n v).time = s.time := rfl
@[simp] theorem State.putS_alarm (s : State) (n : BitVec 5) (v : Word) : (s.putS n v).alarm = s.alarm := rfl
@[simp] theorem State.putS_alarmAt (s : State) (n : BitVec 5) (v : Word) : (s.putS n v).alarmAt = s.alarmAt := rfl
@[simp] theorem State.putS_erasePol (s : State) (n : BitVec 5) (v : Word) : (s.putS n v).erasePol = s.erasePol := rfl
@[simp] theorem State.putS_diesHeld (s : State) (n : BitVec 5) (v : Word) : (s.putS n v).diesHeld = s.diesHeld := rfl
@[simp] theorem State.putS_hbm (s : State) (n : BitVec 5) (v : Word) : (s.putS n v).hbm = s.hbm := rfl
@[simp] theorem State.putS_bringUp (s : State) (n : BitVec 5) (v : Word) : (s.putS n v).bringUp = s.bringUp := rfl
@[simp] theorem State.putS_portsDown (s : State) (n : BitVec 5) (v : Word) : (s.putS n v).portsDown = s.portsDown := rfl
@[simp] theorem State.putS_flits (s : State) (n : BitVec 5) (v : Word) : (s.putS n v).flits = s.flits := rfl
@[simp] theorem State.putS_replays (s : State) (n : BitVec 5) (v : Word) : (s.putS n v).replays = s.replays := rfl
@[simp] theorem State.putS_mem (s : State) (n : BitVec 5) (v : Word) : (s.putS n v).mem = s.mem := rfl
@[simp] theorem State.putS_lineKeys (s : State) (n : BitVec 5) (v : Word) : (s.putS n v).lineKeys = s.lineKeys := rfl
@[simp] theorem State.putS_badLines (s : State) (n : BitVec 5) (v : Word) : (s.putS n v).badLines = s.badLines := rfl
@[simp] theorem State.putS_regions (s : State) (n : BitVec 5) (v : Word) : (s.putS n v).regions = s.regions := rfl
@[simp] theorem State.putS_hostMem (s : State) (n : BitVec 5) (v : Word) : (s.putS n v).hostMem = s.hostMem := rfl
@[simp] theorem State.putS_hostReply (s : State) (n : BitVec 5) (v : Word) : (s.putS n v).hostReply = s.hostReply := rfl
@[simp] theorem State.putS_msix (s : State) (n : BitVec 5) (v : Word) : (s.putS n v).msix = s.msix := rfl
@[simp] theorem State.putS_partReq (s : State) (n : BitVec 5) (v : Word) : (s.putS n v).partReq = s.partReq := rfl
@[simp] theorem State.putS_partStat (s : State) (n : BitVec 5) (v : Word) : (s.putS n v).partStat = s.partStat := rfl
@[simp] theorem State.putS_restoreStat (s : State) (n : BitVec 5) (v : Word) : (s.putS n v).restoreStat = s.restoreStat := rfl
@[simp] theorem State.putS_pfReplay (s : State) (n : BitVec 5) (v : Word) : (s.putS n v).pfReplay = s.pfReplay := rfl
@[simp] theorem State.putS_pfTerminal (s : State) (n : BitVec 5) (v : Word) : (s.putS n v).pfTerminal = s.pfTerminal := rfl
@[simp] theorem State.putS_atsDone (s : State) (n : BitVec 5) (v : Word) : (s.putS n v).atsDone = s.atsDone := rfl
@[simp] theorem State.putS_weights (s : State) (n : BitVec 5) (v : Word) : (s.putS n v).weights = s.weights := rfl
@[simp] theorem State.putS_scrubbed (s : State) (n : BitVec 5) (v : Word) : (s.putS n v).scrubbed = s.scrubbed := rfl
@[simp] theorem State.putS_mail (s : State) (n : BitVec 5) (v : Word) : (s.putS n v).mail = s.mail := rfl
@[simp] theorem State.putS_scanReply (s : State) (n : BitVec 5) (v : Word) : (s.putS n v).scanReply = s.scanReply := rfl
@[simp] theorem State.putS_cuts (s : State) (n : BitVec 5) (v : Word) : (s.putS n v).cuts = s.cuts := rfl
@[simp] theorem State.putS_markers (s : State) (n : BitVec 5) (v : Word) : (s.putS n v).markers = s.markers := rfl
@[simp] theorem State.putS_tokens (s : State) (n : BitVec 5) (v : Word) : (s.putS n v).tokens = s.tokens := rfl
@[simp] theorem State.putS_draws (s : State) (n : BitVec 5) (v : Word) : (s.putS n v).draws = s.draws := rfl
@[simp] theorem State.putS_free (s : State) (n : BitVec 5) (v : Word) : (s.putS n v).free = s.free := rfl
@[simp] theorem State.putS_devRegs (s : State) (n : BitVec 5) (v : Word) : (s.putS n v).devRegs = s.devRegs := rfl
@[simp] theorem State.putS_agenda (s : State) (n : BitVec 5) (v : Word) : (s.putS n v).agenda = s.agenda := rfl
@[simp] theorem State.putS_parts (s : State) (n : BitVec 5) (v : Word) : (s.putS n v).parts = s.parts := rfl

@[simp] theorem State.putSF_cur (s : State) (n : BitVec 5) (v : Word) (g : Flags) : (s.putSF n v g).cur = { (s.cur.setS n v).raise g with pc := ((s.cur.setS n v).raise g).pc + 1 } := rfl
@[simp] theorem State.putSF_stage (s : State) (n : BitVec 5) (v : Word) (g : Flags) : (s.putSF n v g).stage = s.stage := rfl
@[simp] theorem State.putSF_fuses (s : State) (n : BitVec 5) (v : Word) (g : Flags) : (s.putSF n v g).fuses = s.fuses := rfl
@[simp] theorem State.putSF_signed (s : State) (n : BitVec 5) (v : Word) (g : Flags) : (s.putSF n v g).signed = s.signed := rfl
@[simp] theorem State.putSF_sigFailed (s : State) (n : BitVec 5) (v : Word) (g : Flags) : (s.putSF n v g).sigFailed = s.sigFailed := rfl
@[simp] theorem State.putSF_linkUp (s : State) (n : BitVec 5) (v : Word) (g : Flags) : (s.putSF n v g).linkUp = s.linkUp := rfl
@[simp] theorem State.putSF_clock (s : State) (n : BitVec 5) (v : Word) (g : Flags) : (s.putSF n v g).clock = s.clock := rfl
@[simp] theorem State.putSF_time (s : State) (n : BitVec 5) (v : Word) (g : Flags) : (s.putSF n v g).time = s.time := rfl
@[simp] theorem State.putSF_alarm (s : State) (n : BitVec 5) (v : Word) (g : Flags) : (s.putSF n v g).alarm = s.alarm := rfl
@[simp] theorem State.putSF_alarmAt (s : State) (n : BitVec 5) (v : Word) (g : Flags) : (s.putSF n v g).alarmAt = s.alarmAt := rfl
@[simp] theorem State.putSF_erasePol (s : State) (n : BitVec 5) (v : Word) (g : Flags) : (s.putSF n v g).erasePol = s.erasePol := rfl
@[simp] theorem State.putSF_diesHeld (s : State) (n : BitVec 5) (v : Word) (g : Flags) : (s.putSF n v g).diesHeld = s.diesHeld := rfl
@[simp] theorem State.putSF_hbm (s : State) (n : BitVec 5) (v : Word) (g : Flags) : (s.putSF n v g).hbm = s.hbm := rfl
@[simp] theorem State.putSF_bringUp (s : State) (n : BitVec 5) (v : Word) (g : Flags) : (s.putSF n v g).bringUp = s.bringUp := rfl
@[simp] theorem State.putSF_portsDown (s : State) (n : BitVec 5) (v : Word) (g : Flags) : (s.putSF n v g).portsDown = s.portsDown := rfl
@[simp] theorem State.putSF_flits (s : State) (n : BitVec 5) (v : Word) (g : Flags) : (s.putSF n v g).flits = s.flits := rfl
@[simp] theorem State.putSF_replays (s : State) (n : BitVec 5) (v : Word) (g : Flags) : (s.putSF n v g).replays = s.replays := rfl
@[simp] theorem State.putSF_mem (s : State) (n : BitVec 5) (v : Word) (g : Flags) : (s.putSF n v g).mem = s.mem := rfl
@[simp] theorem State.putSF_lineKeys (s : State) (n : BitVec 5) (v : Word) (g : Flags) : (s.putSF n v g).lineKeys = s.lineKeys := rfl
@[simp] theorem State.putSF_badLines (s : State) (n : BitVec 5) (v : Word) (g : Flags) : (s.putSF n v g).badLines = s.badLines := rfl
@[simp] theorem State.putSF_regions (s : State) (n : BitVec 5) (v : Word) (g : Flags) : (s.putSF n v g).regions = s.regions := rfl
@[simp] theorem State.putSF_hostMem (s : State) (n : BitVec 5) (v : Word) (g : Flags) : (s.putSF n v g).hostMem = s.hostMem := rfl
@[simp] theorem State.putSF_hostReply (s : State) (n : BitVec 5) (v : Word) (g : Flags) : (s.putSF n v g).hostReply = s.hostReply := rfl
@[simp] theorem State.putSF_msix (s : State) (n : BitVec 5) (v : Word) (g : Flags) : (s.putSF n v g).msix = s.msix := rfl
@[simp] theorem State.putSF_partReq (s : State) (n : BitVec 5) (v : Word) (g : Flags) : (s.putSF n v g).partReq = s.partReq := rfl
@[simp] theorem State.putSF_partStat (s : State) (n : BitVec 5) (v : Word) (g : Flags) : (s.putSF n v g).partStat = s.partStat := rfl
@[simp] theorem State.putSF_restoreStat (s : State) (n : BitVec 5) (v : Word) (g : Flags) : (s.putSF n v g).restoreStat = s.restoreStat := rfl
@[simp] theorem State.putSF_pfReplay (s : State) (n : BitVec 5) (v : Word) (g : Flags) : (s.putSF n v g).pfReplay = s.pfReplay := rfl
@[simp] theorem State.putSF_pfTerminal (s : State) (n : BitVec 5) (v : Word) (g : Flags) : (s.putSF n v g).pfTerminal = s.pfTerminal := rfl
@[simp] theorem State.putSF_atsDone (s : State) (n : BitVec 5) (v : Word) (g : Flags) : (s.putSF n v g).atsDone = s.atsDone := rfl
@[simp] theorem State.putSF_weights (s : State) (n : BitVec 5) (v : Word) (g : Flags) : (s.putSF n v g).weights = s.weights := rfl
@[simp] theorem State.putSF_scrubbed (s : State) (n : BitVec 5) (v : Word) (g : Flags) : (s.putSF n v g).scrubbed = s.scrubbed := rfl
@[simp] theorem State.putSF_mail (s : State) (n : BitVec 5) (v : Word) (g : Flags) : (s.putSF n v g).mail = s.mail := rfl
@[simp] theorem State.putSF_scanReply (s : State) (n : BitVec 5) (v : Word) (g : Flags) : (s.putSF n v g).scanReply = s.scanReply := rfl
@[simp] theorem State.putSF_cuts (s : State) (n : BitVec 5) (v : Word) (g : Flags) : (s.putSF n v g).cuts = s.cuts := rfl
@[simp] theorem State.putSF_markers (s : State) (n : BitVec 5) (v : Word) (g : Flags) : (s.putSF n v g).markers = s.markers := rfl
@[simp] theorem State.putSF_tokens (s : State) (n : BitVec 5) (v : Word) (g : Flags) : (s.putSF n v g).tokens = s.tokens := rfl
@[simp] theorem State.putSF_draws (s : State) (n : BitVec 5) (v : Word) (g : Flags) : (s.putSF n v g).draws = s.draws := rfl
@[simp] theorem State.putSF_free (s : State) (n : BitVec 5) (v : Word) (g : Flags) : (s.putSF n v g).free = s.free := rfl
@[simp] theorem State.putSF_devRegs (s : State) (n : BitVec 5) (v : Word) (g : Flags) : (s.putSF n v g).devRegs = s.devRegs := rfl
@[simp] theorem State.putSF_agenda (s : State) (n : BitVec 5) (v : Word) (g : Flags) : (s.putSF n v g).agenda = s.agenda := rfl
@[simp] theorem State.putSF_parts (s : State) (n : BitVec 5) (v : Word) (g : Flags) : (s.putSF n v g).parts = s.parts := rfl

@[simp] theorem State.putC_cur (s : State) (n : Nat) (b : Bool) (g : Flags) : (s.putC n b g).cur = { (s.cur.setCbit n b).raise g with pc := ((s.cur.setCbit n b).raise g).pc + 1 } := rfl
@[simp] theorem State.putC_stage (s : State) (n : Nat) (b : Bool) (g : Flags) : (s.putC n b g).stage = s.stage := rfl
@[simp] theorem State.putC_fuses (s : State) (n : Nat) (b : Bool) (g : Flags) : (s.putC n b g).fuses = s.fuses := rfl
@[simp] theorem State.putC_signed (s : State) (n : Nat) (b : Bool) (g : Flags) : (s.putC n b g).signed = s.signed := rfl
@[simp] theorem State.putC_sigFailed (s : State) (n : Nat) (b : Bool) (g : Flags) : (s.putC n b g).sigFailed = s.sigFailed := rfl
@[simp] theorem State.putC_linkUp (s : State) (n : Nat) (b : Bool) (g : Flags) : (s.putC n b g).linkUp = s.linkUp := rfl
@[simp] theorem State.putC_clock (s : State) (n : Nat) (b : Bool) (g : Flags) : (s.putC n b g).clock = s.clock := rfl
@[simp] theorem State.putC_time (s : State) (n : Nat) (b : Bool) (g : Flags) : (s.putC n b g).time = s.time := rfl
@[simp] theorem State.putC_alarm (s : State) (n : Nat) (b : Bool) (g : Flags) : (s.putC n b g).alarm = s.alarm := rfl
@[simp] theorem State.putC_alarmAt (s : State) (n : Nat) (b : Bool) (g : Flags) : (s.putC n b g).alarmAt = s.alarmAt := rfl
@[simp] theorem State.putC_erasePol (s : State) (n : Nat) (b : Bool) (g : Flags) : (s.putC n b g).erasePol = s.erasePol := rfl
@[simp] theorem State.putC_diesHeld (s : State) (n : Nat) (b : Bool) (g : Flags) : (s.putC n b g).diesHeld = s.diesHeld := rfl
@[simp] theorem State.putC_hbm (s : State) (n : Nat) (b : Bool) (g : Flags) : (s.putC n b g).hbm = s.hbm := rfl
@[simp] theorem State.putC_bringUp (s : State) (n : Nat) (b : Bool) (g : Flags) : (s.putC n b g).bringUp = s.bringUp := rfl
@[simp] theorem State.putC_portsDown (s : State) (n : Nat) (b : Bool) (g : Flags) : (s.putC n b g).portsDown = s.portsDown := rfl
@[simp] theorem State.putC_flits (s : State) (n : Nat) (b : Bool) (g : Flags) : (s.putC n b g).flits = s.flits := rfl
@[simp] theorem State.putC_replays (s : State) (n : Nat) (b : Bool) (g : Flags) : (s.putC n b g).replays = s.replays := rfl
@[simp] theorem State.putC_mem (s : State) (n : Nat) (b : Bool) (g : Flags) : (s.putC n b g).mem = s.mem := rfl
@[simp] theorem State.putC_lineKeys (s : State) (n : Nat) (b : Bool) (g : Flags) : (s.putC n b g).lineKeys = s.lineKeys := rfl
@[simp] theorem State.putC_badLines (s : State) (n : Nat) (b : Bool) (g : Flags) : (s.putC n b g).badLines = s.badLines := rfl
@[simp] theorem State.putC_regions (s : State) (n : Nat) (b : Bool) (g : Flags) : (s.putC n b g).regions = s.regions := rfl
@[simp] theorem State.putC_hostMem (s : State) (n : Nat) (b : Bool) (g : Flags) : (s.putC n b g).hostMem = s.hostMem := rfl
@[simp] theorem State.putC_hostReply (s : State) (n : Nat) (b : Bool) (g : Flags) : (s.putC n b g).hostReply = s.hostReply := rfl
@[simp] theorem State.putC_msix (s : State) (n : Nat) (b : Bool) (g : Flags) : (s.putC n b g).msix = s.msix := rfl
@[simp] theorem State.putC_partReq (s : State) (n : Nat) (b : Bool) (g : Flags) : (s.putC n b g).partReq = s.partReq := rfl
@[simp] theorem State.putC_partStat (s : State) (n : Nat) (b : Bool) (g : Flags) : (s.putC n b g).partStat = s.partStat := rfl
@[simp] theorem State.putC_restoreStat (s : State) (n : Nat) (b : Bool) (g : Flags) : (s.putC n b g).restoreStat = s.restoreStat := rfl
@[simp] theorem State.putC_pfReplay (s : State) (n : Nat) (b : Bool) (g : Flags) : (s.putC n b g).pfReplay = s.pfReplay := rfl
@[simp] theorem State.putC_pfTerminal (s : State) (n : Nat) (b : Bool) (g : Flags) : (s.putC n b g).pfTerminal = s.pfTerminal := rfl
@[simp] theorem State.putC_atsDone (s : State) (n : Nat) (b : Bool) (g : Flags) : (s.putC n b g).atsDone = s.atsDone := rfl
@[simp] theorem State.putC_weights (s : State) (n : Nat) (b : Bool) (g : Flags) : (s.putC n b g).weights = s.weights := rfl
@[simp] theorem State.putC_scrubbed (s : State) (n : Nat) (b : Bool) (g : Flags) : (s.putC n b g).scrubbed = s.scrubbed := rfl
@[simp] theorem State.putC_mail (s : State) (n : Nat) (b : Bool) (g : Flags) : (s.putC n b g).mail = s.mail := rfl
@[simp] theorem State.putC_scanReply (s : State) (n : Nat) (b : Bool) (g : Flags) : (s.putC n b g).scanReply = s.scanReply := rfl
@[simp] theorem State.putC_cuts (s : State) (n : Nat) (b : Bool) (g : Flags) : (s.putC n b g).cuts = s.cuts := rfl
@[simp] theorem State.putC_markers (s : State) (n : Nat) (b : Bool) (g : Flags) : (s.putC n b g).markers = s.markers := rfl
@[simp] theorem State.putC_tokens (s : State) (n : Nat) (b : Bool) (g : Flags) : (s.putC n b g).tokens = s.tokens := rfl
@[simp] theorem State.putC_draws (s : State) (n : Nat) (b : Bool) (g : Flags) : (s.putC n b g).draws = s.draws := rfl
@[simp] theorem State.putC_free (s : State) (n : Nat) (b : Bool) (g : Flags) : (s.putC n b g).free = s.free := rfl
@[simp] theorem State.putC_devRegs (s : State) (n : Nat) (b : Bool) (g : Flags) : (s.putC n b g).devRegs = s.devRegs := rfl
@[simp] theorem State.putC_agenda (s : State) (n : Nat) (b : Bool) (g : Flags) : (s.putC n b g).agenda = s.agenda := rfl
@[simp] theorem State.putC_parts (s : State) (n : Nat) (b : Bool) (g : Flags) : (s.putC n b g).parts = s.parts := rfl

@[simp] theorem State.setChip_cur (s : State) (x : Space) (a : Nat) (bs : List Byte) : (s.setChip x a bs).cur = s.cur := rfl
@[simp] theorem State.setChip_stage (s : State) (x : Space) (a : Nat) (bs : List Byte) : (s.setChip x a bs).stage = s.stage := rfl
@[simp] theorem State.setChip_fuses (s : State) (x : Space) (a : Nat) (bs : List Byte) : (s.setChip x a bs).fuses = s.fuses := rfl
@[simp] theorem State.setChip_signed (s : State) (x : Space) (a : Nat) (bs : List Byte) : (s.setChip x a bs).signed = s.signed := rfl
@[simp] theorem State.setChip_sigFailed (s : State) (x : Space) (a : Nat) (bs : List Byte) : (s.setChip x a bs).sigFailed = s.sigFailed := rfl
@[simp] theorem State.setChip_linkUp (s : State) (x : Space) (a : Nat) (bs : List Byte) : (s.setChip x a bs).linkUp = s.linkUp := rfl
@[simp] theorem State.setChip_clock (s : State) (x : Space) (a : Nat) (bs : List Byte) : (s.setChip x a bs).clock = s.clock := rfl
@[simp] theorem State.setChip_time (s : State) (x : Space) (a : Nat) (bs : List Byte) : (s.setChip x a bs).time = s.time := rfl
@[simp] theorem State.setChip_alarm (s : State) (x : Space) (a : Nat) (bs : List Byte) : (s.setChip x a bs).alarm = s.alarm := rfl
@[simp] theorem State.setChip_alarmAt (s : State) (x : Space) (a : Nat) (bs : List Byte) : (s.setChip x a bs).alarmAt = s.alarmAt := rfl
@[simp] theorem State.setChip_erasePol (s : State) (x : Space) (a : Nat) (bs : List Byte) : (s.setChip x a bs).erasePol = s.erasePol := rfl
@[simp] theorem State.setChip_diesHeld (s : State) (x : Space) (a : Nat) (bs : List Byte) : (s.setChip x a bs).diesHeld = s.diesHeld := rfl
@[simp] theorem State.setChip_hbm (s : State) (x : Space) (a : Nat) (bs : List Byte) : (s.setChip x a bs).hbm = s.hbm := rfl
@[simp] theorem State.setChip_bringUp (s : State) (x : Space) (a : Nat) (bs : List Byte) : (s.setChip x a bs).bringUp = s.bringUp := rfl
@[simp] theorem State.setChip_portsDown (s : State) (x : Space) (a : Nat) (bs : List Byte) : (s.setChip x a bs).portsDown = s.portsDown := rfl
@[simp] theorem State.setChip_flits (s : State) (x : Space) (a : Nat) (bs : List Byte) : (s.setChip x a bs).flits = s.flits := rfl
@[simp] theorem State.setChip_replays (s : State) (x : Space) (a : Nat) (bs : List Byte) : (s.setChip x a bs).replays = s.replays := rfl
@[simp] theorem State.setChip_mem (s : State) (x : Space) (a : Nat) (bs : List Byte) : (s.setChip x a bs).mem = s.mem := rfl
@[simp] theorem State.setChip_lineKeys (s : State) (x : Space) (a : Nat) (bs : List Byte) : (s.setChip x a bs).lineKeys = s.lineKeys := rfl
@[simp] theorem State.setChip_badLines (s : State) (x : Space) (a : Nat) (bs : List Byte) : (s.setChip x a bs).badLines = s.badLines := rfl
@[simp] theorem State.setChip_regions (s : State) (x : Space) (a : Nat) (bs : List Byte) : (s.setChip x a bs).regions = s.regions := rfl
@[simp] theorem State.setChip_hostMem (s : State) (x : Space) (a : Nat) (bs : List Byte) : (s.setChip x a bs).hostMem = s.hostMem := rfl
@[simp] theorem State.setChip_hostReply (s : State) (x : Space) (a : Nat) (bs : List Byte) : (s.setChip x a bs).hostReply = s.hostReply := rfl
@[simp] theorem State.setChip_msix (s : State) (x : Space) (a : Nat) (bs : List Byte) : (s.setChip x a bs).msix = s.msix := rfl
@[simp] theorem State.setChip_partReq (s : State) (x : Space) (a : Nat) (bs : List Byte) : (s.setChip x a bs).partReq = s.partReq := rfl
@[simp] theorem State.setChip_partStat (s : State) (x : Space) (a : Nat) (bs : List Byte) : (s.setChip x a bs).partStat = s.partStat := rfl
@[simp] theorem State.setChip_restoreStat (s : State) (x : Space) (a : Nat) (bs : List Byte) : (s.setChip x a bs).restoreStat = s.restoreStat := rfl
@[simp] theorem State.setChip_pfReplay (s : State) (x : Space) (a : Nat) (bs : List Byte) : (s.setChip x a bs).pfReplay = s.pfReplay := rfl
@[simp] theorem State.setChip_pfTerminal (s : State) (x : Space) (a : Nat) (bs : List Byte) : (s.setChip x a bs).pfTerminal = s.pfTerminal := rfl
@[simp] theorem State.setChip_atsDone (s : State) (x : Space) (a : Nat) (bs : List Byte) : (s.setChip x a bs).atsDone = s.atsDone := rfl
@[simp] theorem State.setChip_weights (s : State) (x : Space) (a : Nat) (bs : List Byte) : (s.setChip x a bs).weights = s.weights := rfl
@[simp] theorem State.setChip_scrubbed (s : State) (x : Space) (a : Nat) (bs : List Byte) : (s.setChip x a bs).scrubbed = s.scrubbed := rfl
@[simp] theorem State.setChip_mail (s : State) (x : Space) (a : Nat) (bs : List Byte) : (s.setChip x a bs).mail = s.mail := rfl
@[simp] theorem State.setChip_scanReply (s : State) (x : Space) (a : Nat) (bs : List Byte) : (s.setChip x a bs).scanReply = s.scanReply := rfl
@[simp] theorem State.setChip_cuts (s : State) (x : Space) (a : Nat) (bs : List Byte) : (s.setChip x a bs).cuts = s.cuts := rfl
@[simp] theorem State.setChip_markers (s : State) (x : Space) (a : Nat) (bs : List Byte) : (s.setChip x a bs).markers = s.markers := rfl
@[simp] theorem State.setChip_tokens (s : State) (x : Space) (a : Nat) (bs : List Byte) : (s.setChip x a bs).tokens = s.tokens := rfl
@[simp] theorem State.setChip_draws (s : State) (x : Space) (a : Nat) (bs : List Byte) : (s.setChip x a bs).draws = s.draws := rfl
@[simp] theorem State.setChip_free (s : State) (x : Space) (a : Nat) (bs : List Byte) : (s.setChip x a bs).free = s.free := rfl
@[simp] theorem State.setChip_devRegs (s : State) (x : Space) (a : Nat) (bs : List Byte) : (s.setChip x a bs).devRegs = s.devRegs := rfl
@[simp] theorem State.setChip_agenda (s : State) (x : Space) (a : Nat) (bs : List Byte) : (s.setChip x a bs).agenda = s.agenda := rfl

/-! ### Updates of a thread -/

@[simp] theorem Thread.setS_id (h : Thread) (n : BitVec 5) (v : Word) : (h.setS n v).id = h.id := by unfold Thread.setS; split <;> rfl
@[simp] theorem Thread.setS_life (h : Thread) (n : BitVec 5) (v : Word) : (h.setS n v).life = h.life := by unfold Thread.setS; split <;> rfl
@[simp] theorem Thread.setS_v (h : Thread) (n : BitVec 5) (v : Word) : (h.setS n v).v = h.v := by unfold Thread.setS; split <;> rfl
@[simp] theorem Thread.setS_p (h : Thread) (n : BitVec 5) (v : Word) : (h.setS n v).p = h.p := by unfold Thread.setS; split <;> rfl
@[simp] theorem Thread.setS_c (h : Thread) (n : BitVec 5) (v : Word) : (h.setS n v).c = h.c := by unfold Thread.setS; split <;> rfl
@[simp] theorem Thread.setS_a (h : Thread) (n : BitVec 5) (v : Word) : (h.setS n v).a = h.a := by unfold Thread.setS; split <;> rfl
@[simp] theorem Thread.setS_q (h : Thread) (n : BitVec 5) (v : Word) : (h.setS n v).q = h.q := by unfold Thread.setS; split <;> rfl
@[simp] theorem Thread.setS_pc (h : Thread) (n : BitVec 5) (v : Word) : (h.setS n v).pc = h.pc := by unfold Thread.setS; split <;> rfl
@[simp] theorem Thread.setS_nthreads (h : Thread) (n : BitVec 5) (v : Word) : (h.setS n v).nthreads = h.nthreads := by unfold Thread.setS; split <;> rfl
@[simp] theorem Thread.setS_core (h : Thread) (n : BitVec 5) (v : Word) : (h.setS n v).core = h.core := by unfold Thread.setS; split <;> rfl
@[simp] theorem Thread.setS_cluster (h : Thread) (n : BitVec 5) (v : Word) : (h.setS n v).cluster = h.cluster := by unfold Thread.setS; split <;> rfl
@[simp] theorem Thread.setS_seat (h : Thread) (n : BitVec 5) (v : Word) : (h.setS n v).seat = h.seat := by unfold Thread.setS; split <;> rfl
@[simp] theorem Thread.setS_vregs (h : Thread) (n : BitVec 5) (v : Word) : (h.setS n v).vregs = h.vregs := by unfold Thread.setS; split <;> rfl
@[simp] theorem Thread.setS_rmode (h : Thread) (n : BitVec 5) (v : Word) : (h.setS n v).rmode = h.rmode := by unfold Thread.setS; split <;> rfl
@[simp] theorem Thread.setS_fflags (h : Thread) (n : BitVec 5) (v : Word) : (h.setS n v).fflags = h.fflags := by unfold Thread.setS; split <;> rfl
@[simp] theorem Thread.setS_seed (h : Thread) (n : BitVec 5) (v : Word) : (h.setS n v).seed = h.seed := by unfold Thread.setS; split <;> rfl
@[simp] theorem Thread.setS_tcause (h : Thread) (n : BitVec 5) (v : Word) : (h.setS n v).tcause = h.tcause := by unfold Thread.setS; split <;> rfl
@[simp] theorem Thread.setS_taddr (h : Thread) (n : BitVec 5) (v : Word) : (h.setS n v).taddr = h.taddr := by unfold Thread.setS; split <;> rfl
@[simp] theorem Thread.setS_tinfo (h : Thread) (n : BitVec 5) (v : Word) : (h.setS n v).tinfo = h.tinfo := by unfold Thread.setS; split <;> rfl
@[simp] theorem Thread.setS_scopeclamp (h : Thread) (n : BitVec 5) (v : Word) : (h.setS n v).scopeclamp = h.scopeclamp := by unfold Thread.setS; split <;> rfl
@[simp] theorem Thread.setS_predmiss (h : Thread) (n : BitVec 5) (v : Word) : (h.setS n v).predmiss = h.predmiss := by unfold Thread.setS; split <;> rfl
@[simp] theorem Thread.setS_tkstate (h : Thread) (n : BitVec 5) (v : Word) : (h.setS n v).tkstate = h.tkstate := by unfold Thread.setS; split <;> rfl
@[simp] theorem Thread.setS_rcount (h : Thread) (n : BitVec 5) (v : Word) : (h.setS n v).rcount = h.rcount := by unfold Thread.setS; split <;> rfl
@[simp] theorem Thread.setS_dcount (h : Thread) (n : BitVec 5) (v : Word) : (h.setS n v).dcount = h.dcount := by unfold Thread.setS; split <;> rfl
@[simp] theorem Thread.setS_latch (h : Thread) (n : BitVec 5) (v : Word) : (h.setS n v).latch = h.latch := by unfold Thread.setS; split <;> rfl
@[simp] theorem Thread.setS_jobNext (h : Thread) (n : BitVec 5) (v : Word) : (h.setS n v).jobNext = h.jobNext := by unfold Thread.setS; split <;> rfl
@[simp] theorem Thread.setS_since (h : Thread) (n : BitVec 5) (v : Word) : (h.setS n v).since = h.since := by unfold Thread.setS; split <;> rfl
@[simp] theorem Thread.setS_retained (h : Thread) (n : BitVec 5) (v : Word) : (h.setS n v).retained = h.retained := by unfold Thread.setS; split <;> rfl
@[simp] theorem Thread.setS_absent (h : Thread) (n : BitVec 5) (v : Word) : (h.setS n v).absent = h.absent := by unfold Thread.setS; split <;> rfl
@[simp] theorem Thread.setS_tickets (h : Thread) (n : BitVec 5) (v : Word) : (h.setS n v).tickets = h.tickets := by unfold Thread.setS; split <;> rfl
@[simp] theorem Thread.setS_role (h : Thread) (n : BitVec 5) (v : Word) : (h.setS n v).role = h.role := by unfold Thread.setS; split <;> rfl

@[simp] theorem Thread.setP_id (h : Thread) (n : BitVec 3) (v : Word) : (h.setP n v).id = h.id := by unfold Thread.setP; split <;> rfl
@[simp] theorem Thread.setP_life (h : Thread) (n : BitVec 3) (v : Word) : (h.setP n v).life = h.life := by unfold Thread.setP; split <;> rfl
@[simp] theorem Thread.setP_s (h : Thread) (n : BitVec 3) (v : Word) : (h.setP n v).s = h.s := by unfold Thread.setP; split <;> rfl
@[simp] theorem Thread.setP_v (h : Thread) (n : BitVec 3) (v : Word) : (h.setP n v).v = h.v := by unfold Thread.setP; split <;> rfl
@[simp] theorem Thread.setP_c (h : Thread) (n : BitVec 3) (v : Word) : (h.setP n v).c = h.c := by unfold Thread.setP; split <;> rfl
@[simp] theorem Thread.setP_a (h : Thread) (n : BitVec 3) (v : Word) : (h.setP n v).a = h.a := by unfold Thread.setP; split <;> rfl
@[simp] theorem Thread.setP_q (h : Thread) (n : BitVec 3) (v : Word) : (h.setP n v).q = h.q := by unfold Thread.setP; split <;> rfl
@[simp] theorem Thread.setP_pc (h : Thread) (n : BitVec 3) (v : Word) : (h.setP n v).pc = h.pc := by unfold Thread.setP; split <;> rfl
@[simp] theorem Thread.setP_nthreads (h : Thread) (n : BitVec 3) (v : Word) : (h.setP n v).nthreads = h.nthreads := by unfold Thread.setP; split <;> rfl
@[simp] theorem Thread.setP_core (h : Thread) (n : BitVec 3) (v : Word) : (h.setP n v).core = h.core := by unfold Thread.setP; split <;> rfl
@[simp] theorem Thread.setP_cluster (h : Thread) (n : BitVec 3) (v : Word) : (h.setP n v).cluster = h.cluster := by unfold Thread.setP; split <;> rfl
@[simp] theorem Thread.setP_seat (h : Thread) (n : BitVec 3) (v : Word) : (h.setP n v).seat = h.seat := by unfold Thread.setP; split <;> rfl
@[simp] theorem Thread.setP_vregs (h : Thread) (n : BitVec 3) (v : Word) : (h.setP n v).vregs = h.vregs := by unfold Thread.setP; split <;> rfl
@[simp] theorem Thread.setP_rmode (h : Thread) (n : BitVec 3) (v : Word) : (h.setP n v).rmode = h.rmode := by unfold Thread.setP; split <;> rfl
@[simp] theorem Thread.setP_fflags (h : Thread) (n : BitVec 3) (v : Word) : (h.setP n v).fflags = h.fflags := by unfold Thread.setP; split <;> rfl
@[simp] theorem Thread.setP_seed (h : Thread) (n : BitVec 3) (v : Word) : (h.setP n v).seed = h.seed := by unfold Thread.setP; split <;> rfl
@[simp] theorem Thread.setP_tcause (h : Thread) (n : BitVec 3) (v : Word) : (h.setP n v).tcause = h.tcause := by unfold Thread.setP; split <;> rfl
@[simp] theorem Thread.setP_taddr (h : Thread) (n : BitVec 3) (v : Word) : (h.setP n v).taddr = h.taddr := by unfold Thread.setP; split <;> rfl
@[simp] theorem Thread.setP_tinfo (h : Thread) (n : BitVec 3) (v : Word) : (h.setP n v).tinfo = h.tinfo := by unfold Thread.setP; split <;> rfl
@[simp] theorem Thread.setP_scopeclamp (h : Thread) (n : BitVec 3) (v : Word) : (h.setP n v).scopeclamp = h.scopeclamp := by unfold Thread.setP; split <;> rfl
@[simp] theorem Thread.setP_predmiss (h : Thread) (n : BitVec 3) (v : Word) : (h.setP n v).predmiss = h.predmiss := by unfold Thread.setP; split <;> rfl
@[simp] theorem Thread.setP_tkstate (h : Thread) (n : BitVec 3) (v : Word) : (h.setP n v).tkstate = h.tkstate := by unfold Thread.setP; split <;> rfl
@[simp] theorem Thread.setP_rcount (h : Thread) (n : BitVec 3) (v : Word) : (h.setP n v).rcount = h.rcount := by unfold Thread.setP; split <;> rfl
@[simp] theorem Thread.setP_dcount (h : Thread) (n : BitVec 3) (v : Word) : (h.setP n v).dcount = h.dcount := by unfold Thread.setP; split <;> rfl
@[simp] theorem Thread.setP_latch (h : Thread) (n : BitVec 3) (v : Word) : (h.setP n v).latch = h.latch := by unfold Thread.setP; split <;> rfl
@[simp] theorem Thread.setP_jobNext (h : Thread) (n : BitVec 3) (v : Word) : (h.setP n v).jobNext = h.jobNext := by unfold Thread.setP; split <;> rfl
@[simp] theorem Thread.setP_since (h : Thread) (n : BitVec 3) (v : Word) : (h.setP n v).since = h.since := by unfold Thread.setP; split <;> rfl
@[simp] theorem Thread.setP_retained (h : Thread) (n : BitVec 3) (v : Word) : (h.setP n v).retained = h.retained := by unfold Thread.setP; split <;> rfl
@[simp] theorem Thread.setP_absent (h : Thread) (n : BitVec 3) (v : Word) : (h.setP n v).absent = h.absent := by unfold Thread.setP; split <;> rfl
@[simp] theorem Thread.setP_tickets (h : Thread) (n : BitVec 3) (v : Word) : (h.setP n v).tickets = h.tickets := by unfold Thread.setP; split <;> rfl
@[simp] theorem Thread.setP_role (h : Thread) (n : BitVec 3) (v : Word) : (h.setP n v).role = h.role := by unfold Thread.setP; split <;> rfl

@[simp] theorem Thread.setCbit_id (h : Thread) (n : Nat) (b : Bool) : (h.setCbit n b).id = h.id := rfl
@[simp] theorem Thread.setCbit_life (h : Thread) (n : Nat) (b : Bool) : (h.setCbit n b).life = h.life := rfl
@[simp] theorem Thread.setCbit_s (h : Thread) (n : Nat) (b : Bool) : (h.setCbit n b).s = h.s := rfl
@[simp] theorem Thread.setCbit_v (h : Thread) (n : Nat) (b : Bool) : (h.setCbit n b).v = h.v := rfl
@[simp] theorem Thread.setCbit_p (h : Thread) (n : Nat) (b : Bool) : (h.setCbit n b).p = h.p := rfl
@[simp] theorem Thread.setCbit_a (h : Thread) (n : Nat) (b : Bool) : (h.setCbit n b).a = h.a := rfl
@[simp] theorem Thread.setCbit_q (h : Thread) (n : Nat) (b : Bool) : (h.setCbit n b).q = h.q := rfl
@[simp] theorem Thread.setCbit_pc (h : Thread) (n : Nat) (b : Bool) : (h.setCbit n b).pc = h.pc := rfl
@[simp] theorem Thread.setCbit_nthreads (h : Thread) (n : Nat) (b : Bool) : (h.setCbit n b).nthreads = h.nthreads := rfl
@[simp] theorem Thread.setCbit_core (h : Thread) (n : Nat) (b : Bool) : (h.setCbit n b).core = h.core := rfl
@[simp] theorem Thread.setCbit_cluster (h : Thread) (n : Nat) (b : Bool) : (h.setCbit n b).cluster = h.cluster := rfl
@[simp] theorem Thread.setCbit_seat (h : Thread) (n : Nat) (b : Bool) : (h.setCbit n b).seat = h.seat := rfl
@[simp] theorem Thread.setCbit_vregs (h : Thread) (n : Nat) (b : Bool) : (h.setCbit n b).vregs = h.vregs := rfl
@[simp] theorem Thread.setCbit_rmode (h : Thread) (n : Nat) (b : Bool) : (h.setCbit n b).rmode = h.rmode := rfl
@[simp] theorem Thread.setCbit_fflags (h : Thread) (n : Nat) (b : Bool) : (h.setCbit n b).fflags = h.fflags := rfl
@[simp] theorem Thread.setCbit_seed (h : Thread) (n : Nat) (b : Bool) : (h.setCbit n b).seed = h.seed := rfl
@[simp] theorem Thread.setCbit_tcause (h : Thread) (n : Nat) (b : Bool) : (h.setCbit n b).tcause = h.tcause := rfl
@[simp] theorem Thread.setCbit_taddr (h : Thread) (n : Nat) (b : Bool) : (h.setCbit n b).taddr = h.taddr := rfl
@[simp] theorem Thread.setCbit_tinfo (h : Thread) (n : Nat) (b : Bool) : (h.setCbit n b).tinfo = h.tinfo := rfl
@[simp] theorem Thread.setCbit_scopeclamp (h : Thread) (n : Nat) (b : Bool) : (h.setCbit n b).scopeclamp = h.scopeclamp := rfl
@[simp] theorem Thread.setCbit_predmiss (h : Thread) (n : Nat) (b : Bool) : (h.setCbit n b).predmiss = h.predmiss := rfl
@[simp] theorem Thread.setCbit_tkstate (h : Thread) (n : Nat) (b : Bool) : (h.setCbit n b).tkstate = h.tkstate := rfl
@[simp] theorem Thread.setCbit_rcount (h : Thread) (n : Nat) (b : Bool) : (h.setCbit n b).rcount = h.rcount := rfl
@[simp] theorem Thread.setCbit_dcount (h : Thread) (n : Nat) (b : Bool) : (h.setCbit n b).dcount = h.dcount := rfl
@[simp] theorem Thread.setCbit_latch (h : Thread) (n : Nat) (b : Bool) : (h.setCbit n b).latch = h.latch := rfl
@[simp] theorem Thread.setCbit_jobNext (h : Thread) (n : Nat) (b : Bool) : (h.setCbit n b).jobNext = h.jobNext := rfl
@[simp] theorem Thread.setCbit_since (h : Thread) (n : Nat) (b : Bool) : (h.setCbit n b).since = h.since := rfl
@[simp] theorem Thread.setCbit_retained (h : Thread) (n : Nat) (b : Bool) : (h.setCbit n b).retained = h.retained := rfl
@[simp] theorem Thread.setCbit_absent (h : Thread) (n : Nat) (b : Bool) : (h.setCbit n b).absent = h.absent := rfl
@[simp] theorem Thread.setCbit_tickets (h : Thread) (n : Nat) (b : Bool) : (h.setCbit n b).tickets = h.tickets := rfl
@[simp] theorem Thread.setCbit_role (h : Thread) (n : Nat) (b : Bool) : (h.setCbit n b).role = h.role := rfl

@[simp] theorem Thread.setC15_id (h : Thread) (b : Bool) : (h.setC15 b).id = h.id := rfl
@[simp] theorem Thread.setC15_life (h : Thread) (b : Bool) : (h.setC15 b).life = h.life := rfl
@[simp] theorem Thread.setC15_s (h : Thread) (b : Bool) : (h.setC15 b).s = h.s := rfl
@[simp] theorem Thread.setC15_v (h : Thread) (b : Bool) : (h.setC15 b).v = h.v := rfl
@[simp] theorem Thread.setC15_p (h : Thread) (b : Bool) : (h.setC15 b).p = h.p := rfl
@[simp] theorem Thread.setC15_a (h : Thread) (b : Bool) : (h.setC15 b).a = h.a := rfl
@[simp] theorem Thread.setC15_q (h : Thread) (b : Bool) : (h.setC15 b).q = h.q := rfl
@[simp] theorem Thread.setC15_pc (h : Thread) (b : Bool) : (h.setC15 b).pc = h.pc := rfl
@[simp] theorem Thread.setC15_nthreads (h : Thread) (b : Bool) : (h.setC15 b).nthreads = h.nthreads := rfl
@[simp] theorem Thread.setC15_core (h : Thread) (b : Bool) : (h.setC15 b).core = h.core := rfl
@[simp] theorem Thread.setC15_cluster (h : Thread) (b : Bool) : (h.setC15 b).cluster = h.cluster := rfl
@[simp] theorem Thread.setC15_seat (h : Thread) (b : Bool) : (h.setC15 b).seat = h.seat := rfl
@[simp] theorem Thread.setC15_vregs (h : Thread) (b : Bool) : (h.setC15 b).vregs = h.vregs := rfl
@[simp] theorem Thread.setC15_rmode (h : Thread) (b : Bool) : (h.setC15 b).rmode = h.rmode := rfl
@[simp] theorem Thread.setC15_fflags (h : Thread) (b : Bool) : (h.setC15 b).fflags = h.fflags := rfl
@[simp] theorem Thread.setC15_seed (h : Thread) (b : Bool) : (h.setC15 b).seed = h.seed := rfl
@[simp] theorem Thread.setC15_tcause (h : Thread) (b : Bool) : (h.setC15 b).tcause = h.tcause := rfl
@[simp] theorem Thread.setC15_taddr (h : Thread) (b : Bool) : (h.setC15 b).taddr = h.taddr := rfl
@[simp] theorem Thread.setC15_tinfo (h : Thread) (b : Bool) : (h.setC15 b).tinfo = h.tinfo := rfl
@[simp] theorem Thread.setC15_scopeclamp (h : Thread) (b : Bool) : (h.setC15 b).scopeclamp = h.scopeclamp := rfl
@[simp] theorem Thread.setC15_predmiss (h : Thread) (b : Bool) : (h.setC15 b).predmiss = h.predmiss := rfl
@[simp] theorem Thread.setC15_tkstate (h : Thread) (b : Bool) : (h.setC15 b).tkstate = h.tkstate := rfl
@[simp] theorem Thread.setC15_rcount (h : Thread) (b : Bool) : (h.setC15 b).rcount = h.rcount := rfl
@[simp] theorem Thread.setC15_dcount (h : Thread) (b : Bool) : (h.setC15 b).dcount = h.dcount := rfl
@[simp] theorem Thread.setC15_latch (h : Thread) (b : Bool) : (h.setC15 b).latch = h.latch := rfl
@[simp] theorem Thread.setC15_jobNext (h : Thread) (b : Bool) : (h.setC15 b).jobNext = h.jobNext := rfl
@[simp] theorem Thread.setC15_since (h : Thread) (b : Bool) : (h.setC15 b).since = h.since := rfl
@[simp] theorem Thread.setC15_retained (h : Thread) (b : Bool) : (h.setC15 b).retained = h.retained := rfl
@[simp] theorem Thread.setC15_absent (h : Thread) (b : Bool) : (h.setC15 b).absent = h.absent := rfl
@[simp] theorem Thread.setC15_tickets (h : Thread) (b : Bool) : (h.setC15 b).tickets = h.tickets := rfl
@[simp] theorem Thread.setC15_role (h : Thread) (b : Bool) : (h.setC15 b).role = h.role := rfl

@[simp] theorem Thread.setQ_id (h : Thread) (n : BitVec 3) (v : Word) : (h.setQ n v).id = h.id := rfl
@[simp] theorem Thread.setQ_life (h : Thread) (n : BitVec 3) (v : Word) : (h.setQ n v).life = h.life := rfl
@[simp] theorem Thread.setQ_s (h : Thread) (n : BitVec 3) (v : Word) : (h.setQ n v).s = h.s := rfl
@[simp] theorem Thread.setQ_v (h : Thread) (n : BitVec 3) (v : Word) : (h.setQ n v).v = h.v := rfl
@[simp] theorem Thread.setQ_p (h : Thread) (n : BitVec 3) (v : Word) : (h.setQ n v).p = h.p := rfl
@[simp] theorem Thread.setQ_c (h : Thread) (n : BitVec 3) (v : Word) : (h.setQ n v).c = h.c := rfl
@[simp] theorem Thread.setQ_a (h : Thread) (n : BitVec 3) (v : Word) : (h.setQ n v).a = h.a := rfl
@[simp] theorem Thread.setQ_pc (h : Thread) (n : BitVec 3) (v : Word) : (h.setQ n v).pc = h.pc := rfl
@[simp] theorem Thread.setQ_nthreads (h : Thread) (n : BitVec 3) (v : Word) : (h.setQ n v).nthreads = h.nthreads := rfl
@[simp] theorem Thread.setQ_core (h : Thread) (n : BitVec 3) (v : Word) : (h.setQ n v).core = h.core := rfl
@[simp] theorem Thread.setQ_cluster (h : Thread) (n : BitVec 3) (v : Word) : (h.setQ n v).cluster = h.cluster := rfl
@[simp] theorem Thread.setQ_seat (h : Thread) (n : BitVec 3) (v : Word) : (h.setQ n v).seat = h.seat := rfl
@[simp] theorem Thread.setQ_vregs (h : Thread) (n : BitVec 3) (v : Word) : (h.setQ n v).vregs = h.vregs := rfl
@[simp] theorem Thread.setQ_rmode (h : Thread) (n : BitVec 3) (v : Word) : (h.setQ n v).rmode = h.rmode := rfl
@[simp] theorem Thread.setQ_fflags (h : Thread) (n : BitVec 3) (v : Word) : (h.setQ n v).fflags = h.fflags := rfl
@[simp] theorem Thread.setQ_seed (h : Thread) (n : BitVec 3) (v : Word) : (h.setQ n v).seed = h.seed := rfl
@[simp] theorem Thread.setQ_tcause (h : Thread) (n : BitVec 3) (v : Word) : (h.setQ n v).tcause = h.tcause := rfl
@[simp] theorem Thread.setQ_taddr (h : Thread) (n : BitVec 3) (v : Word) : (h.setQ n v).taddr = h.taddr := rfl
@[simp] theorem Thread.setQ_tinfo (h : Thread) (n : BitVec 3) (v : Word) : (h.setQ n v).tinfo = h.tinfo := rfl
@[simp] theorem Thread.setQ_scopeclamp (h : Thread) (n : BitVec 3) (v : Word) : (h.setQ n v).scopeclamp = h.scopeclamp := rfl
@[simp] theorem Thread.setQ_predmiss (h : Thread) (n : BitVec 3) (v : Word) : (h.setQ n v).predmiss = h.predmiss := rfl
@[simp] theorem Thread.setQ_tkstate (h : Thread) (n : BitVec 3) (v : Word) : (h.setQ n v).tkstate = h.tkstate := rfl
@[simp] theorem Thread.setQ_rcount (h : Thread) (n : BitVec 3) (v : Word) : (h.setQ n v).rcount = h.rcount := rfl
@[simp] theorem Thread.setQ_dcount (h : Thread) (n : BitVec 3) (v : Word) : (h.setQ n v).dcount = h.dcount := rfl
@[simp] theorem Thread.setQ_latch (h : Thread) (n : BitVec 3) (v : Word) : (h.setQ n v).latch = h.latch := rfl
@[simp] theorem Thread.setQ_jobNext (h : Thread) (n : BitVec 3) (v : Word) : (h.setQ n v).jobNext = h.jobNext := rfl
@[simp] theorem Thread.setQ_since (h : Thread) (n : BitVec 3) (v : Word) : (h.setQ n v).since = h.since := rfl
@[simp] theorem Thread.setQ_retained (h : Thread) (n : BitVec 3) (v : Word) : (h.setQ n v).retained = h.retained := rfl
@[simp] theorem Thread.setQ_absent (h : Thread) (n : BitVec 3) (v : Word) : (h.setQ n v).absent = h.absent := rfl
@[simp] theorem Thread.setQ_tickets (h : Thread) (n : BitVec 3) (v : Word) : (h.setQ n v).tickets = h.tickets := rfl
@[simp] theorem Thread.setQ_role (h : Thread) (n : BitVec 3) (v : Word) : (h.setQ n v).role = h.role := rfl

@[simp] theorem Thread.setV_id (h : Thread) (n : BitVec 5) (v : VWord) : (h.setV n v).id = h.id := rfl
@[simp] theorem Thread.setV_life (h : Thread) (n : BitVec 5) (v : VWord) : (h.setV n v).life = h.life := rfl
@[simp] theorem Thread.setV_s (h : Thread) (n : BitVec 5) (v : VWord) : (h.setV n v).s = h.s := rfl
@[simp] theorem Thread.setV_p (h : Thread) (n : BitVec 5) (v : VWord) : (h.setV n v).p = h.p := rfl
@[simp] theorem Thread.setV_c (h : Thread) (n : BitVec 5) (v : VWord) : (h.setV n v).c = h.c := rfl
@[simp] theorem Thread.setV_a (h : Thread) (n : BitVec 5) (v : VWord) : (h.setV n v).a = h.a := rfl
@[simp] theorem Thread.setV_q (h : Thread) (n : BitVec 5) (v : VWord) : (h.setV n v).q = h.q := rfl
@[simp] theorem Thread.setV_pc (h : Thread) (n : BitVec 5) (v : VWord) : (h.setV n v).pc = h.pc := rfl
@[simp] theorem Thread.setV_nthreads (h : Thread) (n : BitVec 5) (v : VWord) : (h.setV n v).nthreads = h.nthreads := rfl
@[simp] theorem Thread.setV_core (h : Thread) (n : BitVec 5) (v : VWord) : (h.setV n v).core = h.core := rfl
@[simp] theorem Thread.setV_cluster (h : Thread) (n : BitVec 5) (v : VWord) : (h.setV n v).cluster = h.cluster := rfl
@[simp] theorem Thread.setV_seat (h : Thread) (n : BitVec 5) (v : VWord) : (h.setV n v).seat = h.seat := rfl
@[simp] theorem Thread.setV_vregs (h : Thread) (n : BitVec 5) (v : VWord) : (h.setV n v).vregs = h.vregs := rfl
@[simp] theorem Thread.setV_rmode (h : Thread) (n : BitVec 5) (v : VWord) : (h.setV n v).rmode = h.rmode := rfl
@[simp] theorem Thread.setV_fflags (h : Thread) (n : BitVec 5) (v : VWord) : (h.setV n v).fflags = h.fflags := rfl
@[simp] theorem Thread.setV_seed (h : Thread) (n : BitVec 5) (v : VWord) : (h.setV n v).seed = h.seed := rfl
@[simp] theorem Thread.setV_tcause (h : Thread) (n : BitVec 5) (v : VWord) : (h.setV n v).tcause = h.tcause := rfl
@[simp] theorem Thread.setV_taddr (h : Thread) (n : BitVec 5) (v : VWord) : (h.setV n v).taddr = h.taddr := rfl
@[simp] theorem Thread.setV_tinfo (h : Thread) (n : BitVec 5) (v : VWord) : (h.setV n v).tinfo = h.tinfo := rfl
@[simp] theorem Thread.setV_scopeclamp (h : Thread) (n : BitVec 5) (v : VWord) : (h.setV n v).scopeclamp = h.scopeclamp := rfl
@[simp] theorem Thread.setV_predmiss (h : Thread) (n : BitVec 5) (v : VWord) : (h.setV n v).predmiss = h.predmiss := rfl
@[simp] theorem Thread.setV_tkstate (h : Thread) (n : BitVec 5) (v : VWord) : (h.setV n v).tkstate = h.tkstate := rfl
@[simp] theorem Thread.setV_rcount (h : Thread) (n : BitVec 5) (v : VWord) : (h.setV n v).rcount = h.rcount := rfl
@[simp] theorem Thread.setV_dcount (h : Thread) (n : BitVec 5) (v : VWord) : (h.setV n v).dcount = h.dcount := rfl
@[simp] theorem Thread.setV_latch (h : Thread) (n : BitVec 5) (v : VWord) : (h.setV n v).latch = h.latch := rfl
@[simp] theorem Thread.setV_jobNext (h : Thread) (n : BitVec 5) (v : VWord) : (h.setV n v).jobNext = h.jobNext := rfl
@[simp] theorem Thread.setV_since (h : Thread) (n : BitVec 5) (v : VWord) : (h.setV n v).since = h.since := rfl
@[simp] theorem Thread.setV_retained (h : Thread) (n : BitVec 5) (v : VWord) : (h.setV n v).retained = h.retained := rfl
@[simp] theorem Thread.setV_absent (h : Thread) (n : BitVec 5) (v : VWord) : (h.setV n v).absent = h.absent := rfl
@[simp] theorem Thread.setV_tickets (h : Thread) (n : BitVec 5) (v : VWord) : (h.setV n v).tickets = h.tickets := rfl
@[simp] theorem Thread.setV_role (h : Thread) (n : BitVec 5) (v : VWord) : (h.setV n v).role = h.role := rfl

@[simp] theorem Thread.raise_id (h : Thread) (g : Flags) : (h.raise g).id = h.id := rfl
@[simp] theorem Thread.raise_life (h : Thread) (g : Flags) : (h.raise g).life = h.life := rfl
@[simp] theorem Thread.raise_s (h : Thread) (g : Flags) : (h.raise g).s = h.s := rfl
@[simp] theorem Thread.raise_v (h : Thread) (g : Flags) : (h.raise g).v = h.v := rfl
@[simp] theorem Thread.raise_p (h : Thread) (g : Flags) : (h.raise g).p = h.p := rfl
@[simp] theorem Thread.raise_c (h : Thread) (g : Flags) : (h.raise g).c = h.c := rfl
@[simp] theorem Thread.raise_a (h : Thread) (g : Flags) : (h.raise g).a = h.a := rfl
@[simp] theorem Thread.raise_q (h : Thread) (g : Flags) : (h.raise g).q = h.q := rfl
@[simp] theorem Thread.raise_pc (h : Thread) (g : Flags) : (h.raise g).pc = h.pc := rfl
@[simp] theorem Thread.raise_nthreads (h : Thread) (g : Flags) : (h.raise g).nthreads = h.nthreads := rfl
@[simp] theorem Thread.raise_core (h : Thread) (g : Flags) : (h.raise g).core = h.core := rfl
@[simp] theorem Thread.raise_cluster (h : Thread) (g : Flags) : (h.raise g).cluster = h.cluster := rfl
@[simp] theorem Thread.raise_seat (h : Thread) (g : Flags) : (h.raise g).seat = h.seat := rfl
@[simp] theorem Thread.raise_vregs (h : Thread) (g : Flags) : (h.raise g).vregs = h.vregs := rfl
@[simp] theorem Thread.raise_rmode (h : Thread) (g : Flags) : (h.raise g).rmode = h.rmode := rfl
@[simp] theorem Thread.raise_seed (h : Thread) (g : Flags) : (h.raise g).seed = h.seed := rfl
@[simp] theorem Thread.raise_tcause (h : Thread) (g : Flags) : (h.raise g).tcause = h.tcause := rfl
@[simp] theorem Thread.raise_taddr (h : Thread) (g : Flags) : (h.raise g).taddr = h.taddr := rfl
@[simp] theorem Thread.raise_tinfo (h : Thread) (g : Flags) : (h.raise g).tinfo = h.tinfo := rfl
@[simp] theorem Thread.raise_scopeclamp (h : Thread) (g : Flags) : (h.raise g).scopeclamp = h.scopeclamp := rfl
@[simp] theorem Thread.raise_predmiss (h : Thread) (g : Flags) : (h.raise g).predmiss = h.predmiss := rfl
@[simp] theorem Thread.raise_tkstate (h : Thread) (g : Flags) : (h.raise g).tkstate = h.tkstate := rfl
@[simp] theorem Thread.raise_rcount (h : Thread) (g : Flags) : (h.raise g).rcount = h.rcount := rfl
@[simp] theorem Thread.raise_dcount (h : Thread) (g : Flags) : (h.raise g).dcount = h.dcount := rfl
@[simp] theorem Thread.raise_latch (h : Thread) (g : Flags) : (h.raise g).latch = h.latch := rfl
@[simp] theorem Thread.raise_jobNext (h : Thread) (g : Flags) : (h.raise g).jobNext = h.jobNext := rfl
@[simp] theorem Thread.raise_since (h : Thread) (g : Flags) : (h.raise g).since = h.since := rfl
@[simp] theorem Thread.raise_retained (h : Thread) (g : Flags) : (h.raise g).retained = h.retained := rfl
@[simp] theorem Thread.raise_absent (h : Thread) (g : Flags) : (h.raise g).absent = h.absent := rfl
@[simp] theorem Thread.raise_tickets (h : Thread) (g : Flags) : (h.raise g).tickets = h.tickets := rfl
@[simp] theorem Thread.raise_role (h : Thread) (g : Flags) : (h.raise g).role = h.role := rfl

@[simp] theorem Thread.raise_fflags (h : Thread) (g : Flags) : (h.raise g).fflags = h.fflags ||| g := rfl

/-! ### Registers read after they are written (R40) -/

@[simp] theorem Thread.sreg_zero (h : Thread) : h.sreg 0 = 0 := rfl

theorem Thread.sreg_setS_same (h : Thread) (n : BitVec 5) (v : Word) :
    (h.setS n v).sreg n = if n = 0 then 0 else v := by
  unfold Thread.sreg Thread.setS
  by_cases hn : n = 0#5
  · simp [hn]
  · simp [hn]

theorem Thread.sreg_setS_ne (h : Thread) (n m : BitVec 5) (v : Word) (hne : m ≠ n) :
    (h.setS n v).sreg m = h.sreg m := by
  unfold Thread.sreg Thread.setS
  by_cases hn : n = 0#5
  · simp [hn]
  · by_cases hm : m = 0#5
    · simp [hm]
    · have : n.toNat ≠ m.toNat := fun e => hne (BitVec.eq_of_toNat_eq e.symm)
      simp [hn, hm, Vector.getElem_set_ne, this]

theorem Thread.preg_setP_same (h : Thread) (n : BitVec 3) (v : Word) :
    (h.setP n v).preg n = if n = 0 then BitVec.allOnes 64 else v := by
  unfold Thread.preg Thread.setP
  by_cases hn : n = 0#3
  · simp [hn]
  · simp [hn]

theorem Thread.preg_setP_ne (h : Thread) (n m : BitVec 3) (v : Word) (hne : m ≠ n) :
    (h.setP n v).preg m = h.preg m := by
  unfold Thread.preg Thread.setP
  by_cases hn : n = 0#3
  · simp [hn]
  · by_cases hm : m = 0#3
    · simp [hm]
    · have : n.toNat ≠ m.toNat := fun e => hne (BitVec.eq_of_toNat_eq e.symm)
      simp [hn, hm, Vector.getElem_set_ne, this]

theorem Thread.vreg_setV_same (h : Thread) (n : BitVec 5) (v : VWord) : (h.setV n v).vreg n = v := by
  simp [Thread.vreg, Thread.setV]

theorem Thread.vreg_setV_ne (h : Thread) (n m : BitVec 5) (v : VWord) (hne : m ≠ n) :
    (h.setV n v).vreg m = h.vreg m := by
  have : n.toNat ≠ m.toNat := fun e => hne (BitVec.eq_of_toNat_eq e.symm)
  simp [Thread.vreg, Thread.setV, Vector.getElem_set_ne, this]

theorem Thread.qreg_setQ_same (h : Thread) (n : BitVec 3) (v : Word) : (h.setQ n v).qreg n = v := by
  simp [Thread.qreg, Thread.setQ]

theorem Thread.qreg_setQ_ne (h : Thread) (n m : BitVec 3) (v : Word) (hne : m ≠ n) :
    (h.setQ n v).qreg m = h.qreg m := by
  have : n.toNat ≠ m.toNat := fun e => hne (BitVec.eq_of_toNat_eq e.symm)
  simp [Thread.qreg, Thread.setQ, Vector.getElem_set_ne, this]

/-- A written condition bit, and every other one. -/
theorem Thread.cbit_setCbit (h : Thread) (n m : Nat) (b : Bool) (hn : n < 16) :
    (h.setCbit n b).cbit m = if m = n then b else h.cbit m := by
  unfold Thread.cbit Thread.setCbit
  by_cases hm : m < 16
  · cases b <;> by_cases e : m = n <;> simp [e, hm, hn] <;> omega
  · have : m ≠ n := by omega
    cases b <;> simp [this, BitVec.getLsbD_of_ge, hm, Nat.not_lt.mp hm]

end Sys2Proof.Machine
end

