-- ==== Sys2Proof/Laws/Ops.lean ====
section
/-! SUPPORT. One lemma per shared operation: everything it can do. -/

namespace Sys2Proof.Machine

/-- R49: a scalar-tested instruction whose guard passes acts. -/
theorem scalar_pass (g : Guard) (s : State) (f : State → Result) (h : s.cur.guardOk g = true) :
    scalar g s f = f s := by simp [scalar, h]

/-- R49: a scalar-tested instruction whose guard fails moves on. -/
theorem scalar_fail (g : Guard) (s : State) (f : State → Result) (h : s.cur.guardOk g = false) :
    scalar g s f = .next s.advance := by simp [scalar, h]

/-- R57 step 4: every vector register is allocated. -/
theorem alloc_pass (c : Code) (s : State) (f : State → Result) (h : badVreg c s.cur.vregs = none) :
    alloc c s f = f s := by simp [alloc, h]

/-- R57 step 4: a register at or above %vregs traps. -/
theorem alloc_trap (c : Code) (s : State) (f : State → Result) (n : Nat) (h : badVreg c s.cur.vregs = some n) :
    alloc c s f = .next (trapHere 0x03 (BitVec.ofNat 64 n) s) := by simp [alloc, h]

/-- A word of no vector operand passes step 4. -/
theorem badVreg_of_vecs_nil (c : Code) (n : Nat) (h : c.vecs = []) : badVreg c n = none := by simp [badVreg, h]

/-! ### A fault's record leaves registers, and memory but for the task's image -/

/-- What every step of a fold keeps, the fold keeps. -/
theorem foldl_keeps {α β γ : Type} (p : α → γ) (f : α → β → α) (h : ∀ a b, p (f a b) = p a) :
    ∀ (bs : List β) (a : α), p (bs.foldl f a) = p a
  | [], _ => rfl
  | b :: bs, a => by rw [List.foldl_cons, foldl_keeps p f h bs, h]

@[simp] theorem State.countSent_cur (n : Nat) (s : State) : (s.countSent n).cur = s.cur := rfl
@[simp] theorem State.countSent_mem (n : Nat) (s : State) : (s.countSent n).mem = s.mem := rfl

@[simp] theorem State.modRing_cur (n : Nat) (b : Bool) (f : Ring → Ring) (s : State) : (s.modRing n b f).cur = s.cur := by
  unfold State.modRing
  split <;> rfl

@[simp] theorem State.modRing_mem (n : Nat) (b : Bool) (f : Ring → Ring) (s : State) : (s.modRing n b f).mem = s.mem := by
  unfold State.modRing
  split <;> rfl

@[simp] theorem State.ringWrite_cur (p : Nat) (b : Bool) (r : BitVec 256) (s : State) :
    (s.ringWrite p b r).cur = s.cur := by
  unfold State.ringWrite
  split
  · rfl
  · simp only [State.countSent_cur, State.modRing_cur]
    split <;> rfl

@[simp] theorem State.ringWrite_mem (p : Nat) (b : Bool) (r : BitVec 256) (s : State) :
    (s.ringWrite p b r).mem = s.mem := by
  unfold State.ringWrite
  split
  · rfl
  · simp only [State.countSent_mem, State.modRing_mem]
    split <;> rfl

@[simp] theorem State.sendTerminal_cur (n : Nat) (r : BitVec 256) (s : State) : (s.sendTerminal n r).cur = s.cur := by
  unfold State.sendTerminal
  repeat' (first | rfl | simp | split)

@[simp] theorem State.sendTerminal_mem (n : Nat) (r : BitVec 256) (s : State) : (s.sendTerminal n r).mem = s.mem := by
  unfold State.sendTerminal
  repeat' (first | rfl | simp | split)

@[simp] theorem State.record_cur (r : Record) (s : State) : (s.record r).cur = s.cur := by
  unfold State.record
  split
  · rfl
  · dsimp only
    split <;> try split
    all_goals simp

@[simp] theorem State.record_mem (r : Record) (s : State) : (s.record r).mem = s.mem := by
  unfold State.record
  split
  · rfl
  · dsimp only
    split <;> try split
    all_goals simp

@[simp] theorem State.retag_cur (g l : Nat) (s : State) : (s.retag g l).cur = s.cur := by
  unfold State.retag
  dsimp only
  split <;> rfl

@[simp] theorem State.physWrite_cur (s : State) (g pa : Nat) (bs : List Byte) : (s.physWrite g pa bs).cur = s.cur := by
  unfold State.physWrite
  dsimp only
  split
  · rfl
  · exact foldl_keeps State.cur _ (fun s l => State.retag_cur _ l s) _ _

@[simp] theorem State.homePut_cur (n : Nat) (x : Home) (bs : List Byte) (s : State) :
    (s.homePut n x bs).cur = s.cur := by
  unfold State.homePut
  split
  · simp
  · rfl
  · unfold State.phyWrite
    split <;> rfl
  · rfl

@[simp] theorem State.homeWrites_cur (k : CtxId) (cl : Nat) (ws : List (Nat × List Byte)) (s : State) :
    (s.homeWrites k cl ws).cur = s.cur := by
  unfold State.homeWrites
  exact foldl_keeps State.cur _ (fun t p => by split <;> simp) _ _

@[simp] theorem State.writeBack_cur (k : TaskId) (s : State) : (s.writeBack k).cur = s.cur := by
  unfold State.writeBack
  repeat' (first | rfl | simp | split)

@[simp] theorem State.terminal_cur (k : TaskId) (c : Nat) (r : Record) (s : State) : (s.terminal k c r).cur = s.cur := by
  unfold State.terminal
  dsimp only
  repeat' (first | rfl | simp | split)

@[simp] theorem State.deviceFault_cur (k : TaskId) (c a : Nat) (b : Bool) (s : State) :
    (s.deviceFault k c a b).cur = s.cur := by
  unfold State.deviceFault
  simp

/-- R220: the registers of a thread that takes a trap. -/
theorem takeTrapAs_cur (mem : Bool) (cause : Nat) (taddr tinfo : Word) (st2 : Bool) (s : State) :
    (takeTrapAs mem cause taddr tinfo st2 s).cur = { s.cur with
      tcause := BitVec.ofNat 64 cause, taddr := taddr, tinfo := tinfo, life := .here .parked } := by
  unfold takeTrapAs
  dsimp only
  split
  · simp
  · split
    · simp
    · split <;> simp

/-- R220: a trap that parks a core's thread leaves memory; a terminal one writes its task's image (R153). -/
theorem takeTrapAs_mem (mem : Bool) (cause : Nat) (taddr tinfo : Word) (st2 : Bool) (s : State)
    (hr : s.cur.role = none) (hd : disposition cause ≠ 2) : (takeTrapAs mem cause taddr tinfo st2 s).mem = s.mem := by
  unfold takeTrapAs
  simp only [hr, Option.isSome_none, Bool.false_eq_true, if_false, beq_iff_eq, hd]
  split <;> simp

/-! ### Accesses -/

/-- R194, R181: an access whose elements pass every check and meet no held range acts. -/
theorem memAccess_pass (spc : Space) (u : Use) (align : Nat) (es : List Elt) (s : State) (f : State → Result)
    (h1 : s.firstStop u spc align es = none) (h2 : ∀ r, s.spanHeld r = false) :
    memAccess spc u align es s f = f s := by
  unfold memAccess
  rw [h1]
  have : es.find? (fun e => s.spanHeld ⟨spc, e.a, e.n⟩) = none := by
    simp [List.find?_eq_none, h2]
  simp [this]

/-- R194: an element that fails a check stops the access. -/
theorem memAccess_stop (spc : Space) (u : Use) (align : Nat) (es : List Elt) (s : State) (f : State → Result)
    (i : Nat) (st : Stop) (h : s.firstStop u spc align es = some (i, st)) :
    memAccess spc u align es s f = s.raiseStop spc u.writes i st := by
  simp [memAccess, h]

/-- What an on-chip element is checked for (R194 steps 1, 2 and 5). -/
theorem eltStop_chip (s : State) (u : Use) (spc c : Space) (align : Nat) (e : Elt) (hv : s.view spc e.a e.n = .chip c)
    (ha : e.a % align = 0) (hl : e.a + e.n ≤ s.cur.limit c) (hb : s.chipBad c u e.a e.n = none) :
    s.eltStop u spc align e = none := by
  unfold State.eltStop
  simp [ha, hv, Nat.not_lt.mpr hl, hb]

theorem firstStop_one (s : State) (u : Use) (spc : Space) (align : Nat) (e : Elt) (h : s.eltStop u spc align e = none) :
    s.firstStop u spc align [e] = none := by
  simp [State.firstStop, h]

/-- An on-chip space is reached by a core's thread at once. -/
theorem view_chip (s : State) (spc : Space) (a n : Nat) (hc : isChip spc = true)
    (hr : s.cur.role = none ∨ spc = .tcm) : s.view spc a n = .chip spc := by
  unfold State.view
  rcases hr with hr | rfl
  · simp [hr, hc]
  · cases s.cur.role <;> simp [isChip]

/-- R237, R238: a command that nothing makes wait is launched. -/
theorem issue_go (j : Job) (dst : BitVec 5) (s : State) (h : s.commandWait j = none) :
    issue j dst s = .next (s.launch j dst) := by simp [issue, h]

/-- A command that must wait leaves the thread WAITING to issue it again. -/
theorem issue_wait (j : Job) (dst : BitVec 5) (s : State) (c : Cond) (h : s.commandWait j = some c) :
    issue j dst s = .next (s.waitFor c) := by simp [issue, h]

/-! ### The causes of a translation (R229) -/

/-- The causes that a walk and what stands behind it can end in. -/
def XFault.ordinary (f : XFault) : Prop :=
  match f with
  | .trap c _ => c = 0x09 ∨ c = 0x0A ∨ c = 0x0C
  | _ => True

@[simp] theorem XFault.ordinary_9 (b : Bool) : (XFault.trap 0x09 b).ordinary := .inl rfl
@[simp] theorem XFault.ordinary_A (b : Bool) : (XFault.trap 0x0A b).ordinary := .inr (.inl rfl)
@[simp] theorem XFault.ordinary_C (b : Bool) : (XFault.trap 0x0C b).ordinary := .inr (.inr rfl)

theorem walkGo_cause (read : Nat → Except XFault Nat) (st2 : Bool) (va : Nat)
    (hr : ∀ a f, read a = .error f → f.ordinary) :
    ∀ n table f, walkGo read st2 va n table = .error f → f.ordinary := by
  intro n
  induction n with
  | zero => intro t f h; cases h; simp
  | succ n ih =>
    intro t f h
    unfold walkGo at h
    split at h
    · rename_i he; cases h; exact hr _ _ he
    · repeat' split at h
      all_goals first
        | exact ih _ _ h
        | (cases h; done)
        | (cases h; simp)

theorem physCheck_cause (s : State) (pa : Nat) (f : XFault) (h : s.physCheck pa = some f) : f.ordinary := by
  unfold State.physCheck at h
  repeat' split at h
  all_goals first
    | (simp at h; done)
    | (simp at h; subst h; simp [XFault.ordinary])

theorem stage2_cause (s : State) (c : Context) (ia : Nat) (f : XFault) (h : s.stage2 c ia = .error f) : f.ordinary := by
  refine walkGo_cause _ _ _ ?_ _ _ _ h
  intro a f h
  unfold State.readS2 at h
  split at h
  · simp at h; subst h; exact physCheck_cause _ _ _ ‹_›
  · split at h <;> cases h
    simp

theorem hostPage_cause (c : Context) (page : Nat) (a : Acc) (f : XFault)
    (h : c.hostPage page a = .error f) : f.ordinary := by
  unfold Context.hostPage at h
  split at h
  · cases h; trivial
  · split at h
    · cases h; simp
    · cases a <;> dsimp only at h <;> split at h <;> cases h <;> simp

theorem readS1_cause (s : State) (part : Nat) (c : Context) (ia : Nat) (f : XFault)
    (h : s.readS1 part c ia = .error f) : f.ordinary := by
  unfold State.readS1 at h
  split at h
  · rename_i he; cases h; exact stage2_cause _ _ _ _ he
  · split at h
    · cases h; simp
    · dsimp only at h
      split at h
      · rename_i off _
        rcases hp : c.hostPage (off / 4096) .rd with e | v
        · rw [hp] at h; cases h; exact hostPage_cause _ _ _ _ hp
        · rw [hp] at h; cases h
      · split at h
        · rename_i he; cases h; exact physCheck_cause _ _ _ he
        · repeat' split at h
          all_goals (cases h <;> first | trivial | simp)

theorem walk_cause (s : State) (part : Nat) (c : Context) (cluster va : Nat) (a : Acc) (f : XFault)
    (h : s.walk part c cluster va a = .error f) : f.ordinary := by
  unfold State.walk at h
  split at h
  · rename_i he
    cases h
    exact walkGo_cause _ _ _ (readS1_cause s part c) _ _ _ he
  · split at h
    · cases h; simp
    · split at h
      · rename_i he; cases h; exact stage2_cause _ _ _ _ he
      · repeat' split at h
        all_goals (cases h <;> first | trivial | simp)

theorem lookupTlb_cause (s : State) (part : Nat) (c : Context) (cluster va : Nat) (a : Acc) (f : XFault)
    (h : s.lookupTlb part c cluster va a = .error f) : f.ordinary := by
  unfold State.lookupTlb at h
  split at h
  · cases h
  · split at h
    · rename_i he; cases h; exact walk_cause _ _ _ _ _ _ _ he
    · cases h

/-- A translation that stops an access with a trap stops it with 0x09, 0x0A or 0x0C. -/
theorem xlate_cause (s : State) (k : CtxId) (cluster va : Nat) (a : Acc) (cause : Nat) (st2 : Bool)
    (h : s.xlate k cluster va a = .error (.trap cause st2)) : cause = 0x09 ∨ cause = 0x0A ∨ cause = 0x0C := by
  suffices key : ∀ f, s.xlate k cluster va a = .error f → f.ordinary from key _ h
  intro f h
  unfold State.xlate at h
  split at h
  · cases h; simp
  · split at h
    · cases h; simp
    · split at h
      · rename_i he; cases h; exact lookupTlb_cause _ _ _ _ _ _ _ he
      · dsimp only at h
        split at h
        · cases h
        · split at h
          · cases h; simp
          · split at h
            · repeat' split at h
              all_goals (cases h <;> first | trivial | simp)
            · cases h
            · split at h <;> cases h
              trivial
            · split at h
              · rename_i he; cases h; exact hostPage_cause _ _ _ _ he
              · cases h

end Sys2Proof.Machine
end

