-- ==== Sys2Proof/Laws/PerInstr.lean ====
section
/-! SUPPORT. One lemma for each instruction: its word carries an opcode that R58's map defines; an event of the
device has no word. -/

namespace Sys2Proof.Laws

open Sys2Proof.Machine

/-! ### The top bits of a word -/

theorem guard_enc_lt (g : Guard) : g.enc < 16 := by
  have := g.p.isLt
  unfold Guard.enc
  split <;> omega

theorem opnd_enc_lt (o : Opnd) : o.enc < 256 := by
  cases o with
  | reg n => have := n.isLt; simp only [Opnd.enc]; omega
  | inc q => have := q.isLt; simp only [Opnd.enc]; omega
  | str q => have := q.isLt; simp only [Opnd.enc]; omega

theorem ty_num_lt (t : Ty) : t.num < 16 := by cases t <;> decide

theorem clamp_enc_lt (c : Clamp) : c.enc < 4 := by cases c <;> decide

theorem mod_enc_lt (m : SrcMod) : m.enc < 4 := by
  unfold SrcMod.enc
  split <;> split <;> omega

theorem space_enc_lt (x : Space) : x.enc < 4 := by cases x <;> decide

theorem order_enc_lt (x : Order) : x.enc < 4 := by cases x <;> decide

theorem scope_enc_lt (x : Scope) : x.enc < 4 := by cases x <;> decide

/-- Class and opcode of a code (R45). -/
def codeTop (c : Code) : Nat × Nat :=
  match c with
  | .reg op _ => (0, op)
  | .imm op _ => (1, op)
  | .mem op _ => (2, op)
  | .ctl op _ => (3, op)

theorem word_top (c : Code) (h : (codeTop c).2 < 1024) :
    c.word.toNat / 2 ^ 52 = (codeTop c).1 * 1024 + (codeTop c).2 := by
  cases c with
  | reg op x =>
    have := guard_enc_lt x.g; have := ty_num_lt x.t; have := opnd_enc_lt x.dst; have := clamp_enc_lt x.clamp
    have := x.scale.isLt; have := opnd_enc_lt x.s1; have := opnd_enc_lt x.s2; have := opnd_enc_lt x.s3
    have := mod_enc_lt x.m1; have := mod_enc_lt x.m2; have := mod_enc_lt x.m3
    simp only [codeTop] at h ⊢
    simp only [Code.word, BitVec.toNat_ofNat]
    omega
  | imm op x =>
    have := guard_enc_lt x.g; have := ty_num_lt x.t; have := opnd_enc_lt x.dst; have := opnd_enc_lt x.src
    have := x.imm.isLt
    simp only [codeTop] at h ⊢
    simp only [Code.word, BitVec.toNat_ofNat]
    omega
  | mem op x =>
    have := guard_enc_lt x.g; have := ty_num_lt x.t; have := opnd_enc_lt x.data; have := opnd_enc_lt x.base
    have := x.off.isLt; have := space_enc_lt x.space; have := order_enc_lt x.order; have := scope_enc_lt x.scope
    simp only [codeTop] at h ⊢
    simp only [Code.word, BitVec.toNat_ofNat]
    omega
  | ctl op x =>
    have := guard_enc_lt x.g; have := x.table.isLt; have := x.key.isLt; have := x.ind.isLt; have := x.subop.isLt
    simp only [codeTop] at h ⊢
    simp only [Code.word, BitVec.toNat_ofNat]
    omega

/-- The class and the opcode of a word are those of its code. -/
theorem word_fields (c : Code) (h : (codeTop c).2 < 1024) :
    (c.word.extractLsb' 62 2).toNat = (codeTop c).1 ∧ (c.word.extractLsb' 52 10).toNat = (codeTop c).2 := by
  have ht := word_top c h
  have hc : (codeTop c).1 < 4 := by cases c <;> simp [codeTop]
  simp only [BitVec.extractLsb'_toNat, Nat.shiftRight_eq_div_pow]
  omega

/-! ### The family -/

namespace Encodes

/-- The word of an instruction, if it has one, carries an opcode of R58's map. -/
def Statement (i : Instr) : Prop :=
  ∀ w, encode i = some w → definedOpcode (w.extractLsb' 62 2).toNat (w.extractLsb' 52 10).toNat = true

theorem of_code {i : Instr} (c : Code) (n : Nat × Nat) (h : i.code = some c) (hn : codeTop c = n)
    (hop : n.2 < 1024) (hd : definedOpcode n.1 n.2 = true) : Statement i := by
  subst hn
  intro w hw
  have hw' : c.word = w := by simpa [encode, h] using hw
  have ht := word_fields c hop
  rw [← hw', ht.1, ht.2]
  exact hd

theorem of_event {i : Instr} (h : i.code = none) : Statement i := by
  intro w hw
  simp [encode, h] at hw

theorem add (x : RegForm) : Statement (.add x) := of_code (.reg 0x001 x) (0, 0x001) rfl rfl (by decide) (by decide)
theorem sub (x : RegForm) : Statement (.sub x) := of_code (.reg 0x002 x) (0, 0x002) rfl rfl (by decide) (by decide)
theorem mul (x : RegForm) : Statement (.mul x) := of_code (.reg 0x003 x) (0, 0x003) rfl rfl (by decide) (by decide)
theorem mulh (x : RegForm) : Statement (.mulh x) := of_code (.reg 0x004 x) (0, 0x004) rfl rfl (by decide) (by decide)
theorem div (x : RegForm) : Statement (.div x) := of_code (.reg 0x005 x) (0, 0x005) rfl rfl (by decide) (by decide)
theorem rem (x : RegForm) : Statement (.rem x) := of_code (.reg 0x006 x) (0, 0x006) rfl rfl (by decide) (by decide)
theorem min (x : RegForm) : Statement (.min x) := of_code (.reg 0x007 x) (0, 0x007) rfl rfl (by decide) (by decide)
theorem max (x : RegForm) : Statement (.max x) := of_code (.reg 0x008 x) (0, 0x008) rfl rfl (by decide) (by decide)
theorem and (x : RegForm) : Statement (.and x) := of_code (.reg 0x009 x) (0, 0x009) rfl rfl (by decide) (by decide)
theorem or (x : RegForm) : Statement (.or x) := of_code (.reg 0x00A x) (0, 0x00A) rfl rfl (by decide) (by decide)
theorem xor (x : RegForm) : Statement (.xor x) := of_code (.reg 0x00B x) (0, 0x00B) rfl rfl (by decide) (by decide)
theorem andn (x : RegForm) : Statement (.andn x) := of_code (.reg 0x00C x) (0, 0x00C) rfl rfl (by decide) (by decide)
theorem shl (x : RegForm) : Statement (.shl x) := of_code (.reg 0x00D x) (0, 0x00D) rfl rfl (by decide) (by decide)
theorem shr (x : RegForm) : Statement (.shr x) := of_code (.reg 0x00E x) (0, 0x00E) rfl rfl (by decide) (by decide)
theorem sra (x : RegForm) : Statement (.sra x) := of_code (.reg 0x00F x) (0, 0x00F) rfl rfl (by decide) (by decide)
theorem rot (x : RegForm) : Statement (.rot x) := of_code (.reg 0x010 x) (0, 0x010) rfl rfl (by decide) (by decide)
theorem clz (x : RegForm) : Statement (.clz x) := of_code (.reg 0x011 x) (0, 0x011) rfl rfl (by decide) (by decide)
theorem popc (x : RegForm) : Statement (.popc x) := of_code (.reg 0x012 x) (0, 0x012) rfl rfl (by decide) (by decide)
theorem bswap (x : RegForm) : Statement (.bswap x) := of_code (.reg 0x013 x) (0, 0x013) rfl rfl (by decide) (by decide)
theorem extb (x : RegForm) : Statement (.extb x) := of_code (.reg 0x014 x) (0, 0x014) rfl rfl (by decide) (by decide)
theorem insb (x : RegForm) : Statement (.insb x) := of_code (.reg 0x015 x) (0, 0x015) rfl rfl (by decide) (by decide)
theorem lea (x : RegForm) : Statement (.lea x) := of_code (.reg 0x016 x) (0, 0x016) rfl rfl (by decide) (by decide)
theorem fadd (x : RegForm) : Statement (.fadd x) := of_code (.reg 0x040 x) (0, 0x040) rfl rfl (by decide) (by decide)
theorem fsub (x : RegForm) : Statement (.fsub x) := of_code (.reg 0x041 x) (0, 0x041) rfl rfl (by decide) (by decide)
theorem fmul (x : RegForm) : Statement (.fmul x) := of_code (.reg 0x042 x) (0, 0x042) rfl rfl (by decide) (by decide)
theorem fma (x : RegForm) : Statement (.fma x) := of_code (.reg 0x043 x) (0, 0x043) rfl rfl (by decide) (by decide)
theorem fmin (x : RegForm) : Statement (.fmin x) := of_code (.reg 0x044 x) (0, 0x044) rfl rfl (by decide) (by decide)
theorem fmax (x : RegForm) : Statement (.fmax x) := of_code (.reg 0x045 x) (0, 0x045) rfl rfl (by decide) (by decide)
theorem fcmp (x : RegForm) : Statement (.fcmp x) := of_code (.reg 0x046 x) (0, 0x046) rfl rfl (by decide) (by decide)
theorem fcvt (x : RegForm) : Statement (.fcvt x) := of_code (.reg 0x047 x) (0, 0x047) rfl rfl (by decide) (by decide)
theorem fclass (x : RegForm) : Statement (.fclass x) := of_code (.reg 0x048 x) (0, 0x048) rfl rfl (by decide) (by decide)
theorem cmp (x : RegForm) : Statement (.cmp x) := of_code (.reg 0x060 x) (0, 0x060) rfl rfl (by decide) (by decide)
theorem cbit (x : RegForm) : Statement (.cbit x) := of_code (.reg 0x061 x) (0, 0x061) rfl rfl (by decide) (by decide)
theorem cset (x : RegForm) : Statement (.cset x) := of_code (.reg 0x062 x) (0, 0x062) rfl rfl (by decide) (by decide)
theorem sel (x : RegForm) : Statement (.sel x) := of_code (.reg 0x063 x) (0, 0x063) rfl rfl (by decide) (by decide)
theorem movSS (x : RegForm) : Statement (.movSS x) := of_code (.reg 0x064 x) (0, 0x064) rfl rfl (by decide) (by decide)
theorem movSA (x : RegForm) : Statement (.movSA x) := of_code (.reg 0x065 x) (0, 0x065) rfl rfl (by decide) (by decide)
theorem movSC (x : RegForm) : Statement (.movSC x) := of_code (.reg 0x066 x) (0, 0x066) rfl rfl (by decide) (by decide)
theorem movCS (x : RegForm) : Statement (.movCS x) := of_code (.reg 0x067 x) (0, 0x067) rfl rfl (by decide) (by decide)
theorem movSP (x : RegForm) : Statement (.movSP x) := of_code (.reg 0x068 x) (0, 0x068) rfl rfl (by decide) (by decide)
theorem movPS (x : RegForm) : Statement (.movPS x) := of_code (.reg 0x069 x) (0, 0x069) rfl rfl (by decide) (by decide)
theorem movSQ (x : RegForm) : Statement (.movSQ x) := of_code (.reg 0x06A x) (0, 0x06A) rfl rfl (by decide) (by decide)
theorem movQS (x : RegForm) : Statement (.movQS x) := of_code (.reg 0x06B x) (0, 0x06B) rfl rfl (by decide) (by decide)
theorem gets (x : RegForm) : Statement (.gets x) := of_code (.reg 0x06C x) (0, 0x06C) rfl rfl (by decide) (by decide)
theorem puts (x : RegForm) : Statement (.puts x) := of_code (.reg 0x06D x) (0, 0x06D) rfl rfl (by decide) (by decide)
theorem addi (x : ImmForm) : Statement (.addi x) := of_code (.imm 0x001 x) (1, 0x001) rfl rfl (by decide) (by decide)
theorem andi (x : ImmForm) : Statement (.andi x) := of_code (.imm 0x002 x) (1, 0x002) rfl rfl (by decide) (by decide)
theorem ori (x : ImmForm) : Statement (.ori x) := of_code (.imm 0x003 x) (1, 0x003) rfl rfl (by decide) (by decide)
theorem xori (x : ImmForm) : Statement (.xori x) := of_code (.imm 0x004 x) (1, 0x004) rfl rfl (by decide) (by decide)
theorem shli (x : ImmForm) : Statement (.shli x) := of_code (.imm 0x005 x) (1, 0x005) rfl rfl (by decide) (by decide)
theorem shri (x : ImmForm) : Statement (.shri x) := of_code (.imm 0x006 x) (1, 0x006) rfl rfl (by decide) (by decide)
theorem srai (x : ImmForm) : Statement (.srai x) := of_code (.imm 0x007 x) (1, 0x007) rfl rfl (by decide) (by decide)
theorem movi (x : ImmForm) : Statement (.movi x) := of_code (.imm 0x008 x) (1, 0x008) rfl rfl (by decide) (by decide)
theorem movhi (x : ImmForm) : Statement (.movhi x) := of_code (.imm 0x009 x) (1, 0x009) rfl rfl (by decide) (by decide)
theorem vadd (x : RegForm) : Statement (.vadd x) := of_code (.reg 0x100 x) (0, 0x100) rfl rfl (by decide) (by decide)
theorem vsub (x : RegForm) : Statement (.vsub x) := of_code (.reg 0x101 x) (0, 0x101) rfl rfl (by decide) (by decide)
theorem vmul (x : RegForm) : Statement (.vmul x) := of_code (.reg 0x102 x) (0, 0x102) rfl rfl (by decide) (by decide)
theorem vfma (x : RegForm) : Statement (.vfma x) := of_code (.reg 0x103 x) (0, 0x103) rfl rfl (by decide) (by decide)
theorem vmin (x : RegForm) : Statement (.vmin x) := of_code (.reg 0x104 x) (0, 0x104) rfl rfl (by decide) (by decide)
theorem vmax (x : RegForm) : Statement (.vmax x) := of_code (.reg 0x105 x) (0, 0x105) rfl rfl (by decide) (by decide)
theorem vdiv (x : RegForm) : Statement (.vdiv x) := of_code (.reg 0x106 x) (0, 0x106) rfl rfl (by decide) (by decide)
theorem vrcp (x : RegForm) : Statement (.vrcp x) := of_code (.reg 0x107 x) (0, 0x107) rfl rfl (by decide) (by decide)
theorem vrsq (x : RegForm) : Statement (.vrsq x) := of_code (.reg 0x108 x) (0, 0x108) rfl rfl (by decide) (by decide)
theorem vsqrt (x : RegForm) : Statement (.vsqrt x) := of_code (.reg 0x109 x) (0, 0x109) rfl rfl (by decide) (by decide)
theorem vmulh (x : RegForm) : Statement (.vmulh x) := of_code (.reg 0x10A x) (0, 0x10A) rfl rfl (by decide) (by decide)
theorem vand (x : RegForm) : Statement (.vand x) := of_code (.reg 0x10B x) (0, 0x10B) rfl rfl (by decide) (by decide)
theorem vor (x : RegForm) : Statement (.vor x) := of_code (.reg 0x10C x) (0, 0x10C) rfl rfl (by decide) (by decide)
theorem vxor (x : RegForm) : Statement (.vxor x) := of_code (.reg 0x10D x) (0, 0x10D) rfl rfl (by decide) (by decide)
theorem vshl (x : RegForm) : Statement (.vshl x) := of_code (.reg 0x10E x) (0, 0x10E) rfl rfl (by decide) (by decide)
theorem vshr (x : RegForm) : Statement (.vshr x) := of_code (.reg 0x10F x) (0, 0x10F) rfl rfl (by decide) (by decide)
theorem vsra (x : RegForm) : Statement (.vsra x) := of_code (.reg 0x110 x) (0, 0x110) rfl rfl (by decide) (by decide)
theorem vpopc (x : RegForm) : Statement (.vpopc x) := of_code (.reg 0x111 x) (0, 0x111) rfl rfl (by decide) (by decide)
theorem vclz (x : RegForm) : Statement (.vclz x) := of_code (.reg 0x112 x) (0, 0x112) rfl rfl (by decide) (by decide)
theorem vcmp (x : RegForm) : Statement (.vcmp x) := of_code (.reg 0x113 x) (0, 0x113) rfl rfl (by decide) (by decide)
theorem vsel (x : RegForm) : Statement (.vsel x) := of_code (.reg 0x114 x) (0, 0x114) rfl rfl (by decide) (by decide)
theorem frint (x : RegForm) : Statement (.frint x) := of_code (.reg 0x180 x) (0, 0x180) rfl rfl (by decide) (by decide)
theorem fexf (x : RegForm) : Statement (.fexf x) := of_code (.reg 0x181 x) (0, 0x181) rfl rfl (by decide) (by decide)
theorem finsx (x : RegForm) : Statement (.finsx x) := of_code (.reg 0x182 x) (0, 0x182) rfl rfl (by decide) (by decide)
theorem fgetx (x : RegForm) : Statement (.fgetx x) := of_code (.reg 0x183 x) (0, 0x183) rfl rfl (by decide) (by decide)
theorem vcvt (x : RegForm) : Statement (.vcvt x) := of_code (.reg 0x184 x) (0, 0x184) rfl rfl (by decide) (by decide)
theorem vwiden (x : RegForm) : Statement (.vwiden x) := of_code (.reg 0x185 x) (0, 0x185) rfl rfl (by decide) (by decide)
theorem vnarrow (x : RegForm) : Statement (.vnarrow x) := of_code (.reg 0x186 x) (0, 0x186) rfl rfl (by decide) (by decide)
theorem vbcast (x : RegForm) : Statement (.vbcast x) := of_code (.reg 0x1C0 x) (0, 0x1C0) rfl rfl (by decide) (by decide)
theorem vext (x : RegForm) : Statement (.vext x) := of_code (.reg 0x1C1 x) (0, 0x1C1) rfl rfl (by decide) (by decide)
theorem vins (x : RegForm) : Statement (.vins x) := of_code (.reg 0x1C2 x) (0, 0x1C2) rfl rfl (by decide) (by decide)
theorem vperm (x : RegForm) : Statement (.vperm x) := of_code (.reg 0x1C3 x) (0, 0x1C3) rfl rfl (by decide) (by decide)
theorem vslide (x : RegForm) : Statement (.vslide x) := of_code (.reg 0x1C4 x) (0, 0x1C4) rfl rfl (by decide) (by decide)
theorem vzip (x : RegForm) : Statement (.vzip x) := of_code (.reg 0x1C5 x) (0, 0x1C5) rfl rfl (by decide) (by decide)
theorem vunzip (x : RegForm) : Statement (.vunzip x) := of_code (.reg 0x1C6 x) (0, 0x1C6) rfl rfl (by decide) (by decide)
theorem vcompress (x : RegForm) : Statement (.vcompress x) := of_code (.reg 0x1C7 x) (0, 0x1C7) rfl rfl (by decide) (by decide)
theorem vexpand (x : RegForm) : Statement (.vexpand x) := of_code (.reg 0x1C8 x) (0, 0x1C8) rfl rfl (by decide) (by decide)
theorem viota (x : RegForm) : Statement (.viota x) := of_code (.reg 0x1C9 x) (0, 0x1C9) rfl rfl (by decide) (by decide)
theorem vredadd (x : RegForm) : Statement (.vredadd x) := of_code (.reg 0x1CA x) (0, 0x1CA) rfl rfl (by decide) (by decide)
theorem vredmax (x : RegForm) : Statement (.vredmax x) := of_code (.reg 0x1CB x) (0, 0x1CB) rfl rfl (by decide) (by decide)
theorem vredmin (x : RegForm) : Statement (.vredmin x) := of_code (.reg 0x1CC x) (0, 0x1CC) rfl rfl (by decide) (by decide)
theorem vargmax (x : RegForm) : Statement (.vargmax x) := of_code (.reg 0x1CD x) (0, 0x1CD) rfl rfl (by decide) (by decide)
theorem vscan (x : RegForm) : Statement (.vscan x) := of_code (.reg 0x1CE x) (0, 0x1CE) rfl rfl (by decide) (by decide)
theorem pand (x : RegForm) : Statement (.pand x) := of_code (.reg 0x1CF x) (0, 0x1CF) rfl rfl (by decide) (by decide)
theorem por (x : RegForm) : Statement (.por x) := of_code (.reg 0x1D0 x) (0, 0x1D0) rfl rfl (by decide) (by decide)
theorem pxor (x : RegForm) : Statement (.pxor x) := of_code (.reg 0x1D1 x) (0, 0x1D1) rfl rfl (by decide) (by decide)
theorem pnot (x : RegForm) : Statement (.pnot x) := of_code (.reg 0x1D2 x) (0, 0x1D2) rfl rfl (by decide) (by decide)
theorem pfirst (x : RegForm) : Statement (.pfirst x) := of_code (.reg 0x1D3 x) (0, 0x1D3) rfl rfl (by decide) (by decide)
theorem psetn (x : RegForm) : Statement (.psetn x) := of_code (.reg 0x1D4 x) (0, 0x1D4) rfl rfl (by decide) (by decide)
theorem pcount (x : RegForm) : Statement (.pcount x) := of_code (.reg 0x1D5 x) (0, 0x1D5) rfl rfl (by decide) (by decide)
theorem ptest (x : RegForm) : Statement (.ptest x) := of_code (.reg 0x1D6 x) (0, 0x1D6) rfl rfl (by decide) (by decide)
theorem ld (x : MemForm) : Statement (.ld x) := of_code (.mem 0x001 x) (2, 0x001) rfl rfl (by decide) (by decide)
theorem st (x : MemForm) : Statement (.st x) := of_code (.mem 0x002 x) (2, 0x002) rfl rfl (by decide) (by decide)
theorem ldv (x : MemForm) : Statement (.ldv x) := of_code (.mem 0x003 x) (2, 0x003) rfl rfl (by decide) (by decide)
theorem stv (x : MemForm) : Statement (.stv x) := of_code (.mem 0x004 x) (2, 0x004) rfl rfl (by decide) (by decide)
theorem ldvs (x : MemForm) : Statement (.ldvs x) := of_code (.mem 0x005 x) (2, 0x005) rfl rfl (by decide) (by decide)
theorem stvs (x : MemForm) : Statement (.stvs x) := of_code (.mem 0x006 x) (2, 0x006) rfl rfl (by decide) (by decide)
theorem ldg (x : MemForm) : Statement (.ldg x) := of_code (.mem 0x007 x) (2, 0x007) rfl rfl (by decide) (by decide)
theorem stg (x : MemForm) : Statement (.stg x) := of_code (.mem 0x008 x) (2, 0x008) rfl rfl (by decide) (by decide)
theorem aadd (x : MemForm) : Statement (.aadd x) := of_code (.mem 0x040 x) (2, 0x040) rfl rfl (by decide) (by decide)
theorem amin (x : MemForm) : Statement (.amin x) := of_code (.mem 0x041 x) (2, 0x041) rfl rfl (by decide) (by decide)
theorem amax (x : MemForm) : Statement (.amax x) := of_code (.mem 0x042 x) (2, 0x042) rfl rfl (by decide) (by decide)
theorem aand (x : MemForm) : Statement (.aand x) := of_code (.mem 0x043 x) (2, 0x043) rfl rfl (by decide) (by decide)
theorem aor (x : MemForm) : Statement (.aor x) := of_code (.mem 0x044 x) (2, 0x044) rfl rfl (by decide) (by decide)
theorem axor (x : MemForm) : Statement (.axor x) := of_code (.mem 0x045 x) (2, 0x045) rfl rfl (by decide) (by decide)
theorem aswap (x : MemForm) : Statement (.aswap x) := of_code (.mem 0x046 x) (2, 0x046) rfl rfl (by decide) (by decide)
theorem acas (x : MemForm) : Statement (.acas x) := of_code (.mem 0x047 x) (2, 0x047) rfl rfl (by decide) (by decide)
theorem aaddf (x : MemForm) : Statement (.aaddf x) := of_code (.mem 0x048 x) (2, 0x048) rfl rfl (by decide) (by decide)
theorem cellrd (x : MemForm) : Statement (.cellrd x) := of_code (.mem 0x049 x) (2, 0x049) rfl rfl (by decide) (by decide)
theorem fence (x : MemForm) : Statement (.fence x) := of_code (.mem 0x060 x) (2, 0x060) rfl rfl (by decide) (by decide)
theorem fencer (x : MemForm) : Statement (.fencer x) := of_code (.mem 0x061 x) (2, 0x061) rfl rfl (by decide) (by decide)
theorem ldf (x : MemForm) : Statement (.ldf x) := of_code (.mem 0x062 x) (2, 0x062) rfl rfl (by decide) (by decide)
theorem ldfEmpty (x : MemForm) : Statement (.ldfEmpty x) := of_code (.mem 0x062 x) (2, 0x062) rfl rfl (by decide) (by decide)
theorem stf (x : MemForm) : Statement (.stf x) := of_code (.mem 0x063 x) (2, 0x063) rfl rfl (by decide) (by decide)
theorem clre (x : MemForm) : Statement (.clre x) := of_code (.mem 0x064 x) (2, 0x064) rfl rfl (by decide) (by decide)
theorem tnew (x : MemForm) : Statement (.tnew x) := of_code (.mem 0x080 x) (2, 0x080) rfl rfl (by decide) (by decide)
theorem twin (x : MemForm) : Statement (.twin x) := of_code (.mem 0x081 x) (2, 0x081) rfl rfl (by decide) (by decide)
theorem tsubmit (x : MemForm) : Statement (.tsubmit x) := of_code (.mem 0x082 x) (2, 0x082) rfl rfl (by decide) (by decide)
theorem twait (x : MemForm) : Statement (.twait x) := of_code (.mem 0x083 x) (2, 0x083) rfl rfl (by decide) (by decide)
theorem tstat (x : MemForm) : Statement (.tstat x) := of_code (.mem 0x084 x) (2, 0x084) rfl rfl (by decide) (by decide)
theorem tcancel (x : MemForm) : Statement (.tcancel x) := of_code (.mem 0x085 x) (2, 0x085) rfl rfl (by decide) (by decide)
theorem tretry (x : MemForm) : Statement (.tretry x) := of_code (.mem 0x086 x) (2, 0x086) rfl rfl (by decide) (by decide)
theorem tabort (x : MemForm) : Statement (.tabort x) := of_code (.mem 0x087 x) (2, 0x087) rfl rfl (by decide) (by decide)
theorem fcwait (x : MemForm) : Statement (.fcwait x) := of_code (.mem 0x088 x) (2, 0x088) rfl rfl (by decide) (by decide)
theorem fcadd (x : MemForm) : Statement (.fcadd x) := of_code (.mem 0x089 x) (2, 0x089) rfl rfl (by decide) (by decide)
theorem cpy (x : MemForm) : Statement (.cpy x) := of_code (.mem 0x0C0 x) (2, 0x0C0) rfl rfl (by decide) (by decide)
theorem cpyf (x : MemForm) : Statement (.cpyf x) := of_code (.mem 0x0C1 x) (2, 0x0C1) rfl rfl (by decide) (by decide)
theorem gath (x : MemForm) : Statement (.gath x) := of_code (.mem 0x0C2 x) (2, 0x0C2) rfl rfl (by decide) (by decide)
theorem scat (x : MemForm) : Statement (.scat x) := of_code (.mem 0x0C3 x) (2, 0x0C3) rfl rfl (by decide) (by decide)
theorem fill (x : MemForm) : Statement (.fill x) := of_code (.mem 0x0C4 x) (2, 0x0C4) rfl rfl (by decide) (by decide)
theorem jwait (x : MemForm) : Statement (.jwait x) := of_code (.mem 0x0C5 x) (2, 0x0C5) rfl rfl (by decide) (by decide)
theorem jstat (x : MemForm) : Statement (.jstat x) := of_code (.mem 0x0C6 x) (2, 0x0C6) rfl rfl (by decide) (by decide)
theorem rput (x : MemForm) : Statement (.rput x) := of_code (.mem 0x0C7 x) (2, 0x0C7) rfl rfl (by decide) (by decide)
theorem rgetTake (x : MemForm) : Statement (.rgetTake x) := of_code (.mem 0x0C8 x) (2, 0x0C8) rfl rfl (by decide) (by decide)
theorem rgetPoll (x : MemForm) : Statement (.rgetPoll x) := of_code (.mem 0x0C8 x) (2, 0x0C8) rfl rfl (by decide) (by decide)
theorem rgetDone (x : MemForm) : Statement (.rgetDone x) := of_code (.mem 0x0C8 x) (2, 0x0C8) rfl rfl (by decide) (by decide)
theorem feed (x : MemForm) : Statement (.feed x) := of_code (.mem 0x0C9 x) (2, 0x0C9) rfl rfl (by decide) (by decide)
theorem unfeed (x : MemForm) : Statement (.unfeed x) := of_code (.mem 0x0CA x) (2, 0x0CA) rfl rfl (by decide) (by decide)
theorem coll (x : MemForm) : Statement (.coll x) := of_code (.mem 0x0CB x) (2, 0x0CB) rfl rfl (by decide) (by decide)
theorem mwld (x : MemForm) : Statement (.mwld x) := of_code (.mem 0x100 x) (2, 0x100) rfl rfl (by decide) (by decide)
theorem mwswap (x : MemForm) : Statement (.mwswap x) := of_code (.mem 0x101 x) (2, 0x101) rfl rfl (by decide) (by decide)
theorem mzero (x : MemForm) : Statement (.mzero x) := of_code (.mem 0x102 x) (2, 0x102) rfl rfl (by decide) (by decide)
theorem mdrain (x : MemForm) : Statement (.mdrain x) := of_code (.mem 0x103 x) (2, 0x103) rfl rfl (by decide) (by decide)
theorem mstreamBf16Bf16 (x : MemForm) : Statement (.mstreamBf16Bf16 x) := of_code (.mem 0x110 x) (2, 0x110) rfl rfl (by decide) (by decide)
theorem mstreamFp16Fp16 (x : MemForm) : Statement (.mstreamFp16Fp16 x) := of_code (.mem 0x111 x) (2, 0x111) rfl rfl (by decide) (by decide)
theorem mstreamE4m3E4m3 (x : MemForm) : Statement (.mstreamE4m3E4m3 x) := of_code (.mem 0x112 x) (2, 0x112) rfl rfl (by decide) (by decide)
theorem mstreamE4m3E5m2 (x : MemForm) : Statement (.mstreamE4m3E5m2 x) := of_code (.mem 0x113 x) (2, 0x113) rfl rfl (by decide) (by decide)
theorem mstreamE5m2E4m3 (x : MemForm) : Statement (.mstreamE5m2E4m3 x) := of_code (.mem 0x114 x) (2, 0x114) rfl rfl (by decide) (by decide)
theorem mstreamE5m2E5m2 (x : MemForm) : Statement (.mstreamE5m2E5m2 x) := of_code (.mem 0x115 x) (2, 0x115) rfl rfl (by decide) (by decide)
theorem mstreamMxe4m3Mxe4m3 (x : MemForm) : Statement (.mstreamMxe4m3Mxe4m3 x) := of_code (.mem 0x116 x) (2, 0x116) rfl rfl (by decide) (by decide)
theorem mstreamMxe2m1Mxe2m1 (x : MemForm) : Statement (.mstreamMxe2m1Mxe2m1 x) := of_code (.mem 0x117 x) (2, 0x117) rfl rfl (by decide) (by decide)
theorem mstreamMxe2m1Mxe4m3 (x : MemForm) : Statement (.mstreamMxe2m1Mxe4m3 x) := of_code (.mem 0x118 x) (2, 0x118) rfl rfl (by decide) (by decide)
theorem mstreamI8I8 (x : MemForm) : Statement (.mstreamI8I8 x) := of_code (.mem 0x119 x) (2, 0x119) rfl rfl (by decide) (by decide)
theorem ssopen (x : MemForm) : Statement (.ssopen x) := of_code (.mem 0x180 x) (2, 0x180) rfl rfl (by decide) (by decide)
theorem ssload (x : MemForm) : Statement (.ssload x) := of_code (.mem 0x181 x) (2, 0x181) rfl rfl (by decide) (by decide)
theorem sssave (x : MemForm) : Statement (.sssave x) := of_code (.mem 0x182 x) (2, 0x182) rfl rfl (by decide) (by decide)
theorem ssnap (x : MemForm) : Statement (.ssnap x) := of_code (.mem 0x183 x) (2, 0x183) rfl rfl (by decide) (by decide)
theorem ssrewind (x : MemForm) : Statement (.ssrewind x) := of_code (.mem 0x184 x) (2, 0x184) rfl rfl (by decide) (by decide)
theorem ssfork (x : MemForm) : Statement (.ssfork x) := of_code (.mem 0x185 x) (2, 0x185) rfl rfl (by decide) (by decide)
theorem ssclose (x : MemForm) : Statement (.ssclose x) := of_code (.mem 0x186 x) (2, 0x186) rfl rfl (by decide) (by decide)
theorem smopen (x : MemForm) : Statement (.smopen x) := of_code (.mem 0x188 x) (2, 0x188) rfl rfl (by decide) (by decide)
theorem smpost (x : MemForm) : Statement (.smpost x) := of_code (.mem 0x189 x) (2, 0x189) rfl rfl (by decide) (by decide)
theorem smtake (x : MemForm) : Statement (.smtake x) := of_code (.mem 0x18A x) (2, 0x18A) rfl rfl (by decide) (by decide)
theorem smnoise (x : MemForm) : Statement (.smnoise x) := of_code (.mem 0x18B x) (2, 0x18B) rfl rfl (by decide) (by decide)
theorem gmask (x : MemForm) : Statement (.gmask x) := of_code (.mem 0x190 x) (2, 0x190) rfl rfl (by decide) (by decide)
theorem gwait (x : MemForm) : Statement (.gwait x) := of_code (.mem 0x191 x) (2, 0x191) rfl rfl (by decide) (by decide)
theorem tkstep (x : MemForm) : Statement (.tkstep x) := of_code (.mem 0x198 x) (2, 0x198) rfl rfl (by decide) (by decide)
theorem lmove (x : MemForm) : Statement (.lmove x) := of_code (.mem 0x1A0 x) (2, 0x1A0) rfl rfl (by decide) (by decide)
theorem lpop (x : MemForm) : Statement (.lpop x) := of_code (.mem 0x1A1 x) (2, 0x1A1) rfl rfl (by decide) (by decide)
theorem lpush (x : MemForm) : Statement (.lpush x) := of_code (.mem 0x1A2 x) (2, 0x1A2) rfl rfl (by decide) (by decide)
theorem next (x : CtlForm) : Statement (.next x) := of_code (.ctl 0x000 x) (3, 0x000) rfl rfl (by decide) (by decide)
theorem matchT (x : CtlForm) : Statement (.matchT x) := of_code (.ctl 0x010 x) (3, 0x010) rfl rfl (by decide) (by decide)
theorem tbw (x : CtlForm) : Statement (.tbw x) := of_code (.ctl 0x011 x) (3, 0x011) rfl rfl (by decide) (by decide)
theorem tbr (x : CtlForm) : Statement (.tbr x) := of_code (.ctl 0x012 x) (3, 0x012) rfl rfl (by decide) (by decide)
theorem tbclr (x : CtlForm) : Statement (.tbclr x) := of_code (.ctl 0x013 x) (3, 0x013) rfl rfl (by decide) (by decide)
theorem tbcopy (x : CtlForm) : Statement (.tbcopy x) := of_code (.ctl 0x014 x) (3, 0x014) rfl rfl (by decide) (by decide)
theorem tbflip (x : CtlForm) : Statement (.tbflip x) := of_code (.ctl 0x015 x) (3, 0x015) rfl rfl (by decide) (by decide)
theorem tbpin (x : CtlForm) : Statement (.tbpin x) := of_code (.ctl 0x016 x) (3, 0x016) rfl rfl (by decide) (by decide)
theorem tbunpin (x : CtlForm) : Statement (.tbunpin x) := of_code (.ctl 0x017 x) (3, 0x017) rfl rfl (by decide) (by decide)
theorem trap (x : CtlForm) : Statement (.trap x) := of_code (.ctl 0x020 x) (3, 0x020) rfl rfl (by decide) (by decide)
theorem resume (x : CtlForm) : Statement (.resume x) := of_code (.ctl 0x021 x) (3, 0x021) rfl rfl (by decide) (by decide)
theorem brk (x : CtlForm) : Statement (.brk x) := of_code (.ctl 0x022 x) (3, 0x022) rfl rfl (by decide) (by decide)
theorem nop (x : CtlForm) : Statement (.nop x) := of_code (.ctl 0x023 x) (3, 0x023) rfl rfl (by decide) (by decide)
theorem waite (x : CtlForm) : Statement (.waite x) := of_code (.ctl 0x024 x) (3, 0x024) rfl rfl (by decide) (by decide)
theorem gjoin (x : CtlForm) : Statement (.gjoin x) := of_code (.ctl 0x028 x) (3, 0x028) rfl rfl (by decide) (by decide)
theorem gleave (x : CtlForm) : Statement (.gleave x) := of_code (.ctl 0x029 x) (3, 0x029) rfl rfl (by decide) (by decide)
theorem gbar (x : CtlForm) : Statement (.gbar x) := of_code (.ctl 0x02A x) (3, 0x02A) rfl rfl (by decide) (by decide)
theorem gsize (x : CtlForm) : Statement (.gsize x) := of_code (.ctl 0x02B x) (3, 0x02B) rfl rfl (by decide) (by decide)
theorem xinv (x : CtlForm) : Statement (.xinv x) := of_code (.ctl 0x03F x) (3, 0x03F) rfl rfl (by decide) (by decide)
theorem lookupComplete (t : TId) : Statement (.lookupComplete t) := of_event rfl
theorem stallResolves (t : TId) : Statement (.stallResolves t) := of_event rfl
theorem bankRetention (t : TId) (bank : Nat) : Statement (.bankRetention t bank) := of_event rfl
theorem seatGate (x : SeatId) : Statement (.seatGate x) := of_event rfl
theorem threadBind (x : SeatId) : Statement (.threadBind x) := of_event rfl
theorem yieldReturn (t : TId) : Statement (.yieldReturn t) := of_event rfl
theorem dispatch (part : Nat) : Statement (.dispatch part) := of_event rfl
theorem commitGrant (k : TaskId) : Statement (.commitGrant k) := of_event rfl
theorem flushComplete (k : TaskId) : Statement (.flushComplete k) := of_event rfl
theorem taskStopComplete (k : TaskId) : Statement (.taskStopComplete k) := of_event rfl
theorem energyMeterUpdate (k : TaskId) (mj : Nat) : Statement (.energyMeterUpdate k mj) := of_event rfl
theorem tableOpApply (k : CtxId) (cluster : Nat) : Statement (.tableOpApply k cluster) := of_event rfl
theorem tableDirectoryReply (t : TId) : Statement (.tableDirectoryReply t) := of_event rfl
theorem barrierPhaseComplete (g : GroupId) : Statement (.barrierPhaseComplete g) := of_event rfl
theorem resumeMessage (t : TId) : Statement (.resumeMessage t) := of_event rfl
theorem engineCommandArrive (t : TId) (job : Nat) : Statement (.engineCommandArrive t job) := of_event rfl
theorem jobQueueEntryFree (t : TId) : Statement (.jobQueueEntryFree t) := of_event rfl
theorem jobStart (t : TId) (job : Nat) : Statement (.jobStart t job) := of_event rfl
theorem jobComplete (t : TId) (job : Nat) : Statement (.jobComplete t job) := of_event rfl
theorem heldJobRelease (t : TId) (job : Nat) : Statement (.heldJobRelease t job) := of_event rfl
theorem roundComplete (g : GroupId) : Statement (.roundComplete g) := of_event rfl
theorem matrixSlotChange : Statement (.matrixSlotChange) := of_event rfl
theorem gwaitTimeout (t : TId) : Statement (.gwaitTimeout t) := of_event rfl
theorem waiteTimeout (t : TId) : Statement (.waiteTimeout t) := of_event rfl
theorem sliceEnd (k : CtxId) : Statement (.sliceEnd k) := of_event rfl
theorem contextLoad (k target : CtxId) (clusters : List Nat) : Statement (.contextLoad k target clusters) := of_event rfl
theorem granuleFill (t : TId) (granule : Nat) : Statement (.granuleFill t granule) := of_event rfl
theorem heldRecordWrite (part : Nat) : Statement (.heldRecordWrite part) := of_event rfl
theorem reportRound : Statement (.reportRound) := of_event rfl
theorem translationWalkComplete (part : Nat) (w : WalkId) : Statement (.translationWalkComplete part w) := of_event rfl
theorem shootdownComplete (part : Nat) : Statement (.shootdownComplete part) := of_event rfl
theorem atsCompletion (k : CtxId) (page : Nat) (r : AtsAnswer) : Statement (.atsCompletion k page r) := of_event rfl
theorem priResponse (k : CtxId) (page : Nat) (r : PriAnswer) : Statement (.priResponse k page r) := of_event rfl
theorem atsInvalidation (part : Nat) (pasid : Nat) (page : Nat) (pages : Nat) : Statement (.atsInvalidation part pasid page pages) := of_event rfl
theorem openContext (part : Nat) (img : BitVec 256) : Statement (.openContext part img) := of_event rfl
theorem closeContext (part : Nat) (img : BitVec 256) : Statement (.closeContext part img) := of_event rfl
theorem resumeThread (part : Nat) (img : BitVec 256) : Statement (.resumeThread part img) := of_event rfl
theorem cancelTask (part : Nat) (img : BitVec 256) : Statement (.cancelTask part img) := of_event rfl
theorem retryTask (part : Nat) (img : BitVec 256) : Statement (.retryTask part img) := of_event rfl
theorem shootDown (part : Nat) (img : BitVec 256) : Statement (.shootDown part img) := of_event rfl
theorem loadObject (part : Nat) (img : BitVec 256) : Statement (.loadObject part img) := of_event rfl
theorem resumeJob (part : Nat) (img : BitVec 256) : Statement (.resumeJob part img) := of_event rfl
theorem hostQueueHeadWrite (part q : Nat) (head : BitVec 32) : Statement (.hostQueueHeadWrite part q head) := of_event rfl
theorem hostQueueSubmit (part q : Nat) : Statement (.hostQueueSubmit part q) := of_event rfl
theorem hostQueueWait (part q : Nat) : Statement (.hostQueueWait part q) := of_event rfl
theorem hostQueueRestart (part q : Nat) : Statement (.hostQueueRestart part q) := of_event rfl
theorem faultRingTailWrite (part : Nat) (terminal : Bool) (tail : BitVec 32) : Statement (.faultRingTailWrite part terminal tail) := of_event rfl
theorem overflowStoppedClear (part : Nat) : Statement (.overflowStoppedClear part) := of_event rfl
theorem qosWindowEnd (part : Nat) : Statement (.qosWindowEnd part) := of_event rfl
theorem partitionRequest (img : BitVec 64) : Statement (.partitionRequest img) := of_event rfl
theorem dissolve (img : BitVec 64) : Statement (.dissolve img) := of_event rfl
theorem keygen (c : MailCmd) : Statement (.keygen c) := of_event rfl
theorem keyerase (c : MailCmd) : Statement (.keyerase c) := of_event rfl
theorem mint (c : MailCmd) : Statement (.mint c) := of_event rfl
theorem epoch (c : MailCmd) : Statement (.epoch c) := of_event rfl
theorem scrub (c : MailCmd) : Statement (.scrub c) := of_event rfl
theorem logcfg (c : MailCmd) : Statement (.logcfg c) := of_event rfl
theorem logexport (c : MailCmd) : Statement (.logexport c) := of_event rfl
theorem allowscan (c : MailCmd) : Statement (.allowscan c) := of_event rfl
theorem freeze (c : MailCmd) : Statement (.freeze c) := of_event rfl
theorem thaw (c : MailCmd) : Statement (.thaw c) := of_event rfl
theorem scanRead (part : Nat) (what : ScanItem) : Statement (.scanRead part what) := of_event rfl
theorem markerCut : Statement (.markerCut) := of_event rfl
theorem markerReceive (unit chan : Nat) : Statement (.markerReceive unit chan) := of_event rfl
theorem noCommand (b : BlockId) (word : BitVec 64) : Statement (.noCommand b word) := of_event rfl
theorem readTapTest (b : BlockId) (word : BitVec 64) : Statement (.readTapTest b word) := of_event rfl
theorem writeTapTest (b : BlockId) (word : BitVec 64) : Statement (.writeTapTest b word) := of_event rfl
theorem laneRepair (b : BlockId) (word : BitVec 64) : Statement (.laneRepair b word) := of_event rfl
theorem patternTest (b : BlockId) (word : BitVec 64) : Statement (.patternTest b word) := of_event rfl
theorem enter (b : BlockId) : Statement (.enter b) := of_event rfl
theorem stackFailedWrite (stack : Nat) : Statement (.stackFailedWrite stack) := of_event rfl
theorem alarmClear : Statement (.alarmClear) := of_event rfl
theorem registerWrite (fn : Nat) (offset : Nat) (value : BitVec 64) : Statement (.registerWrite fn offset value) := of_event rfl
theorem hostWrite (fn : Nat) (addr : Nat) (data : List (BitVec 8)) : Statement (.hostWrite fn addr data) := of_event rfl
theorem hostRead (fn : Nat) (addr : Nat) (n : Nat) : Statement (.hostRead fn addr n) := of_event rfl
theorem flitReceive (port : Nat) (flit : SpanFlit) : Statement (.flitReceive port flit) := of_event rfl
theorem spanPortFail (port : Nat) : Statement (.spanPortFail port) := of_event rfl
theorem powerOn : Statement (.powerOn) := of_event rfl
theorem moduleReset : Statement (.moduleReset) := of_event rfl
theorem fusesRead : Statement .fusesRead := of_event rfl
theorem signatureCheck (images : BootImages) (erasepol : Bool) : Statement (.signatureCheck images erasepol) := of_event rfl
theorem hostLinkUp : Statement (.hostLinkUp) := of_event rfl
theorem dieTrained (die : Nat) : Statement (.dieTrained die) := of_event rfl
theorem bringupContextClose (die : Nat) : Statement (.bringupContextClose die) := of_event rfl
theorem fullServiceEntry : Statement (.fullServiceEntry) := of_event rfl
theorem voltageGlitch : Statement (.voltageGlitch) := of_event rfl
theorem tamperMeshBreak : Statement (.tamperMeshBreak) := of_event rfl
theorem clockThrottle (sixteenths : Nat) : Statement (.clockThrottle sixteenths) := of_event rfl
theorem trainingCommandComplete (b : BlockId) : Statement (.trainingCommandComplete b) := of_event rfl
theorem stackReset (stack : Nat) : Statement (.stackReset stack) := of_event rfl

end Encodes

end Sys2Proof.Laws
end

