-- ==== Sys2Proof/Laws/Places.lean ====
section
/-! SUPPORT. What the free places of the module can be: physical slots, cores and modules, the torus, and the lines that a
test writes. -/

namespace Sys2Proof.Machine

/-! ### Physical slots and cores (R1, R37) -/

theorem permuted_perm (code : Nat) (fuel xs : List Nat) (h : fuel.length = xs.length) :
    (permuted code fuel xs).Perm xs := by
  induction fuel generalizing code xs with
  | nil => simp [permuted, List.length_eq_zero_iff.mp h.symm]
  | cons _ fuel ih =>
    have hpos : 0 < xs.length := by rw [← h]; simp
    have hi : code % xs.length < xs.length := Nat.mod_lt _ hpos
    simp only [permuted]
    generalize code % xs.length = i at hi ⊢
    have hl : fuel.length = (xs.take i ++ xs.drop (i + 1)).length := by
      simp at h ⊢; omega
    have ht : (xs.drop i).take 1 = [xs[i]] := by rw [List.drop_eq_getElem_cons hi, List.take_succ_cons, List.take_zero]
    have hx : xs = xs.take i ++ ([xs[i]] ++ xs.drop (i + 1)) := by
      rw [List.singleton_append, ← List.drop_eq_getElem_cons hi, List.take_append_drop]
    rw [ht]
    refine ((ih _ _ hl).append_left _).trans ?_
    rw [← List.append_assoc]
    refine (List.perm_append_comm.append_right _).trans ?_
    rw [List.append_assoc, ← hx]

/-- The places of a plan of n are below n, each taken once. -/
theorem plan_place (code n i : Nat) (hi : i < n) :
    (permuted code (List.range n) (List.range n)).getD i 0 < n := by
  have hp := permuted_perm code (List.range n) (List.range n) rfl
  have hl : i < (permuted code (List.range n) (List.range n)).length := by rw [hp.length_eq]; simpa using hi
  rw [List.getD_eq_getElem _ _ hl]
  simpa using hp.mem_iff.mp (List.getElem_mem hl)

theorem plan_inj (code n i j : Nat) (hi : i < n) (hj : j < n)
    (h : (permuted code (List.range n) (List.range n)).getD i 0 =
      (permuted code (List.range n) (List.range n)).getD j 0) : i = j := by
  have hp := permuted_perm code (List.range n) (List.range n) rfl
  have hn : (permuted code (List.range n) (List.range n)).Nodup := hp.nodup_iff.mpr List.nodup_range
  have hl (k : Nat) (hk : k < n) : k < (permuted code (List.range n) (List.range n)).length := by
    rw [hp.length_eq]; simpa using hk
  rw [List.getD_eq_getElem _ _ (hl i hi), List.getD_eq_getElem _ _ (hl j hj)] at h
  exact (List.Nodup.getElem_inj_iff hn).mp h

/-- R1: a cluster's physical slot is one of the 32 of its quarter. -/
theorem physicalSlot_quarter (unit : Nat) : physicalSlot unit / 32 = unit / 30 := by
  have := plan_place (Config.slotPlan (unit / 30)) 32 (unit % 30) (by omega)
  unfold physicalSlot
  omega

/-- R1: no two clusters of the module have one slot. -/
theorem physicalSlot_inj (a b : Nat) (h : physicalSlot a = physicalSlot b) : a = b := by
  have hq : a / 30 = b / 30 := by rw [← physicalSlot_quarter, ← physicalSlot_quarter, h]
  unfold physicalSlot at h
  rw [hq] at h
  have := plan_inj (Config.slotPlan (b / 30)) 32 (a % 30) (b % 30) (by omega) (by omega) (by omega)
  omega

/-- R1: a cluster's physical cores are its 8, each once. -/
theorem physicalCore_lt (unit n : Nat) (h : n < 8) : physicalCore unit n < 8 := plan_place _ 8 n h

theorem physicalCore_inj (unit a b : Nat) (ha : a < 8) (hb : b < 8) (h : physicalCore unit a = physicalCore unit b) :
    a = b := plan_inj _ 8 a b ha hb h

/-- R1, R37: the modules of a partition's torus are of the 4,096 of the largest system, each once. -/
theorem physicalModule_lt (part m : Nat) (h : m < 4096) : physicalModule part m < 4096 := plan_place _ 4096 m h

theorem physicalModule_inj (part a b : Nat) (ha : a < 4096) (hb : b < 4096)
    (h : physicalModule part a = physicalModule part b) : a = b := plan_inj _ 4096 a b ha hb h

/-- R1: a torus is of 1 to 16 modules in each extent, at most 4,096 in all. -/
theorem torusOf_bound (part : Nat) : (torusOf part).1 ∈ Finset.Icc 1 16 ∧ (torusOf part).2.1 ∈ Finset.Icc 1 16 ∧
    (torusOf part).2.2 ∈ Finset.Icc 1 16 := by
  simp only [torusOf, Finset.mem_Icc]
  omega

/-- R39: a restore that passes its checks asks for no torus beyond R1's largest system. -/
theorem restored_torus (p : Partition) (c : Context) (pages : Nat) (h : p.restoreStatus c pages = 0) :
    torusFits c.contract.torus (torusOf p.num) = true := by
  unfold Partition.restoreStatus at h
  split_ifs at h with _ _ _ _ h5 <;> simp_all

/-! ### The bursts of a test (R309) -/

theorem wf_writeLines (xs : List (Nat × BitVec 512)) (m : Cells) (h : Memory.wf m = true) :
    Memory.wf (xs.foldl (fun m e => writeBytes m (64 * e.1) (leBytes 64 e.2.toNat)) m) = true := by
  induction xs generalizing m with
  | nil => exact h
  | cons x xs ih => exact ih _ (Memory.wf_writeBytes _ _ _ h)

theorem readByte_writeLines (xs : List (Nat × BitVec 512)) (m : Cells) (a : Nat) (h : ∀ e ∈ xs, e.1 ≠ a / 64) :
    readByte (xs.foldl (fun m e => writeBytes m (64 * e.1) (leBytes 64 e.2.toNat)) m) a = readByte m a := by
  induction xs generalizing m with
  | nil => rfl
  | cons x xs ih =>
    have hx := h x (by simp)
    simp only [List.foldl_cons]
    rw [ih _ fun e he => h e (by simp [he]), readByte_writeBytes_outside]
    rw [leBytes_length]; omega

/-- A test's bursts keep the memory's form. -/
theorem writeBursts_wf (stack : Nat) (ws : List (Nat × BitVec 512)) (s : State) (h : Memory.wf s.mem = true) :
    Memory.wf (s.writeBursts stack ws).mem = true := by
  unfold State.writeBursts
  split
  · exact h
  · exact wf_writeLines _ _ h

/-- A test's bursts write lines of their stack alone: every other byte reads as before. -/
theorem writeBursts_outside (stack : Nat) (ws : List (Nat × BitVec 512)) (s : State) (r : Region) (a : Nat)
    (hr : s.regions.find? (fun r => r.kind == .hbm stack) = some r)
    (h : a / 64 < r.base / 64 ∨ r.base / 64 + r.size / 64 ≤ a / 64) :
    readByte (s.writeBursts stack ws).mem a = readByte s.mem a := by
  unfold State.writeBursts
  rw [hr]
  apply readByte_writeLines
  intro e he
  simp only [List.mem_map, List.mem_filter, decide_eq_true_eq] at he
  obtain ⟨e', ⟨_, hlt⟩, rfl⟩ := he
  simp only
  omega

end Sys2Proof.Machine
end

