-- ==== Sys2Proof/Tests/Slice0.lean ====
section
/-! SUPPORT. Tests: each check of well-formedness refuses an ill-formed term, words written out from the spec's
encodings decode to what they stand for, single steps give what the spec says, and each statement's hypotheses are
met. -/

namespace Sys2Proof.Tests
open Sys2Proof Sys2Proof.Machine

set_option Elab.async false

/-! ### Words, bit by bit from the spec's encodings -/

def no : SrcMod := ⟨false, false⟩

/-- Does each word decode to its instruction, and the instruction encode to its word? -/
def readsAll (rows : List (Word × Instr)) : Bool :=
  rows.all fun r => (match decode r.1 with | .ok i => i == r.2 | .error _ => false) && encode r.2 == some r.1

/-- R45, R58, R66 to R68. -/
theorem test_words_scalar_integer : readsAll [
    (0x001A105401844024, .add ⟨⟨true, 2⟩, .i16, .reg 5, .sat, 0, .reg 6, .reg 17, .reg 0, ⟨true, false⟩, ⟨false, true⟩, no⟩),
    (0x0020705401844000, .sub ⟨⟨false, 0⟩, .n64, .reg 5, .sat, 0, .reg 6, .reg 17, .reg 0, no, no, no⟩),
    (0x0037405001844000, .mul ⟨⟨false, 7⟩, .n8, .reg 5, .none, 0, .reg 6, .reg 17, .reg 0, no, no, no⟩),
    (0x0040305001844000, .mulh ⟨⟨false, 0⟩, .i64, .reg 5, .none, 0, .reg 6, .reg 17, .reg 0, no, no, no⟩),
    (0x0050605001844000, .div ⟨⟨false, 0⟩, .n32, .reg 5, .none, 0, .reg 6, .reg 17, .reg 0, no, no, no⟩),
    (0x0060205001844000, .rem ⟨⟨false, 0⟩, .i32, .reg 5, .none, 0, .reg 6, .reg 17, .reg 0, no, no, no⟩),
    (0x0070505001844000, .min ⟨⟨false, 0⟩, .n16, .reg 5, .none, 0, .reg 6, .reg 17, .reg 0, no, no, no⟩),
    (0x0080205001844030, .max ⟨⟨false, 0⟩, .i32, .reg 5, .none, 0, .reg 6, .reg 17, .reg 0, ⟨true, true⟩, no, no⟩),
    (0x0090705001844000, .and ⟨⟨false, 0⟩, .n64, .reg 5, .none, 0, .reg 6, .reg 17, .reg 0, no, no, no⟩),
    (0x00A0305001844000, .or ⟨⟨false, 0⟩, .i64, .reg 5, .none, 0, .reg 6, .reg 17, .reg 0, no, no, no⟩),
    (0x00B0405001844000, .xor ⟨⟨false, 0⟩, .n8, .reg 5, .none, 0, .reg 6, .reg 17, .reg 0, no, no, no⟩),
    (0x00C0005001844000, .andn ⟨⟨false, 0⟩, .i8, .reg 5, .none, 0, .reg 6, .reg 17, .reg 0, no, no, no⟩),
    (0x00D0205001844000, .shl ⟨⟨false, 0⟩, .i32, .reg 5, .none, 0, .reg 6, .reg 17, .reg 0, no, no, no⟩),
    (0x00E0605001844000, .shr ⟨⟨false, 0⟩, .n32, .reg 5, .none, 0, .reg 6, .reg 17, .reg 0, no, no, no⟩),
    (0x00F0305001844000, .sra ⟨⟨false, 0⟩, .i64, .reg 5, .none, 0, .reg 6, .reg 17, .reg 0, no, no, no⟩),
    (0x0100405001844000, .rot ⟨⟨false, 0⟩, .n8, .reg 5, .none, 0, .reg 6, .reg 17, .reg 0, no, no, no⟩),
    (0x011071F004000000, .clz ⟨⟨false, 0⟩, .n64, .reg 31, .none, 0, .reg 16, .reg 0, .reg 0, no, no, no⟩),
    (0x0120101007800000, .popc ⟨⟨false, 0⟩, .i16, .reg 1, .none, 0, .reg 30, .reg 0, .reg 0, no, no, no⟩),
    (0x0130602000C00000, .bswap ⟨⟨false, 0⟩, .n32, .reg 2, .none, 0, .reg 3, .reg 0, .reg 0, no, no, no⟩),
    (0x014070500181C000, .extb ⟨⟨false, 0⟩, .n64, .reg 5, .none, 0, .reg 6, .reg 7, .reg 0, no, no, no⟩),
    (0x0150E0500181C200, .insb ⟨⟨false, 0⟩, .x, .reg 5, .none, 0, .reg 6, .reg 7, .reg 8, no, no, no⟩),
    (0x0160505001844000, .lea ⟨⟨false, 0⟩, .n16, .reg 5, .none, 0, .reg 6, .reg 17, .reg 0, no, no, no⟩)] = true := by decide +kernel

/-- R45, R58, R76 to R81. -/
theorem test_words_scalar_float : readsAll [
    (0x0400805741844024, .fadd ⟨⟨false, 0⟩, .fp32, .reg 5, .sat, 13, .reg 6, .reg 17, .reg 0, ⟨true, false⟩, ⟨false, true⟩, no⟩),
    (0x0410905001844000, .fsub ⟨⟨false, 0⟩, .bf16, .reg 5, .none, 0, .reg 6, .reg 17, .reg 0, no, no, no⟩),
    (0x0420A059C1844000, .fmul ⟨⟨false, 0⟩, .fp16, .reg 5, .c01, 7, .reg 6, .reg 17, .reg 0, no, no, no⟩),
    (0x0433801C0080C109, .fma ⟨⟨false, 3⟩, .fp32, .reg 1, .c11, 0, .reg 2, .reg 3, .reg 4, no, ⟨true, false⟩, ⟨false, true⟩⟩),
    (0x0440905001844000, .fmin ⟨⟨false, 0⟩, .bf16, .reg 5, .none, 0, .reg 6, .reg 17, .reg 0, no, no, no⟩),
    (0x0450A05001844000, .fmax ⟨⟨false, 0⟩, .fp16, .reg 5, .none, 0, .reg 6, .reg 17, .reg 0, no, no, no⟩),
    (0x046080F00181C180, .fcmp ⟨⟨false, 0⟩, .fp32, .reg 15, .none, 0, .reg 6, .reg 7, .reg 6, no, no, no⟩),
    (0x0470905001800200, .fcvt ⟨⟨false, 0⟩, .bf16, .reg 5, .none, 0, .reg 6, .reg 0, .reg 8, no, no, no⟩),
    (0x0480A05001800000, .fclass ⟨⟨false, 0⟩, .fp16, .reg 5, .none, 0, .reg 6, .reg 0, .reg 0, no, no, no⟩)] = true := by decide +kernel

/-- R45, R58, R71 to R75, R82. -/
theorem test_words_conditions_and_moves : readsAll [
    (0x060040E00181C140, .cmp ⟨⟨false, 0⟩, .n8, .reg 14, .none, 0, .reg 6, .reg 7, .reg 5, no, no, no⟩),
    (0x0610002000C10140, .cbit ⟨⟨false, 0⟩, .i8, .reg 2, .none, 0, .reg 3, .reg 4, .reg 5, no, no, no⟩),
    (0x0620009000400000, .cset ⟨⟨false, 0⟩, .i8, .reg 9, .none, 0, .reg 1, .reg 0, .reg 0, no, no, no⟩),
    (0x0639E030010143C0, .sel ⟨⟨true, 1⟩, .x, .reg 3, .none, 0, .reg 4, .reg 5, .reg 15, no, no, no⟩),
    (0x0640E09002000000, .movSS ⟨⟨false, 0⟩, .x, .reg 9, .none, 0, .reg 8, .reg 0, .reg 0, no, no, no⟩),
    (0x0650E09000C00000, .movSA ⟨⟨false, 0⟩, .x, .reg 9, .none, 0, .reg 3, .reg 0, .reg 0, no, no, no⟩),
    (0x0660E09000000000, .movSC ⟨⟨false, 0⟩, .x, .reg 9, .none, 0, .reg 0, .reg 0, .reg 0, no, no, no⟩),
    (0x0670E00001C00000, .movCS ⟨⟨false, 0⟩, .x, .reg 0, .none, 0, .reg 7, .reg 0, .reg 0, no, no, no⟩),
    (0x0680E04001800000, .movSP ⟨⟨false, 0⟩, .x, .reg 4, .none, 0, .reg 6, .reg 0, .reg 0, no, no, no⟩),
    (0x0690E06001000000, .movPS ⟨⟨false, 0⟩, .x, .reg 6, .none, 0, .reg 4, .reg 0, .reg 0, no, no, no⟩),
    (0x06A0E0B001C00000, .movSQ ⟨⟨false, 0⟩, .x, .reg 11, .none, 0, .reg 7, .reg 0, .reg 0, no, no, no⟩),
    (0x06B0E07002C00000, .movQS ⟨⟨false, 0⟩, .x, .reg 7, .none, 0, .reg 11, .reg 0, .reg 0, no, no, no⟩),
    (0x06C0007005400000, .gets ⟨⟨false, 0⟩, .i8, .reg 7, .none, 0, .reg 21, .reg 0, .reg 0, no, no, no⟩),
    (0x06D000F001C00000, .puts ⟨⟨false, 0⟩, .i8, .reg 15, .none, 0, .reg 7, .reg 0, .reg 0, no, no, no⟩)] = true := by decide +kernel

/-- R45, R58, R69, R70. -/
theorem test_words_immediates : readsAll [
    (0x4010204098000001, .addi ⟨⟨false, 0⟩, .i32, .reg 4, .reg 9, 0x8000001⟩),
    (0x402F704097FFFFFF, .andi ⟨⟨true, 7⟩, .n64, .reg 4, .reg 9, 0x7FFFFFF⟩),
    (0x4030004090000055, .ori ⟨⟨false, 0⟩, .i8, .reg 4, .reg 9, 0x55⟩),
    (0x404050409FFFFFFF, .xori ⟨⟨false, 0⟩, .n16, .reg 4, .reg 9, 0xFFFFFFF⟩),
    (0x405030401000003F, .shli ⟨⟨false, 0⟩, .i64, .reg 4, .reg 1, 0x3F⟩),
    (0x4060404010000007, .shri ⟨⟨false, 0⟩, .n8, .reg 4, .reg 1, 0x7⟩),
    (0x407020401000001F, .srai ⟨⟨false, 0⟩, .i32, .reg 4, .reg 1, 0x1F⟩),
    (0x408011F000001234, .movi ⟨⟨false, 0⟩, .i16, .reg 31, .reg 0, 0x1234⟩),
    (0x4090E0302003BEEF, .movhi ⟨⟨false, 0⟩, .x, .reg 3, .reg 2, 0x3BEEF⟩)] = true := by decide +kernel

/-- R45, R58, R126 to R131. -/
theorem test_words_vector_arithmetic : readsAll [
    (0x100080560191C020, .vadd ⟨⟨false, 0⟩, .fp32, .reg 5, .sat, 8, .reg 6, .inc 7, .reg 0, ⟨true, false⟩, no, no⟩),
    (0x101010540191C000, .vsub ⟨⟨false, 0⟩, .i16, .reg 5, .sat, 0, .reg 6, .inc 7, .reg 0, no, no, no⟩),
    (0x102490500191C000, .vmul ⟨⟨false, 4⟩, .bf16, .reg 5, .none, 0, .reg 6, .inc 7, .reg 0, no, no, no⟩),
    (0x1030804C406090C2, .vfma ⟨⟨false, 0⟩, .fp32, .reg 4, .c11, 1, .reg 1, .str 2, .inc 3, no, no, ⟨true, false⟩⟩),
    (0x104040500191C000, .vmin ⟨⟨false, 0⟩, .n8, .reg 5, .none, 0, .reg 6, .inc 7, .reg 0, no, no, no⟩),
    (0x105030500191C000, .vmax ⟨⟨false, 0⟩, .i64, .reg 5, .none, 0, .reg 6, .inc 7, .reg 0, no, no, no⟩),
    (0x1060A0500191C000, .vdiv ⟨⟨false, 0⟩, .fp16, .reg 5, .none, 0, .reg 6, .inc 7, .reg 0, no, no, no⟩),
    (0x1070887000C00000, .vrcp ⟨⟨false, 0⟩, .fp32, .str 7, .none, 0, .reg 3, .reg 0, .reg 0, no, no, no⟩),
    (0x1080907011800000, .vrsq ⟨⟨false, 0⟩, .bf16, .reg 7, .none, 0, .inc 6, .reg 0, .reg 0, no, no, no⟩),
    (0x1090A47021800000, .vsqrt ⟨⟨false, 0⟩, .fp16, .inc 7, .none, 0, .str 6, .reg 0, .reg 0, no, no, no⟩),
    (0x10A070500191C000, .vmulh ⟨⟨false, 0⟩, .n64, .reg 5, .none, 0, .reg 6, .inc 7, .reg 0, no, no, no⟩),
    (0x10B000500191C000, .vand ⟨⟨false, 0⟩, .i8, .reg 5, .none, 0, .reg 6, .inc 7, .reg 0, no, no, no⟩),
    (0x10C050500191C000, .vor ⟨⟨false, 0⟩, .n16, .reg 5, .none, 0, .reg 6, .inc 7, .reg 0, no, no, no⟩),
    (0x10D020500191C000, .vxor ⟨⟨false, 0⟩, .i32, .reg 5, .none, 0, .reg 6, .inc 7, .reg 0, no, no, no⟩),
    (0x10E060500191C000, .vshl ⟨⟨false, 0⟩, .n32, .reg 5, .none, 0, .reg 6, .inc 7, .reg 0, no, no, no⟩),
    (0x10F030500191C000, .vshr ⟨⟨false, 0⟩, .i64, .reg 5, .none, 0, .reg 6, .inc 7, .reg 0, no, no, no⟩),
    (0x110000500191C000, .vsra ⟨⟨false, 0⟩, .i8, .reg 5, .none, 0, .reg 6, .inc 7, .reg 0, no, no, no⟩),
    (0x1110405001800000, .vpopc ⟨⟨false, 0⟩, .n8, .reg 5, .none, 0, .reg 6, .reg 0, .reg 0, no, no, no⟩),
    (0x1120205001800000, .vclz ⟨⟨false, 0⟩, .i32, .reg 5, .none, 0, .reg 6, .reg 0, .reg 0, no, no, no⟩),
    (0x1130806001C20180, .vcmp ⟨⟨false, 0⟩, .fp32, .reg 6, .none, 0, .reg 7, .reg 8, .reg 6, no, no, no⟩),
    (0x1140409001C201C0, .vsel ⟨⟨false, 0⟩, .n8, .reg 9, .none, 0, .reg 7, .reg 8, .reg 7, no, no, no⟩)] = true := by decide +kernel

/-- R45, R58, R132 to R138. -/
theorem test_words_vector_conversion : readsAll [
    (0x1800805401800100, .frint ⟨⟨false, 0⟩, .fp32, .reg 5, .sat, 0, .reg 6, .reg 0, .reg 4, no, no, no⟩),
    (0x1810905081800000, .fexf ⟨⟨false, 0⟩, .bf16, .reg 5, .none, 2, .reg 6, .reg 0, .reg 0, no, no, no⟩),
    (0x182080500181C000, .finsx ⟨⟨false, 0⟩, .fp32, .reg 5, .none, 0, .reg 6, .reg 7, .reg 0, no, no, no⟩),
    (0x1830A05001800000, .fgetx ⟨⟨false, 0⟩, .fp16, .reg 5, .none, 0, .reg 6, .reg 0, .reg 0, no, no, no⟩),
    (0x1840905001800280, .vcvt ⟨⟨false, 0⟩, .bf16, .reg 5, .none, 0, .reg 6, .reg 0, .reg 10, no, no, no⟩),
    (0x1850804001C00240, .vwiden ⟨⟨false, 0⟩, .fp32, .reg 4, .none, 0, .reg 7, .reg 0, .reg 9, no, no, no⟩),
    (0x1860B07402000200, .vnarrow ⟨⟨false, 0⟩, .e4m3, .reg 7, .sat, 0, .reg 8, .reg 0, .reg 8, no, no, no⟩)] = true := by decide +kernel

/-- R45, R58, R139 to R144. -/
theorem test_words_vector_permute : readsAll [
    (0x1C00205001800000, .vbcast ⟨⟨false, 0⟩, .i32, .reg 5, .none, 0, .reg 6, .reg 0, .reg 0, no, no, no⟩),
    (0x1C1040500181C000, .vext ⟨⟨false, 0⟩, .n8, .reg 5, .none, 0, .reg 6, .reg 7, .reg 0, no, no, no⟩),
    (0x1C2030500181C000, .vins ⟨⟨false, 0⟩, .i64, .reg 5, .none, 0, .reg 6, .reg 7, .reg 0, no, no, no⟩),
    (0x1C3050500181C200, .vperm ⟨⟨false, 0⟩, .n16, .reg 5, .none, 0, .reg 6, .reg 7, .reg 8, no, no, no⟩),
    (0x1C4080500181C200, .vslide ⟨⟨false, 0⟩, .fp32, .reg 5, .none, 0, .reg 6, .reg 7, .reg 8, no, no, no⟩),
    (0x1C5040400181C000, .vzip ⟨⟨false, 0⟩, .n8, .reg 4, .none, 0, .reg 6, .reg 7, .reg 0, no, no, no⟩),
    (0x1C60404001800000, .vunzip ⟨⟨false, 0⟩, .n8, .reg 4, .none, 0, .reg 6, .reg 0, .reg 0, no, no, no⟩),
    (0x1C72A05001800000, .vcompress ⟨⟨false, 2⟩, .fp16, .reg 5, .none, 0, .reg 6, .reg 0, .reg 0, no, no, no⟩),
    (0x1C8A105001800000, .vexpand ⟨⟨true, 2⟩, .i16, .reg 5, .none, 0, .reg 6, .reg 0, .reg 0, no, no, no⟩),
    (0x1C90605000000000, .viota ⟨⟨false, 0⟩, .n32, .reg 5, .none, 0, .reg 0, .reg 0, .reg 0, no, no, no⟩),
    (0x1CA0805001800000, .vredadd ⟨⟨false, 0⟩, .fp32, .reg 5, .none, 0, .reg 6, .reg 0, .reg 0, no, no, no⟩),
    (0x1CB0005001800000, .vredmax ⟨⟨false, 0⟩, .i8, .reg 5, .none, 0, .reg 6, .reg 0, .reg 0, no, no, no⟩),
    (0x1CC0705001800000, .vredmin ⟨⟨false, 0⟩, .n64, .reg 5, .none, 0, .reg 6, .reg 0, .reg 0, no, no, no⟩),
    (0x1CD0805001800000, .vargmax ⟨⟨false, 0⟩, .fp32, .reg 5, .none, 0, .reg 6, .reg 0, .reg 0, no, no, no⟩),
    (0x1CE0205001800000, .vscan ⟨⟨false, 0⟩, .i32, .reg 5, .none, 0, .reg 6, .reg 0, .reg 0, no, no, no⟩),
    (0x1CF000100080C000, .pand ⟨⟨false, 0⟩, .i8, .reg 1, .none, 0, .reg 2, .reg 3, .reg 0, no, no, no⟩),
    (0x1D00004001418000, .por ⟨⟨false, 0⟩, .i8, .reg 4, .none, 0, .reg 5, .reg 6, .reg 0, no, no, no⟩),
    (0x1D10007000408000, .pxor ⟨⟨false, 0⟩, .i8, .reg 7, .none, 0, .reg 1, .reg 2, .reg 0, no, no, no⟩),
    (0x1D20003001000000, .pnot ⟨⟨false, 0⟩, .i8, .reg 3, .none, 0, .reg 4, .reg 0, .reg 0, no, no, no⟩),
    (0x1D30403001000000, .pfirst ⟨⟨false, 0⟩, .n8, .reg 3, .none, 0, .reg 4, .reg 0, .reg 0, no, no, no⟩),
    (0x1D40203002400000, .psetn ⟨⟨false, 0⟩, .i32, .reg 3, .none, 0, .reg 9, .reg 0, .reg 0, no, no, no⟩),
    (0x1D50309000C00000, .pcount ⟨⟨false, 0⟩, .i64, .reg 9, .none, 0, .reg 3, .reg 0, .reg 0, no, no, no⟩),
    (0x1D6050F000C00040, .ptest ⟨⟨false, 0⟩, .n16, .reg 15, .none, 0, .reg 3, .reg 0, .reg 1, no, no, no⟩)] = true := by decide +kernel

/-- R45, R58, R192 to R208, R267. -/
theorem test_words_memory : readsAll [
    (0x8010202044000000, .ld ⟨⟨false, 0⟩, .i32, .reg 2, .reg 4, 0x100000, .gm, .plain, .cl⟩),
    (0x802040204FFFFFFB, .st ⟨⟨false, 0⟩, .n8, .reg 2, .reg 4, 0x3FFFFF, .tcm, .rel, .sys⟩),
    (0x8030D02040000420, .ldv ⟨⟨false, 0⟩, .e2m1, .reg 2, .reg 4, 0x10, .sp, .plain, .cl⟩),
    (0x8040E02040000419, .stv ⟨⟨false, 0⟩, .x, .reg 2, .reg 4, 0x10, .cm, .rel, .die⟩),
    (0x8050902040000400, .ldvs ⟨⟨false, 0⟩, .bf16, .reg 2, .reg 4, 0x10, .gm, .plain, .cl⟩),
    (0x8060702040000430, .stvs ⟨⟨false, 0⟩, .n64, .reg 2, .reg 4, 0x10, .tcm, .plain, .cl⟩),
    (0x807080204000C240, .ldg ⟨⟨false, 0⟩, .fp32, .reg 2, .reg 4, 0x309, .gm, .plain, .cl⟩),
    (0x808000204FFFC7E0, .stg ⟨⟨false, 0⟩, .i8, .reg 2, .reg 4, 0x3FFF1F, .sp, .plain, .cl⟩),
    (0x840070204000040E, .aadd ⟨⟨false, 0⟩, .n64, .reg 2, .reg 4, 0x10, .gm, .both, .part⟩),
    (0x8410202040000400, .amin ⟨⟨false, 0⟩, .i32, .reg 2, .reg 4, 0x10, .gm, .plain, .cl⟩),
    (0x8420602040000404, .amax ⟨⟨false, 0⟩, .n32, .reg 2, .reg 4, 0x10, .gm, .acq, .cl⟩),
    (0x8430302040000408, .aand ⟨⟨false, 0⟩, .i64, .reg 2, .reg 4, 0x10, .gm, .rel, .cl⟩),
    (0x8440202040000400, .aor ⟨⟨false, 0⟩, .i32, .reg 2, .reg 4, 0x10, .gm, .plain, .cl⟩),
    (0x8450702040000420, .axor ⟨⟨false, 0⟩, .n64, .reg 2, .reg 4, 0x10, .sp, .plain, .cl⟩),
    (0x8460202040000430, .aswap ⟨⟨false, 0⟩, .i32, .reg 2, .reg 4, 0x10, .tcm, .plain, .cl⟩),
    (0x847030204000040F, .acas ⟨⟨false, 0⟩, .i64, .reg 2, .reg 4, 0x10, .gm, .both, .sys⟩),
    (0x8480802040000400, .aaddf ⟨⟨false, 0⟩, .fp32, .reg 2, .reg 4, 0x10, .gm, .plain, .cl⟩),
    (0x8490802040000404, .cellrd ⟨⟨false, 0⟩, .fp32, .reg 2, .reg 4, 0x10, .gm, .acq, .cl⟩),
    (0x860000000000000F, .fence ⟨⟨false, 0⟩, .i8, .reg 0, .reg 0, 0x0, .gm, .both, .sys⟩),
    (0x8610002040000405, .fencer ⟨⟨false, 0⟩, .i8, .reg 2, .reg 4, 0x10, .gm, .acq, .die⟩),
    (0x8620802040000430, .ldf ⟨⟨false, 0⟩, .fp32, .reg 2, .reg 4, 0x10, .tcm, .plain, .cl⟩),
    (0x8620202040000424, .ldfEmpty ⟨⟨false, 0⟩, .i32, .reg 2, .reg 4, 0x10, .sp, .acq, .cl⟩),
    (0x8630602040000430, .stf ⟨⟨false, 0⟩, .n32, .reg 2, .reg 4, 0x10, .tcm, .plain, .cl⟩),
    (0x8640002040000420, .clre ⟨⟨false, 0⟩, .i8, .reg 2, .reg 4, 0x10, .sp, .plain, .cl⟩),
    (0x9900802040000420, .gmask ⟨⟨false, 0⟩, .fp32, .reg 2, .reg 4, 0x10, .sp, .plain, .cl⟩),
    (0x9910002040000430, .gwait ⟨⟨false, 0⟩, .i8, .reg 2, .reg 4, 0x10, .tcm, .plain, .cl⟩)] = true := by decide +kernel

/-- R45, R58, R209 to R219. -/
theorem test_words_tasks : readsAll [
    (0x8800002040000400, .tnew ⟨⟨false, 0⟩, .i8, .reg 2, .reg 4, 0x10, .gm, .plain, .cl⟩),
    (0x8810002040000400, .twin ⟨⟨false, 0⟩, .i8, .reg 2, .reg 4, 0x10, .gm, .plain, .cl⟩),
    (0x8820002040000400, .tsubmit ⟨⟨false, 0⟩, .i8, .reg 2, .reg 4, 0x10, .gm, .plain, .cl⟩),
    (0x8830002040000400, .twait ⟨⟨false, 0⟩, .i8, .reg 2, .reg 4, 0x10, .gm, .plain, .cl⟩),
    (0x8840002040000400, .tstat ⟨⟨false, 0⟩, .i8, .reg 2, .reg 4, 0x10, .gm, .plain, .cl⟩),
    (0x8850000040001000, .tcancel ⟨⟨false, 0⟩, .i8, .reg 0, .reg 4, 0x40, .gm, .plain, .cl⟩),
    (0x886000004FFFF000, .tretry ⟨⟨false, 0⟩, .i8, .reg 0, .reg 4, 0x3FFFC0, .gm, .plain, .cl⟩),
    (0x8870002040000000, .tabort ⟨⟨false, 0⟩, .i8, .reg 2, .reg 4, 0x0, .gm, .plain, .cl⟩),
    (0x8880002040000200, .fcwait ⟨⟨false, 0⟩, .i8, .reg 2, .reg 4, 0x8, .gm, .plain, .cl⟩),
    (0x8890002040000200, .fcadd ⟨⟨false, 0⟩, .i8, .reg 2, .reg 4, 0x8, .gm, .plain, .cl⟩)] = true := by decide +kernel

/-- R45, R58, R235, R243, R255, R259. -/
theorem test_words_engines : readsAll [
    (0x8C00002040004262, .cpy ⟨⟨false, 0⟩, .i8, .reg 2, .reg 4, 0x109, .sp, .plain, .part⟩),
    (0x8C10002040000270, .cpyf ⟨⟨false, 0⟩, .i8, .reg 2, .reg 4, 0x9, .tcm, .plain, .cl⟩),
    (0x8C20002040000250, .gath ⟨⟨false, 0⟩, .i8, .reg 2, .reg 4, 0x9, .cm, .plain, .cl⟩),
    (0x8C30002040000240, .scat ⟨⟨false, 0⟩, .i8, .reg 2, .reg 4, 0x9, .gm, .plain, .cl⟩),
    (0x8C40002040000260, .fill ⟨⟨false, 0⟩, .i8, .reg 2, .reg 4, 0x9, .sp, .plain, .cl⟩),
    (0x8C50007000000000, .jwait ⟨⟨false, 0⟩, .i8, .reg 7, .reg 0, 0x0, .gm, .plain, .cl⟩),
    (0x8C60002040000000, .jstat ⟨⟨false, 0⟩, .i8, .reg 2, .reg 4, 0x0, .gm, .plain, .cl⟩),
    (0x8C70002040000270, .rput ⟨⟨false, 0⟩, .i8, .reg 2, .reg 4, 0x9, .tcm, .plain, .cl⟩),
    (0x8C80002040000424, .rgetTake ⟨⟨false, 0⟩, .i8, .reg 2, .reg 4, 0x10, .sp, .acq, .cl⟩),
    (0x8C8000204000043C, .rgetPoll ⟨⟨false, 0⟩, .i8, .reg 2, .reg 4, 0x10, .tcm, .both, .cl⟩),
    (0x8C80000040000028, .rgetDone ⟨⟨false, 0⟩, .i8, .reg 0, .reg 4, 0x0, .sp, .rel, .cl⟩),
    (0x8C90002040000270, .feed ⟨⟨false, 0⟩, .i8, .reg 2, .reg 4, 0x9, .tcm, .plain, .cl⟩),
    (0x8CA0007000000000, .unfeed ⟨⟨false, 0⟩, .i8, .reg 7, .reg 0, 0x0, .gm, .plain, .cl⟩),
    (0x8CB0002040000253, .coll ⟨⟨false, 0⟩, .i8, .reg 2, .reg 4, 0x9, .cm, .plain, .sys⟩)] = true := by decide +kernel

/-- R45, R58, R262, R274 to R279. -/
theorem test_words_matrix : readsAll [
    (0x900090D040008020, .mwld ⟨⟨false, 0⟩, .bf16, .reg 13, .reg 4, 0x200, .sp, .plain, .cl⟩),
    (0x901000D000000000, .mwswap ⟨⟨false, 0⟩, .i8, .reg 13, .reg 0, 0x0, .gm, .plain, .cl⟩),
    (0x902000C000000004, .mzero ⟨⟨false, 0⟩, .i8, .reg 12, .reg 0, 0x0, .gm, .acq, .cl⟩),
    (0x903090D040008230, .mdrain ⟨⟨false, 0⟩, .bf16, .reg 13, .reg 4, 0x208, .tcm, .plain, .cl⟩),
    (0x910000D040400020, .mstreamBf16Bf16 ⟨⟨false, 0⟩, .i8, .reg 13, .reg 4, 0x10000, .sp, .plain, .cl⟩),
    (0x911000D040400020, .mstreamFp16Fp16 ⟨⟨false, 0⟩, .i8, .reg 13, .reg 4, 0x10000, .sp, .plain, .cl⟩),
    (0x912000D040400020, .mstreamE4m3E4m3 ⟨⟨false, 0⟩, .i8, .reg 13, .reg 4, 0x10000, .sp, .plain, .cl⟩),
    (0x913000D040400020, .mstreamE4m3E5m2 ⟨⟨false, 0⟩, .i8, .reg 13, .reg 4, 0x10000, .sp, .plain, .cl⟩),
    (0x914000D040400020, .mstreamE5m2E4m3 ⟨⟨false, 0⟩, .i8, .reg 13, .reg 4, 0x10000, .sp, .plain, .cl⟩),
    (0x915000D040400020, .mstreamE5m2E5m2 ⟨⟨false, 0⟩, .i8, .reg 13, .reg 4, 0x10000, .sp, .plain, .cl⟩),
    (0x916000D0404001E0, .mstreamMxe4m3Mxe4m3 ⟨⟨false, 0⟩, .i8, .reg 13, .reg 4, 0x10007, .sp, .plain, .cl⟩),
    (0x917000D0404001E0, .mstreamMxe2m1Mxe2m1 ⟨⟨false, 0⟩, .i8, .reg 13, .reg 4, 0x10007, .sp, .plain, .cl⟩),
    (0x918000D0404001E0, .mstreamMxe2m1Mxe4m3 ⟨⟨false, 0⟩, .i8, .reg 13, .reg 4, 0x10007, .sp, .plain, .cl⟩),
    (0x919000D040400020, .mstreamI8I8 ⟨⟨false, 0⟩, .i8, .reg 13, .reg 4, 0x10000, .sp, .plain, .cl⟩)] = true := by decide +kernel

/-- R45, R58, R264 to R266, R290 to R306. -/
theorem test_words_sequences_and_lists : readsAll [
    (0x9800002040000000, .ssopen ⟨⟨false, 0⟩, .i8, .reg 2, .reg 4, 0x0, .gm, .plain, .cl⟩),
    (0x9810002040000420, .ssload ⟨⟨false, 0⟩, .i8, .reg 2, .reg 4, 0x10, .sp, .plain, .cl⟩),
    (0x9820002040000430, .sssave ⟨⟨false, 0⟩, .i8, .reg 2, .reg 4, 0x10, .tcm, .plain, .cl⟩),
    (0x9830002040000000, .ssnap ⟨⟨false, 0⟩, .i8, .reg 2, .reg 4, 0x0, .gm, .plain, .cl⟩),
    (0x9840002040000000, .ssrewind ⟨⟨false, 0⟩, .i8, .reg 2, .reg 4, 0x0, .gm, .plain, .cl⟩),
    (0x9850002040000240, .ssfork ⟨⟨false, 0⟩, .i8, .reg 2, .reg 4, 0x9, .gm, .plain, .cl⟩),
    (0x9860005000000000, .ssclose ⟨⟨false, 0⟩, .i8, .reg 5, .reg 0, 0x0, .gm, .plain, .cl⟩),
    (0x9880002040000000, .smopen ⟨⟨false, 0⟩, .i8, .reg 2, .reg 4, 0x0, .gm, .plain, .cl⟩),
    (0x9890002040000000, .smpost ⟨⟨false, 0⟩, .i8, .reg 2, .reg 4, 0x0, .gm, .plain, .cl⟩),
    (0x98A0002040000000, .smtake ⟨⟨false, 0⟩, .i8, .reg 2, .reg 4, 0x0, .gm, .plain, .cl⟩),
    (0x98B0802040000240, .smnoise ⟨⟨false, 0⟩, .fp32, .reg 2, .reg 4, 0x9, .gm, .plain, .cl⟩),
    (0x9980002040004260, .tkstep ⟨⟨false, 0⟩, .i8, .reg 2, .reg 4, 0x109, .sp, .plain, .cl⟩),
    (0x9A0000204000020F, .lmove ⟨⟨false, 0⟩, .i8, .reg 2, .reg 4, 0x8, .gm, .both, .sys⟩),
    (0x9A10002040000410, .lpop ⟨⟨false, 0⟩, .i8, .reg 2, .reg 4, 0x10, .cm, .plain, .cl⟩),
    (0x9A20002040000408, .lpush ⟨⟨false, 0⟩, .i8, .reg 2, .reg 4, 0x10, .gm, .rel, .cl⟩)] = true := by decide +kernel

/-- R45, R58, R85 to R97, R234. -/
theorem test_words_control : readsAll [
    (0xC000146700000000, .next ⟨⟨false, 0⟩, 5, 3, 7, 0x0⟩),
    (0xC109FC6A0000000B, .matchT ⟨⟨true, 1⟩, 63, 3, 10, 0xB⟩),
    (0xC1100C8500000000, .tbw ⟨⟨false, 0⟩, 3, 4, 5, 0x0⟩),
    (0xC1200C8500000001, .tbr ⟨⟨false, 0⟩, 3, 4, 5, 0x1⟩),
    (0xC1300C0000000000, .tbclr ⟨⟨false, 0⟩, 3, 0, 0, 0x0⟩),
    (0xC140100000000000, .tbcopy ⟨⟨false, 0⟩, 4, 0, 0, 0x0⟩),
    (0xC150140000000000, .tbflip ⟨⟨false, 0⟩, 5, 0, 0, 0x0⟩),
    (0xC160180000000000, .tbpin ⟨⟨false, 0⟩, 6, 0, 0, 0x0⟩),
    (0xC1701C0000000000, .tbunpin ⟨⟨false, 0⟩, 7, 0, 0, 0x0⟩),
    (0xC20000000000BEEF, .trap ⟨⟨false, 0⟩, 0, 0, 0, 0xBEEF⟩),
    (0xC210006400000002, .resume ⟨⟨false, 0⟩, 0, 3, 4, 0x2⟩),
    (0xC225000000000012, .brk ⟨⟨false, 5⟩, 0, 0, 0, 0x12⟩),
    (0xC230000000000000, .nop ⟨⟨false, 0⟩, 0, 0, 0, 0x0⟩),
    (0xC240000000FFFFFF, .waite ⟨⟨false, 0⟩, 0, 0, 0, 0xFFFFFF⟩),
    (0xC280006000008000, .gjoin ⟨⟨false, 0⟩, 0, 3, 0, 0x8000⟩),
    (0xC290006000000001, .gleave ⟨⟨false, 0⟩, 0, 3, 0, 0x1⟩),
    (0xC2A000600000000F, .gbar ⟨⟨false, 0⟩, 0, 3, 0, 0xF⟩),
    (0xC2B0006900008FFF, .gsize ⟨⟨false, 0⟩, 0, 3, 9, 0x8FFF⟩),
    (0xC3F0008500000034, .xinv ⟨⟨false, 0⟩, 0, 4, 5, 0x34⟩)] = true := by decide +kernel


/-! ### Well-formedness: for each check, a term that breaks it alone -/

def r (f : RegForm → RegForm) : RegForm := f zeroReg
def m (f : MemForm → MemForm) : MemForm := f zeroMem
def k (f : CtlForm → CtlForm) : CtlForm := f zeroCtl
def im (f : ImmForm → ImmForm) : ImmForm := f zeroImm

/-- The terms that the tests below each break in one place are well formed (R66 to R97, R126, R192, R209). -/
theorem test_wf_bases :
    ([.add zeroReg, .extb (r ({ · with t := .n64 })), .insb (r ({ · with t := .x })), .fadd (r ({ · with t := .fp32 })),
      .fmin (r ({ · with t := .fp32 })),
      .fcvt (r ({ · with t := .fp32, s3 := .reg 9 })), .cmp zeroReg, .gets zeroReg, .puts (r ({ · with dst := .reg 13 })),
      .movSA (r ({ · with t := .x })), .movPS (r ({ · with t := .x })), .movSQ (r ({ · with t := .x })),
      .addi zeroImm, .shli zeroImm, .movi zeroImm, .movhi (im ({ · with t := .x })), .vadd zeroReg,
      .vcmp zeroReg, .vcvt (r ({ · with s3 := .reg 4 })), .vwiden (r ({ · with t := .i16, s3 := .reg 0 })),
      .vnarrow (r ({ · with s3 := .reg 1 })), .vzip zeroReg, .frint (r ({ · with t := .fp32 })), .vmin zeroReg,
      .ld zeroMem, .ldg (m ({ · with off := 3 })), .acas (m ({ · with t := .i32 })), .tnew zeroMem, .cpy zeroMem,
      .mwld (m ({ · with space := .sp })), .mdrain (m ({ · with t := .bf16, space := .sp, off := 8 })),
      .ssfork zeroMem, .tkstep (m ({ · with space := .sp })), .rgetTake (m ({ · with data := .reg 2, space := .sp, order := .acq })),
      .rgetDone (m ({ · with space := .sp, order := .rel })), .rgetPoll (m ({ · with data := .reg 2, space := .sp, order := .both })),
      .ldf (m ({ · with t := .i32, space := .sp })), .ldfEmpty (m ({ · with t := .i32, space := .sp, order := .acq })),
      .next zeroCtl, .matchT (k ({ · with ind := 1 })), .tbw zeroCtl, .tbr zeroCtl, .tbclr zeroCtl, .trap zeroCtl,
      .resume zeroCtl, .nop zeroCtl, .waite zeroCtl, .gjoin zeroCtl, .gsize zeroCtl,
      .xinv (k ({ · with subop := 0x34 }))] : List Instr).all Instr.wf = true := by decide

/-- R66, R55: a type the row does not accept. -/
theorem test_wf_reg_type : Instr.wf (.add (r ({ · with t := .fp32 }))) = false := by decide
/-- R66: a stream where the row takes a scalar register. -/
theorem test_wf_reg_scalar : Instr.wf (.add (r ({ · with dst := .str 0 }))) = false := by decide
/-- R66: a source field that must be zero. -/
theorem test_wf_reg_zero : Instr.wf (.add (r ({ · with s3 := .reg 1 }))) = false := by decide
/-- R72, R75: condition bits 0 to 15, parameters 0 to 3, predicates and streams 0 to 7. -/
theorem test_wf_reg_condition : Instr.wf (.cmp (r ({ · with dst := .reg 16 }))) = false := by decide
theorem test_wf_reg_parameter : Instr.wf (.movSA (r ({ · with t := .x, s1 := .reg 4 }))) = false := by decide
theorem test_wf_reg_predicate : Instr.wf (.movPS (r ({ · with t := .x, dst := .reg 8 }))) = false := by decide
theorem test_wf_reg_stream : Instr.wf (.movSQ (r ({ · with t := .x, s1 := .reg 8 }))) = false := by decide
/-- R71, R82: a literal out of its range; a status register that cannot be written. -/
theorem test_wf_reg_literal : Instr.wf (.cmp (r ({ · with s3 := .reg 6 }))) = false := by decide
theorem test_wf_reg_status : Instr.wf (.gets (r ({ · with s1 := .reg 22 }))) = false := by decide
theorem test_wf_reg_writable : Instr.wf (.puts (r ({ · with dst := .reg 12 }))) = false := by decide
/-- R80, R136 to R138: a pair of types the row does not take; no source type at all. -/
theorem test_wf_pair_fcvt : Instr.wf (.fcvt (r ({ · with t := .i8, s3 := .reg 3 }))) = false := by decide
theorem test_wf_pair_vcvt : Instr.wf (.vcvt (r ({ · with s3 := .reg 2 }))) = false := by decide
theorem test_wf_pair_vwiden : Instr.wf (.vwiden (r ({ · with t := .i8, s3 := .reg 1 }))) = false := by decide
theorem test_wf_pair_vnarrow : Instr.wf (.vnarrow (r ({ · with t := .i16, s3 := .reg 0 }))) = false := by decide
theorem test_wf_pair_reserved : Instr.wf (.vcvt (r ({ · with s3 := .reg 15 }))) = false := by decide
/-- R50: a modifier on an n type, on each source, in a row without modifiers, and on `EXTB`'s descriptor. -/
theorem test_wf_mod_unsigned :
    Instr.wf (.add (r ({ · with t := .n8, m1 := ⟨true, false⟩ }))) = false := by decide
theorem test_wf_mod_second :
    Instr.wf (.add (r ({ · with t := .n8, m2 := ⟨false, true⟩ }))) = false := by decide
theorem test_wf_mod_third : Instr.wf (.add (r ({ · with m3 := ⟨true, false⟩ }))) = false := by decide
theorem test_wf_mod_row : Instr.wf (.insb (r ({ · with t := .x, m1 := ⟨true, false⟩ }))) = false := by decide
theorem test_wf_mod_extb : Instr.wf (.extb (r ({ · with t := .i64, m2 := ⟨true, false⟩ }))) = false := by decide
/-- R51, R66, R80, R126, R136: clamps and scales where the row takes none. -/
theorem test_wf_clamp_none : Instr.wf (.cmp (r ({ · with clamp := .sat }))) = false := by decide
theorem test_wf_clamp_sat : Instr.wf (.add (r ({ · with clamp := .c01 }))) = false := by decide
theorem test_wf_scale_sat : Instr.wf (.add (r ({ · with scale := 1 }))) = false := by decide
theorem test_wf_clamp_full : Instr.wf (.vadd (r ({ · with clamp := .c11 }))) = false := by decide
theorem test_wf_scale_only : Instr.wf (.frint (r ({ · with t := .fp32, scale := 1 }))) = false := by decide
theorem test_wf_clamp_fcvt :
    Instr.wf (.fcvt (r ({ · with t := .i32, s3 := .reg 8, clamp := .sat }))) = false := by decide
theorem test_wf_clamp_vcvt :
    Instr.wf (.vcvt (r ({ · with s3 := .reg 4, clamp := .c01 }))) = false := by decide
theorem test_wf_clamp_narrow : Instr.wf (.vnarrow (r ({ · with s3 := .reg 1, scale := 1 }))) = false := by decide
/-- R53: a stream register post-incremented twice. -/
theorem test_wf_increments : Instr.wf (.vadd (r ({ · with s1 := .inc 3, s2 := .inc 3 }))) = false := by decide
/-- R130: the unordered relation of integers. -/
theorem test_wf_unordered : Instr.wf (.vcmp (r ({ · with s3 := .reg 6 }))) = false := by decide
/-- R44: a group that does not start at a multiple of its size. -/
theorem test_wf_group : Instr.wf (.vzip (r ({ · with dst := .reg 1 }))) = false := by decide
theorem test_wf_group_wide :
    Instr.wf (.vwiden (r ({ · with t := .i16, s3 := .reg 0, dst := .reg 1 }))) = false := by decide

/-- R69, R70: operands in register mode, the type, the shift amount, `MOVI`'s zero source, `MOVHI`'s field. -/
theorem test_wf_imm_dst : Instr.wf (.addi (im ({ · with dst := .inc 1 }))) = false := by decide
theorem test_wf_imm_src : Instr.wf (.addi (im ({ · with src := .str 1 }))) = false := by decide
theorem test_wf_imm_type : Instr.wf (.addi (im ({ · with t := .fp32 }))) = false := by decide
theorem test_wf_imm_shift : Instr.wf (.shli (im ({ · with imm := 8 }))) = false := by decide
theorem test_wf_imm_movi : Instr.wf (.movi (im ({ · with src := .reg 1 }))) = false := by decide
theorem test_wf_imm_movhi : Instr.wf (.movhi (im ({ · with t := .x, imm := 0x40000 }))) = false := by decide
theorem test_wf_imm_movhi_type : Instr.wf (.movhi (im ({ · with t := .i64 }))) = false := by decide

/-- R192 to R208: DATA, TYPE, BASE, SPACE, ORDER, SCOPE and the carved OFFSET. -/
theorem test_wf_mem_data : Instr.wf (.ld (m ({ · with data := .inc 1 }))) = false := by decide
theorem test_wf_mem_even : Instr.wf (.acas (m ({ · with t := .i32, data := .reg 3 }))) = false := by decide
theorem test_wf_mem_vector : Instr.wf (.ldv (m ({ · with data := .str 1 }))) = false := by decide
theorem test_wf_mem_type : Instr.wf (.ld (m ({ · with t := .e4m3 }))) = false := by decide
theorem test_wf_mem_base : Instr.wf (.ld (m ({ · with base := .inc 1 }))) = false := by decide
theorem test_wf_mem_space : Instr.wf (.tnew (m ({ · with space := .sp }))) = false := by decide
theorem test_wf_mem_order : Instr.wf (.ld (m ({ · with order := .rel }))) = false := by decide
theorem test_wf_mem_scope : Instr.wf (.tnew (m ({ · with scope := .die }))) = false := by decide
theorem test_wf_off_vector : Instr.wf (.ldg (m ({ · with off := 32 }))) = false := by decide
theorem test_wf_off_scalar : Instr.wf (.tkstep (m ({ · with space := .sp, off := 0x40 }))) = false := by decide
theorem test_wf_off_only : Instr.wf (.ssfork (m ({ · with off := 0x100 }))) = false := by decide
theorem test_wf_off_zero : Instr.wf (.jstat (m ({ · with off := 1 }))) = false := by decide
theorem test_wf_off_carved : Instr.wf (.mstreamI8I8 (m ({ · with space := .sp, off := 1 }))) = false := by decide
theorem test_wf_off_layout : Instr.wf (.mwld (m ({ · with space := .sp, off := 2 }))) = false := by decide
theorem test_wf_off_drain :
    Instr.wf (.mdrain (m ({ · with t := .bf16, space := .sp, off := 0x18 }))) = false := by decide
/-- R255, R262, R272, R279: what single rows add. -/
theorem test_wf_rget_done :
    Instr.wf (.rgetDone (m ({ · with data := .reg 2, space := .sp, order := .rel }))) = false := by decide
theorem test_wf_rget_take : Instr.wf (.rgetTake (m ({ · with space := .sp, order := .acq }))) = false := by decide
theorem test_wf_mwld_packed :
    Instr.wf (.mwld (m ({ · with space := .sp, off := 1 }))) = false := by decide
theorem test_wf_mwld_plain :
    Instr.wf (.mwld (m ({ · with t := .e2m1, space := .sp }))) = false := by decide
theorem test_wf_mwld_door : Instr.wf (.mwld (m ({ · with space := .sp, order := .acq }))) = false := by decide
theorem test_wf_mdrain_pair :
    Instr.wf (.mdrain (m ({ · with t := .i32, space := .sp, off := 8 }))) = false := by decide
theorem test_wf_mdrain_door :
    Instr.wf (.mdrain (m ({ · with t := .bf16, space := .sp, off := 8, order := .acq }))) = false := by decide
theorem test_wf_mstream_door :
    Instr.wf (.mstreamI8I8 (m ({ · with space := .sp, order := .acq, data := .reg 3 }))) = false := by decide
/-- R192, R255: ORDER selects among the instructions of an opcode. -/
theorem test_wf_order_ldf :
    Instr.wf (.ldf (m ({ · with t := .i32, space := .sp, order := .acq }))) = false := by decide
theorem test_wf_order_ldfEmpty : Instr.wf (.ldfEmpty (m ({ · with t := .i32, space := .sp }))) = false := by
  decide
theorem test_wf_order_take :
    Instr.wf (.rgetTake (m ({ · with data := .reg 2, space := .sp, order := .both }))) = false := by decide
theorem test_wf_order_poll :
    Instr.wf (.rgetPoll (m ({ · with data := .reg 2, space := .sp, order := .acq }))) = false := by decide
theorem test_wf_order_done :
    Instr.wf (.rgetDone (m ({ · with data := .reg 2, space := .sp, order := .acq }))) = false := by decide

/-- R85 to R97, R234: the fields of format 11. -/
theorem test_wf_next_guard : Instr.wf (.next (k ({ · with g := ⟨true, 0⟩ }))) = false := by decide
theorem test_wf_next_subop : Instr.wf (.next (k ({ · with subop := 1 }))) = false := by decide
theorem test_wf_match_subop : Instr.wf (.matchT (k ({ · with ind := 1, subop := 32 }))) = false := by decide
theorem test_wf_match_same : Instr.wf (.matchT (k ({ · with ind := 1, subop := 1 }))) = false := by decide
theorem test_wf_tbw : Instr.wf (.tbw (k ({ · with subop := 1 }))) = false := by decide
theorem test_wf_tbr : Instr.wf (.tbr (k ({ · with subop := 2 }))) = false := by decide
theorem test_wf_tbclr : Instr.wf (.tbclr (k ({ · with key := 1 }))) = false := by decide
theorem test_wf_trap_table : Instr.wf (.trap (k ({ · with table := 1 }))) = false := by decide
theorem test_wf_trap_code : Instr.wf (.trap (k ({ · with subop := 0x10000 }))) = false := by decide
theorem test_wf_resume_mode : Instr.wf (.resume (k ({ · with subop := 3 }))) = false := by decide
theorem test_wf_resume_ind : Instr.wf (.resume (k ({ · with ind := 1 }))) = false := by decide
theorem test_wf_nop : Instr.wf (.nop (k ({ · with subop := 1 }))) = false := by decide
theorem test_wf_waite : Instr.wf (.waite (k ({ · with subop := 0x1000000 }))) = false := by decide
theorem test_wf_gjoin : Instr.wf (.gjoin (k ({ · with ind := 1 }))) = false := by decide
theorem test_wf_gsize : Instr.wf (.gsize (k ({ · with subop := 0x10000 }))) = false := by decide
theorem test_wf_xinv_span : Instr.wf (.xinv (k ({ · with subop := 0x37 }))) = false := by decide
theorem test_wf_xinv_stage : Instr.wf (.xinv (k ({ · with subop := 0x30 }))) = false := by decide
theorem test_wf_xinv_all : Instr.wf (.xinv (k ({ · with subop := 0x36 }))) = false := by decide
theorem test_wf_xinv_regs : Instr.wf (.xinv (k ({ · with subop := 0x35, key := 1 }))) = false := by decide

/-! ### A small machine -/

/-- The thread that `withFetchWord` places. -/
def fetcher : Thread := { Thread.blank with life := .here .ready, nthreads := 1 }

/-- One READY thread of a RUNNING task, in context 0 of partition 0, in full service. -/
def demoContext : Context := fetchContext

def demoWith (c : Context) : State :=
  { State.reset with
    stage := 5, clock := 16, mem := fetchTables []
    parts := [{ newPartition 0 1 [0] 0 30 0x4001 0 with ctxs := [c] }]
    cur := { Thread.blank with life := .here .ready, nthreads := 1 } }

def demo : State := demoWith demoContext

/-- Scalar registers of the issuing thread. -/
def regs (l : List (BitVec 5 × Word)) (s : State) : State :=
  { s with cur := l.foldl (fun h p => h.setS p.1 p.2) s.cur }

/-- Vector registers of the issuing thread. -/
def vregs (l : List (BitVec 5 × VWord)) (s : State) : State :=
  { s with cur := l.foldl (fun h p => h.setV p.1 p.2) s.cur }

/-- A property of the next state of an instruction. -/
def gives (i : Instr) (s : State) (p : State → Bool) : Bool :=
  match exec i s with
  | .next t => p t
  | .fault _ => false
  | .refused _ => false

/-- 32-bit elements in a register, element 0 first. -/
def elems (l : List Nat) : VWord := BitVec.ofNat 512 (l.foldr (fun e n => e + 2 ^ 32 * n) 0)

/-- Every integer type. -/
def ints : List Ty := [.i8, .i16, .i32, .i64, .n8, .n16, .n32, .n64]
def floats : List Ty := [.fp32, .bf16, .fp16]

/-! ### Single steps; what each expects is worked out from the rule it names -/

/-- s5 := s6 op s7, at a type. -/
def bin (t : Ty) : RegForm := r ({ · with t := t, dst := .reg 5, s1 := .reg 6, s2 := .reg 7 })
def s5 (v : Word) (s : State) : Bool := s.cur.sreg 5 == v && s.cur.pc == 1

/-- R66: 0x7FFFFFFF + 1 wraps; with `.sat` it stays. -/
theorem test_add_wraps :
    gives (.add (bin .i32)) (regs [(6, 0x7FFFFFFF), (7, 1)] demo) (s5 0xFFFFFFFF80000000) = true := by decide +kernel
theorem test_add_saturates :
    gives (.add { bin .i32 with clamp := .sat }) (regs [(6, 0x7FFFFFFF), (7, 1)] demo) (s5 0x7FFFFFFF) = true := by
  decide +kernel
/-- R66: an unsigned difference below zero saturates at zero. -/
theorem test_sub_saturates :
    gives (.sub { bin .n8 with clamp := .sat }) (regs [(6, 1), (7, 2)] demo) (s5 0) = true := by decide +kernel
/-- R66: −1 × −1 has high half 0 as i32 and 0xFFFFFFFE as n32. -/
theorem test_mulh_signed :
    gives (.mulh (bin .i32)) (regs [(6, 0xFFFFFFFF), (7, 0xFFFFFFFF)] demo) (s5 0) = true := by decide +kernel
theorem test_mulh_unsigned :
    gives (.mulh (bin .n32)) (regs [(6, 0xFFFFFFFF), (7, 0xFFFFFFFF)] demo) (s5 0xFFFFFFFE) = true := by decide +kernel
/-- R67: division by zero gives all ones, its remainder the dividend; −7 / 2 truncates to −3, remainder −1. -/
theorem test_div_zero : gives (.div (bin .n32)) (regs [(6, 9)] demo) (s5 0xFFFFFFFF) = true := by decide +kernel
theorem test_div_truncates :
    gives (.div (bin .i8)) (regs [(6, 0xF9), (7, 2)] demo) (s5 0xFFFFFFFFFFFFFFFD) = true := by decide +kernel
theorem test_rem_sign :
    gives (.rem (bin .i8)) (regs [(6, 0xF9), (7, 2)] demo) (s5 0xFFFFFFFFFFFFFFFF) = true := by decide +kernel
/-- R66: a shift amount counts modulo the width. -/
theorem test_shl_modulo : gives (.shl (bin .i32)) (regs [(6, 1), (7, 33)] demo) (s5 2) = true := by decide +kernel
theorem test_sra_sign :
    gives (.sra (bin .i16)) (regs [(6, 0x8000), (7, 15)] demo) (s5 0xFFFFFFFFFFFFFFFF) = true := by decide +kernel
theorem test_rot : gives (.rot (bin .n8)) (regs [(6, 0x81), (7, 1)] demo) (s5 0x03) = true := by decide +kernel
theorem test_clz_zero : gives (.clz (bin .n16)) demo (s5 16) = true := by decide +kernel
theorem test_bswap : gives (.bswap (bin .n32)) (regs [(6, 0x11223344)] demo) (s5 0x44332211) = true := by decide +kernel
/-- R68: a field that would pass bit 63 is cut there; a length of 0 gives zero. -/
theorem test_extb_cut :
    gives (.extb (bin .n64)) (regs [(6, 0xF000000000000000), (7, 0x083E)] demo) (s5 3) = true := by decide +kernel
theorem test_extb_none :
    gives (.extb (bin .n64)) (regs [(6, 0xFFFFFFFFFFFFFFFF)] demo) (s5 0) = true := by decide +kernel
theorem test_insb :
    gives (.insb { bin .x with s3 := .reg 8 }) (regs [(6, 0xFFFF), (7, 0), (8, 0x0404)] demo) (s5 0xFF0F) = true := by
  decide +kernel
/-- R70's example: `MOVHI.x s1, s0, #0x5678, #0` then `MOVHI.x s1, s1, #0x1234, #1` leave 0x12345678. -/
theorem test_movhi :
    gives (.movhi (im ({ · with t := .x, dst := .reg 5, src := .reg 6, imm := 0x11234 }))) (regs [(6, 0x5678)] demo)
      (s5 0x12345678) = true := by decide +kernel
/-- R69: the immediate is sign-extended. -/
theorem test_addi_negative :
    gives (.addi (im ({ · with t := .i64, dst := .reg 5, src := .reg 6, imm := 0xFFFFFFF }))) (regs [(6, 5)] demo)
      (s5 4) = true := by decide +kernel
/-- R71's example: `CMP.LT.i32 c0, s2, s0` with s2 = −12 writes 1. -/
theorem test_cmp_less :
    gives (.cmp (r ({ · with t := .i32, s1 := .reg 2, s3 := .reg 2 }))) (regs [(2, 0xFFFFFFFFFFFFFFF4)] demo)
      (fun t => t.cur.c == 1) = true := by decide +kernel
/-- R40: a write to s0 is discarded. -/
theorem test_zero_register :
    gives (.movSS (r ({ · with t := .x, s1 := .reg 6 }))) (regs [(6, 7)] demo)
      (fun t => t.cur.sreg 0 == 0 && t.cur.pc == 1) = true := by decide +kernel
/-- R82, R83: %vlanes is 16. -/
theorem test_gets_vlanes :
    gives (.gets (r ({ · with dst := .reg 5, s1 := .reg 6 }))) demo (s5 16) = true := by decide +kernel
/-- R82: a reserved bit of %rmode traps with cause 0x02. -/
theorem test_puts_reserved :
    gives (.puts (r ({ · with dst := .reg 13, s1 := .reg 6 }))) (regs [(6, 8)] demo)
      (fun t => t.cur.tcause == 2 && t.cur.rmode == 0 && t.cur.life == .here .parked) = true := by decide +kernel

/-- R77: 1 + 2^−24 ties to even, 1, inexact; 1 − 1 is +0. -/
theorem test_fadd_tie :
    gives (.fadd (bin .fp32)) (regs [(6, 0x3F800000), (7, 0x33800000)] demo)
      (fun t => s5 0x3F800000 t && t.cur.fflags == Fl.nx) = true := by decide +kernel
theorem test_fsub_zero :
    gives (.fsub (bin .fp32)) (regs [(6, 0x3F800000), (7, 0x3F800000)] demo)
      (fun t => s5 0 t && t.cur.fflags == 0) = true := by decide +kernel
/-- R77: 0 × ∞ is the canonical NaN, invalid. -/
theorem test_fmul_invalid :
    gives (.fmul (bin .fp16)) (regs [(7, 0x7C00)] demo)
      (fun t => s5 0x7E00 t && t.cur.fflags == Fl.nv) = true := by decide +kernel
/-- R77: the fused product is rounded once: (1 + 3·2^−7)² − 1 in bf16 is 0x3D42, and not 0x3D40. -/
theorem test_fma_once :
    gives (.fma { bin .bf16 with s3 := .reg 8 }) (regs [(6, 0x3F83), (7, 0x3F83), (8, 0xBF80)] demo)
      (fun t => s5 0x3D42 t && t.cur.fflags == Fl.nx) = true := by decide +kernel
/-- R78: −0 is below +0. -/
theorem test_fmin_zeros :
    gives (.fmin (bin .fp32)) (regs [(7, 0x80000000)] demo) (s5 0x80000000) = true := by decide +kernel
/-- R79: NaN is unordered, and `LT` of it is invalid. -/
theorem test_fcmp_nan :
    gives (.fcmp { bin .fp32 with s3 := .reg 2 }) (regs [(6, 0x7FC00000)] demo)
      (fun t => t.cur.c == 0 && t.cur.fflags == Fl.nv) = true := by decide +kernel
/-- R80: a float above the type's range gives its maximum, invalid; 2.5 to nearest even is 2. -/
theorem test_fcvt_bound :
    gives (.fcvt { bin .i32 with s2 := .reg 0, s3 := .reg 8 }) (regs [(6, 0x4F000000)] demo)
      (fun t => s5 0x7FFFFFFF t && t.cur.fflags == Fl.nv) = true := by decide +kernel
theorem test_fcvt_even :
    gives (.fcvt { bin .i32 with s2 := .reg 0, s3 := .reg 8 }) (regs [(6, 0x40200000)] demo)
      (fun t => s5 2 t && t.cur.fflags == Fl.nx) = true := by decide +kernel
/-- R81: +∞ has class bit 7. -/
theorem test_fclass : gives (.fclass (bin .fp32)) (regs [(6, 0x7F800000)] demo) (s5 0x80) = true := by decide +kernel

/-- R49, R123: with p1 clear but for bit 4, only 32-bit element 1 is written. -/
theorem test_vadd_guard :
    gives (.vadd { bin .i32 with g := ⟨false, 1⟩ }) { vregs [(6, elems [1, 2, 3]), (7, elems [10, 20, 30])] demo with
      cur := (vregs [(6, elems [1, 2, 3]), (7, elems [10, 20, 30])] demo).cur.setP 1 0x10 }
      (fun t => t.cur.vreg 5 == elems [0, 22, 0]) = true := by decide +kernel
/-- R128: x / 0 is an infinity, division by zero. -/
theorem test_vdiv_zero :
    gives (.vdiv { bin .fp32 with g := ⟨false, 1⟩ }) { vregs [(6, elems [0xBF800000])] demo with
      cur := (vregs [(6, elems [0xBF800000])] demo).cur.setP 1 0x1 }
      (fun t => t.cur.vreg 5 == elems [0xFF800000] && t.cur.fflags == Fl.dz) = true := by decide +kernel
/-- R107: 464 is the tie that goes to e4m3's 448; 465 gives its NaN. -/
theorem test_vnarrow_e4m3 :
    gives (.vnarrow { bin .e4m3 with s1 := .reg 8, s2 := .reg 0, s3 := .reg 8, g := ⟨false, 1⟩ })
      { vregs [(8, elems [0x43E80000, 0x43E88000])] demo with
        cur := (vregs [(8, elems [0x43E80000, 0x43E88000])] demo).cur.setP 1 0x3 }
      (fun t => t.cur.vreg 5 == 0x7F7E) = true := by decide +kernel

/-- The machine of R141's example: p2 activates elements 1, 4, 5, 9 and 14, v3 holds 10 × i. -/
def lanes : State :=
  let s := vregs [(1, BitVec.allOnes 512), (3, elems ((List.range 16).map (10 * ·)))] demo
  { s with cur := s.cur.setP 2 0x0100001000110010 }
def p2 (t : Ty) : RegForm := r ({ · with t := t, g := ⟨false, 2⟩ })

/-- R141's example. -/
theorem test_vcompress :
    gives (.vcompress { p2 .i32 with dst := .reg 1, s1 := .reg 3 }) lanes (fun t => t.cur.vreg 1 ==
      elems ([10, 40, 50, 90, 140] ++ List.replicate 11 0xFFFFFFFF)) = true := by decide +kernel
theorem test_viota :
    gives (.viota { p2 .i32 with dst := .reg 2 }) lanes (fun t => t.cur.vreg 2 ==
      elems [0, 0, 0, 0, 1, 2, 0, 0, 0, 3, 0, 0, 0, 0, 4, 0]) = true := by decide +kernel
theorem test_pcount :
    gives (.pcount (r ({ · with t := .i32, dst := .reg 5, s1 := .reg 2 }))) lanes (s5 5) = true := by decide +kernel
theorem test_vexpand :
    gives (.vexpand { p2 .i32 with dst := .reg 4, s1 := .reg 1 })
      (vregs [(1, elems ([10, 40, 50, 90, 140] ++ List.replicate 11 0xFFFFFFFF))] lanes) (fun t => t.cur.vreg 4 ==
      elems [0, 10, 0, 0, 40, 50, 0, 0, 0, 90, 0, 0, 0, 0, 140, 0]) = true := by decide +kernel
/-- R142: a sum wraps; the largest element and its index; no active element. -/
theorem test_vredadd :
    gives (.vredadd { p2 .i32 with dst := .reg 5, s1 := .reg 3 }) lanes (s5 330) = true := by decide +kernel
theorem test_vargmax :
    gives (.vargmax { p2 .n32 with dst := .reg 5, s1 := .reg 3 }) lanes (s5 0x0000000E0000008C) = true := by
  decide +kernel
/-- R143: bits that the guard does not select stay. -/
theorem test_pnot :
    gives (.pnot (r ({ · with g := ⟨false, 2⟩, dst := .reg 3 }))) lanes
      (fun t => t.cur.preg 3 == 0) = true := by decide +kernel

/-! Memory -/

def sp (f : MemForm → MemForm) : MemForm := f { zeroMem with data := .reg 5, base := .reg 6, space := .sp }

/-- R192, R197: bytes lie lowest first, and a load sign-extends. -/
theorem test_st_ld :
    gives (.st (sp ({ · with t := .n32 }))) (regs [(5, 0x80FF7F01), (6, 64)] demo)
      (fun t => gives (.ld (sp ({ · with t := .i8, data := .reg 5, off := 3 }))) t
        (fun u => u.cur.sreg 5 == 0xFFFFFFFFFFFFFF80 && u.cur.pc == 2)) = true := by decide +kernel
/-- R194: a misaligned address traps with cause 0x0B. -/
theorem test_ld_misaligned :
    gives (.ld (sp ({ · with t := .i32 }))) (regs [(6, 2)] demo)
      (fun t => t.cur.tcause == 0x0B && t.cur.taddr == 2 && t.cur.sreg 5 == 0) = true := by decide +kernel
/-- R204, R206: a word that `CLRE` emptied makes `LDF` wait. -/
theorem test_clre_ldf :
    gives (.clre (sp ({ · with t := .i8 }))) (regs [(5, 4), (6, 64)] demo)
      (fun t => gives (.ldf (sp ({ · with t := .i32 }))) t
        (fun u => u.cur.life == .here (.waiting (.again (.full .sp 64))) && u.cur.pc == 1)) = true := by decide +kernel
/-- R201: `AADD` gives the old value and stores the sum. -/
theorem test_aadd :
    gives (.aadd (sp ({ · with t := .n32 }))) (regs [(5, 5), (6, 64)] demo)
      (fun t => t.cur.sreg 5 == 0 && t.chip .sp 64 4 == [5, 0, 0, 0]) = true := by decide +kernel
/-- R202: a compare that fails stores nothing and sets c15. -/
theorem test_acas_fails :
    gives (.acas (sp ({ · with t := .n32, data := .reg 4 }))) (regs [(4, 9), (5, 1), (6, 64)] demo)
      (fun t => t.cur.cbit 15 && t.chip .sp 64 4 == [0, 0, 0, 0]) = true := by decide +kernel
/-- R194: the task has no windows, so a windowed access traps with cause 0x08 at its first byte. -/
theorem test_ld_window :
    gives (.ld (m ({ · with t := .i32, base := .reg 6 }))) (regs [(6, 0x1000)] demo)
      (fun t => t.cur.tcause == 8 && t.cur.taddr == 0x1000) = true := by decide +kernel

/-! Control -/

/-- R94: `TRAP`'s code goes to %tinfo; R96: `NOP` moves on. -/
theorem test_trap :
    gives (.trap (k ({ · with subop := 0xBEEF }))) demo
      (fun t => t.cur.tcause == 7 && t.cur.tinfo == 0xBEEF && t.cur.pc == 0) = true := by decide +kernel
theorem test_nop : gives (.nop zeroCtl) demo (fun t => t.cur.pc == 1 && t.cur.life == .here .ready) = true := by
  decide +kernel
/-- R91: joining a group as its first member. -/
theorem test_gjoin :
    gives (.gjoin (k ({ · with subop := 3 }))) demo (fun t => !t.cur.cbit 15 &&
      t.parts.all fun p => p.groups.map (fun g => (g.handle, g.members)) == [(3, [0])]) = true := by decide +kernel
/-- R97: `WAITE` of 0 cycles does not wait. -/
theorem test_waite : gives (.waite zeroCtl) demo (fun t => t.cur.pc == 1 && !t.cur.cbit 15) = true := by decide +kernel
/-- R234: `XINV` outside the partition firmware's context traps with cause 0x0A. -/
theorem test_xinv :
    gives (.xinv (k ({ · with subop := 0x34 }))) demo (fun t => t.cur.tcause == 0x0A) = true := by decide +kernel

/-- R57: the words of `withFetchWord` are fetched, decoded and run: `MOVI.i64 s7, #0` (R69) moves on; the zero
word traps with cause 0x01. -/
def stepped (w : Nat) (p : Thread → Bool) : Bool :=
  match Machine.step (State.reset.withFetchWord 64 w) with
  | .next t => (t.thread? ⟨0, 0, 0, 0⟩).any p
  | .fault _ => false
  | .refused _ => false
theorem test_step_movi : stepped 0x4080307000000000 (fun h => h.pc == 1 && h.life == .here .ready) = true := by
  decide +kernel
theorem test_step_zero : stepped 0 (fun h => h.tcause == 1 && h.life == .here .parked) = true := by decide +kernel

/-! ### The hypotheses of the statements are met

For each statement with hypotheses, a state and operands that meet them together; where it has clauses, each of them,
at the edges of their ranges. -/

theorem met_DecodeOfEncode : Instr.wf (.nop zeroCtl) = true ∧ encode (.nop zeroCtl) = some 0xC230000000000000 := by
  decide +kernel

theorem met_EncodeOfDecode : decode 0xC230000000000000 = .ok (.nop zeroCtl) := by rfl

theorem issues (w : Nat)
    (h0 : State.mayIssue { State.reset.withFetchWord 64 w with agenda := [], time := 0 } ⟨0, 0, 0, 0⟩ [] = true)
    (h1 : State.awake? { State.reset.withFetchWord 64 w with agenda := [], time := 0 } ⟨0, 0, 0, 0⟩ = some fetcher)
    (h2 : State.stopping { State.reset.withFetchWord 64 w with agenda := [], time := 0 } ⟨0, 0, 0, 0⟩ = false) :
    IssuesNext (State.reset.withFetchWord 64 w)
      (State.checkOut fetcher { State.reset.withFetchWord 64 w with agenda := [], time := 0 }) ⟨0, 0, 0, 0⟩ :=
  ⟨0, [], fetcher, [], rfl, h0, h1, rfl, h2, rfl⟩

def fetchedBy (w : Nat) : State :=
  State.checkOut fetcher { State.reset.withFetchWord 64 w with agenda := [], time := 0 }

theorem met_StepRunsDecoded : IssuesNext (State.reset.withFetchWord 64 0xC230000000000000) (fetchedBy 0xC230000000000000)
      ⟨0, 0, 0, 0⟩ ∧
    (fetchedBy 0xC230000000000000).fetch.toOption = some (bytesOfWord 0xC230000000000000) ∧
    (decodeBytes (bytesOfWord 0xC230000000000000)).toOption = some (.nop zeroCtl, []) ∧
    (fetchedBy 0xC230000000000000).cur.role = none :=
  ⟨issues _ (by decide +kernel) (by decide +kernel) (by decide +kernel), by decide +kernel, by decide +kernel, by decide +kernel⟩

def errorOf (w : Word) : Option DecErr :=
  match decodeBytes (bytesOfWord w) with
  | .ok _ => none
  | .error e => some e

/-- A word for each error: opcode 0 of class 00, `NOP` with a SUBOP, `VZIP` into a group at v1. -/
theorem met_UndecodedTraps :
    (IssuesNext (State.reset.withFetchWord 64 0) (fetchedBy 0) ⟨0, 0, 0, 0⟩ ∧
      (fetchedBy 0).fetch.toOption = some (bytesOfWord 0) ∧ errorOf 0 = some .opcode) ∧
    (IssuesNext (State.reset.withFetchWord 64 0xC230000000000001) (fetchedBy 0xC230000000000001) ⟨0, 0, 0, 0⟩ ∧
      (fetchedBy 0xC230000000000001).fetch.toOption = some (bytesOfWord 0xC230000000000001) ∧
      errorOf 0xC230000000000001 = some .field) ∧
    (IssuesNext (State.reset.withFetchWord 64 0x1C50001000000000) (fetchedBy 0x1C50001000000000) ⟨0, 0, 0, 0⟩ ∧
      (fetchedBy 0x1C50001000000000).fetch.toOption = some (bytesOfWord 0x1C50001000000000) ∧
      errorOf 0x1C50001000000000 = some (.group 1)) :=
  ⟨⟨issues _ (by decide +kernel) (by decide +kernel) (by decide +kernel), by decide +kernel, by decide +kernel⟩,
    ⟨issues _ (by decide +kernel) (by decide +kernel) (by decide +kernel), by decide +kernel, by decide +kernel⟩,
    ⟨issues _ (by decide +kernel) (by decide +kernel) (by decide +kernel), by decide +kernel, by decide +kernel⟩⟩

theorem met_GuardFails : scalarTested (.nop (k ({ · with g := ⟨true, 0⟩ }))) = true ∧
    guardOf (.nop (k ({ · with g := ⟨true, 0⟩ }))) = some ⟨true, 0⟩ ∧ demo.cur.guardOk ⟨true, 0⟩ = false ∧
    ∀ c, Instr.code (.nop (k ({ · with g := ⟨true, 0⟩ }))) = some c → Allocated c demo :=
  ⟨by decide, by decide, by decide +kernel, by intro c h; cases h; show badVreg _ _ = none; decide +kernel⟩

/-- At every integer type, guarded and not. -/
theorem met_IntegerArithmetic : ∀ t ∈ ints, (bin t).t.isInt = true ∧ demo.cur.guardOk (bin t).g = true := by
  decide +kernel
theorem met_Division : ∀ t ∈ ints, (bin t).t.isInt = true ∧ demo.cur.guardOk (bin t).g = true := by decide +kernel
theorem met_IntegerBits : ∀ t ∈ ints, (bin t).t.isInt = true ∧ demo.cur.guardOk (bin t).g = true := by decide +kernel

/-- Fields of length 0, 1, 64 and 65, the last two cut or none; and words that decode. -/
theorem met_BitFields : (∀ t ∈ [Ty.i64, .n64], ((bin t).t = .i64 ∨ (bin t).t = .n64) ∧ demo.cur.guardOk (bin t).g = true) ∧
    fieldNone 0x0000 ∧ ¬fieldNone 0x0100 ∧ ¬fieldNone 0x4000 ∧ fieldNone 0x4100 ∧
    Code.fieldsOk (.reg 0x014 (bin .i64)) = true ∧ Code.fieldsOk (.reg 0x015 { bin .x with s3 := .reg 8 }) = true := by
  simp only [fieldNone]; decide +kernel

theorem met_Immediates : ∀ t ∈ ints, (im ({ · with t := t })).t.isInt = true ∧
    demo.cur.guardOk (im ({ · with t := t })).g = true := by decide +kernel

/-- The last condition bit and the last relation. -/
theorem met_Conditions : let x := r ({ · with t := .n8, dst := .reg 15, s3 := .reg 5 })
    x.t.isInt = true ∧ x.dst.num5.toNat < 16 ∧ x.s3.num5.toNat ≤ 5 ∧ demo.cur.guardOk x.g = true := by decide +kernel

theorem met_Moves : demo.cur.guardOk zeroReg.g = true := by decide +kernel

/-- The first register, %time and the last. -/
theorem met_StatusReads : ∀ n ∈ ([0, 12, 21] : List (BitVec 5)), let x := r ({ · with s1 := .reg n })
    demo.cur.guardOk x.g = true ∧ x.s1.num5.toNat ≤ 21 := by decide +kernel

/-- Each register that takes a write, at the largest value it takes and the smallest it does not. -/
theorem met_StatusWrites : demo.cur.guardOk zeroReg.g = true ∧
    [(13, 7), (13, 8), (14, 63), (14, 64), (15, 0), (19, 1), (19, 2), (21, 0x3FFFFFF), (21, 0x4000000)].all
      (fun p : Nat × Nat =>
        let x := r ({ · with dst := .reg (BitVec.ofNat 5 p.1), s1 := .reg 6 })
        x.dst.num5.toNat == p.1 && ((regs [(6, BitVec.ofNat 64 p.2)] demo).cur.sreg x.s1.num5).toNat == p.2) = true := by
  decide +kernel

/-- Finite operands of each float type: the largest, the smallest subnormal and zero. -/
theorem met_FloatRounding : ∀ t ∈ floats, (bin t).t.isF = true ∧ (bin t).clamp = .none ∧ demo.cur.guardOk (bin t).g = true ∧
    ∀ n ∈ [0, 1, (2 ^ expBits t - 1) * 2 ^ mantBits t - 1], special t (BitVec.ofNat t.bits n) = false := by
  decide +kernel

/-- NaN, a signalling NaN, opposite infinities, 0 × ∞ and a zero sum. -/
theorem met_FloatSpecials : (bin .fp32).t.isF = true ∧ demo.cur.guardOk (bin .fp32).g = true ∧
    isNaN .fp32 0x7FC00000 = true ∧ isSignalling .fp32 0x7F800001 = true ∧ isSignalling .fp32 0x7FC00000 = false ∧
    isInfinite .fp32 0x7F800000 = true ∧ isInfinite .fp32 0xFF800000 = true ∧ isZero .fp32 0x80000000 = true ∧
    (bin .fp32).clamp = .none ∧ special .fp32 0 = false := by decide +kernel

theorem met_FloatSpecials_sum : number .fp32 0x3F800000 + number .fp32 0xBF800000 = 0 := by
  have h1 : (1065353216#32).msb = false := by decide
  have h2 : (3212836864#32).msb = true := by decide
  simp [number, expField, fraction, expBits, mantBits, biasOf, Ty.bits, h1, h2]

/-- The last condition bit and the last relation, UN. -/
theorem met_FloatComparisons : let x := r ({ · with t := .fp32, dst := .reg 15, s3 := .reg 6 })
    x.t.isF = true ∧ demo.cur.guardOk x.g = true ∧ x.dst.num5.toNat < 16 ∧ x.s3.num5.toNat ≤ 6 := by decide +kernel

/-- To a wider float, to a narrower one with and without %rmode[2], from an integer, and to one. -/
theorem met_FloatConversions :
    (∀ p ∈ [(Ty.fp32, Ty.fp16), (.bf16, .fp32), (.fp16, .i64), (.n64, .bf16)],
      let x := r ({ · with t := p.1, s3 := .reg (BitVec.ofNat 5 p.2.num) })
      Code.fieldsOk (.reg 0x047 x) = true ∧ x.srcTy = some p.2 ∧ demo.cur.guardOk x.g = true ∧ x.clamp = .none ∧
        x.scale = 0) ∧
    (0 : Word).getLsbD 2 = false ∧ (4 : Word).getLsbD 2 = true ∧
    isNaN .fp32 0x7FC00000 = true ∧ special .fp32 0x7F7FFFFF = false ∧ isInfinite .fp32 0xFF800000 = true := by
  decide +kernel
theorem unheld (s : State) (h : (s.ctx? s.curCtx).map (fun c => c.jobs) = some []) : Unheld s := by
  intro r
  cases hc : s.ctx? s.curCtx with
  | none => simp [hc] at h
  | some c => simp_all [State.spanHeld, Context.heldSpans]

/-- v24 to v31 as registers and q1 as a stream that ends where TCM ends. -/
def streams : State := { demo with cur := demo.cur.setQ 1 (0x0040000000000000 + 131072 - 256) }

theorem ready (op : Nat) (x : RegForm) (s : State) (h1 : badVreg (.reg op x) s.cur.vregs = none)
    (h2 : (∀ o ∈ [x.dst, x.s1, x.s2, x.s3], Opnd.isStream o = true →
      s.cur.qaddr (Opnd.q o) % 8 = 0 ∧ s.cur.qaddr (Opnd.q o) + 256 ≤ s.cur.tcmLimit))
    (h3 : x.incs.Nodup) (h4 : (s.ctx? s.curCtx).map (fun c => c.jobs) = some []) : VecReady op x s :=
  ⟨h1, h2, h3, unheld s h4, by cases hc : s.ctx? s.curCtx with
    | none => simp [hc] at h4
    | some c => exact ⟨c, rfl⟩⟩

/-- A stream destination with post-increment beside registers. -/
def intoStream (t : Ty) : RegForm := r ({ · with t := t, dst := .inc 1, s1 := .reg 31, s2 := .reg 6, s3 := .reg 7 })

theorem met_VectorIntegers : VecReady 0x103 (intoStream .i8) streams ∧ VecReady 0x103 (bin .n64) demo ∧
    (bin .n64).t.isInt = true :=
  ⟨ready _ _ _ (by decide +kernel) (by decide +kernel) (by decide +kernel) (by decide +kernel),
    ready _ _ _ (by decide +kernel) (by decide +kernel) (by decide +kernel) (by decide +kernel), by decide⟩

theorem met_VectorRounding : VecReady 0x103 (intoStream .fp32) streams ∧ VecReady 0x105 (intoStream .fp16) streams ∧
    (∀ c ∈ [Clamp.none, .sat, .c01, .c11], ({ intoStream .fp32 with clamp := c } : RegForm).t.isF = true ∧
      VecReady 0x100 { intoStream .fp32 with clamp := c } streams) ∧
    active streams.cur (intoStream .fp32).g 32 15 = true ∧
    (special .fp32 0x00000001 = false ∧ isNaN .fp32 0x7F800001 = true ∧ isInfinite .fp32 0xFF800000 = true) :=
  ⟨ready _ _ _ (by decide +kernel) (by decide +kernel) (by decide +kernel) (by decide +kernel),
    ready _ _ _ (by decide +kernel) (by decide +kernel) (by decide +kernel) (by decide +kernel),
    fun c _ => ⟨by cases c <;> decide, ready _ _ _ (by cases c <;> decide +kernel) (by cases c <;> decide +kernel)
      (by cases c <;> decide +kernel) (by cases c <;> decide +kernel)⟩, by decide +kernel, by decide +kernel⟩

/-- The operands that the clauses name, at each class. -/
theorem met_VectorSpecials : VecReady 0x182 (intoStream .fp32) streams ∧ (intoStream .fp32).t.isF = true ∧
    (intoStream .fp32).clamp = .none ∧ (intoStream .fp32).scale = 0 ∧
    (special .fp32 0x3F800000 = false ∧ isZero .fp32 0x3F800000 = false) ∧ isZero .fp32 0x80000000 = true ∧
    (isInfinite .fp32 0xFF800000 = true ∧ (0xFF800000 : BitVec 32).msb = true) ∧
    (isInfinite .fp32 0x7F800000 = true ∧ (0x7F800000 : BitVec 32).msb = false) ∧
    isSignalling .fp32 0x7F800001 = true ∧
    (isNaN .fp32 0xBF800000 = false ∧ isZero .fp32 0xBF800000 = false ∧ (0xBF800000 : BitVec 32).msb = true) :=
  ⟨ready _ _ _ (by decide +kernel) (by decide +kernel) (by decide +kernel) (by decide +kernel), by decide +kernel⟩

/-- 1, −1, a number below 1 and one beyond it, and one of any size. -/
theorem met_VectorSpecials_numbers : number .fp32 0x3F800000 = 1 ∧ number .fp32 0xBF800000 = -1 ∧
    1 < |number .fp32 0x40000000| ∧ number .fp32 0x45800000 = (4096 : Int) ∧
    (|number .fp32 0x3F000000| < 1 ∧ number .fp32 0x3F000000 ≠ 0) := by
  have h1 : (1065353216#32).msb = false := by decide
  have h2 : (3212836864#32).msb = true := by decide
  have h3 : (1073741824#32).msb = false := by decide
  have h4 : (1166016512#32).msb = false := by decide
  have h5 : (1056964608#32).msb = false := by decide
  refine ⟨?_, ?_, ?_, ?_, ?_, ?_⟩ <;>
    simp [number, expField, fraction, expBits, mantBits, biasOf, Ty.bits, h1, h2, h3, h4, h5] <;> norm_num [abs_lt]

/-- Each instruction that writes vector registers, with a single register and with its groups. -/
theorem met_VectorsComplete : (∀ p ∈ vectorWriters, badVreg (.reg p.1 (bin .i8)) demo.cur.vregs = none) ∧
    demo.cur.guardOk (bin .i8).g = true ∧
    VecReady 0x1C5 (r ({ · with dst := .reg 30 })) demo ∧ VecReady 0x185 (r ({ · with t := .fp32, s3 := .reg 9, dst := .reg 30 })) demo :=
  ⟨by decide +kernel, by decide +kernel,
    ready _ _ _ (by decide +kernel) (by decide +kernel) (by decide +kernel) (by decide +kernel),
    ready _ _ _ (by decide +kernel) (by decide +kernel) (by decide +kernel) (by decide +kernel)⟩

/-- i8 to i32 through four registers, i32 to i8, and n8 from i8. -/
theorem met_VectorConversions :
    (∀ p ∈ [((0x185 : Nat), Ty.i16, Ty.n8), (0x186, .i8, .i16), (0x184, .n8, .i8)],
      let x := r ({ · with t := p.2.1, s3 := .reg (BitVec.ofNat 5 p.2.2.num), dst := .reg 8, s1 := .reg 12 })
      x.srcTy = some p.2.2 ∧ x.t.isInt = true ∧ p.2.2.isInt = true ∧ Code.fieldsOk (.reg p.1 x) = true ∧
        badVreg (.reg p.1 x) demo.cur.vregs = none) ∧
    VecReady 0x185 (r ({ · with t := .i16, s3 := .reg 4, dst := .reg 8, s1 := .reg 12 })) demo ∧
    VecReady 0x186 (r ({ · with t := .i8, s3 := .reg 1, dst := .reg 8, s1 := .reg 12 })) demo ∧
    VecReady 0x184 (r ({ · with t := .n8, s3 := .reg 0, dst := .reg 8, s1 := .reg 12 })) demo :=
  ⟨by decide +kernel, ready _ _ _ (by decide +kernel) (by decide +kernel) (by decide +kernel) (by decide +kernel),
    ready _ _ _ (by decide +kernel) (by decide +kernel) (by decide +kernel) (by decide +kernel),
    ready _ _ _ (by decide +kernel) (by decide +kernel) (by decide +kernel) (by decide +kernel)⟩

theorem met_VectorPermutes : VecReady 0x1C3 (bin .e5m2) demo ∧ VecReady 0x1C7 (p2 .n8) lanes ∧
    (bin .e5m2).t.isM = true ∧ demo.cur.guardOk (bin .e5m2).g = true ∧ active lanes.cur ⟨false, 2⟩ 32 14 = true :=
  ⟨ready _ _ _ (by decide +kernel) (by decide +kernel) (by decide +kernel) (by decide +kernel),
    ready _ _ _ (by decide +kernel) (by decide +kernel) (by decide +kernel) (by decide +kernel), by decide +kernel⟩

/-- Some elements active, and none. -/
theorem met_VectorReductions : VecReady 0x1CD (p2 .n32) lanes ∧ VecReady 0x1CE (p2 .n32) demo ∧
    ((List.range 16).filter (active lanes.cur ⟨false, 2⟩ 32)) = [1, 4, 5, 9, 14] ∧
    ((List.range 16).filter (active demo.cur ⟨false, 2⟩ 32)) = [] ∧ (p2 .n32).t.isInt = true :=
  ⟨ready _ _ _ (by decide +kernel) (by decide +kernel) (by decide +kernel) (by decide +kernel),
    ready _ _ _ (by decide +kernel) (by decide +kernel) (by decide +kernel) (by decide +kernel), by decide +kernel⟩

theorem met_Predicates : (let x := r ({ · with t := .n16, dst := .reg 15, s3 := .reg 5 })
      x.t.isM = true ∧ x.t.isInt = true ∧ x.dst.num5.toNat < 16 ∧ x.s3.num5.toNat ≤ 5) ∧
    VecReady 0x113 (r ({ · with t := .n16, dst := .reg 7, s3 := .reg 5 })) demo :=
  ⟨by decide, ready _ _ _ (by decide +kernel) (by decide +kernel) (by decide +kernel) (by decide +kernel)⟩

/-- A word that names v31 in a thread with eight registers; a stream off by one, and one at TCM's end. -/
theorem met_VectorTraps : badVreg (.reg 0x100 (r ({ · with s1 := .reg 31 }))) 8 = some 31 ∧
    ((0x100, Instr.vadd) ∈ vectorWriters.map fun p => (p.1, p.2)) ∧
    Allocated (.reg 0x100 (intoStream .i32)) streams ∧ (intoStream .i32).t.isArith = true ∧
    (intoStream .i32).dst = .inc 1 ∧ active streams.cur (intoStream .i32).g 32 15 = true ∧
    ({ streams with cur := streams.cur.setQ 1 2 }).cur.qaddr 1 % 4 ≠ 0 ∧
    ({ streams with cur := streams.cur.setQ 1 131012 }).cur.qaddr 1 % 4 = 0 ∧
    ({ streams with cur := streams.cur.setQ 1 131012 }).cur.tcmLimit <
      ({ streams with cur := streams.cur.setQ 1 131012 }).cur.qaddr 1 + 64 :=
  ⟨by decide +kernel, by simp [vectorWriters], by show badVreg _ _ = none; decide +kernel, by decide +kernel⟩

/-! Memory -/

/-- A task with windows: W at 0x10000, A at 0x20000 with a W window over its first half, R at 0x30000, W at 1 GiB,
where nothing is mapped; the translation of the first GiB is cached. -/
def winContext : Context :=
  { demoContext with
    tlb := [⟨0, 0, 0, 2 ^ 42, 30, true, true, true, false, 0, 0, []⟩]
    tasks := demoContext.tasks.map fun t => { t with windows :=
      [⟨0x10000, 0x1000, 1, 0, 2⟩, ⟨0x20000, 0x1000, 1, 0, 4⟩, ⟨0x20000, 0x800, 1, 0, 2⟩, ⟨0x30000, 0x1000, 1, 0, 1⟩,
        ⟨0x40000000, 0x1000, 1, 0, 2⟩] } }
def win : State := demoWith winContext
def winTask : Task := winContext.tasks.headD
  ⟨0, 0, false, ⟨0, 0, 0, false, false, 0, 0, 0, 0, 0, 0, 0, 0⟩, [], .new, 0, 0, 0, 0, [], 0, [], [], [], false, false, 0, false⟩

/-- `s` with s6, the base of the tests' memory forms, at an address. -/
def base (a : Nat) (s : State) : State := regs [(6, BitVec.ofNat 64 a)] s

def cachedB (s : State) (acc : Acc) (a n : Nat) : Bool :=
  (List.range n).all fun i => match s.xlate s.curCtx s.cur.cluster (a + i) acc with
    | .ok x => !x.fresh && !x.missed
    | .error _ => false

theorem cached_of {s : State} {acc : Acc} {a n : Nat} (h : cachedB s acc a n = true) : Cached s acc a n := by
  intro i hi
  have := List.all_eq_true.mp h i (List.mem_range.mpr hi)
  split at this
  · rename_i x hx; simp at this; exact ⟨x, hx, this⟩
  · simp at this

def atHomeB (s : State) (a n pa : Nat) : Bool :=
  (List.range n).all fun i => match s.xlate s.curCtx s.cur.cluster (a + i) .wr with
    | .ok x => !x.fresh && !x.missed && x.home == .mem (pa + i) 0 && s.writeTag 0 (pa + i) == 0
    | .error _ => false

theorem atHome_of {s : State} {a n pa : Nat} (h : atHomeB s a n pa = true) : AtHome s a n pa := by
  refine ⟨0, fun i hi => ?_⟩
  have := List.all_eq_true.mp h i (List.mem_range.mpr hi)
  split at this
  · rename_i x hx; simp at this; exact ⟨x, hx, this.1.1.1, this.1.1.2, this.1.2, .inl this.2⟩
  · simp at this

theorem home_of {s : State} (h : (s.ctx? s.curCtx).map (fun c => c.jobs) = some []) : ∃ c, s.ctx? s.curCtx = some c := by
  cases hc : s.ctx? s.curCtx with
  | none => simp [hc] at h
  | some c => exact ⟨c, rfl⟩

/-- The checks of an on-chip access as one test. -/
def chipB (x : MemForm) (n : Nat) (s : State) : Bool :=
  s.cur.guardOk x.g && isChip x.space && s.cur.role.isNone && s.cur.ea x % n == 0 && decide (s.cur.ea x + n ≤ s.cur.limit x.space) &&
    (s.ctx? s.curCtx).map (fun c => c.jobs) == some []

theorem onChip {x : MemForm} {n : Nat} {s : State} (h : chipB x n s = true) : OnChip x n s := by
  simp only [chipB, Bool.and_eq_true, beq_iff_eq, decide_eq_true_eq, Option.isNone_iff_eq_none] at h
  obtain ⟨⟨⟨⟨⟨h1, h2⟩, h3⟩, h4⟩, h5⟩, h6⟩ := h
  exact ⟨h1, h2, .inl h3, home_of h6, h4, h5, unheld s h6⟩

/-- The last word of each on-chip memory, full and empty; `CLRE` up to the end; a GWAIT of no time and of some. -/
theorem met_OnChipAccesses :
    (∀ t ∈ ints, OnChip (sp ({ · with t := t, off := 0 })) (t.bits / 8) (base (2 ^ 21 - t.bits / 8) demo)) ∧
    OnChip (sp ({ · with t := .fp32, space := .tcm })) 64 (base (131072 - 64) demo) ∧
    OnChip (sp ({ · with t := .n32 })) 4 (base 64 demo) ∧ (sp ({ · with t := .n32 })).t.isInt = true ∧
    placeOf (base 64 demo) .sp 64 ∉ (((base 64 demo).ctx? demo.curCtx).map (chipEmpties .sp)).getD [] ∧
    placeOf (base 64 demo) .sp 64 ∈
      (((base 64 (demoWith { demoContext with spEmpty := [64] })).ctx? demo.curCtx).map (chipEmpties .sp)).getD [] ∧
    OnChip (sp ({ · with t := .n32 })) 4 (base 64 (demoWith { demoContext with spEmpty := [64] })) ∧
    (regs [(5, 2 ^ 21 - 64)] (base 64 demo)).cur.sreg 5 = 2 ^ 21 - 64 ∧ (2 ^ 21 - 64) % 4 = 0 ∧ 64 + (2 ^ 21 - 64) ≤ 2 ^ 21 :=
  ⟨fun t ht => onChip (by revert t; decide +kernel), onChip (by decide +kernel), onChip (by decide +kernel), by decide,
    by decide +kernel, by decide +kernel, onChip (by decide +kernel), by decide +kernel, by decide, by decide⟩

theorem met_Cells : special .fp32 0x7F7FFFFF = false ∧ special .fp32 0x7F800000 = true ∧
    (∀ i, 480 ≤ i → i ≤ 483 → Nat.testBit 0 i = false) ∧ 2 ^ 480 - 1 < 2 ^ 512 :=
  ⟨by decide +kernel, by decide +kernel, by simp, by decide +kernel⟩

/-- A misaligned address; the last byte past a memory's end; an address no window permits; one not mapped. -/
theorem met_AccessTraps :
    (∃ p ∈ scalarAccesses, p.2.2 (sp ({ · with t := .i64 })) = 8 ∧ p.2.1 = .load) ∧
    win.cur.guardOk zeroMem.g = true ∧ (base 4 win).cur.ea (sp ({ · with t := .i64 })) % 8 ≠ 0 ∧
    ((base (2 ^ 21) win).cur.ea (sp ({ · with t := .i64 })) % 8 = 0 ∧
      (base (2 ^ 21) win).cur.limit .sp < (base (2 ^ 21) win).cur.ea (sp ({ · with t := .i64 })) + 8) ∧
    (win.cur.role = none ∧ win.task? win.cur.id.taskId = some winTask ∧
      winTask.firstDenied 0x10FF8 8 .load = none ∧ winTask.firstDenied 0x11000 8 .load = some 0x11000 ∧
      winTask.firstDenied 0x30000 8 .store = some 0x30000) ∧
    winTask.firstDenied 0x40000000 8 .load = none ∧ 0x40000000 / 4096 = (0x40000000 + 8 - 1) / 4096 ∧
    (match win.xlate win.curCtx win.cur.cluster 0x40000000 .rd with
      | .error (.trap _ _) => true
      | _ => false) = true :=
  ⟨⟨(.ld, .load, fun x => x.t.bits / 8), by simp [scalarAccesses], by decide, rfl⟩, by decide +kernel⟩

/-- The checks of a windowed access as one test. -/
def winB (x : MemForm) (u : Use) (n : Nat) (s : State) : Bool :=
  s.cur.guardOk x.g && !isChip x.space && s.cur.role.isNone && s.task? s.cur.id.taskId == some winTask &&
    s.eltStop u x.space n ⟨0, s.cur.ea x, n⟩ == none && (s.ctx? s.curCtx).map (fun c => (c.jobs, c.edges)) == some ([], [])

theorem inWindow {x : MemForm} {u : Use} {n : Nat} {s : State} (h : winB x u n s = true) : InWindow x u n winTask s := by
  simp only [winB, Bool.and_eq_true, beq_iff_eq, Bool.not_eq_true', Option.isNone_iff_eq_none] at h
  obtain ⟨⟨⟨⟨⟨h1, h2⟩, h3⟩, h4⟩, h5⟩, h6⟩ := h
  cases hc : s.ctx? s.curCtx with
  | none => simp [hc] at h6
  | some c =>
    simp [hc] at h6
    exact ⟨h1, h2, h3, h4, h5, unheld s (by simp [hc, h6.1]), fun d hd => by
      obtain rfl := Option.some.inj (hc.symm.trans hd); simp [h6.2]⟩

/-- s6 names the windowed memory. -/
def gm (t : Ty) : MemForm := { zeroMem with t := t, data := .reg 4, base := .reg 6 }

/-- The last bytes of a W window; the A window's first; a store there under the W window over it. -/
theorem met_WindowedAccesses :
    InWindow (gm .n64) .load 8 winTask (base 0x10FF8 win) ∧ InWindow (gm .fp32) .load 64 winTask (base 0x10FC0 win) ∧
    (InWindow (gm .n64) .store 8 winTask (base 0x10FF8 win) ∧ (∀ i, i < 8 → winTask.inA (0x10FF8 + i) = false) ∧
      win.devPage win.curCtx win.cur.cluster 0x10FF8 .wr = false) ∧
    (InWindow (gm .n64) .store 8 winTask (base 0x20000 win) ∧ (∀ i, i < 8 → winTask.inA (0x20000 + i) = true) ∧
      win.devPage win.curCtx win.cur.cluster 0x20000 .wr = false ∧ AtHome (base 0x20000 win) 0x20000 8 (2 ^ 42 + 0x20000)) ∧
    (InWindow (gm .n64) .add 8 winTask (base 0x20FF8 win) ∧ AtHome (base 0x20FF8 win) 0x20FF8 8 (2 ^ 42 + 0x20FF8) ∧
      (gm .n64).t.isInt = true) ∧
    (InWindow (gm .n64) .swap 8 winTask (base 0x10000 win) ∧ Cached (base 0x10000 win) .wr 0x10000 8 ∧
      (base 0x10000 win).phyAt .gm 0x10000 8 = none) ∧
    (InWindow (gm .fp32) .add 64 winTask (base 0x10FC0 win) ∧ Cached (base 0x10FC0 win) .wr 0x10FC0 64 ∧
      (base 0x10FC0 win).phyAt .gm 0x10FC0 64 = none ∧ (∀ i, i < 64 → winTask.inA (0x10FC0 + i) = false)) ∧
    (InWindow (gm .n64) .swap 8 winTask (base 0x20000 win) ∧ AtHome (base 0x20000 win) 0x20000 8 (2 ^ 42 + 0x20000)) ∧
    (InWindow (gm .fp32) .add 64 winTask (base 0x20FC0 win) ∧ (∀ i, i < 64 → winTask.inA (0x20FC0 + i) = true) ∧
      win.devPage win.curCtx win.cur.cluster 0x20FC0 .wr = false ∧ AtHome (base 0x20FC0 win) 0x20FC0 64 (2 ^ 42 + 0x20FC0)) :=
  ⟨inWindow (by decide +kernel), inWindow (by decide +kernel), ⟨inWindow (by decide +kernel), by decide +kernel, by decide +kernel⟩,
    ⟨inWindow (by decide +kernel), by decide +kernel, by decide +kernel, atHome_of (by decide +kernel)⟩,
    ⟨inWindow (by decide +kernel), atHome_of (by decide +kernel), by decide⟩,
    ⟨inWindow (by decide +kernel), cached_of (by decide +kernel), by decide +kernel⟩,
    ⟨inWindow (by decide +kernel), cached_of (by decide +kernel), by decide +kernel, by decide +kernel⟩,
    ⟨inWindow (by decide +kernel), atHome_of (by decide +kernel)⟩,
    ⟨inWindow (by decide +kernel), by decide +kernel, by decide +kernel, atHome_of (by decide +kernel)⟩⟩

theorem touched_lt {x : MemForm} {m : Reaching} {s : State} {P : Nat → Prop} (h : ∀ i, i < m.elems → P i) :
    ∀ i, touched x m s i → P i := fun i hi => h i hi.1

/-- Sixty-four bytes that end where the scratchpad and where a W window end. -/
theorem met_VectorMemory :
    (∃ c, win.ctx? win.curCtx = some c) ∧ win.cur.role = none ∧ Unheld win ∧ Allocated (.mem 0x003 (sp id)) win ∧
    Allocated (.mem 0x004 (gm .i8)) win ∧
    (∀ i, touched (sp id) whole (base (2 ^ 21 - 64) win) i → unitAddr (sp id) (base (2 ^ 21 - 64) win).cur i % 1 = 0 ∧
      unitAddr (sp id) (base (2 ^ 21 - 64) win).cur i + 1 ≤ (base (2 ^ 21 - 64) win).cur.limit .sp) ∧
    (∀ i, touched (gm .i8) whole (base 0x10FC0 win) i →
      (base 0x10FC0 win).eltStop .store .gm 1 ⟨i, unitAddr (gm .i8) (base 0x10FC0 win).cur i, 1⟩ = none) ∧
    ∀ c, win.ctx? win.curCtx = some c → ∀ e ∈ c.edges, e.src = win.cur.id.task → e.hard = true :=
  ⟨home_of (by decide +kernel), by decide +kernel, unheld _ (by decide +kernel), by show badVreg _ _ = none; decide +kernel,
    by show badVreg _ _ = none; decide +kernel, touched_lt (by decide +kernel), touched_lt (by decide +kernel), by
      intro c hc
      have h : (win.ctx? win.curCtx).map (fun c => c.edges) = some [] := by decide +kernel
      simp [hc] at h; simp [h]⟩

theorem met_Fences : demo.cur.guardOk zeroMem.g = true := by decide +kernel

/-- A live job of the thread. -/
def job (op : JobOp) (place : Place) : Job :=
  { thread := ⟨0, 0, 0, 0⟩, id := 1, op := op, ea := 0, space := .sp, scope := .cl, cluster := 0, core := 0, cls := 0
    arr := 0, door := none, target := 0, unit := .copy, place := place, status := 0, bytes := 0, row := 0, part := []
    stopHead := none, moved := [], merged := [], cameAt := 0, flags := 0 }
def fill (a n : Nat) : Job := { job (.fill ⟨0, 0, n, 1, 0, 0, .gm, .gm, 0⟩) .queued with ea := a, space := .sp }

/-- A word at the end of a range that a queued `FILL` holds. -/
theorem met_HeldRanges : let s := base 124 (demoWith { demoContext with jobs := [fill 64 64] })
    s.cur.guardOk (sp ({ · with t := .n32 })).g = true ∧ s.cur.ea (sp ({ · with t := .n32 })) = 124 ∧
      s.eltStop .load .sp 4 ⟨0, 124, 4⟩ = none ∧ s.spanHeld ⟨.sp, 124, 4⟩ = true := by decide +kernel

/-- A partition whose rings have room. -/
def ringed (s : State) : State :=
  { s with parts := s.parts.map fun p => { p with
      replay := { p.replay with enable := true }, terminal := { p.terminal with enable := true } } }
def partOf (s : State) : Partition := s.parts.headD (newPartition 0 1 [0] 0 30 0 0)

/-- Causes of each kind, in a running task whose rings have room. -/
theorem met_TrapTaken : (ringed win).cur.role = none ∧ (ringed win).parts.length = 1 ∧
    (ringed win).task? win.cur.id.taskId = some winTask ∧ winTask.state = .running ∧ winTask.recorded = false ∧
    (partOf (ringed win)).terminal.full = false ∧ (partOf (ringed win)).replay.full = false ∧
    (partOf (ringed win)).held = [] ∧ 0x0F ∈ [0x05, 0x06, 0x07, 0x0D, 0x0F] ∧ 0x09 < 256 ∧
    0x0E ∉ [0x05, 0x06, 0x07, 0x0D, 0x0F] := by decide +kernel

theorem met_TrapTaken_part : (ringed win).part? win.cur.id.part = some (partOf (ringed win)) := rfl

/-! Tasks, engines and stores -/

/-- The context of `win` with another task, in a state, attached to the image at 0x40000. -/
def withTask (st : TaskState) : State :=
  demoWith { winContext with tasks := winContext.tasks ++
    [{ winTask with create := 1, image := 0x40000, attached := true, state := st }] }
def imageAt : MemForm := { zeroMem with data := .reg 5, base := .reg 6 }
def at40000 (s : State) : State := base 0x40000 s

/-- The checks of a device access as one test. -/
def deviceB (x : MemForm) (u : Use) (align n : Nat) (s : State) : Bool :=
  s.cur.guardOk x.g && s.deviceStop s.curCtx s.cur.cluster u align (s.cur.ea x) n == none &&
    cachedB s (Acc.of u) (s.cur.ea x) n

theorem device {x : MemForm} {u : Use} {align n : Nat} {s : State} (h : deviceB x u align n s = true) :
    DeviceReady x u align n s := by
  simp only [deviceB, Bool.and_eq_true, beq_iff_eq] at h
  exact ⟨h.1.1, h.1.2, cached_of h.2⟩

/-- A valid window (one row of 64 bytes at 0x10000, mode W) for entry k. -/
def entryK (k : Nat) : VWord := BitVec.ofNat 512 (0x10000 + 64 * 2 ^ 48 + 2 ^ 72 + 2 * 2 ^ 120 + k * 2 ^ 128)

theorem met_TaskInstructions_image : DeviceReady imageAt .store 128 128 (at40000 win) ∧
    DeviceReady imageAt .load 128 128 (at40000 win) ∧ Allocated (.mem 0x080 imageAt) win ∧
    AtHome (at40000 win) 0x40000 128 (2 ^ 42 + 0x40000) ∧ (at40000 win).attachedTo 0x40000 = none ∧
    imageState ((at40000 win).imageWord 0x40000) = 0 ∧
    (tcbOf (leVal (((at40000 win).homeRead win.curCtx win.cur.cluster 0x40000 128).take 64))).nwin ≤ 4 :=
  ⟨device (by decide +kernel), device (by decide +kernel), by show badVreg _ _ = none; decide +kernel,
    atHome_of (by decide +kernel), by decide +kernel, by decide +kernel, by decide +kernel⟩

/-- Entry 0 of an image with no windows, valid and not; entry 3, which is past its end. -/
theorem met_TaskInstructions_windows :
    ((entryK 0).extractLsb' 128 8).toNat = 0 ∧ (windowOf ((entryK 0).extractLsb' 0 128).toNat).valid = true ∧
    (windowOf 0).valid = false ∧ ((entryK 3).extractLsb' 128 8).toNat = 3 ∧
    (tcbOf ((at40000 win).imageWord 0x40000)).nwin < 3 := by decide +kernel

/-- The issuing thread's own task, a running, a failed one attached to the image. -/
theorem met_TaskInstructions_live :
    DeviceReady imageAt .load 128 128 (at40000 (withTask .failed)) ∧
    (∀ st ∈ [TaskState.running, .failed], ((at40000 (withTask st)).attachedTo 0x40000).any fun tk =>
      tk.create != (withTask st).cur.id.task && tk.state == st &&
        (withTask st).task? ((withTask st).mate tk.create) == some tk && !tk.pastGrant) ∧
    (let own := demoWith { winContext with tasks := winContext.tasks.map fun t => { t with image := 0x40000, attached := true } };
      ((at40000 own).attachedTo 0x40000).any fun tk => tk.create == own.cur.id.task) ∧
    (win.ctx? win.curCtx).isSome = true :=
  ⟨device (by decide +kernel), by decide +kernel⟩

theorem met_TaskInstructions_counter : DeviceReady imageAt .load 8 8 (base 0x40008 win) ∧
    DeviceReady imageAt .add 8 8 (base 0x40008 win) ∧ AtHome (base 0x40008 win) 0x40008 8 (2 ^ 42 + 0x40008) :=
  ⟨device (by decide +kernel), device (by decide +kernel), atHome_of (by decide +kernel)⟩

/-- One row of 64 bytes, its destination in the scratchpad for `RPUT`. -/
def row (spc : Nat) : VWord := BitVec.ofNat 512 (64 * 2 ^ 128 + 2 ^ 160 + spc * 2 ^ 256)
def cmd : MemForm := { zeroMem with data := .reg 5, base := .reg 6, off := 9, space := .sp }
def issuing (v : VWord) : State := vregs [(9, v)] demo

/-- Each copy command with a descriptor it takes and with one it does not. -/
theorem met_EngineCommands_copy : (∀ p ∈ copyCommands, Allocated (.mem p.1 cmd) demo) ∧ demo.cur.guardOk cmd.g = true ∧
    WellMade (row 0) ∧ WellMade (row 2) ∧ ¬WellMade 0 ∧
    (∀ p ∈ copyCommands, p.2.2.2 (descriptor (row 0)) 64 ∨ p.2.2.2 (descriptor (row 2)) 64) :=
  ⟨by show ∀ p ∈ copyCommands, badVreg _ _ = none; decide +kernel, by decide +kernel,
    by simp only [WellMade]; decide +kernel, by simp only [WellMade]; decide +kernel, by simp only [WellMade]; decide +kernel, by
      simp only [copyCommands, List.forall_mem_cons, List.not_mem_nil, false_implies, implies_true, and_true]
      decide +kernel⟩

/-- Room, no free scoreboard entry, and a full queue. -/
theorem met_EngineCommands_room : (demo.part? 0).isSome = true ∧ (demo.ctx? demo.curCtx).isSome = true ∧
    (let s := demoWith { demoContext with jobs := List.replicate 16 (fill 64 64) };
      (s.ctx? s.curCtx).any fun c => decide (16 < (c.heldSpans s.cur.id).length + (fill 0 64).spans.length)) ∧
    (let s := demoWith { demoContext with jobs := List.replicate 64 { fill 64 64 with thread := ⟨0, 0, 0, 7⟩ } };
      (s.part? 0).any fun p => decide (64 ≤ p.queueUsed 0 EngUnit.copy.code) && s.doorOk 0 (fill 0 64) &&
        (s.ctx? s.curCtx).any fun c => decide ((c.heldSpans s.cur.id).length + (fill 0 64).spans.length ≤ 16)) := by
  decide +kernel

/-- A load feed of one row, a store feed, none; and sixteen feeds. -/
theorem met_EngineCommands_feed :
    let w (mode : Nat) : VWord := BitVec.ofNat 512 (0x10000 + 64 * 2 ^ 48 + 2 ^ 72 + mode * 2 ^ 120 + 2 ^ 128)
    let ok (v : VWord) : Bool := (windowOf (v.extractLsb' 0 128).toNat).valid &&
      (windowOf (v.extractLsb' 0 128).toNat).mode == (if v.getLsbD 144 then 2 else 1) &&
      decide (1 ≤ (v.extractLsb' 128 16).toNat) && v.extractLsb' 145 367 == 0 &&
      decide ((windowOf (v.extractLsb' 0 128).toNat).rowLen * (v.extractLsb' 128 16).toNat ≤ 2 ^ 20)
    Allocated (.mem 0x0C9 cmd) demo ∧ ok (w 1) = true ∧ ok (w 2 ||| BitVec.ofNat 512 (2 ^ 144)) = true ∧ ok 0 = false ∧
    demoContext.feeds 0 < 16 ∧
    16 ≤ ({ demoContext with jobs := List.replicate 16 { job (.feed ⟨0, 64, 1, 0, 1⟩ 1 false) .running with unit := .feed } }).feeds 0 := by
  simp only [Allocated]; decide +kernel

/-- The door form into TCM; well and badly made row descriptors; an `ea` that is and is not a multiple of 4. -/
theorem met_EngineCommands_matrix : demo.cur.guardOk cmd.g = true ∧
    (∀ p ∈ matrixCommands, (p.2.2.2.2 { cmd with off := 0x40 } (regs [(5, 0x100)] demo).cur).isSome = true) ∧
    rowFields false 0x100 = some (0, 1, 0) ∧ rowFields false 0x1FF = some (255, 1, 0) ∧ rowFields false 0x10000 = some (0, 256, 0) ∧
    rowFields false 0 = none ∧ rowFields false 0x2FF = none ∧ rowFields true 0x07000100 = some (0, 1, 7) ∧
    rowFields true 0xF8000100 = some (0, 1, -8) ∧ rowFields true 0x08000100 = none ∧
    (base 4 demo).cur.eaCarved { cmd with off := 0x4000 } % 4 = 0 ∧
    (base 2 demo).cur.eaCarved { cmd with off := 0 } % 4 ≠ 0 := by decide +kernel

/-- A thread with job 1 in a state. -/
def jobbed (j : Job) : State :=
  let s := demoWith { demoContext with jobs := [j] }
  { regs [(5, 1)] s with cur := { (regs [(5, 1)] s).cur with jobNext := 2 } }

theorem met_JobsAndRings_jobs : demo.cur.guardOk cmd.g = true ∧ demo.ownJob 0 = none ∧ demo.ownJob 1 = none ∧
    ((jobbed { fill 0 64 with status := 0x10 }).ownJob 1).any (fun j => decide (16 ≤ j.status)) = true ∧
    ((jobbed { fill 0 64 with status := 1 }).ownJob 1).any (fun j => decide (j.status < 16)) = true ∧
    ((jobbed { job (.feed ⟨0, 64, 1, 0, 1⟩ 1 false) .running with unit := .feed }).ownJob 1).any
      (fun j => j.unit == .feed && decide (j.status < 16)) = true := by decide +kernel

/-- The ids of jobs 1 and 65,536 of a thread, and those that a thread's next job number leaves. -/
theorem met_JobsAndRings_ids : (jobbed (fill 0 64)).ownNumber 1 = some 1 ∧ (jobbed (fill 0 64)).ownNumber 2 = none ∧
    (let s : State := { demo with cur := { demo.cur with jobNext := 65537 } };
      s.ownNumber 1 = some 65536 ∧ s.ownNumber 65280 = none ∧ s.ownNumber 65281 = some 65281) := by decide +kernel

/-- A ring at 0x1000 of the scratchpad, its bytes at 0x2000, with a record of 8 bytes between TAIL and HEAD, and none. -/
def ring (head : Nat) (s : State) : State :=
  base 0x1000 (s.store .sp 0x1000 (leBytes 40 (0x2000 + 12 * 2 ^ 64 + head * 2 ^ 128)) |>.store .sp 0x2000 (leBytes 8 8))
def ringForm : MemForm := { zeroMem with data := .reg 2, base := .reg 6, space := .sp }

theorem met_JobsAndRings_rings : OnChip ringForm 64 (ring 0 demo) ∧ OnChip ringForm 64 (ring 16 demo) ∧
    (ringCb ((ring 0 demo).chip .sp 0x1000 64)).head = (ringCb ((ring 0 demo).chip .sp 0x1000 64)).tail ∧
    let s := ring 16 demo
    let r := ringCb (s.chip .sp 0x1000 64)
    let p := r.at r.tail
    r.head ≠ r.tail ∧ r.tail < 2 ^ 64 ∧ p % 8 = 0 ∧ p + 8 ≤ s.cur.limit .sp ∧ leVal (s.chip .sp p 8) / 2 ^ 32 % 256 = 0 ∧
      8 + 8 * ((leVal (s.chip .sp p 8) % 2 ^ 32 + 7) / 8) ≤ (r.head + 2 ^ 64 - r.tail) % 2 ^ 64 :=
  ⟨onChip (by decide +kernel), onChip (by decide +kernel), by decide +kernel⟩

/-- `demo` with a group of handle h of thread 0. -/
def grouped (h : Nat) (ms : List Nat) (task : Nat) : State :=
  { demo with parts := demo.parts.map fun p => { p with groups := [⟨0, 0, h, task, ms, false, [], [], []⟩] } }

/-- The first and last group handle of a collective, an element count of 1. -/
theorem met_JobsAndRings_coll : Allocated (.mem 0x0CB cmd) demo ∧
    (∀ g ∈ [0x8000, 0x8FFF], collOk (2 ^ 64 + 8 * 2 ^ 96 + g * 2 ^ 104) = true) ∧ collOk 0 = false ∧
    (∀ g ∈ [0x8000, 0x8FFF], ((grouped g [0] 0).part? 0).any fun p =>
      (p.rounds.find? fun q => q.isAt demo.cur.id g).isNone &&
        (p.groups.find? fun y => y.named demo.cur.id.ctx demo.cur.cluster g && y.hasMember demo.cur.id).isSome) ∧
    ((grouped 0x8000 [0] 0).ctx? demo.curCtx).isSome = true := by
  simp only [Allocated]; decide +kernel

/-- Sequence 5 with two state pages, and a snapshot at 0. -/
def sequences : State :=
  demoWith { demoContext with seqs := [⟨5, 3, [some 1, none], [⟨0, [none, none]⟩]⟩], pages := [⟨1, [], []⟩] }
def seqForm : MemForm := { zeroMem with data := .reg 4, base := .reg 6, off := 9 }

/-- Configurations of 1 and of 256 pages; an open and an unopened sequence, snapshots there and not. -/
theorem met_SequenceStore : (∀ p ∈ [1, 256], ∀ rl ∈ [3, 6], let cfg : Word := BitVec.ofNat 64 (p + rl * 2 ^ 16)
      1 ≤ (cfg.extractLsb' 0 9).toNat ∧ (cfg.extractLsb' 0 9).toNat ≤ 256 ∧ cfg.extractLsb' 9 7 = 0 ∧
        3 ≤ (cfg.extractLsb' 16 3).toNat ∧ (cfg.extractLsb' 16 3).toNat ≤ 6 ∧ cfg.extractLsb' 19 45 = 0) ∧
    (sequences.ctx? sequences.curCtx).any (fun c => (c.seq? 5).isSome && (c.seq? 0).isNone && decide (c.seqs.length < 65536) &&
      (c.seq? 5).any fun q => (q.snap? 0).isSome && (q.snap? 9).isNone && (q.snap 0).isSome && (q.snap 9).isSome &&
        c.badRead q 0 8192 == none && c.badCopy q 0 8192 == none && decide (8192 ≤ q.map.length * 4096) &&
        decide (q.map.length * 4096 < 8192 + 64) && ((pieces 0 4096).all fun e => !c.needPage q e) &&
        (c.pages.map (·.page)).length == 1 && (q.map.filterMap id).all fun g => (c.page? g).isSome) = true := by
  decide +kernel

theorem met_SequenceStore_range :
    OnChip { seqForm with space := .sp, off := 0 } 64 (regs [(4, 5), (5, 0x100000000000)] (base (2 ^ 21 - 4096) sequences)) ∧
    (regs [(5, 0x100000000000)] sequences).cur.sreg 5 = 0x100000000000 ∧
    ((0x100000000000 : Word).extractLsb' 32 32).toNat = 4096 ∧ 2 ^ 21 - 4096 + 4096 ≤ (2 : Nat) ^ 21 ∧
    ((0x0000004000000001 : Word).extractLsb' 0 32).toNat % 64 ≠ 0 :=
  ⟨onChip (by decide +kernel), by decide +kernel⟩

/-! Sampling, lists, control and tables -/

/-- Combine 3, open, and combine 4, full; both the issuing thread's. -/
def combines : State :=
  demoWith { demoContext with combines := [⟨3, ⟨0, 0, 0, 0⟩, 1, 0, none⟩, ⟨4, ⟨0, 0, 0, 0⟩, 1, 1, some (1, 2)⟩,
    ⟨255, ⟨0, 0, 0, 1⟩, 1, 0, none⟩] }

/-- Ids 255 and 256; counts 0, 1, 65,535 and 65,536; combines that are not open, open and full, and another thread's. -/
theorem met_SamplingAndLists_combines : combines.cur.guardOk zeroMem.g = true ∧
    ([0, 255, 256, 1, 65535, 65536].all fun n => ((regs [(5, BitVec.ofNat 64 n)] combines).cur.sreg 5).toNat == n) = true ∧
    (combines.ctx? combines.curCtx).any (fun c => (c.combine? 0).isNone && (c.combine? 3).any (fun m => decide (m.got < m.want) &&
      m.owner == combines.cur.id) && (c.combine? 4).any (fun m => decide (m.want ≤ m.got) && m.owner == combines.cur.id) &&
      (c.combine? 255).any fun m => m.owner != combines.cur.id) = true := by decide +kernel

theorem met_SamplingAndLists_vectors : Allocated (.mem 0x18B zeroMem) demo ∧ Allocated (.mem 0x190 (sp ({ · with t := .fp32 }))) demo ∧
    Allocated (.mem 0x198 (sp id)) demo ∧ (sp ({ · with t := .fp32 })).t.isF = true ∧ demo.cur.role = none ∧ isChip .sp = true ∧
    Unheld (base (2 ^ 21 - 2) demo) ∧
    (base (2 ^ 21 - 2) demo).cur.ea (sp ({ · with t := .fp32 })) + laneCount .fp32 / 8 ≤ (base (2 ^ 21 - 2) demo).cur.limit .sp ∧
    active demo.cur ⟨false, 0⟩ 32 15 = true ∧ active demo.cur ⟨true, 0⟩ 32 15 = false ∧ isNaN .fp32 0x7FC00000 = true ∧
    isInfinite .fp32 0xFF800000 = true ∧ special .fp32 0x3F800000 = false :=
  ⟨by show badVreg _ _ = none; decide +kernel, by show badVreg _ _ = none; decide +kernel, by show badVreg _ _ = none; decide +kernel,
    by decide, by decide +kernel, by decide, unheld _ (by decide +kernel), by decide +kernel⟩

/-- A table of two entries, both the same, and its header. -/
def table (hdr : Word) (ent : BitVec 256) : Table := ⟨0, 1, [⟨hdr, hdr, [ent, ent], [ent, ent], 0, none⟩], 0, none, [], 0, []⟩
def tabled (t : Table) : State := demoWith { demoContext with tables := [t] }

/-- N of 16 and 17; a table and none; the last input bytes of the scratchpad. -/
theorem met_SamplingAndLists_tkstep : (∀ n ∈ [16, 17], ((BitVec.ofNat 64 n).extractLsb' 0 5 : BitVec 5).toNat = n) ∧
    (demo.shutter 0).isNone = true ∧ ((tabled (table 1 0)).shutter 0).isSome = true ∧
    Unheld (base (2 ^ 21 - 16) (tabled (table 1 0))) ∧
    (base (2 ^ 21 - 16) (tabled (table 1 0))).cur.eaCarved (sp id) + 16 ≤ (tabled (table 1 0)).cur.limit .sp :=
  ⟨by decide +kernel, by decide +kernel, by decide +kernel, unheld _ (by decide +kernel), by decide +kernel⟩

/-- A descriptor at 0x20040 and a list at 0x20000, under the A window; an address off by one, and one outside it. -/
theorem met_SamplingAndLists_lists :
    (match lpushAct win 0x20040 0x20000, lmoveAct win 0x20040 0x20000, lpopAct win 0x20000 with
      | .ok l, .ok _, .ok p => !l.2.2 && p.2.2
      | _, _, _ => false) = true ∧
    leVal (win.homeRead win.curCtx win.cur.cluster 0x20008 8) = 0 ∧ 0x20000 + 16 ≤ 0x20040 ∧
    (match lpushAct win 0x20041 0x20000, lpopAct win 0x10000 with
      | .error (.trap 0x0B _ _), .error (.trap 0x08 _ _) => true
      | _, _ => false) = true ∧
    (win.ctx? win.curCtx).all (fun c => c.edges.isEmpty) = true := by decide +kernel

theorem met_SystemTraps : demo.cur.guardOk zeroCtl.g = true ∧
    ¬((1 : BitVec 6) = 0 ∧ zeroCtl.key = 0 ∧ zeroCtl.ind = 0 ∧ zeroCtl.subop = 0) := by decide +kernel

/-- The firmware's context, and another; pages that are right, misaligned, none and past 2^48. -/
theorem met_SystemInstructions : demo.cur.guardOk zeroCtl.g = true ∧ demo.cur.latch = false ∧
    ((1 : BitVec 32).extractLsb' 0 24).toNat ≠ 0 ∧ ((0x1000000 : BitVec 32).extractLsb' 0 24).toNat = 0 ∧
    (demo.ctx? demo.curCtx).all (fun c => !c.firmware) = true ∧
    (let s := demoWith { demoContext with firmware := true };
      (s.ctx? s.curCtx).any (fun c => c.firmware) && (s.part? s.curCtx.part).isSome && (s.ctx? ⟨0, 0⟩).isSome &&
        (s.ctx? ⟨0, 4095⟩).isNone) = true ∧
    (let pages (a b : Nat) : Bool := a % 4096 == 0 && b != 0 && b % 4096 == 0 && decide (a + b ≤ 2 ^ 48);
      pages (2 ^ 48 - 4096) 4096 && !pages (2 ^ 48) 4096 && !pages 1 4096 && !pages 0 0 && !pages 0 4095) = true := by
  decide +kernel

/-- A thread that waits. -/
def waits (w : Wait) (t : Table) : State :=
  demoWith { demoContext with threads := [{ fetcher with life := .here (.waiting w) }], tables := [t] }
def waiter (w : Wait) : Thread := { fetcher with life := .here (.waiting w) }

theorem waiting (w : Wait) (t : Table) : Waiting (waits w t) ⟨0, 0, 0, 0⟩ (waiter w) w := ⟨rfl, rfl⟩

/-- An entry that matches every key, with an action; a table that is empty, one whose entries miss, with each header. -/
def entry (action : Nat) : BitVec 256 := BitVec.ofNat 256 (action * 2 ^ 128 + 2 ^ 131 + 5 * 2 ^ 160)
theorem met_Lookups : Waiting (waits (.lookup 0 (2 ^ 48 - 1) 3 none) (table 1 0)) ⟨0, 0, 0, 0⟩ (waiter (.lookup 0 (2 ^ 48 - 1) 3 none))
      (.lookup 0 (2 ^ 48 - 1) 3 none) ∧
    Waiting (waits (.lookup 0 0 0 (some (1, 2))) (table 1 0)) ⟨0, 0, 0, 0⟩ (waiter (.lookup 0 0 0 (some (1, 2))))
      (.lookup 0 0 0 (some (1, 2))) ∧ fetcher.role = none ∧
    (∀ a ∈ [0, 1, 2, 3, 4], winner [entry a, entry a] (BitVec.ofNat 48 (2 ^ 48 - 1)) = some (0, entry a) ∧ bitsOf (entry a) 128 3 = a) ∧
    winner [0, 0] 0 = none ∧
    (∀ a ∈ [0, 1, 2], bitsOf (BitVec.ofNat 64 (1 + a * 2 ^ 8)) 8 2 = a ∧ bitsOf (BitVec.ofNat 64 (1 + a * 2 ^ 8)) 0 4 ≠ 0) ∧
    bitsOf (0 : Word) 0 4 = 0 ∧ ((demo.ctx? ⟨0, 0⟩).bind fun c => c.table? 0).isNone = true ∧
    (((waits (.lookup 0 0 3 none) (table 1 0)).ctx? ⟨0, 0⟩).any fun c => (c.jobs.all fun j => j.unit != .feed) &&
      (c.table? 0).any fun t => (t.copies[0]?).isSome) = true ∧
    (demo.task? ⟨0, 0, 0⟩).any (fun t => t.state == .running && t.allStarted) = true :=
  ⟨waiting _ _, waiting _ _, by decide +kernel⟩

/-- A table free and busy; entry 1, index 2, the header; images that may stand and may not; pins. -/
theorem met_Tables : demo.cur.guardOk zeroCtl.g = true ∧
    ((tabled (table 1 0)).ctx? (tabled (table 1 0)).curCtx).any (fun c => c.table? 0 == some (table 1 0)) = true ∧
    ¬Busy (table 1 0) ∧ Busy { table 1 0 with pins := [⟨⟨0, 0, 0, 0⟩, 7⟩], dirBack := some 7 } ∧
    (1 : Nat) < 2 ^ (table 1 0).sizeLog ∧ ¬2 < 2 ^ (table 1 0).sizeLog ∧ (0xFFFFFFFF : BitVec 32) = BitVec.allOnes 32 ∧
    GoodHeader 1 1 ∧ ¬GoodHeader 1 2 ∧ GoodEntry (BitVec.ofNat 256 (4 * 2 ^ 128 + 0xFFFF * 2 ^ 160)) ∧
    ¬GoodEntry (BitVec.ofNat 256 (4 * 2 ^ 128 + 2 ^ 176)) ∧ ¬GoodEntry (BitVec.ofNat 256 (5 * 2 ^ 128)) ∧
    Allocated (.ctl 0x011 zeroCtl) demo ∧ Allocated (.ctl 0x012 zeroCtl) demo ∧ demo.cur.role = none ∧
    ((table 1 0).copies[demo.cur.cluster]?).isSome = true := by
  refine ⟨by decide +kernel, by decide +kernel, ?_, ⟨⟨⟨0, 0, 0, 0⟩, 7⟩, by simp, rfl⟩, ?_⟩
  · rintro ⟨p, hp, _⟩; simp [table] at hp
  · simp only [GoodHeader, GoodEntry, Allocated]; decide +kernel

/-- A context whose clocks run, with a message for cluster 0 and none for cluster 1; a reply that is due. -/
theorem met_Tables_messages : demo.active ⟨0, 0⟩ = true ∧
    (let t := { table 1 0 with seq := 1, inbox := [⟨0, 1, .clear⟩] };
      (t.inbox.find? fun m => m.cluster == 0).isSome && t.inbox.all fun m => m.cluster != 1) = true ∧
    Waiting (waits (.tableOp 0 0 none) (table 1 0)) ⟨0, 0, 0, 0⟩ (waiter (.tableOp 0 0 none)) (.tableOp 0 0 none) ∧
    (waiter (.tableOp 0 0 none)).role = none ∧
    ((waits (.tableOp 0 0 none) (table 1 0)).ctx? ⟨0, 0⟩).any (fun c => c.table? 0 == some (table 1 0)) = true ∧
    ∀ m ∈ (table 1 0).inbox, 0 < m.seq :=
  ⟨by decide +kernel, by decide +kernel, waiting _ _, by decide +kernel, by decide +kernel, by simp [table]⟩

/-- Handles 0, 15, 0x8000 and 0x8FFF, and 16; no group, one of the thread's, one of its task without it, another task's. -/
theorem met_Groups : (∀ h ∈ [0, 15, 0x8000, 0x8FFF], GoodHandle h) ∧ ¬GoodHandle 16 ∧ ¬GoodHandle 0x9000 ∧
    demo.cur.guardOk zeroCtl.g = true ∧ (demo.part? demo.cur.id.part).isSome = true ∧
    handleOf demo (k ({ · with subop := 15 })) = 15 ∧ groupOf demo 15 = none ∧
    groupOf (grouped 15 [0] 0) 15 = some ⟨0, 0, 15, 0, [0], false, [], [], []⟩ ∧
    groupOf (grouped 15 [1] 0) 15 = some ⟨0, 0, 15, 0, [1], false, [], [], []⟩ ∧
    groupOf (grouped 15 [0] 9) 15 = some ⟨0, 0, 15, 9, [0], false, [], [], []⟩ ∧
    Member demo ⟨0, 0, 15, 0, [0], false, [], [], []⟩ ∧ ¬Member demo ⟨0, 0, 15, 0, [1], false, [], [], []⟩ ∧
    ¬Member demo ⟨0, 0, 15, 9, [0], false, [], [], []⟩ := by
  simp only [GoodHandle, Member]; decide +kernel

/-- A phase to which all have come. -/
theorem met_Groups_phase : let g : Group := ⟨0, 0, 3, 0, [0, 1], true, [], [0, 1], [0]⟩
    let s : State := { demo with parts := demo.parts.map fun (p : Partition) => { p with groups := [g] } };
    ((s.part? 0).bind fun p => p.groups.find? fun g => g.named 0 0 3) = some g ∧ s.clocked 0 = true ∧ g.isOpen = true ∧
      g.awaited = [] ∧ g.early ≠ [] := by decide +kernel

/-- R13: a member that is saved when the phase completes is restored to WAITING. -/
theorem test_gbar_saved : let g : Group := ⟨0, 0, 3, 0, [0], true, [], [0], []⟩
    let s : State := demoWith { demoContext with threads := [{ fetcher with life := .saved (.waiting (.barrier 3)) }] }
    gives (.barrierPhaseComplete ⟨0, 0, 0, 3⟩) { s with parts := s.parts.map fun (p : Partition) => { p with groups := [g] } }
      (fun u => (u.thread? ⟨0, 0, 0, 0⟩).any fun h => h.life == .saved (.waiting (.again (.regs [] 0)))) = true := by
  decide +kernel

/-! Events -/

def theTask : Task := demoContext.tasks.headD winTask
def threads (hs : List Thread) : State := demoWith { demoContext with threads := hs }

/-- R267: a bit that is full by the deadline ends the wait, whatever empties it then. -/
theorem test_gwait_heard : (let s := waits (.gwait .sp 0 0) (table 1 0);
      (s.notice.thread? ⟨0, 0, 0, 0⟩).any fun h => h.life == .here (.waiting (.answered (some (0, 0))))) = true ∧
    (demo.parts.all fun p => p.owed.isEmpty) = true := by decide +kernel

/-- Each kind of wait, its condition holding and not; a deadline now and one ahead; a parked target, one that is not
parked, and one beyond the task's threads; an ended task; the last bank; a free seat and a yielded thread. -/
theorem met_WaitsEnd :
    Waiting (waits (.again (.full .sp 0)) (table 1 0)) ⟨0, 0, 0, 0⟩ (waiter (.again (.full .sp 0))) (.again (.full .sp 0)) ∧
    Cond.holds (waits (.again (.full .sp 0)) (table 1 0)) (waiter (.again (.full .sp 0))) (.full .sp 0) = true ∧
    Cond.holds (waits (.again (.post 1)) (table 1 0)) (waiter (.again (.post 1))) (.post 1) = false ∧
    Cond.holds (waits (.again (.jobRoom 0 0)) (table 1 0)) (waiter (.again (.jobRoom 0 0))) (.jobRoom 0 0) = true ∧
    (let s := demoWith { demoContext with
      threads := [waiter (.again (.taskEnd 1 5))], tasks := [theTask, { theTask with create := 1, state := .failed }] };
      (s.task? ⟨0, 0, 1⟩).any (fun t => t.state == .failed) && (s.awake? ⟨0, 0, 0, 0⟩).isSome) = true ∧
    Waiting (waits (.event 0) (table 1 0)) ⟨0, 0, 0, 0⟩ (waiter (.event 0)) (.event 0) ∧ (waiter (.event 0)).latch = false ∧
    ({ waiter (.event 9) with latch := true } : Thread).latch = true ∧ 0 ≤ demo.time ∧
    Waiting (waits (.gwait .sp 0 0) (table 1 0)) ⟨0, 0, 0, 0⟩ (waiter (.gwait .sp 0 0)) (.gwait .sp 0 0) ∧
    demoContext.isFull .sp 0 0 0 = true ∧ ({ demoContext with spEmpty := [0] }).isFull .sp 0 0 0 = false ∧
    (let s := threads [{ waiter (.resume 1 2 7) with nthreads := 2 },
      { fetcher with id := ⟨0, 0, 0, 1⟩, life := .here .parked }];
      (s.awake? ⟨0, 0, 0, 1⟩).any (fun g => g.life == .here .parked) && (s.awake? ⟨0, 0, 0, 2⟩).isNone &&
        (s.awake? ⟨0, 0, 0, 0⟩).any fun g => g.life != .here .parked) = true ∧
    8 * 3 < fetcher.vregs ∧
    (let s := threads [{ fetcher with life := .yielded }];
      (s.awake? ⟨0, 0, 0, 0⟩).isSome && (s.ctx? ⟨0, 0⟩).any fun c => !c.seatHeld 0 0 0) = true :=
  ⟨waiting _ _, by decide +kernel, by decide +kernel, by decide +kernel, by decide +kernel, waiting _ _, by decide +kernel,
    by decide +kernel, by decide +kernel, waiting _ _, by decide +kernel⟩

/-- A task of two threads, the second not started; the second seat, free; the last seat, core and cluster. -/
def halfStarted : State := demoWith { demoContext with tasks := [{ theTask with tcb := { theTask.tcb with nthreads := 2 } }] }
theorem met_Seats : halfStarted.active ⟨0, 0⟩ = true ∧ (halfStarted.part? 0).any (fun p => p.head?.isNone && !p.seatKept ⟨0, 0, 0, 0, 1⟩ && !p.seatKept ⟨0, 0, 0, 7, 3⟩) = true ∧
    (halfStarted.ctx? ⟨0, 0⟩).any (fun c => !c.seatHeld 0 0 1 && !c.seatHeld 0 7 3 && c.gated.isEmpty &&
      c.tasks.length == 1 && c.tasks.all fun t => c.claim ⟨0, 0⟩ t 0 0 1 == some 1) = true := by decide +kernel

/-- The machine with die 0 trained. -/
def inService (k : Stack) : Stack :=
  { k with blocks := (List.range 96).map fun g => ⟨g, 32, 32, none, true, 0, 0, [], true, 1, []⟩ }
def trained (s : State) : State := { s with hbm := s.hbm.map fun k => if k.num < 2 then inService k else k }

/-- A READY task at the head of the queue, gang and not; a COMMITTING one before and after its grant; a FAULTED one. -/
def taskIn (st : TaskState) (gang ok : Bool) : State :=
  trained <| demoWith { demoContext with threads := [], tasks := [{ theTask with
    state := st, commitOk := ok, granted := if st = .ready then [] else [0], started := []
    tcb := { theTask.tcb with gang := gang, energy := 5 } }] }
theorem met_TaskEvents_dispatch : (∀ g ∈ [true, false], ((taskIn .ready g false).part? 0).any fun p =>
      p.head?.any (fun x => x.1 == 0 && (p.ctx? 0).any fun c =>
        (taskIn .ready g false).chosen p c x.2 == some [0] && !c.seatHeld 0 0 0 &&
        (taskIn .ready g false).dispatches p && decide (p.logUsed + logNeed x.2.windows ≤ p.logLines))) := by decide +kernel

theorem met_TaskEvents_end : (∀ ok ∈ [true, false], (taskIn .committing false ok).active ⟨0, 0⟩ = true ∧
      ((taskIn .committing false ok).task? ⟨0, 0, 0⟩).any fun t => t.state == .committing && t.commitOk == ok && !t.tcb.spec &&
        ((taskIn .committing false ok).flushStop ⟨0, 0, 0⟩ t).isNone && !(taskIn .committing false ok).fenceHeld ⟨0, 0, 0⟩ t &&
        t.buffers.isEmpty && t.tcb.fcaddr == 0 && !t.attached) ∧
    ((taskIn .committing false true).ctx? ⟨0, 0⟩).any (fun c => c.edges.isEmpty && (c.liveJobs ⟨0, 0, 0⟩).isEmpty) = true ∧
    ((taskIn .faulted false false).task? ⟨0, 0, 0⟩).any (fun t => t.state == .faulted && t.state != .done && t.tcb.energy != 0) = true ∧
    (taskIn .faulted false false).clocked 0 = true := by decide +kernel

/-- A buffered byte whose home line is mapped, and one whose buffered line has an uncorrectable error. -/
def flushing (bad : List (Nat × Nat)) : State :=
  demoWith { winContext with tasks := winContext.tasks.map fun t => { t with
      state := .committing, commitOk := true, buffers := [(0, [(0x10000, 7)])], badLog := bad } }
theorem met_TaskEvents_flush : ((flushing []).task? ⟨0, 0, 0⟩).any (fun t => t.flushRuns == [(0, 0x10000, [7])] &&
      ((flushing []).flushStop ⟨0, 0, 0⟩ t).isNone) = true ∧ AtHome (flushing []) 0x10000 1 (2 ^ 42 + 0x10000) ∧
    ((flushing [(0, 0x10000 / 64)]).task? ⟨0, 0, 0⟩).any (fun t =>
      t.badLog.any fun e => (t.buffer e.1).any fun y => y.1 / 64 == e.2) = true :=
  ⟨by decide +kernel, atHome_of (by decide +kernel), by decide +kernel⟩

/-- A command on its way with a door that is right (none) and one that is wrong, a running job, and one held for a word. -/
theorem met_EngineEvents_jobs : (∀ p ∈ [Place.message, .running], (jobbed { fill 0 64 with place := p }).active ⟨0, 0⟩ = true ∧
      ((jobbed { fill 0 64 with place := p }).ctx? ⟨0, 0⟩).any fun c => (c.job? ⟨0, 0, 0, 0⟩ 1).any fun j =>
        j.place == p && (c.earlier j).isEmpty && (jobbed j).doorOk 0 j && j.merged.isEmpty) ∧
    (let j := { job (.rput ⟨0, 0, 64, 1, 0, 0, .sp, .gm, 1⟩) .message with door := some 1, cluster := 3 };
      (jobbed j).doorOk 0 j) = false ∧
    (let d := { job (.cpyf ⟨0, 0, 4, 1, 0, 0, .tcm, .gm, 0⟩) .heldWord with status := 0 };
      (jobbed d).released ⟨0, 0⟩ d) = true := by decide +kernel

/-- A round of one rank whose command has come, of a sum and of engine firmware that ended well and badly. -/
def rounds (op : Nat) (ended : Option Nat) : State :=
  let d : CollDesc := ⟨0x10100, 1, 8, op, 0x8000, 0, 0, .gm⟩
  let s := demoWith { winContext with jobs := [{ job (.coll d) .heldRound with unit := .coll, ea := 0x10000, space := .gm, status := 2 }] }
  { s with parts := s.parts.map fun p => { p with
      groups := [⟨0, 0, 0x8000, 0, [0], false, [], [], []⟩]
      rounds := [⟨0, 0, 0x8000, [0], d, [(0, 1)], ended.isSome, ended⟩] } }
theorem met_EngineEvents_rounds : (∀ x ∈ [(0, none), (7, some 0), (7, some 1), (7, none)],
      (rounds x.1 x.2).active ⟨0, 0⟩ = true ∧ ((rounds x.1 x.2).part? 0).any fun p =>
        (p.rounds.find? fun r => r.ctx == 0 && r.handle == 0x8000).any fun r => (rounds x.1 x.2).roundReady ⟨0, 0⟩ r &&
          r.desc.op == x.1 && r.ended == x.2 && ((rounds x.1 x.2).rankJobs ⟨0, 0⟩ r).all fun y => decide (y.status < 16)) ∧
    ((rounds 0 none).part? 0).any (fun p => p.rounds.all fun r =>
      (runRound ⟨0, 0⟩ r ((rounds 0 none).rankJobs ⟨0, 0⟩ r) (rounds 0 none)).toOption.isSome) = true := by decide +kernel

/-- A job whose turn it is and one behind another, of each operation, at the ends of its memories. -/
theorem met_JobsRun_turn :
    (∀ j ∈ [{ job (.fill ⟨0, 5, 64, 1, 0, 0, .gm, .gm, 0⟩) .queued with ea := 131072 - 64, space := .tcm },
        { job (.cpy ⟨131072 - 64, 0, 64, 1, 0, 0, .tcm, .gm, 0⟩) .queued with ea := 2 ^ 21 - 64 },
        { job .mwswap .queued with unit := .matrix }, { job (.mzero 255 1) .queued with unit := .matrix },
        { job (.mwld 9) .queued with unit := .matrix, ea := 2 ^ 21 - tileBytes 9 },
        { job (.mstream 9 255 1 0) .queued with unit := .matrix, ea := 2 ^ 21 - 128 },
        { job (.mdrain 0 1 0 2 2) .queued with unit := .matrix, ea := 131072 - 512, space := .tcm }],
      ((jobbed j).part? 0).any fun p => (p.ctx? 0).any fun c => (jobbed j).turn p c j) ∧
    (∀ j ∈ [{ fill 0 64 with id := 2, arr := 1 }], let s := demoWith { demoContext with jobs := [{ fill 0 64 with place := .queued }, j] };
      (s.part? 0).any fun p => (p.ctx? 0).any fun c => !s.turn p c j) := by decide +kernel

/-- A swapped tile's tag, an int8 one, and one that a stream does not take; firmware that a round is to start. -/
theorem met_JobsRun_matrix :
    (pairTags 9).2 = 0 ∧ (pairTags 1).2 ≠ (demoContext.matrix 0).active.tag ∧
    (let c := { demoContext with matrices := [{ demoContext.matrix 0 with active := ⟨[(0, 255)], 0, []⟩ }] };
      (c.matrix 0).active.tag = 0 ∧ ((c.matrix 0).active.weights.map (·.1)).Nodup) ∧ (2 : Nat) = Ty.num .i32 ∧ Ty.num .i32 ≠ Ty.num .fp32 ∧
    (demo.jobHome ⟨0, 0⟩ { job .mwswap .queued with unit := .matrix } .sp).any (fun h => h.1 == ⟨0, 0⟩) = true ∧ 2 ^ 21 - 128 + 128 ≤ (2 : Nat) ^ 21 ∧
    (∀ n, n < 128 → getAt 0 (demoContext.matrix 0).acc (128 * 0 + n) < 2 ^ 32) ∧
    ((rounds 7 none).part? 0).any (fun p => ((rounds 7 none).ctx? ⟨0, 0⟩).any fun c => c.jobs.all fun j => match j.op with
      | .coll d => (p.roundOf j d).any fun r => d.op == 7 && !r.started && (rounds 7 none).roundReady ⟨0, 0⟩ r
      | _ => false) = true := by decide +kernel

/-! The host, the anchor and bring-up -/

def hostCmdB (op : Nat) (fields : List (Nat × Nat)) (img : BitVec 256) : Bool :=
  bitsOf img 0 8 == op && (List.range 248).all fun i => !img.getLsbD i || decide (i < 8) ||
    fields.any fun f => decide (f.1 ≤ i) && decide (i < f.1 + f.2)

theorem hostCmd {op : Nat} {fields : List (Nat × Nat)} {img : BitVec 256} (h : hostCmdB op fields img = true) :
    HostCmd op fields img := by
  simp only [hostCmdB, Bool.and_eq_true, beq_iff_eq, List.all_eq_true, List.mem_range, Bool.or_eq_true, Bool.not_eq_true',
    decide_eq_true_eq, List.any_eq_true] at h
  refine ⟨h.1, fun i hi hb => ?_⟩
  rcases h.2 i hi with (h1 | h1) | ⟨f, h1, h2, h3⟩
  · simp [hb] at h1
  · exact .inl h1
  · exact .inr ⟨f, h1, h2, h3⟩

def image (l : List (Nat × Nat)) : BitVec 256 := BitVec.ofNat 256 (l.foldr (fun f n => f.2 * 2 ^ f.1 + n) 0)

/-- Each command with its fields full, and one with a bit past them. -/
theorem met_HostCommands_images : HostCmd 1 [(8, 12)] (image [(0, 1), (8, 4095)]) ∧ ¬HostCmd 1 [(8, 12)] (image [(0, 1), (20, 1)]) ∧
    HostCmd 2 [(8, 12)] (image [(0, 2), (8, 0)]) ∧ HostCmd 3 [(8, 12), (32, 32), (64, 32), (96, 2)] (image [(0, 3), (96, 1)]) ∧
    HostCmd 3 [(8, 12), (32, 32), (64, 32), (96, 2), (128, 32)] (image [(0, 3), (96, 2), (128, 2 ^ 32 - 1)]) ∧
    HostCmd 4 [(8, 12), (32, 32)] (image [(0, 4)]) ∧ HostCmd 5 [(8, 12), (32, 32)] (image [(0, 5), (32, 2 ^ 32 - 1)]) ∧
    HostCmd 6 [(32, 32), (64, 64), (128, 64)] (image [(0, 6), (34, 3), (64, 4096), (128, 4096)]) ∧
    HostCmd 7 [(8, 12), (64, 64), (128, 64)] (image [(0, 7), (128, 63)]) ∧
    HostCmd 8 [(8, 12), (32, 32), (64, 32), (128, 16)] (image [(0, 8), (128, 65535)]) :=
  ⟨hostCmd (by decide +kernel), by
      intro h; have := h.2 20 (by omega) (by decide +kernel); revert this; decide,
    hostCmd (by decide +kernel), hostCmd (by decide +kernel), hostCmd (by decide +kernel), hostCmd (by decide +kernel),
    hostCmd (by decide +kernel), hostCmd (by decide +kernel), hostCmd (by decide +kernel), hostCmd (by decide +kernel)⟩

/-- A partition whose descriptors and stage-2 roots lie in die 0's commons, context 1's of them good. -/
def hosted : State :=
  let s := demo
  { s with
    parts := s.parts.map fun p => { p with ctxBase := BitVec.ofNat 64 (2 ^ 42 + 0x5000), s2table := BitVec.ofNat 64 (2 ^ 42 + 0x6000) }
    mem := writeBytes (writeBytes (writeBytes (writeBytes s.mem (2 ^ 42 + 0x5040) (leBytes 8 (2 ^ 42 + 0x3000)))
      (2 ^ 42 + 0x5040 + 20) (leBytes 4 1)) (2 ^ 42 + 0x5040 + 32) (leBytes 2 1)) (2 ^ 42 + 0x6008) (leBytes 8 (2 ^ 42 + 0x1000)) }

theorem met_HostCommands_contexts : (hosted.part? 0).any (fun p => (p.ctx? 0).isSome && (p.ctx? 1).isNone && p.ctxBase != 0 &&
      p.s2table != 0) = true ∧ Readable hosted (2 ^ 42 + 0x5040) 64 ∧ Readable hosted (2 ^ 42 + 0x6008) 8 ∧
    GoodDescriptor (partOf hosted) (BitVec.ofNat 512 (leVal (readBytes hosted.mem (2 ^ 42 + 0x5040) 64)))
      (leVal (readBytes hosted.mem (2 ^ 42 + 0x6008) 8)) ∧ ¬GoodDescriptor (partOf hosted) 0 (2 ^ 42) ∧
    ¬GoodDescriptor (partOf hosted) 0 1 ∧
    ((demo.ctx? ⟨0, 0⟩).any fun c => c.tasks.any fun t => t.inTracker) = true ∧
    (((demoWith { demoContext with tasks := [], threads := [] }).ctx? ⟨0, 0⟩).any fun c => c.tasks.all fun t => !t.inTracker) = true := by
  simp only [Readable, GoodDescriptor]; decide +kernel

/-- A thread that is parked, one that is not, one beyond the task; a task that is, is not and is no longer there; pages;
a job held for a page and one that is not. -/
theorem met_HostCommands_targets :
    ((threads [{ fetcher with life := .here .parked }]).awake? ⟨0, 0, 0, 0⟩).any (fun h => h.life == .here .parked) = true ∧
    ((threads [fetcher]).awake? ⟨0, 0, 0, 0⟩).all (fun h => h.life != .here .parked) = true ∧
    (demo.task? ⟨0, 0, 0⟩).any (fun t => t.tcb.nthreads == 1 && t.inTracker && !t.pastGrant) = true ∧ demo.task? ⟨0, 0, 9⟩ = none ∧
    ((taskIn .failed false false).task? ⟨0, 0, 0⟩).any (fun t => t.state == .failed) = true ∧
    ((taskIn .done false false).task? ⟨0, 0, 0⟩).any (fun t => !t.inTracker && t.pastGrant) = true ∧
    (let s := jobbed { fill 0 64 with place := .heldPage 0 };
      (s.ctx? ⟨0, 0⟩).any fun c => (c.named? ⟨0, 0, 0, 0⟩ 1).any fun j => j.place == .heldPage 0 && c.job? ⟨0, 0, 0, 0⟩ j.id == some j
        && (c.named? ⟨0, 0, 0, 0⟩ 2).isNone) = true ∧
    (demo.ctx? ⟨0, 0⟩).any (fun c => c.object) = true := by decide +kernel

/-- R62 to R64: an object of a contract and one code word, at 0x8000. -/
def object : List Byte :=
  leBytes 64 (0x014F5650 + 2 ^ 32 + 2 * 2 ^ 64 + 64 * 2 ^ 128) ++ leBytes 32 (1 + 128 * 2 ^ 64 + 16 * 2 ^ 128) ++
    leBytes 32 (2 + 144 * 2 ^ 64 + 8 * 2 ^ 128 + 0x10000 * 2 ^ 192) ++ leBytes 16 (1 + 128 * 2 ^ 72 + 128 * 2 ^ 80) ++
    leBytes 8 0xC230000000000000
def loading : State :=
  let s := demoWith { winContext with object := false, tasks := [], threads := [] }
  { s with mem := writeBytes s.mem (2 ^ 42 + 0x8000) object }
theorem met_HostCommands_load : (loading.ctx? ⟨0, 0⟩).any (fun c => !c.object && c.tasks.isEmpty &&
      (loading.part? 0).any fun p => (loadObject ⟨0, 0⟩ p c 0x8000 152 loading).toOption.isSome) = true ∧
    bitsOf (image [(0, 7), (128, 63)]) 128 64 < 64 := by decide +kernel

/-- Rings with room, full and disabled; a held record; queues with entries of each kind. -/
def withHeld : State := { ringed win with parts := (ringed win).parts.map fun p => { p with held := [7] } }
/-- `win` with nothing else to run. -/
def winDone : State := win

def queued (kind addr value : Nat) : State :=
  { winDone with
    hostMem := writeBytes [] (hostKey 1 0x100) (leBytes 32 (kind + addr * 2 ^ 64 + value * 2 ^ 128))
    parts := winDone.parts.map fun p => { p with queues := p.queues.set 0 ⟨0x100, 6, true, 0, 1, 0, 0, 0, false, []⟩ } }

theorem met_Rings : (withHeld.part? 0).any (fun p => decide (p.terminal.sizeLog < 32) && p.replay.enable &&
      decide ((p.replay.head - p.replay.tail).toNat ≠ 2 ^ p.replay.sizeLog) && p.held == [7] && decide (p.num < 24)) = true ∧
    getAt 1 withHeld.weights 1 = 1 ∧ (demo.part? 0).any (fun p => p.held.isEmpty && !p.terminal.enable) = true ∧
    (({ base := 0, sizeLog := 6, enable := true, head := 64, tail := 0 } : Ring).head - 0 = BitVec.ofNat 32 (2 ^ 6)) := by
  decide +kernel

theorem met_HostQueues (kind addr value : Nat) (hk : kind < 4) (ha : addr ∈ [0x40000, 0x40008]) (hv : value < 2) :
    Entry (queued kind addr value) 0 0 ⟨0x100, 6, true, 0, 1, 0, 0, 0, false, []⟩ kind addr value := by
  have h : ∀ k < 4, ∀ a ∈ [0x40000, 0x40008], ∀ v < 2,
      ((queued k a v).part? 0).isSome = true ∧ ((queued k a v).part? 0).any (fun p => p.queues[0]? ==
        some ⟨0x100, 6, true, 0, 1, 0, 0, 0, false, []⟩ && (p.ctx? 0).isSome) = true ∧ (queued k a v).clocked 0 = true ∧
      (let e := leVal (readBytes (queued k a v).hostMem (hostKey 1 (0x100 + 32 * 0)) 32);
        e % 2 ^ 8 = k ∧ e / 2 ^ 64 % 2 ^ 64 = a ∧ e / 2 ^ 128 % 2 ^ 64 = v) := by decide +kernel
  obtain ⟨h1, h2, h3, h4⟩ := h kind hk addr ha value hv
  obtain ⟨p, hp⟩ := Option.isSome_iff_exists.mp h1
  simp [hp] at h2
  exact ⟨⟨p, hp, h2⟩, ⟨rfl, rfl, by decide, h3⟩, h4⟩

/-- A fresh image of one thread and one cluster at 0x40000, that is accepted. -/
theorem met_HostQueues_submit : let s := { queued 1 0x40000 0 with
      mem := writeBytes win.mem (2 ^ 42 + 0x40000) (leBytes 64 (2 ^ 32 + 2 ^ 64)) };
    0x40000 % 128 = 0 ∧ (s.submitAt ⟨0, 0⟩ 0x40000 0).any (fun r => r.1 == 0) = true := by
  decide +kernel

/-- Reads of an image and of a counter that pass their checks; a window that is full and one that is not; registers. -/
theorem met_RingsAndHostAccesses : (∀ v ∈ [0, 1], (queued 2 0x40008 v).mayRead ⟨0, 0⟩ 0x40008 8 = some true ∧
      (queued 2 0x40008 v).counterAt ⟨0, 0⟩ trackerCluster 0x40008 = 0) ∧
    ((queued 1 0x40000 0).submitAt ⟨0, 0⟩ 0x40000 0).any (fun r => r.1 != 0) = true ∧
    (demo.part? 0).any (fun p => decide (p.qos.lats.length < 2 ^ p.qos.winLog)) = true ∧
    (let q : Qos := ⟨0, 0, 0, 10, 0, List.replicate 1024 1⟩; q.lats.length = 2 ^ q.winLog ∧ q.winLog ≤ 16) ∧
    bitsOf (6 : Word) 0 4 = 6 ∧ (demo.part? 0).any (fun p => decide (29 < p.clusters)) = true ∧
    (demo.regionAt (2 ^ 42 + Config.commonsBytes - 8)).any (fun r => r.kind == .commons 0 &&
      decide (2 ^ 42 + Config.commonsBytes - 8 + 8 ≤ r.base + r.size)) = true ∧
    (demo.regionAt 0).any (fun r => r.kind == .hbm 0) = true := by decide +kernel

/-- A walk that succeeds and one that faults; a shoot-down; a context to save, to load, and one that is not quiet. -/
theorem met_TranslationAndContexts : demo.active ⟨0, 0⟩ = true ∧ demo.clocked 0 = true ∧
    (demo.ctx? ⟨0, 0⟩).any (fun c => decide (0 < c.nclusters) && (match demo.walk 0 c 0 0 .rd, demo.walk 0 c 0 (2 ^ 47) .rd with
      | .ok _, .error _ => true
      | _, _ => false)) = true ∧
    demo.quiet ⟨0, 0⟩ = true ∧ (taskIn .committing false true).quiet ⟨0, 0⟩ = false ∧
    (let s := demoWith { demoContext with loaded := false, object := false, threads := [{ fetcher with life := .saved .ready }] };
      (s.part? 0).any fun p => (p.ctx? 0).any fun c => !c.loaded && p.canLoad c [29] && p.restoreStatus c 0 == 0 &&
        torusFits c.contract.torus (torusOf p.num)) = true ∧
    (demo.awake? ⟨0, 0, 0, 0⟩).isSome = true := by decide +kernel

/-- Saved contexts that R39's checks refuse, one for each status but that of the torus, and a second partition with a
context open for one. -/
def saved (c : Context) : State :=
  let s := demoWith { c with loaded := false, threads := [{ fetcher with life := .saved .ready }] }
  { s with parts := s.parts.map (fun p => { p with saveSize := 4096 }) ++ [{ newPartition 4 1 [1] 0 30 0x4001 0 with
      ctxs := [newContext 7 4096 8192 3 1 0 1 false] }] }
def contract (tcm sp tile : Nat) : Contract := ⟨1, tcm, sp, (0, 0, 0), tile, tile⟩
theorem met_TranslationAndContexts_restore :
    (let small (c : Context) : Bool := ((saved c).part? 4).any fun p => p.restoreStatus c c.pages.length == 0;
      small { demoContext with contract := contract 128 2048 128 } = true) ∧
    ((saved demoContext).ctx? ⟨4, 7⟩).any Context.vacant = true ∧ (saved demoContext).clocked 4 = true ∧
    ((saved demoContext).part? 4).any (fun p => ((saved demoContext).part? 0).any fun q =>
      q.num == 0 && p.canLoad demoContext [0]) = true ∧
    (∀ x ∈ [(31, contract 128 2048 128, 0, 1), (1, contract 129 2048 128, 0, 2), (1, contract 128 2049 128, 0, 3),
        (1, contract 128 2048 64, 0, 4), (1, contract 128 2048 128, 1, 6)],
      ((saved demoContext).part? 4).any (fun p => p.restoreStatus { demoContext with
        nclusters := x.1, object := true, contract := x.2.1, pages := List.replicate x.2.2.1 ⟨0, [], []⟩ } x.2.2.1
          == x.2.2.2) = true) := by decide +kernel

/-- R39, R342: a saved context goes to a context opened on another partition, its thread with it. -/
theorem test_contextLoad_away : gives (.contextLoad ⟨0, 0⟩ ⟨4, 7⟩ [5])
    (saved { demoContext with contract := contract 128 2048 128 }) (fun u => u.restoreStat == 0 && ((u.ctx? ⟨4, 7⟩).any fun c => c.loaded && c.coreTable == [5] && c.s2root == 8192 && c.object) &&
    ((u.thread? ⟨4, 7, 0, 0⟩).any fun h => h.life == .here .ready && h.absent.length == 37) &&
    ((u.ctx? ⟨0, 0⟩).any fun c => c.threads == [] && !c.object)) = true := by decide +kernel
/-- R39: the registers of a thread that was YIELDED when it was saved are marked absent as well. -/
theorem test_contextLoad_yielded : gives (.contextLoad ⟨0, 0⟩ ⟨0, 0⟩ [5])
    (let s := saved { demoContext with contract := contract 128 2048 128 };
      { s with parts := s.parts.map fun p => { p with ctxs := p.ctxs.map fun c => { c with
          threads := c.threads.map fun h => { h with life := .yielded } } } })
    (fun u => (u.thread? ⟨0, 0, 0, 0⟩).any fun h => h.life == .yielded && h.absent.length == 37) = true := by decide +kernel

/-- A context whose save area, at the second GiB from 2^42 on, lies on stack 0; virtual addresses from 1 GiB on lie there
too, a task's image among them. -/
def onStack (s : State) : State := { s with
  mem := writeBytes (writeBytes s.mem (2 ^ 42 + 0x2008) (leBytes 8 0x1F)) (2 ^ 42 + 0x4008) (leBytes 8 (2 ^ 42 + 2 ^ 30 + 0x1F)) }
def saving : State :=
  let s := onStack (demoWith { demoContext with
    save := 2 ^ 42 + 2 ^ 30, tasks := [{ theTask with image := 2 ^ 30, attached := true }] })
  { s with parts := s.parts.map fun p => { p with saveSize := 4096, keys := p.keys.set 0 (.loaded 1 5) } }

/-- R313: a save area on a stack not yet in service, and on one in service. -/
theorem met_TranslationAndContexts_stack : saving.saveHeld ⟨0, 0⟩ = true ∧ (trained saving).saveHeld ⟨0, 0⟩ = false ∧
    saving.stackFailed 0 = false ∧ (saving.awake? ⟨0, 0, 0, 0⟩).isSome = true ∧
    ((saving.ctx? ⟨0, 0⟩).any fun c => match saving.stage2 c c.save with
      | .ok l => saving.stackOf (l.at c.save) == some 0
      | .error _ => false) = true := by decide +kernel

/-- R313: the write of an image on such a stack is owed until the stack is in service, and then made. -/
theorem test_imageWrite_owed : let s := saving.writeBack ⟨0, 0, 0⟩
    (s.part? 0).any (fun p => p.owed == [(0, 0)]) = true ∧ readByte s.mem 11 = 0 ∧
    (let t := (trained s).notice; (t.part? 0).any (fun p => p.owed.isEmpty) = true ∧ readByte t.mem 11 = 3) := by
  decide +kernel

/-- R39: too few clusters are status 0x01. -/
theorem test_contextLoad_short : gives (.contextLoad ⟨0, 0⟩ ⟨4, 7⟩ [5]) (saved { demoContext with nclusters := 31 })
    (fun u => u.restoreStat == 1 && (u.ctx? ⟨4, 7⟩).any Context.vacant) = true := by decide +kernel

/-- A request for quarter 3 of die 5, one for die 6, one of no kind; partitions with and without contexts, a pool that
fits and one that does not. -/
theorem met_TranslationAndContexts_partitions :
    (let img : BitVec 64 := BitVec.ofNat 64 (1 + 5 * 4 + 3 * 32 + 2 ^ 14);
      img.getLsbD 14 = true ∧ bitsOf img 0 2 = 1 ∧ bitsOf img 2 3 ≤ 5 ∧ bitsOf img 7 6 = 0 ∧ bitsOf img 32 32 ≤ 2 ^ 24) ∧
    (5 < bitsOf (BitVec.ofNat 64 (1 + 6 * 4) : Word) 2 3 ∧ bitsOf (0 : Word) 0 2 = 0) ∧
    (demo.part? 0).any (fun p => decide ((0, 0) ∈ p.quarters) && !p.ctxs.isEmpty) = true ∧
    (∀ p ∈ demo.parts, (5, 3) ∉ p.quarters) ∧ 2 ^ 30 ≤ demo.nodeHbm ([5], 3, 30) ∧
    ¬2 ^ 24 * 4096 + 2 ^ 30 ≤ demo.nodeHbm ([5], 3, 30) ∧ 3 ≤ demo.stage := by decide +kernel

/-- Slots 15 and 16, keys there and not, alarm levels 1 and 2; doors of both units; the last cluster and the one past
it; the last epoch; the last monitor; the functions; frozen and not. -/
def keyed : State :=
  { demo with parts := demo.parts.map fun p => { p with
      keys := p.keys.set 15 (.loaded 1 5), epochs := [(1, 0xFF)], frozen := true, scanOk := true } }
def ask (fn slot : Nat) : MailCmd := ⟨fn, 0, slot, 29, 0, 7, 3, 0, 0, 0, 63, 0, 0, false⟩
theorem met_AnchorCommands : (∀ fn ∈ [0, 1], ∃ p, Heard (ask fn 15) demo p) ∧
    (demo.part? 0).any (fun p => p.keys.getD 15 .empty == .empty && !p.frozen && p.clusters == 30 &&
      decide (getAt 0 p.epochs 1 < 0xFF) && (p.ctx? 3).isNone && (p.ctx? 0).isSome) = true ∧
    (keyed.part? 0).any (fun p => p.keys.getD 15 .empty != .empty && p.frozen && decide (0xFF ≤ getAt 0 p.epochs 1)) = true ∧
    demo.alarm < 2 ∧ ({ demo with alarm := 2 } : State).alarm = 2 ∧ demo.scrubHeld ⟨3, [], 0, [], []⟩ = false ∧
    demo.part? 1 = none ∧ ¬24 < (ask 24 0).fn ∧ State.reset.stage < 1 ∧ (keyed.thread? ⟨0, 0, 0, 0⟩).isSome = true :=
  ⟨by
      intro fn hfn
      have h : ∀ fn ∈ [0, 1], fn ≤ 24 ∧ (demo.mailbox fn).waiting = [] ∧
          (demo.part? (if fn = 0 then 0 else fn - 1)).isSome = true := by decide +kernel
      obtain ⟨h1, h2, h3⟩ := h fn hfn
      obtain ⟨p, hp⟩ := Option.isSome_iff_exists.mp h3
      exact ⟨p, ⟨h1, .inl (by decide)⟩, h2, hp⟩, by decide +kernel⟩

/-- A mailbox of the physical function after a signature failure of stage 1, and one with a command that waits; a SCRUB
of a context whose stack has not come up. -/
theorem met_AnchorCommands_waiting :
    (let s := { State.reset with stage := 1, sigFailed := true }
     Appeared s 0 ∧ ¬Appeared s 1 ∧ ¬Appeared { s with sigFailed := false } 0) ∧
    (let s := { demo with mail := [⟨1, 0, 0, [.cmd 1 (ask 1 15)]⟩] };
      (s.mailbox 1).waiting = [.cmd 1 (ask 1 15)] ∧ Appeared s 1 ∧ MailWait.cmd 3 (ask 1 15) ≠ .cmd 1 (ask 1 15)) ∧
    (let s := { demo with mail := [⟨0, 0, 0, [.scan 0 .doorSecret]⟩] };
      (s.mailbox 0).waiting = [.scan 0 .doorSecret] ∧ Appeared s 0 ∧ MailWait.scan 0 .doorSecret ≠ .scan 1 .doorSecret ∧
      (exec (.scanRead 0 .doorSecret) (s.setWaiting 0 []) matches .next _) = true) ∧
    demo.scrubHeld ⟨3, [], 2 ^ 42 + 0x1000, [0], []⟩ = false ∧
    (let s : State := { demo with
        mem := writeBytes demo.mem (2 ^ 42 + 0x2008) (leBytes 8 0x1F)
        parts := demo.parts.map fun (p : Partition) => { p with closed := [⟨3, [], 2 ^ 42 + 0x1000, [], []⟩] } };
      (s.part? 0).any fun p => (p.closed.find? fun x => x.ctx == 3).any s.scrubHeld) = true := by
  simp only [Appeared]; decide +kernel

/-- A module with one cut in progress, a unit's marker received and another's not. -/
theorem met_AnchorCommands_cuts : let s := { demo with cuts := 1, markers := [⟨5, 0, [], [1], []⟩] }
    s.cuts ≠ 0 ∧ (∀ m ∈ s.markers, m.unit ≠ 4) ∧ (∃ m ∈ s.markers, m.unit = 5) ∧ State.reset.alarm ≠ 1 :=
  ⟨by decide +kernel, by decide +kernel, ⟨⟨5, 0, [], [1], []⟩, by simp, rfl⟩, by decide +kernel⟩

/-- Each stage's condition. -/
theorem met_BringUp : State.reset.stage = 0 ∧ ({ State.reset with stage := 1 } : State).stage = 1 ∧
    ({ State.reset with stage := 2 } : State).stage = 2 ∧
    (let s := { demo with hbm := demo.hbm.map fun (k : Stack) => { k with blocks := (List.range 96).map fun g =>
      { k.block g with inService := true } } };
      (3 ≤ s.stage ∧ s.stackUp 0 = true ∧ s.stackUp 1 = true) ∧ s.stackUp 11 = true ∧ demo.stackUp 11 = false) ∧
    (let s := trained { demoWith { demoContext with tasks := [{ theTask with state := .done }] } with bringUp := [0] };
      s.bringUp.contains 0 && s.stackUp 0 && s.stackUp 1 && !s.stackUp 2 &&
        (s.part? 0).any fun p => p.ctxs.all fun c => c.tasks.all fun t => t.state == .done) = true ∧ demo.stage = 5 := by
  decide +kernel

/-- A block idle and busy, in service and not, its spare free and taken; a command that is right and one that is not. -/
theorem met_Training : (demo.stack? 11).isSome = true ∧ (demo.stack? 11).any (fun k => (k.block 95).queue.isEmpty &&
      !(k.block 95).inService && (k.block 95).spare.isNone && !k.trained) = true ∧
    (let w : Word := BitVec.ofNat 64 (3 + 31 * 256);
      bitsOf w 0 4 = 3 ∧ bitsOf w 8 6 = 31 ∧ bitsOf w 4 4 = 0 ∧ bitsOf w 14 50 = 0) ∧
    bitsOf (BitVec.ofNat 64 (3 + 32 * 256) : Word) 8 6 = 32 ∧ bitsOf (BitVec.ofNat 64 (1 + 16) : Word) 4 4 ≠ 0 ∧
    (71 : Nat) < 72 ∧ 2 ≤ demo.stage ∧ (71 : Nat) ∉ demo.portsDown ∧ (71 : Nat) ∈ ({ demo with portsDown := [71] } : State).portsDown := by
  decide +kernel

/-! More of the premises: each clause that the theorems above leave -/

/-- A thread whose registers are all there, one that misses a granule of `ADD`'s source, one whose bank of v5 sleeps. -/
theorem met_StepRunsDecoded_awake : Awake (.reg 0x001 (bin .i32)) demo.cur ∧
    ¬Awake (.reg 0x001 (bin .i32)) { demo.cur with absent := [scalarGranule 6] } ∧
    ¬Awake (.reg 0x100 (bin .i32)) { demo.cur with retained := [0] } := by
  simp only [Awake]; decide +kernel

theorem met_FloatRounding_clamps : ∀ c ∈ [Clamp.sat, .c01, .c11], let x := { bin .fp32 with clamp := c }
    x.t.isF = true ∧ x.clamp = c ∧ demo.cur.guardOk x.g = true ∧ special .fp32 0x7F7FFFFF = false := by decide +kernel

/-- 4,096 rounds to itself toward zero. -/
theorem met_VectorSpecials_rounds : RoundsTo 1 4096 4096 ∧ (r ({ · with t := .fp32, s3 := .reg 4 })).s3.num5.toNat ≤ 4 :=
  ⟨by constructor <;> norm_num, by decide⟩

/-- A float to another, to a wider and to a narrower one. -/
theorem met_VectorConversions_float :
    (∀ p ∈ [((0x184 : Nat), Ty.fp16, Ty.bf16), (0x185, .fp32, .fp16), (0x185, .fp32, .i8), (0x186, .e4m3, .fp32)],
      let x := r ({ · with t := p.2.1, s3 := .reg (BitVec.ofNat 5 p.2.2.num), dst := .reg 8, s1 := .reg 12 })
      Code.fieldsOk (.reg p.1 x) = true ∧ x.srcTy = some p.2.2 ∧ badVreg (.reg p.1 x) demo.cur.vregs = none) ∧
    VecReady 0x184 (r ({ · with t := .fp16, s3 := .reg 9, dst := .reg 8, s1 := .reg 12 })) demo ∧
    VecReady 0x185 (r ({ · with t := .fp32, s3 := .reg 10, dst := .reg 8, s1 := .reg 12 })) demo ∧
    VecReady 0x186 (r ({ · with t := .e4m3, s3 := .reg 8, dst := .reg 8, s1 := .reg 12 })) demo ∧
    special .fp16 0x7BFF = false :=
  ⟨by decide +kernel, ready _ _ _ (by decide +kernel) (by decide +kernel) (by decide +kernel) (by decide +kernel),
    ready _ _ _ (by decide +kernel) (by decide +kernel) (by decide +kernel) (by decide +kernel),
    ready _ _ _ (by decide +kernel) (by decide +kernel) (by decide +kernel) (by decide +kernel), by decide +kernel⟩

/-- Reductions of floats with numbers among the active elements, with NaNs only, and with none active. -/
theorem met_VectorReductions_float : (∀ op ∈ [0x1CA, 0x1CB, 0x1CC, 0x1CD, 0x1CE], VecReady op (p2 .fp32) lanes) ∧
    VecReady 0x1CA (p2 .fp32) demo ∧ (p2 .fp32).t.isF = true ∧ isNaN .fp32 (lane .fp32 (lanes.cur.vreg 3) 14) = false ∧
    isNaN .fp32 (lane .fp32 (lanes.cur.vreg 1) 14) = true :=
  ⟨fun op h => ready _ _ _ (by revert op; decide +kernel) (by decide +kernel) (by decide +kernel) (by decide +kernel),
    ready _ _ _ (by decide +kernel) (by decide +kernel) (by decide +kernel) (by decide +kernel), by decide +kernel⟩

theorem met_Predicates_float : let x := r ({ · with t := .bf16, dst := .reg 7, s3 := .reg 6 })
    VecReady 0x113 x demo ∧ x.t.isF = true ∧ x.s3.num5.toNat ≤ 6 :=
  ⟨ready _ _ _ (by decide +kernel) (by decide +kernel) (by decide +kernel) (by decide +kernel), by decide, by decide⟩

/-- Three streams, the destination's right; the second off by one, and one that passes the end of TCM; a compare and a
group of two registers; an instruction with an active element and one whose guard holds for the thread. -/
theorem met_VectorTraps_streams :
    let x := r ({ · with t := .i32, dst := .inc 1, s1 := .str 2, s2 := .inc 3 })
    let tuple (y : StreamAt) := (y.q, y.regs, y.size, y.dst)
    (streamsOf 0x100 x).map tuple = [(1, 1, 4, true), (2, 1, 4, false), (3, 1, 4, false)] ∧
    (streamsOf 0x113 x).map tuple = [(2, 1, 4, false), (3, 1, 4, false)] ∧
    (streamsOf 0x1C5 x).map tuple = [(1, 2, 4, true), (2, 1, 4, false), (3, 1, 4, false)] ∧
    streams.cur.qaddr 1 % 4 = 0 ∧ streams.cur.qaddr 1 + 64 * 1 ≤ streams.cur.tcmLimit ∧
    ({ streams with cur := streams.cur.setQ 2 2 }).cur.qaddr 2 % 4 ≠ 0 ∧
    ({ streams with cur := streams.cur.setQ 2 131012 }).cur.tcmLimit <
      ({ streams with cur := streams.cur.setQ 2 131012 }).cur.qaddr 2 + 64 * 1 ∧
    Allocated (.reg 0x113 x) streams ∧ acts 0x100 x streams ∧ acts 0x1C1 x streams :=
  ⟨by decide +kernel, by decide +kernel, by decide +kernel, by decide +kernel, by decide +kernel, by decide +kernel,
    by decide +kernel, by show badVreg _ _ = none; decide +kernel, ⟨15, by decide +kernel⟩, by
      show streams.cur.guardOk _ = true; decide +kernel⟩

/-- `demo` with lines of its scratchpad and its TCM that have errors. -/
def badChip : State := demoWith { demoContext with spBad := [1], tcmBad := [2047] }

/-- The last line without an error, and the first with one; `CLRE` off a word, of no whole word, of nothing, past the end. -/
theorem met_OnChipAccesses_sound : (∀ u ∈ [Use.load, .store], Sound (base (2 ^ 21 - 64) badChip) (sp id) u 64) ∧
    Sound (base 0 badChip) (sp id) .load 64 ∧ Sound (base 64 badChip) (sp id) .store 64 ∧
    ¬Sound (base 64 badChip) (sp id) .load 1 ∧ ¬Sound (base 64 badChip) (sp id) .store 63 ∧
    (base 2 demo).cur.ea (sp id) % 4 ≠ 0 ∧ (regs [(5, 2)] demo).cur.sreg 5 = 2 ∧
    (base (2 ^ 21 - 4) demo).cur.ea (sp id) % 4 = 0 ∧
    (base (2 ^ 21 - 4) demo).cur.limit .sp < (base (2 ^ 21 - 4) demo).cur.ea (sp id) + 8 := by
  simp only [Sound]; decide +kernel

/-- OVF alone and with NAN, both infinities, each alone, and none. -/
theorem met_Cells_marks : let mark (c i : Nat) : Bool := c.testBit (480 + i);
    (∀ c ∈ [2 ^ 483, 2 ^ 483 + 2 ^ 480, 2 ^ 481 + 2 ^ 482, 2 ^ 481, 2 ^ 482, 2 ^ 480], c < 2 ^ 512) ∧
    mark (2 ^ 483) 3 = true ∧ (mark (2 ^ 483 + 2 ^ 480) 3 && mark (2 ^ 483 + 2 ^ 480) 0) = true ∧
    (mark (2 ^ 481 + 2 ^ 482) 1 && mark (2 ^ 481 + 2 ^ 482) 2 && !mark (2 ^ 481 + 2 ^ 482) 3) = true ∧
    (mark (2 ^ 481) 1 && !mark (2 ^ 481) 2) = true ∧ (mark (2 ^ 482) 2 && !mark (2 ^ 482) 1) = true := by decide +kernel

/-- An on-chip line with an error, a home line with one that a load reads and a store writes in part, and a buffered
line with one; an address whose translation faults where a prediction was cached. -/
theorem met_AccessTraps_errors :
    (base 64 badChip).chipBad .sp .load 64 8 = some 64 ∧ 64 + 8 ≤ (base 64 badChip).cur.limit .sp ∧
    (let s := { win with badLines := [(2 ^ 42 + 0x20000) / 64] };
      s.task? s.cur.id.taskId = some winTask ∧ winTask.firstDenied 0x20000 8 .store = none ∧
      (match s.xlate s.curCtx s.cur.cluster 0x20000 .wr with
        | .ok y => y.home == .mem (2 ^ 42 + 0x20000) 0 &&
            s.firstBad winTask s.cur.cluster .store y.entry.dev 0x20000 (2 ^ 42 + 0x20000) 8 == some 0 &&
            s.firstBad winTask s.cur.cluster .load y.entry.dev 0x20000 (2 ^ 42 + 0x20000) 8 == some 0
        | .error _ => false) = true) ∧
    0x20000 / 4096 = (0x20000 + 8 - 1) / 4096 := by decide +kernel

/-- A thread that no held load waits for. -/
theorem met_WindowedAccesses_tickets : win.cur.tickets = [] := by decide +kernel

theorem met_WindowedAccesses_fails : InWindow (gm .n64) .swap 8 winTask (base 0x10FF8 win) ∧
    Cached (base 0x10FF8 win) .wr 0x10FF8 8 ∧ (base 0x10FF8 win).phyAt .gm 0x10FF8 8 = none ∧
    win.devPage win.curCtx win.cur.cluster 0x10FF8 .wr = false ∧
    (valueOf .n64 (win.homeReadFor .wr win.curCtx win.cur.cluster 0x10FF8 8) = 0) :=
  ⟨inWindow (by decide +kernel), cached_of (by decide +kernel), by decide +kernel, by decide +kernel, by decide +kernel⟩

theorem homeBy_of {s : State} {a n pa : Nat} (h : atHomeB s a n pa = true) : AtHomeBy 0 s a n pa := by
  intro i hi
  have := List.all_eq_true.mp h i (List.mem_range.mpr hi)
  split at this
  · rename_i x hx; simp at this; exact ⟨x, hx, this.1.1.1, this.1.1.2, this.1.2, .inl this.2⟩
  · simp at this

/-- Sixty-four byte elements under a W window, and under an A window. -/
theorem met_VectorMemory_windows : let s := base 0x10FC0 win
    let u := base 0x20FC0 win
    (∀ i, touched (gm .i8) whole s i → Cached s .wr (unitAddr (gm .i8) s.cur i) 1 ∧
      s.devPage s.curCtx s.cur.cluster (unitAddr (gm .i8) s.cur i) .wr = false ∧
      ∀ j, j < 1 → winTask.inA (unitAddr (gm .i8) s.cur i + j) = false) ∧
    (∀ i, touched (gm .i8) whole u i → AtHomeBy 0 u (unitAddr (gm .i8) u.cur i) 1 (2 ^ 42 + 0x20FC0 + i) ∧
      u.devPage u.curCtx u.cur.cluster (unitAddr (gm .i8) u.cur i) .wr = false ∧
      ∀ j, j < 1 → winTask.inA (unitAddr (gm .i8) u.cur i + j) = true) ∧
    win.task? win.cur.id.taskId = some winTask ∧ (∀ i, i < 64 → touched (gm .i8) whole s i) := by
  have h1 : ∀ i, i < 64 → cachedB (base 0x10FC0 win) .wr (unitAddr (gm .i8) (base 0x10FC0 win).cur i) 1 = true := by
    decide +kernel
  have h2 : ∀ i, i < 64 → atHomeB (base 0x20FC0 win) (unitAddr (gm .i8) (base 0x20FC0 win).cur i) 1
      (2 ^ 42 + 0x20FC0 + i) = true := by decide +kernel
  refine ⟨fun i hi => ⟨cached_of (h1 i hi.1), ?_⟩, fun i hi => ⟨homeBy_of (h2 i hi.1), ?_⟩, by decide +kernel, ?_⟩
  · have h := hi.1; clear hi; revert i; decide +kernel
  · have h := hi.1; clear hi; revert i; decide +kernel
  · simp only [touched]; decide +kernel

/-- `LDG` and `STG` of 64-bit elements: sixteen, of which a guard is tested by the 32-bit index. -/
theorem met_VectorMemory_indexed :
    (∀ i, touched (sp ({ · with t := .i64 })) indexed (base 64 win) i → i < 8) ∧ touched (sp ({ · with t := .i64 })) indexed (base 64 win) 7 ∧
    (∀ i, i < 16 → let x := sp ({ · with t := .i32 })
      touched x indexed (base 64 win) i ∧ indexAddr x (base 64 win).cur i % 4 = 0 ∧
        indexAddr x (base 64 win).cur i + 4 ≤ (base 64 win).cur.limit .sp) := by
  refine ⟨fun i h => h.2.1, ?_, ?_⟩ <;> simp only [touched] <;> decide +kernel

/-- A command to close the context of a die's bring-up. -/
theorem met_HostCommands_bringUp : ({ demo with bringUp := [0] } : State).isBringUp 0 = true ∧ demo.isBringUp 0 = false ∧
    HostCmd 2 [(8, 12)] (image [(0, 2)]) := by
  refine ⟨?_, ?_, ?_⟩
  · decide +kernel
  · decide +kernel
  · simp only [HostCmd]; decide +kernel

/-- `ringed win` with its task attached to the image at 0x40000. -/
def ownImage : State :=
  ringed (demoWith { winContext with tasks := winContext.tasks.map fun t => { t with image := 0x40000, attached := true } })

/-- The function's turn, and none with a record late or its weight sent; the image at home, in no host page; a task
that is FAULTED, or has its record, writes none; a full ring of either kind. -/
theorem met_TrapTaken_turns : (partOf ownImage).late = [] ∧ (partOf ownImage).sent < getAt 1 ownImage.weights (ownImage.ringFn 0) ∧
    ¬({ partOf ownImage with sent := 1 }).sent < getAt 1 ownImage.weights (ownImage.ringFn 0) ∧
    (∀ i, i < 64 → match ownImage.xlate ⟨0, 0⟩ trackerCluster (0x40000 + i) .wr with
      | .ok x => x.home = .mem (2 ^ 42 + 0x40000 + i) 0 ∧ ownImage.writeTag 0 (2 ^ 42 + 0x40000 + i) = 0 ∧ x.home ≠ .host i
      | .error _ => False) ∧
    (ownImage.task? ⟨0, 0, 0⟩).any (fun t => t.attached && t.image == 0x40000 && t.state == .running && !t.recorded) = true ∧
    ({ partOf ownImage with terminal := ⟨0, 6, true, 64, 0⟩ }).terminal.full = true ∧
    (ownImage.ringOf (partOf ownImage) true).full = false ∧
    ({ winTask with state := .faulted, recorded := true }).recorded = true := by
  refine ⟨by decide +kernel, by decide +kernel, by decide +kernel, ?_, by decide +kernel⟩
  have h : ∀ i, i < 64 → (match ownImage.xlate ⟨0, 0⟩ trackerCluster (0x40000 + i) .wr with
      | .ok x => x.home == .mem (2 ^ 42 + 0x40000 + i) 0 && ownImage.writeTag 0 (2 ^ 42 + 0x40000 + i) == 0
      | .error _ => false) = true := by decide +kernel
  intro i hi
  have := h i hi
  split at this
  · rename_i x hx; simp at this; simp [this]
  · simp at this

/-- `win` with an image at 0x40000: its first 64 bytes as a number, and windows. -/
def imaged (w ws : Nat) : State :=
  at40000 { win with mem := writeBytes win.mem (2 ^ 42 + 0x40000) (leBytes 64 w ++ leBytes 64 ws) }

/-- R149's fields: a thread on a cluster; with n windows, the overflow windows at 0x50000. -/
def plainImage (n : Nat) : Nat := 2 ^ 32 + 2 ^ 64 + n * 2 ^ 352 + 0x50000 * 2 ^ 368

/-- An image whose overflow windows lie where nothing is mapped. -/
theorem met_TaskInstructions_unmapped :
    (let s := imaged (2 ^ 32 + 2 ^ 64 + 5 * 2 ^ 352 + 2 ^ 30 * 2 ^ 368) 0
     let tcb := tcbOf (leVal ((s.homeRead s.curCtx s.cur.cluster 0x40000 128).take 64))
     s.cur.role == none && 4 < tcb.nwin && tcb.nwin ≤ 64 && tcb.ovfptr % 16 == 0 &&
      (match (s.noteDevice .load 0x40000 128).deviceStop s.curCtx s.cur.cluster .load 16 tcb.ovfptr (16 * (tcb.nwin - 4)) with
        | some (.trap _ _ _) => true
        | _ => false)) = true ∧
    DeviceReady imageAt .load 128 128 (imaged (2 ^ 32 + 2 ^ 64 + 5 * 2 ^ 352 + 2 ^ 30 * 2 ^ 368) 0) :=
  ⟨by decide +kernel, device (by decide +kernel)⟩

/-- Each refusal of R212's table, and the image that none refuses, with no window, with four and with 64. -/
theorem met_TaskInstructions_submit :
    DeviceReady imageAt .load 128 128 (imaged (plainImage 0) 0) ∧
    (let word (w : Nat) := leVal (((imaged w 0).homeRead win.curCtx win.cur.cluster 0x40000 128).take 64)
     let r1 (w : Nat) : Bool := nbits w 92 4 != 0 || nbits w 304 16 != 0 || nbits w 359 9 != 0 || nbits w 456 56 != 0
     let r2 (t : Tcb) : Bool := t.nthreads == 0 || t.clusters == 0 || decide (30 < t.clusters)
     let r3 (t : Tcb) : Bool := t.gang && decide (32 * t.clusters < t.nthreads)
     let r4 (t : Tcb) : Bool := decide (64 < t.nwin) || t.fcaddr % 8 != 0 || decide (4 < t.nwin) && t.ovfptr % 16 != 0
     let none (w : Nat) : Bool := !r1 (word w) && !r2 (tcbOf (word w)) && !r3 (tcbOf (word w)) && !r4 (tcbOf (word w))
     r1 (word (plainImage 0 + 2 ^ 95)) = true ∧ r1 (word (plainImage 0 + 2 ^ 511)) = true ∧
     (∀ w ∈ [2 ^ 64, 2 ^ 32, plainImage 0 + 30 * 2 ^ 64], r1 (word w) = false ∧ r2 (tcbOf (word w)) = true) ∧
     (let w := plainImage 0 + 32 * 2 ^ 32 + 2 ^ 80; r2 (tcbOf (word w)) = false ∧ r3 (tcbOf (word w)) = true) ∧
     (∀ w ∈ [plainImage 65, plainImage 0 + 4 * 2 ^ 256, plainImage 5 + 2 ^ 368], r3 (tcbOf (word w)) = false ∧ r4 (tcbOf (word w)) = true) ∧
     ∀ n ∈ [0, 4, 64], none (plainImage n) = true) ∧
    (win.part? 0).any (fun p => decide (p.clusters = 30 ∧ 0 < p.logLines)) = true ∧
    (windowsOf (tcbOf (plainImage 1)) (leBytes 128 (plainImage 1)) []).findIdx? (fun w => !w.valid) = some 0 :=
  ⟨device (by decide +kernel), by decide +kernel, by decide +kernel, by decide +kernel⟩

theorem met_TaskInstructions_full : ((List.replicate 65536 winTask).filter Task.inTracker).length = 65536 := by
  rw [List.filter_replicate_of_pos (by decide), List.length_replicate]

/-- Five windows, the fifth in the overflow windows, which can be read; the image's own slots for the write back. -/
theorem met_TaskInstructions_overflow : let s := imaged (plainImage 5) 0
    s.deviceStop s.curCtx s.cur.cluster .load 16 0x50000 16 = none ∧ Cached s .rd 0x50000 16 ∧
    s.deviceStop s.curCtx s.cur.cluster .store 1 (0x40000 + 10) 47 = none ∧ Cached s .wr (0x40000 + 10) 47 ∧
    (tcbOf (plainImage 5)).ovfptr = 0x50000 ∧ (tcbOf (plainImage 5)).nwin = 5 ∧
    (s.ctx? s.curCtx).any (fun c => (c.task? c.nextCreate).isNone) = true :=
  ⟨by decide +kernel, cached_of (by decide +kernel), by decide +kernel, cached_of (by decide +kernel), by decide +kernel⟩

/-- A speculative task past its grant with a window that the image's conflicts with. -/
theorem met_TaskInstructions_speculative :
    let u : Task := { winTask with state := .committing, commitOk := true }
    u.pastGrant = true ∧ (⟨0x10000, 64, 1, 0, 2⟩ : Window).conflicts ⟨0x10000, 0x1000, 1, 0, 2⟩ = true ∧
    (win.ctx? win.curCtx).any (fun c => precedes (newTask c 0x40000 0 (leBytes 128 (plainImage 0 + 2 ^ 81 + 2 ^ 160)) []) u ||
      precedes u (newTask c 0x40000 0 (leBytes 128 (plainImage 0 + 2 ^ 81)) [])) = true := by decide +kernel

/-- `TWIN` at entry 0 of the image at 0x40000, by one key; at entry 64; with a barred live task and one that is not. -/
theorem met_TaskInstructions_twin : AtHomeBy 0 (imaged (plainImage 0) 0) (0x40000 + 64) 16 (2 ^ 42 + 0x40040) ∧
    AtHomeBy 0 (imaged (plainImage 0) 0) (0x40000 + 44) 1 (2 ^ 42 + 0x4002C) ∧
    (let s := imaged (plainImage 0) 0;
      s.deviceStop s.curCtx s.cur.cluster .store 16 (0x40000 + 64) 16 = none ∧
      s.deviceStop s.curCtx s.cur.cluster .store 1 (0x40000 + 44) 1 = none ∧ s.attachedTo 0x40000 = none) ∧
    64 ≤ ((entryK 64).extractLsb' 128 8).toNat ∧
    (∀ st ∈ [TaskState.running, .failed], ((at40000 (withTask st)).attachedTo 0x40000).any (fun tk => tk.state == st) = true) ∧
    TaskState.running ∉ [TaskState.new, .waiting, .failed] ∧ TaskState.failed ∈ [TaskState.new, .waiting, .failed] :=
  ⟨homeBy_of (by decide +kernel), homeBy_of (by decide +kernel), by decide +kernel⟩

/-- An image that was attached once, DONE in its STATE. -/
theorem met_TaskInstructions_departed : (imaged (plainImage 0 + 6 * 2 ^ 88) 0).attachedTo 0x40000 = none ∧
    imageState ((imaged (plainImage 0 + 6 * 2 ^ 88) 0).imageWord 0x40000) ≠ 0 := by decide +kernel

/-- A store feed with its ring's control block at 0x1000 of TCM, and HEAD there. -/
def storeFeed (place : Place) (head : Nat) : State :=
  let s := jobbed { job (.feed ⟨0x10000, 64, 1, 0, 2⟩ 1 true) place with unit := .feed, ea := 0x1000, space := .tcm }
  s.store .tcm 0x1000 (leBytes 40 (0x2000 + 12 * 2 ^ 64 + head * 2 ^ 128))
/-- Held for a page and running, its ring empty and not. -/
theorem met_JobsAndRings_store : (∀ p ∈ [Place.heldPage 0, .running], ∀ h ∈ [0, 16], let s := storeFeed p h
    (s.ownJob 1).any (fun j => j.unit == .feed && decide (j.status < 16) && j.stopHead.isNone && j.place == p) = true ∧
    (s.ctx? s.curCtx).any (fun c => c.chipBad .tcm 0 0 true 0x1000 64 == none &&
      (ringCb (c.chip .tcm 0 0 0x1000 64)).head == h && (ringCb (c.chip .tcm 0 0 0x1000 64)).tail == 0) = true) ∧
    (0x1000 : Nat) + 64 ≤ 131072 := by decide +kernel

theorem met_JobsAndRings_sound : Sound (ring 16 demo) ringForm .load 64 ∧ (ring 16 demo).chipBad .sp .load 0x2000 8 = none ∧
    ((grouped 0x8000 [0] 0).part? 0).any (fun p => decide (p.queueUsed 0 3 < 64)) = true := by
  simp only [Sound]; decide +kernel

/-- A sequence whose page has an error in its first line, alone and shared with a snapshot; a pool of two pages. -/
def badSeq (maps : List Snapshot) : State :=
  let s := demoWith { demoContext with seqs := [⟨5, 3, [some 1, none], maps⟩], pages := [⟨1, [], [1]⟩], spBad := [1] }
  { s with parts := s.parts.map fun p => { p with poolFree := 2, poolNext := 2 } }
theorem met_SequenceStore_errors :
    ((badSeq []).ctx? demo.curCtx).any (fun c => (c.seq? 5).any fun q => c.badRead q 64 64 == some 0 && c.badRead q 128 64 == none &&
      c.badCopy q 128 64 == none && (pieces 4096 64).all (c.needPage q) && (pieces 0 64).all fun e => !c.needPage q e) = true ∧
    ((badSeq [⟨0, [some 1, none]⟩]).ctx? demo.curCtx).any (fun c => (c.seq? 5).any fun q =>
      c.badCopy q 128 64 == some 64 && (q.snap? 0).isSome) = true ∧
    (base 64 (badSeq [])).chipBad .sp .load 64 64 = some 64 ∧ (base 128 (badSeq [])).chipBad .sp .load 128 64 = none ∧
    Unheld (badSeq []) ∧ ((badSeq []).part? 0).any (fun p => decide (1 ≤ p.poolFree)) = true ∧
    (demo.part? 0).any (fun p => p.poolFree == 0) = true :=
  ⟨by decide +kernel, by decide +kernel, by decide +kernel, by decide +kernel, unheld _ (by decide +kernel), by decide +kernel⟩

theorem met_SequenceStore_sound : ∃ p c, (badSeq []).part? 0 = some p ∧ (badSeq []).ctx? ⟨0, 0⟩ = some c ∧ PagesSound p c := by
  refine ⟨_, _, rfl, rfl, ⟨by decide +kernel, by decide +kernel, by decide +kernel, ?_⟩⟩
  simp [demoContext]; decide +kernel

/-- A snapshot at the position asked, only at others, at later ones, at none; a ring that is full and one that is not. -/
theorem met_SequenceStore_snapshots :
    (let q : Sequence := ⟨5, 3, [none], [⟨4, [none]⟩]⟩
     (∃ y ∈ q.ring, y.pos = 4) ∧ (∀ y ∈ q.ring, y.pos ≠ 3) ∧ (∃ y ∈ q.ring, 3 < y.pos) ∧ (∀ y ∈ q.ring, y.pos < 5) ∧
       ¬2 ^ q.ringLog ≤ q.ring.length) ∧
    2 ^ 3 ≤ ((List.range 8).map fun i => (⟨i, [none]⟩ : Snapshot)).length := by decide

/-- The windowed mask: the bytes at 0x10000. -/
theorem met_SamplingAndLists_mask : let x := gm .fp32
    Allocated (.mem 0x190 x) win ∧ x.t.isF = true ∧ isChip x.space = false ∧
    (base 0x10000 win).eltStop .load .gm 1 ⟨0, 0x10000, 2⟩ = none ∧ Unheld win ∧ win.cur.tickets = [] ∧
    Sound (base (2 ^ 21 - 2) demo) (sp ({ · with t := .fp32 })) .load 2 :=
  ⟨by show badVreg _ _ = none; decide +kernel, by decide, by decide, by decide +kernel, unheld _ (by decide +kernel),
    by decide +kernel, by simp only [Sound]; decide +kernel⟩

/-- A token table whose header is nonzero, seen from its cluster, and one whose header is zero; no flush and no bytes. -/
theorem met_SamplingAndLists_shutter : (∀ h ∈ [0, 1], ((tabled (table (BitVec.ofNat 64 h) 0)).ctx? demo.curCtx).any fun c =>
      (c.table? 0).any fun t => (t.copies[0]?).any fun cp => bitsOf (shown t demo.cur.id cp).1 0 4 == h) ∧
    (tabled (table 1 0)).chipBad .sp .load 0 16 = none ∧ Cut [] [] ∧ Emits [] 0 0 [] [] [] ∧ Ends 0 false [] [] [] [] 0 :=
  ⟨by decide +kernel, by decide +kernel, .done, .none, rfl, rfl, rfl⟩

/-- The words that each list act touches at 0x20040 and 0x20000: all under the A window, at home by one key, apart. -/
theorem met_SamplingAndLists_words :
    let w (a : Nat) : Nat := leVal (win.homeReadFor .wr win.curCtx win.cur.cluster a 8)
    let good (r : ListEffect) : Bool := r.2.1.all fun e => e.1 % e.2.1 == 0 &&
      atHomeB win (e.1 + e.2.2) 8 (2 ^ 42 + e.1 + e.2.2) && !win.badIn (2 ^ 42 + e.1 + e.2.2) 8 &&
      (List.range 8).all fun i => winTask.inA (e.1 + e.2.2 + i)
    good (moveWords 0x20040 0x20000 w) = true ∧ good (pushWords 0x20040 0x20000 w) = true ∧
    good (popWords 0x20000 w) = true ∧
    (∀ e ∈ (moveWords 0x20040 0x20000 w).2.1, ∀ f ∈ (moveWords 0x20040 0x20000 w).2.1, e.1 + e.2.2 ≠ f.1 + f.2.2 →
      2 ^ 42 + e.1 + e.2.2 + 8 ≤ 2 ^ 42 + f.1 + f.2.2 ∨ 2 ^ 42 + f.1 + f.2.2 + 8 ≤ 2 ^ 42 + e.1 + e.2.2) ∧
    (win.ctx? win.curCtx).all (fun c => c.edges.isEmpty) = true := by decide +kernel

/-- A table with no message under way; one with a clear for cluster 0 on its way. -/
theorem met_Lookups_order : InOrder 1 (table 1 0) ∧ Visible 0 (table 1 0) ∧
    InOrder 1 { table 1 0 with seq := 1, inbox := [⟨0, 1, .clear⟩] } :=
  ⟨⟨by simp [table], by simp [table], by simp [table]⟩, by simp [Visible, table],
    ⟨by simp, by simp, by simp⟩⟩

/-- Each end of a handle's range in an event. -/
theorem met_Groups_events : (∀ h ∈ [0, 0x8FFF], ((grouped h [0] 0).part? 0).any fun p =>
    groupAt p ⟨0, 0, 0, h⟩ == some ⟨0, 0, h, 0, [0], false, [], [], []⟩) = true := by decide +kernel

/-- A wait whose end was kept, with a value and without; a counter that has reached its value; 256 cycles of waiting. -/
theorem met_WaitsEnd_kept :
    Waiting (waits (.answered none) (table 1 0)) ⟨0, 0, 0, 0⟩ (waiter (.answered none)) (.answered none) ∧
    Waiting (waits (.answered (some (5, 7))) (table 1 0)) ⟨0, 0, 0, 0⟩ (waiter (.answered (some (5, 7)))) (.answered (some (5, 7))) ∧
    Waiting (waits (.again (.counter 0x40008 0)) (table 1 0)) ⟨0, 0, 0, 0⟩ (waiter (.again (.counter 0x40008 0)))
      (.again (.counter 0x40008 0)) ∧ 0 ≤ demo.counterAt ⟨0, 0⟩ 0 0x40008 ∧
    Waiting (waits (.again (.taskEnd 0 5)) (table 1 0)) ⟨0, 0, 0, 0⟩ (waiter (.again (.taskEnd 0 5))) (.again (.taskEnd 0 5)) ∧
    fetcher.since + 256 ≤ ({ demo with time := 256 } : State).time :=
  ⟨waiting _ _, waiting _ _, waiting _ _, by decide +kernel, waiting _ _, by decide +kernel⟩

/-- R97, R267: a count of cycles in the cycle of its end and in the next; what comes by then, and what does not. -/
theorem met_WaitsEnd_time : ∀ w ∈ [Wait.event 6, .gwait .sp 0 6], Waiting (waits w (table 1 0)) ⟨0, 0, 0, 0⟩ (waiter w) w ∧
    Waiting { waits w (table 1 0) with time := 6 } ⟨0, 0, 0, 0⟩ (waiter w) w ∧
    Waiting { waits w (table 1 0) with time := 7 } ⟨0, 0, 0, 0⟩ (waiter w) w ∧
    ((((waits w (table 1 0)).passTime 6).thread? ⟨0, 0, 0, 0⟩).any fun h => h.life == .here (.waiting w)) = true ∧
    ((((waits w (table 1 0)).passTime 7).thread? ⟨0, 0, 0, 0⟩).any fun h => h.life == .here .ready) = true := by
  intro w hw
  refine ⟨⟨rfl, rfl⟩, ⟨rfl, rfl⟩, ⟨rfl, rfl⟩, ?_⟩
  revert w; decide +kernel

/-- The seat of a gang task that stands first for it; the seat once it is held. -/
theorem met_Seats_gang : let s := taskIn .ready true false
    s.active ⟨0, 0⟩ = true ∧ (s.part? 0).any (fun p => (p.ctx? 0).any fun c => !p.seatKept ⟨0, 0, 0, 0, 0⟩ && !c.seatHeld 0 0 0 &&
      p.head?.any fun x => x.1 == 0 && x.2.tcb.gang && s.chosen p c x.2 == some [0] && decide (0 < x.2.tcb.nthreads) &&
        slotOf [0] 0 == (0, 0, 0) && (c.tasks.all fun v => (c.claim ⟨0, 0⟩ v 0 0 0).isNone) &&
        ({ p with heldSeats := [(⟨0, 0, 0, 0, 0⟩, x.2.create)] } : Partition).seatKept ⟨0, 0, 0, 0, 0⟩) = true := by decide +kernel

/-- A gang task whose seat is open, and one whose seat another gang task keeps. -/
theorem met_TaskEvents_gang : ((taskIn .ready true false).part? 0).any (fun p => (p.ctx? 0).any fun c => p.head?.any fun x =>
    !p.seatTaken c x.2 ⟨0, 0, 0, 0, 0⟩ && !c.seatHeld 0 0 0 &&
    (let q : Partition := { p with
      heldSeats := [(⟨0, 0, 0, 0, 0⟩, 7)]
      ctxs := p.ctxs.map fun c => { c with tasks := c.tasks ++ [{ x.2 with create := 7 }] } };
    q.seatTaken c x.2 ⟨0, 0, 0, 0, 0⟩)) = true := by decide +kernel

/-- A command that may join a running job of its source, one too late, and one whose thread waits on an earlier one. -/
def joining (time : Nat) : State :=
  let d : Desc := ⟨0x100, 0, 64, 1, 0, 0, .tcm, .gm, 0⟩
  { demoWith { demoContext with jobs := [{ job (.cpy d) .running with id := 1, status := 1, moved := [(0x100, [7])] },
      { job (.cpy d) .message with id := 2, core := 1 }] } with time := time }
theorem met_EngineEvents_joins : (∀ t ∈ [64, 65], (joining t).active ⟨0, 0⟩ = true ∧
      ((joining t).ctx? ⟨0, 0⟩).any fun c => (c.job? ⟨0, 0, 0, 0⟩ 2).any fun j => j.place == .message &&
        (joining t).doorOk 0 j && (c.earlier j).all (fun x => x.status != 0 && x.place != .message) &&
        (c.jobs.all fun y => c.orderLets j y) &&
        (c.jobs.all fun y => y.merged.isEmpty)) ∧
    (let d : Desc := ⟨0x100, 0, 64, 1, 0, 0, .tcm, .gm, 0⟩
     let j : Job := { job (.cpy d) .message with id := 2, core := 1 }
     let x : Job := { job (.cpy d) .running with id := 1, status := 1, moved := [(0x100, [7])] }
     Joins 64 j x ∧ ¬Joins 65 j x ∧ ¬Joins 64 j j ∧ ((([x, j] : List Job).map fun y => (y.thread, y.id)).Nodup)) := by
  refine ⟨by decide +kernel, ⟨_, rfl, rfl, by decide, by decide, by decide, by decide, by decide, by decide, by decide, by decide,
    by decide⟩, ?_, ?_, by decide⟩
  · rintro ⟨_, _, _, _, _, _, _, _, _, _, _, h⟩; revert h; decide
  · rintro ⟨_, _, _, _, _, _, _, _, _, h, _⟩; exact h rfl

/-- A job that moved a row from the scratchpad, where the row still stands and where it does not; one of which a later
command of another thread may take the row, and one of no row. -/
def standing (rows : List (Nat × List Byte)) : State :=
  let d : Desc := ⟨0x100, 0, 64, 1, 0, 0, .tcm, .gm, 0⟩
  demoWith { demoContext with sp := [(0, 7)], jobs :=
    [{ job (.cpy d) .running with id := 1, status := 1, space := .sp, moved := rows },
      { job (.cpy d) .message with id := 2, core := 1, space := .sp }] }
theorem met_EngineEvents_rows :
    (let x : Job := { job (.cpy ⟨0x100, 0, 1, 1, 0, 0, .tcm, .gm, 0⟩) .running with space := .sp, moved := [(0x100, [7])] }
     x.space = .sp ∧ x.door = none ∧ demoContext.spBad = [] ∧ x.ea + 1 ≤ 2 ^ 21 ∧ demo.rowsStand ⟨0, 0⟩ x = false ∧
      (standing []).rowsStand ⟨0, 0⟩ x = true) ∧
    ∀ rows ∈ [[], [(0x100, [7])]], ((standing rows).active ⟨0, 0⟩ && ((standing rows).ctx? ⟨0, 0⟩).any fun c =>
      (c.job? ⟨0, 0, 0, 0⟩ 2).any fun j => (c.job? ⟨0, 0, 0, 0⟩ 1).any fun x => j.joins 0 x && c.orderLets j x &&
        (standing rows).rowsStand ⟨0, 0⟩ x && (standing rows).doorOk 0 j && x.moved == rows && x.merged.isEmpty &&
          (c.jobs.all fun y => y.id == 1 || !j.joins 0 y)) = true := by decide +kernel

/-- A copy into the TCM of cores 0 and 1, of which core 1's line has an error. -/
theorem met_EngineEvents_errors :
    (let x : Job := { job (.cpy ⟨0x100, 0, 32, 1, 0, 0, .tcm, .gm, 0⟩) .queued with merged := [(⟨0, 0, 0, 1⟩, 3, 1)] }
     let bad := { demoContext with tcmBad := [(coreKey 0 1 + 0x100) / 64] }
     x.cores = [0, 1] ∧ bad.tcmSound x 0 = true ∧ bad.tcmSound x 1 = false ∧ demoContext.tcmBad = [] ∧ x.space ≠ .tcm ∧
      bad.chipBad .tcm 0 1 false 0x100 32 = some 0 ∧
      ((demoWith { bad with jobs := [x] }).part? 0).any (fun p => (p.ctx? 0).any fun c =>
        (demoWith { bad with jobs := [x] }).turn p c x) = true) := by decide +kernel

/-- A queued `CPY` of thread 1, a queued `FILL` of thread 0, and thread 0's `CPY`, which may join the first while it has
not started, and may not join it once it runs or while it waits for the `FILL` of both. -/
def ordered (place : Place) (status : Nat) (both : List (TId × Nat × Nat)) : State :=
  let d : Desc := ⟨0x100, 0, 64, 1, 0, 0, .tcm, .gm, 0⟩
  demoWith { demoContext with jobs :=
    [{ job (.cpy d) place with id := 5, thread := ⟨0, 0, 0, 1⟩, status := status },
      { fill 0 64 with place := .queued, merged := both }, { job (.cpy d) .message with id := 2 }] }
theorem met_EngineEvents_order :
    (∀ x ∈ [(Place.queued, 0, [], true), (.running, 1, [], false), (.queued, 0, [(⟨0, 0, 0, 1⟩, 6, 1)], false)],
      ((ordered x.1 x.2.1 x.2.2.1).ctx? ⟨0, 0⟩).any fun c => (c.job? ⟨0, 0, 0, 0⟩ 2).any fun j =>
        (c.job? ⟨0, 0, 0, 1⟩ 5).any fun y => j.joins 0 y && c.orderLets j y == x.2.2.2 &&
          (c.earlier j).any fun z => z.status == 0) := by decide +kernel

/-- A ring in the scratchpad at 0x1000, its bytes at 0x2000: with room from its HEAD on, with a gap, full, too small. -/
def putting (len head tail : Nat) : State :=
  let s := jobbed { job (.rput ⟨0x1000, 0, len, 1, 0, 0, .sp, .gm, 0⟩) .queued with ea := 0, space := .tcm }
  s.store .sp 0x1000 (leBytes 40 (0x2000 + 6 * 2 ^ 64 + head * 2 ^ 128 + tail * 2 ^ 192))
theorem met_JobsRun_ring : (∀ x ∈ [(24, 0, 0), (24, 48, 32), (24, 64, 0), (64, 0, 0)], let s := putting x.1 x.2.1 x.2.2
    (s.part? 0).any (fun p => (p.ctx? 0).any fun c => (c.job? ⟨0, 0, 0, 0⟩ 1).any fun j => s.turn p c j && j.stopHead.isNone &&
      c.tcmBad.isEmpty && c.spBad.isEmpty && j.door.isNone && j.merged.isEmpty &&
      (let cb := ringCb (c.chip .sp 0 0 0x1000 64);
        cb.head == x.2.1 && cb.tail == x.2.2 && cb.sizeLog == 6 && cb.base == 0x2000 && cb.head % 8 == 0)) = true) ∧
    (let size (n : Nat) := 8 + 8 * ((n + 7) / 8);
      32 + 0 ≤ 64 ∧ size 24 = 32 ∧ 64 - 48 % 64 < size 24 ∧ 32 + 16 + (48 - 32) ≤ 64 ∧ 64 < 32 + 64 ∧ 64 < size 64) := by
  decide +kernel

/-- A tile whose first line has an error. -/
theorem met_JobsRun_error : let s := jobbed { job (.mwld 9) .queued with unit := .matrix }
    let u : State := { s with parts := s.parts.map fun p => { p with ctxs := p.ctxs.map fun c => { c with spBad := [0] } } }
    (u.part? 0).any (fun p => (p.ctx? 0).any fun c => (c.job? ⟨0, 0, 0, 0⟩ 1).any fun j => u.turn p c j &&
      (u.jobHome ⟨0, 0⟩ j .sp).any fun o => o.1 == ⟨0, 0⟩ && c.chipBad .sp o.2.1 o.2.2 true 0 (tileBytes 9) == some 0) = true := by
  decide +kernel

/-! The host, the anchor and bring-up -/

/-- A partition frozen and not, with a command held. -/
def frozen (cmds : List (BitVec 256)) : State :=
  { demo with parts := demo.parts.map fun p => { p with frozen := true, heldIn := cmds.map .command } }
theorem met_HostCommands_frozen : (demo.part? 0).any (fun p => !p.frozen) = true ∧
    ((frozen []).part? 0).any (fun p => p.frozen && p.heldIn.isEmpty) = true ∧
    bitsOf (image [(0, 3), (20, 1)]) 0 8 = 3 := by decide +kernel

/-- A command that waits: the next is it or another; a descriptor and an object on a stack that has not come up. -/
theorem met_HostCommands_waiting :
    (let x := image [(0, 2), (8, 9)]
     let s := demo.modPart 0 fun p => { p with cmdWait := [x, image [(0, 3)]] }
     (s.part? 0).any (fun p => !p.frozen && p.cmdWait == [x, image [(0, 3)]]) ∧ bitsOf x 0 8 = 2 ∧ image [(0, 2)] ≠ x ∧
       gives (.closeContext 0 x) (s.modPart 0 fun p => { p with cmdWait := [] }) (fun _ => true) = true) ∧
    (let s := hosted.modPart 0 fun p => { p with ctxBase := 0 + 4096 }
     (s.physCheck (4096 + 64) matches some (.hold _)) ∧ s.part? 1 = none ∧
       (s.part? 0).any (fun p => (p.ctx? 1).isNone && p.ctxBase != 0 && p.s2table != 0 && p.cmdWait.isEmpty) = true) ∧
    (let s := demoWith { winContext with object := false, tlb := [⟨trackerCluster, 0, 0, 0, 30, true, true, true, false, 0, 0, []⟩] }
     (s.part? 0).any fun p => p.ctxs.any fun c =>
       loadObject ⟨0, 0⟩ p c 0x8000 152 s matches .error (.hold, _)) := by decide +kernel

/-- The answers that a partition without its clock holds, frozen and not. -/
theorem met_TranslationAndContexts_held : (frozen []).clocked 0 = false ∧
    ((frozen []).part? 0).any (fun p => p.frozen) = true ∧ ((frozen []).ctx? ⟨0, 0⟩).isSome = true := by decide +kernel

theorem met_HostCommands_keyless : Readable hosted (2 ^ 42 + 0x5040) 64 ∧ Readable hosted (2 ^ 42 + 0x6008) 8 ∧
    GoodDescriptor (partOf hosted) (BitVec.ofNat 512 (leVal (hosted.physRead 0 (2 ^ 42 + 0x5040) 64)))
      (leVal (hosted.physRead 0 (2 ^ 42 + 0x6008) 8)) ∧ Keyless hosted (2 ^ 42 + 0x5048) 8 := by
  simp only [Readable, GoodDescriptor, Keyless]; decide +kernel

/-! An object's load (R62 to R64, R339) -/

/-- An object at 0x8000 of the sections named, their bytes behind the table. -/
def objectOf (xs : List Section) (body : List Byte) : State :=
  { loading with
    mem := writeBytes loading.mem (2 ^ 42 + 0x8000) (leBytes 64 (0x014F5650 + 2 ^ 32 + xs.length * 2 ^ 64 + 64 * 2 ^ 128) ++
      xs.flatMap (fun x => leBytes 32 (x.kind + x.off * 2 ^ 64 + x.size * 2 ^ 128 + x.load * 2 ^ 192)) ++ body) }

def ObjectParts (s : State) (len : Nat) (xs : List Section) : Prop :=
  let k : CtxId := ⟨0, 0⟩
  let head := objBits s k 0x8000 0 64
  64 ≤ len ∧ ObjThere s k 0x8000 0 64 ∧ GoodObjHeader head ∧ GoodObjTable head len ∧ xs.length = bitsOf head 64 16 ∧
    ∀ p ∈ xs.zipIdx, let off := bitsOf head 128 64 + 32 * p.2
      ObjThere s k 0x8000 off 32 ∧ GoodSection len (objBits s k 0x8000 off 32) ∧ p.1 = sectionOf (objBits s k 0x8000 off 32)

theorem objectAt_of {s : State} {len : Nat} {xs : List Section} (h : ObjectParts s len xs) :
    ObjectAt s ⟨0, 0⟩ 0x8000 len xs :=
  ⟨h.1, h.2.1, h.2.2.1, h.2.2.2.1, h.2.2.2.2.1, fun i x hx =>
    h.2.2.2.2.2 (x, i) (List.mem_zipIdx_iff_getElem?.mpr hx)⟩

/-- R62 to R64, R149: a contract, a word of code, a table of 16 entries, a launch list of one image, and firmware. -/
def sections : List Section :=
  [⟨1, 224, 16, 0⟩, ⟨2, 240, 8, 0x10000⟩, ⟨3, 248, 528, 0⟩, ⟨6, 776, 144, 0x10100⟩, ⟨7, 920, 8, 0⟩]
def sectionBytes (clusters word hdr launch img : Nat) : List Byte :=
  leBytes 16 clusters ++ leBytes 8 0xC230000000000000 ++ leBytes 8 word ++ leBytes 8 hdr ++ leBytes 512 0 ++
    leBytes 8 1 ++ leBytes 8 launch ++ leBytes 128 img ++ leBytes 8 0xC230000000000000
def whole (clusters word hdr launch img : Nat) : State := objectOf sections (sectionBytes clusters word hdr launch img)
/-- No contract, no code, two contracts; too much firmware in two sections. -/
def shorter : List (List Section) :=
  [[⟨2, 128, 8, 0⟩], [⟨1, 128, 16, 0⟩], [⟨1, 160, 16, 0⟩, ⟨2, 160, 8, 0⟩, ⟨1, 160, 16, 0⟩],
    [⟨1, 192, 16, 0⟩, ⟨2, 192, 8, 0x10000⟩, ⟨7, 192, 80, 0⟩, ⟨7, 192, 524288, 0⟩]]

theorem met_HostCommands_objects : (∀ xs ∈ shorter, ObjectParts (objectOf xs []) (2 ^ 20) xs) ∧
    (∀ x ∈ [(1, 1028, 4, 0x10100), (31, 1028, 4, 0x10100), (1, 1028, 4, 0x10180), (1, 2 ^ 12 + 1028, 4, 0x10100), (1, 1028, 5, 0x10100)],
      ObjectParts (whole x.1 x.2.1 x.2.2.1 x.2.2.2 (plainImage 0)) 928 sections) := by
  simp only [ObjectParts, ObjThere, GoodObjHeader, GoodObjTable, GoodSection]; decide +kernel

/-- Each step's premises met: the contract, a table, what is copied, a word of firmware, a launch that is accepted; an
image that no submission takes. -/
theorem met_HostCommands_steps : GoodSections sections ∧
    (let s := whole 1 1028 4 0x10100 (plainImage 0)
     (s.launchList ⟨0, 0⟩ 0x8000 3 ⟨6, 776, 144, 0x10100⟩ matches .ok ([0x10100], 16)) = true ∧
     (((ofKind 6 sections).mapM fun x => s.launches ⟨0, 0⟩ 0x8000 x.1 x.2) matches .ok [[0x10100]]) = true ∧
     Meets (objBits s ⟨0, 0⟩ 0x8000 224 16) (partOf s) ∧
     (let w := objBits s ⟨0, 0⟩ 0x8000 248 8
      bitsOf w 12 52 = 0 ∧ bitsOf w 0 8 < 64 ∧ bitsOf w 8 4 = 4 ∧ GoodHeader 4 (objBits s ⟨0, 0⟩ 0x8000 256 8)) ∧
     (∀ n, n < 16 → ObjThere s ⟨0, 0⟩ 0x8000 (264 + 32 * n) 32 ∧ GoodEntry (objBits s ⟨0, 0⟩ 0x8000 (264 + 32 * n) 32)) ∧
     ∀ x ∈ [(0x10000, 8, Acc.wr), (0x10100, 128, .wr), (0x8000 + 240, 8, .rd), (0x8000 + 256, 8, .rd), (0x8000 + 920, 8, .rd)],
       s.rangeFault ⟨0, 0⟩ trackerCluster x.1 x.2.1 x.2.2 = none) ∧
    (∀ v ∈ [(plainImage 0, true), (plainImage 65, false)], let s := whole 1 1028 4 0x10100 v.1
      ((s.part? 0).any fun p => p.ctxs.any fun c => (loadObject ⟨0, 0⟩ p c 0x8000 928 s matches .ok _) == v.2 &&
        (loadObject ⟨0, 0⟩ p c 0x8000 928 s matches .error (.refuse 8 0 4, _)) == !v.2) = true) := by
  simp only [GoodSections, Meets, GoodHeader, GoodEntry, ObjThere]; decide +kernel

/-- What stops the load: no header, a table of no sections, an entry of no kind, sections missing and doubled, a launch
that names no image, a contract of 31 clusters, a table's word and header, code and data that cannot stand where they
should, too much firmware. -/
theorem met_HostCommands_stops :
    (ObjThere loading ⟨0, 0⟩ 0x8000 0x1000 64 ∧ ¬GoodObjHeader (objBits loading ⟨0, 0⟩ 0x8000 0x1000 64)) ∧
    (let h := objBits (objectOf [] []) ⟨0, 0⟩ 0x8000 0 64; GoodObjHeader h ∧ ¬GoodObjTable h 64) ∧
    (let s := objectOf [⟨8, 96, 0, 0⟩] []
     GoodObjHeader (objBits s ⟨0, 0⟩ 0x8000 0 64) ∧ GoodObjTable (objBits s ⟨0, 0⟩ 0x8000 0 64) 96 ∧
       ¬GoodSection 96 (objBits s ⟨0, 0⟩ 0x8000 64 32)) ∧
    (∀ xs ∈ shorter.take 3, ¬GoodSections xs) ∧ (∀ xs ∈ shorter.drop 3, GoodSections xs) ∧
    (let s := whole 1 1028 4 0x10180 (plainImage 0)
     (s.imagesEnd ⟨0, 0⟩ (0x8000 + 792) 0x10100 3 2 0 128 matches .ok 128) = true ∧
       launchOk ⟨6, 776, 144, 0x10100⟩ 128 0x10180 = false) ∧
    (let s := whole 31 1028 4 0x10100 (plainImage 0)
     ¬Meets (objBits s ⟨0, 0⟩ 0x8000 224 16) (partOf s)) ∧
    (let s := whole 1 (2 ^ 12 + 1028) 4 0x10100 (plainImage 0)
     bitsOf (objBits s ⟨0, 0⟩ 0x8000 248 8) 12 52 ≠ 0) ∧
    (let s := whole 1 1028 5 0x10100 (plainImage 0)
     ¬GoodHeader 4 (objBits s ⟨0, 0⟩ 0x8000 256 8)) ∧
    (loading.rangeFault ⟨0, 0⟩ trackerCluster 0x40000000 8 .wr matches some (_, .trap _ _)) = true ∧
    (copySections ⟨0, 0⟩ 0x8000 (enumFrom' 0 [⟨1, 0, 16, 0⟩, ⟨2, 0, 8, 1⟩]) loading matches .error (.refuse 5 1 0, _)) = true ∧
    (copySections ⟨0, 0⟩ 0x8000 (enumFrom' 0 (shorter.getD 3 [])) loading matches .ok _) = true ∧
    ((80 / 8 ≤ 65536 ∧ 65536 < 80 / 8 + 524288 / 8) : Prop) := by
  simp only [GoodSections, GoodSection, GoodObjHeader, GoodObjTable, Meets, GoodHeader, ObjThere]; decide +kernel

/-- A partition of bring-up and one that is not; a turn, a record late, a weight sent; a held record with room. -/
theorem met_RingsAndHostAccesses_rings : withHeld.isBringUp 0 = false ∧ ({ withHeld with bringUp := [0] } : State).isBringUp 0 = true ∧
    (withHeld.part? 0).any (fun p => p.late.isEmpty && decide (p.sent < getAt 1 withHeld.weights (withHeld.ringFn 0)) &&
      p.held == [7] && decide (p.replay.sizeLog < 32) && decide ((p.replay.head - p.replay.tail).toNat ≤ 2 ^ p.replay.sizeLog) &&
      p.terminal.enable && decide ((p.terminal.head - p.terminal.tail).toNat + 1 ≤ 2 ^ p.terminal.sizeLog)) = true ∧
    withHeld.clocked 0 = true ∧ withHeld.parts.length = 1 ∧
    (({ withHeld with bringUp := [0], pfReplay := ⟨0, 6, true, 0, 0⟩ } : State).pfReplay.sizeLog < 32) := by decide +kernel

theorem met_RingsAndHostAccesses_alone : ∀ n q, withHeld.part? n = some q → n ≠ 0 → q.late = [] ∧ q.held = [] := by
  intro n q h hn
  simp [withHeld, win, demoWith, ringed, State.part?, newPartition, Ne.symm hn] at h

/-- An image that is refused with each of a reserved bit and no thread, accepted, and one whose overflow windows no
translation reaches; a counter at its value and below it. -/
theorem met_RingsAndHostAccesses_submits :
    (let status (w : Nat) := (({ queued 1 0x40000 0 with mem := (imaged w 0).mem } : State).submitAt ⟨0, 0⟩ 0x40000 0).map (·.1)
     status (plainImage 0 + 2 ^ 95) = some 1 ∧ status (2 ^ 64) = some 2 ∧ status (plainImage 0) = some 0) ∧
    (queued 2 0x40008 0).counterAt ⟨0, 0⟩ trackerCluster 0x40008 = 0 ∧ ¬1 ≤ (queued 2 0x40008 1).counterAt ⟨0, 0⟩ trackerCluster 0x40008 := by
  decide +kernel

/-- A context table that may be written and one that may not; commons and HBM, in service and held, without a key. -/
theorem met_RingsAndHostAccesses_memory :
    (({ demo with parts := demo.parts.map fun p => { p with ctxs := [] } } : State).part? 0).any (fun p => p.ctxs.isEmpty) = true ∧
    (∃ c, demo.physCheck 0 = some (.hold c)) ∧ demo.physCheck (2 ^ 42) = none ∧ Keyless demo (2 ^ 42) 64 ∧ 3 ≤ demo.stage ∧
    (demo.regionAt (2 ^ 42)).any (fun r => decide (2 ^ 42 + 64 ≤ r.base + r.size)) = true := by
  refine ⟨by decide +kernel, ⟨_, by rfl⟩, ?_⟩; simp only [Keyless]; decide +kernel

/-- A context whose partition is clocked and one that is not; a slice that has run out and one that has not; a save area
of one page in commons. -/
theorem met_TranslationAndContexts_saves : demo.clocked 0 = true ∧ (frozen []).clocked 0 = false ∧
    (demo.ctx? ⟨0, 0⟩).any (fun c => decide (c.sliceFrom + 4096 * c.slice ≤ demo.time + 4096)) = true ∧
    ({ demoContext with slice := 1 }).sliceFrom + 4096 * 1 > demo.time ∧
    (let c := { demoContext with save := 2 ^ 42 + 2 ^ 20 }
     let s := demoWith c
     c.save % 4096 = 0 ∧ ((s.part? 0).any fun p => ({ p with saveSize := 4096 } : Partition).saveSize == 4096) = true ∧
     (match s.stage2 c c.save with
      | .ok l => l.at c.save % 64 == 0 && (s.saveGen 0 l.key (l.at c.save)).isSome
      | .error _ => false) = true) := by decide +kernel

/-- Requests for a half, a second half that is none, every die, and no die; what each takes. -/
theorem met_TranslationAndContexts_sizes :
    (let half : BitVec 64 := BitVec.ofNat 64 (2 + 5 * 4 + 1 * 32 + 2 ^ 14);
      bitsOf half 0 2 = 2 ∧ bitsOf half 5 2 ≤ 1 ∧ bitsOf half 7 6 = 0 ∧ bitsOf half 2 3 ≤ 5 ∧ half.getLsbD 15 = false) ∧
    ¬bitsOf (BitVec.ofNat 64 (2 + 2 * 32 + 2 ^ 14) : Word) 5 2 ≤ 1 ∧
    (let dies : BitVec 64 := BitVec.ofNat 64 (3 + 63 * 128 + 2 ^ 14 + 2 ^ 15);
      bitsOf dies 0 2 = 3 ∧ bitsOf dies 7 6 ≠ 0 ∧ dies.getLsbD 15 = true ∧ (List.range 6).filter (63 : Nat).testBit = [0, 1, 2, 3, 4, 5]) ∧
    bitsOf (BitVec.ofNat 64 (3 + 2 ^ 14) : Word) 7 6 = 0 ∧
    2 ^ 30 ≤ demo.nodeHbm ([5], 2, 60) ∧ 2 ^ 30 ≤ demo.nodeHbm ([4, 5], 0, 240) ∧ (BitVec.ofNat 64 1 : Word).getLsbD 14 = false := by
  decide +kernel

/-- A mailbox's registers; a command byte for each operation, and none; a held command; a context frozen and its thread. -/
theorem met_AnchorCommands_mailbox : (∀ fn ∈ [0, 24], fn ≤ 24 ∧ (if fn = 0 then 1 else 3) ≤ demo.stage ∧
      bitsOf (demo.mailbox fn).cmd 0 8 = 0) ∧
    (∀ n, 1 ≤ n → n ≤ 11 → bitsOf (BitVec.ofNat 512 n) 0 8 = n) ∧
    (∀ o ∈ [1, 2, 3, 4, 5, 6, 7, 8], ((frozen [image [(0, o)]]).part? 0).any fun p => p.heldIn == [.command (image [(0, o)])]) ∧
    (keyed.ctx? ⟨0, 0⟩).isSome = true ∧
    (demo.part? 0).any (fun p => p.ctxs.length == 1 && !p.scanOk) = true ∧
    (∃ p, Heard (ask 0 0) (frozen [image [(0, 1)]]) p) ∧
    (bitsOf (image [(0, 1)]) 0 8 = 1) :=
  ⟨by decide +kernel, by decide +kernel, by decide +kernel, by decide +kernel, by decide +kernel,
    ⟨_, ⟨by decide, .inl (by decide)⟩, by decide +kernel, rfl⟩, by decide +kernel⟩

/-- A partition frozen at time 5, with an answer of each kind held, and threads whose waits end at a time. -/
theorem met_AnchorCommands_thaw :
    (∀ x ∈ [Inbound.ats 0 7 .denied, .pri 0 7 .success], let s : State := { demo with
        time := 9, parts := demo.parts.map fun p => { p with frozen := true, frozenAt := 5, heldIn := [x] } };
      (s.part? 0).any fun p => p.frozen && p.heldIn == [x] && s.time - p.frozenAt == 4) = true ∧
    (∀ w ∈ [Wait.event 6, .gwait .sp 0 6], ((threads [waiter w]).thread? ⟨0, 0, 0, 0⟩).any fun h =>
      h.life == .here (.waiting w)) = true := by decide +kernel

/-- A closed context of one page of commons. -/
theorem met_AnchorCommands_scrub : let x : Closed := ⟨3, [], 2 ^ 42 + 0x1000, [], []⟩
    demo.scrubPages x 7 ++ demo.scrubPages x 8 = [⟨2 ^ 42, 30, true, true, true, false, 0⟩] ∧ demo.scrubHeld x = false ∧
    demo.stackOf (2 ^ 42) = none := by decide +kernel

/-- A marker behind no message and one behind a feed's command that is still on its way to the directory unit; a
command that is no longer there; a unit that has recorded its state and one that has not. -/
theorem met_AnchorCommands_markers :
    let feed := { job (.feed ⟨0, 64, 1, 0, 1⟩ 1 false) .message with unit := .feed }
    let s := { jobbed feed with
      tokens := [⟨744, 0, []⟩, ⟨0, 720, [.command ⟨0, 0, 0, 0⟩ 1]⟩], markers := [⟨720, 0, [], [744], []⟩] }
    (s.tokens.filter fun x => x.src == 744 && x.dst == 0) = [⟨744, 0, []⟩] ∧
    (s.tokens.filter fun x => x.src == 0 && x.dst == 720) = [⟨0, 720, [.command ⟨0, 0, 0, 0⟩ 1]⟩] ∧
    Msg.command ⟨0, 0, 0, 0⟩ 1 ∈ s.onChannel 0 720 ∧ Msg.command ⟨0, 0, 0, 0⟩ 1 ∉ demo.onChannel 0 720 ∧
    (∀ r ∈ s.markers, r.unit ≠ 0) ∧ (∃ r ∈ s.markers, r.unit = 720) ∧ (∀ m ∈ s.tokens, ¬(m.src = 744 ∧ m.dst = 1)) ∧
    (s.parts.all fun p => p.num == 0 && p.unitOf 0 == 0 && directoryUnit p.num == 720 && (p.ctx? 0).any fun c =>
      c.loaded && c.coreTable == [0]) = true := by decide +kernel

/-- A marker before each kind of message: a table's, a flip that a lookup makes seen, a reply, a `RESUME` and a command. -/
def behindMarker (src dst : Nat) (s : State) : State := { s with tokens := [⟨src, dst, []⟩] }
theorem met_markers_before :
    (let m : TableMsg := ⟨0, 1, .clear⟩
     let s := tabled { table 1 0 with seq := 1, inbox := [m] };
      (behindMarker 720 0 s).sentBehind ⟨0, 0⟩ (fun p c => p.tableSent c 0 m) && !s.sentBehind ⟨0, 0⟩ fun p c => p.tableSent c 0 m) ∧
    (let t := { table 1 0 with seq := 1, inbox := [⟨1, 1, .flip⟩] };
      (behindMarker 720 720 (waits (.lookup 0 0 3 none) t)).seesHeld fetcher 0 && !(waits (.lookup 0 0 3 none) t).seesHeld fetcher 0) ∧
    (behindMarker 720 0 (waits (.tableOp 0 0 none) (table 1 0))).sentBehind ⟨0, 0⟩ (fun p c => p.replySent c fetcher) = true ∧
    (behindMarker 0 0 (waits (.resume 1 2 7) (table 1 0))).sentBehind ⟨0, 0⟩ (fun p c => p.resumeSent c fetcher 1) = true ∧
    (let j := { job (.feed ⟨0, 64, 1, 0, 1⟩ 1 false) .message with unit := .feed };
      (behindMarker 0 720 (jobbed j)).sentBehind ⟨0, 0⟩ (fun p c => p.commandSent c j) && j.place == .message) := by
  decide +kernel

/-- A context of one cluster that has had no memory, opened for a cluster that a SCRUB left a pattern in. -/
theorem met_TranslationAndContexts_pattern :
    let s := { demoWith { demoContext with loaded := false, object := false, coreTable := [] } with scrubbed := [(5, 7)] }
    (s.part? 0).any (fun p => p.canLoad demoContext [5] && findAt s.scrubbed (p.unitOf 5) == some 7 &&
      (s.ctx? ⟨0, 0⟩).any fun c => c.coreTable.isEmpty && !c.loaded && p.restoreStatus c 0 == 0) = true := by decide +kernel

/-! What jobs and rounds write -/

/-- The turn of a job, on sound memories. -/
def onTurn (j : Job) (s : State) : Bool :=
  (s.part? 0).any fun p => (p.ctx? 0).any fun c => s.turn p c j && c.tcmBad.isEmpty && c.spBad.isEmpty

/-- Copies of two rows, by index and not, up to the ends of both memories. -/
theorem met_JobsRun_rows : let d : Desc := ⟨131072 - 128, 0x1000, 64, 2, 64, 64, .tcm, .sp, 0⟩
    (∀ op ∈ [JobOp.cpy d, .gath d, .scat d], let j := { job op .queued with ea := 2 ^ 21 - 128 };
      onTurn j (jobbed j) = true) ∧
    (let i (a : Nat) : Nat := if a = 0x1004 then 1 else 0
     let row (a r : Nat) : Nat := a + r * 64
     let at' (a r : Nat) : Nat := a + i (0x1000 + 4 * r) * 64
     RowsOf (.cpy d) (2 ^ 21 - 128) i d (row (2 ^ 21 - 128)) (row (131072 - 128)) ∧
      RowsOf (.gath d) (2 ^ 21 - 128) i d (at' (2 ^ 21 - 128)) (row (131072 - 128)) ∧
      RowsOf (.scat d) (2 ^ 21 - 128) i d (row (2 ^ 21 - 128)) (at' (131072 - 128)) ∧
      ∀ r, r < d.nRows → row (2 ^ 21 - 128) r + d.rowLen ≤ 2 ^ 21 ∧ row (131072 - 128) r + d.rowLen ≤ 2 ^ 17 ∧
        at' (2 ^ 21 - 128) r + d.rowLen ≤ 2 ^ 21 ∧ at' (131072 - 128) r + d.rowLen ≤ 2 ^ 17) :=
  ⟨by decide +kernel, .inl ⟨rfl, fun _ => rfl, fun _ => rfl⟩, .inr (.inl ⟨rfl, ⟨rfl, by decide⟩, fun _ => rfl, fun _ => rfl⟩),
    .inr (.inr ⟨rfl, ⟨rfl, by decide⟩, fun _ => rfl, fun _ => rfl⟩), by decide +kernel⟩

/-- A `CPYF` of three words whose second is empty, and whose words are all full. -/
theorem met_JobsRun_words : let j := { job (.cpyf ⟨131072 - 12, 0, 12, 1, 0, 0, .tcm, .gm, 0⟩) .queued with ea := 64 }
    (∀ l ∈ [[68], []], let s := demoWith { demoContext with jobs := [j], spEmpty := l }
      onTurn j s = true ∧ (s.ctx? ⟨0, 0⟩).any fun c => c.spEmpty == l && chipKey .sp 0 0 64 == 64 && chipKey .sp 0 0 68 == 68) ∧
    4 * 1 < 12 ∧ 4 * 3 = 12 := by decide +kernel

/-- A feed of one row of a W window's bytes and one of an R window's, with a record of a row in its ring and with none. -/
def feeding (w : Window) (store : Bool) (head : Nat) : State × Job :=
  let j := { job (.feed w 1 store) .queued with unit := .feed, ea := 0x1000, space := .tcm }
  let s := trained (demoWith { winContext with tlb := [⟨0, 0, 0, 0, 30, true, true, true, false, 0, 0, []⟩], jobs := [j] })
  let s := s.modPart 0 fun p => { p with keys := p.keys.set 0 (.loaded 1 5) }
  (s.store .tcm 0x1000 (leBytes 40 (0x2000 + 7 * 2 ^ 64 + head * 2 ^ 128)) |>.store .tcm 0x2000 (leBytes 8 64), j)
theorem met_JobsRun_feeds :
    (let x := feeding ⟨0x30000, 64, 1, 0, 1⟩ false 0
     onTurn x.2 x.1 = true ∧ x.1.tileStop ⟨0, 0⟩ x.2 ⟨0x30000, 64, 1, 0, 1⟩ 0 1 .rd = none ∧
      x.1.winStop ⟨0, 0, 0⟩ 0 .load ⟨false, true, []⟩ 0x30000 64 = none ∧
      (let cb := ringCb (x.1.chip .tcm 0x1000 64); putSize 64 ≤ ringAll cb ∧ putNeed cb 64 + ringUsed cb ≤ ringAll cb ∧
        RingSound cb 0x1000 (chipLimit .tcm))) ∧
    (let w : Window := ⟨0x10000, 64, 1, 0, 2⟩
     let x := feeding w true 72
     let cb := ringCb (x.1.chip .tcm 0x1000 64)
     onTurn x.2 x.1 = true ∧ x.1.tileStop ⟨0, 0⟩ x.2 w 0 1 .wr = none ∧
      x.1.winStop ⟨0, 0, 0⟩ 0 .store (.ofEngine []) 0x10000 64 = none ∧ (x.1.remoteIn ⟨0, 0⟩ 0 0x10000 64 .wr).2 = false ∧
      cb.tail ≠ cb.head ∧ cb.base + cb.tail % ringAll cb + 8 + 64 ≤ 2 ^ 17 ∧ putSize 64 ≤ ringUsed cb ∧
      leVal (x.1.chip .tcm (cb.base + cb.tail % ringAll cb) 8) = 64 ∧ x.1.task? ⟨0, 0, 0⟩ = some winTask ∧
      (∀ i, i < 64 → x.1.devPage ⟨0, 0⟩ 0 (0x10000 + i) .wr = false ∧ winTask.inA (0x10000 + i) = false) ∧
      (x.1.ctx? ⟨0, 0⟩).any (fun c => c.edges.isEmpty)) := by
  simp only [RingSound]; decide +kernel

/-- One row of every float pair past a plane of its tag: all operands zero, with a scale of one. -/
theorem met_JobsRun_streams : ∀ pair, pair < 9 →
    let pl : Plane := ⟨[(0, 1)], (pairTags pair).2, [(0, 0x80)]⟩
    let j := { job (.mstream pair 255 1 0x3F800000) .queued with unit := .matrix, ea := 2 ^ 21 - actBytes pair }
    let s := demoWith { demoContext with jobs := [j], matrices := [{ demoContext.matrix 0 with active := pl }] }
    onTurn j s = true ∧ (s.ctx? ⟨0, 0⟩).any (fun c => (c.matrix 0).active == pl) = true ∧
      (s.jobHome ⟨0, 0⟩ j .sp).any (fun h => h.1 == ⟨0, 0⟩) = true ∧
      (pl.weights.map (·.1)).Nodup ∧ (pl.scales.map (·.1)).Nodup ∧
      FiniteColumn pair 0x3F800000 (fun _ => 0) pl 127 := by
  simp only [FiniteColumn]; decide +kernel

/-- Rounds of two ranks on one core, of each operation, from the scratchpad into TCM, their destinations apart. -/
def ranks (op : Nat) : State :=
  let d (dst : Nat) : CollDesc := ⟨dst, 1, 8, op, 0x8000, 0, 0, .tcm⟩
  let j (n : Nat) : Job := { job (.coll (d (64 * n))) .heldRound with
    unit := .coll, ea := 0x100 + 64 * n, status := 2, thread := ⟨0, 0, 0, n⟩ }
  let s := demoWith { demoContext with jobs := [j 0, j 1] }
  { s with parts := s.parts.map fun p => { p with
      rounds := [⟨0, 0, 0x8000, [0, 1], d 0, [(0, 1), (1, 1)], false, none⟩] } }
theorem met_EngineEvents_results : ∀ op, op < 6 → ((ranks op).part? 0).any (fun p =>
    (p.rounds.find? fun r => r.ctx == 0 && r.handle == 0x8000).any fun r =>
      let js := (ranks op).rankJobs ⟨0, 0⟩ r
      (ranks op).roundReady ⟨0, 0⟩ r && r.desc.op == op && Ty.ofNum r.desc.ety == some .fp32 && js.length == 2 &&
        (runRound ⟨0, 0⟩ r js (ranks op)).toOption.isSome && js.all fun y => y.space == .sp && y.door.isNone &&
          y.merged.isEmpty && y.op.collDesc?.any fun d => d.dSpace == .tcm && d.dst == 64 * y.thread.thread) = true ∧
    2 * 1 * 4 ≤ 64 := by decide +kernel

theorem powMod_zero (n f y : Nat) : Crypto.powMod n f y 0 = 1 % n := by
  induction f generalizing y with
  | zero => rfl
  | succ f ih => simp [Crypto.powMod, ih]
theorem beVal_lt (l : List Nat) (h : ∀ x ∈ l, x < 256) : Crypto.beVal l < 256 ^ l.length := by
  induction l using List.reverseRecOn with
  | nil => simp [Crypto.beVal]
  | append_singleton l x ih =>
    have h1 := ih fun y hy => h y (by simp [hy])
    have h2 := h x (by simp)
    simp only [Crypto.beVal, List.foldl_append, List.foldl_cons, List.foldl_nil, List.length_append, List.length_cons,
      List.length_nil] at h1 ⊢
    rw [Nat.pow_succ]; omega
theorem rounds_length (l : List (Nat × Nat)) (v : List Nat) (h : v.length = 8) : (l.foldl Crypto.shaRound v).length = 8 := by
  induction l generalizing v with
  | nil => exact h
  | cons a l ih => exact ih _ rfl
theorem blocks_length (n : Nat) (h m : List Nat) (e : h.length = 8) : (Crypto.shaGo n h m).length = 8 := by
  induction n generalizing h m with
  | zero => exact e
  | succ n ih => exact ih _ _ (by simp [Crypto.shaBlock, rounds_length _ _ e, e])
theorem digest_length (m : List Nat) : (Crypto.sha256 m).length = 32 := by
  have h := blocks_length
  simp only [Crypto.sha256, List.length_flatMap, Crypto.beBytes, List.length_map, List.length_range, List.map_const',
    List.sum_replicate]
  rw [h _ _ _ (by decide)]; rfl
theorem digest_bytes (m : List Nat) : ∀ x ∈ Crypto.sha256 m, x < 256 := by
  intro x hx
  simp only [Crypto.sha256, Crypto.beBytes, List.mem_flatMap, List.mem_map] at hx
  obtain ⟨_, _, _, _, rfl⟩ := hx
  exact Nat.mod_lt _ (by decide)

theorem encoded_lt (d : List Nat) (hl : d.length = 32) (hb : ∀ x ∈ d, x < 256) :
    Crypto.beVal (Crypto.encoded d) < 2 ^ 3064 := by
  have hn : ((Crypto.encoded d).drop 1).length = 383 := by
    simp only [Crypto.encoded, List.length_drop, List.length_append, List.length_replicate, List.length_cons, List.length_nil, hl]
  have h := beVal_lt ((Crypto.encoded d).drop 1) fun x hx => by
    have hx := List.mem_of_mem_drop hx
    simp only [Crypto.encoded, List.mem_append, List.mem_replicate] at hx
    rcases hx with (((hx | hx) | hx) | hx | hx)
    · simp at hx; omega
    · omega
    · simp at hx; omega
    · simp at hx; omega
    · exact hb _ hx
  rw [hn, show (256 : Nat) = 2 ^ 8 from rfl, ← Nat.pow_mul] at h
  exact h

/-- An image that verifies: of exponent 1, its signature the encoded digest itself; and one of a modulus too small. -/
def selfSigned : BootImage := ⟨[], 2 ^ 3071, 1, Crypto.beVal (Crypto.encoded (Crypto.sha256 []))⟩
theorem met_BringUp_image : Crypto.verifies (Crypto.keyDigest (2 ^ 3071) 1) selfSigned = true := by
  have h := encoded_lt _ (digest_length []) (digest_bytes [])
  have h2 : (2 : Nat) ^ 3064 ≤ 2 ^ 3071 := Nat.pow_le_pow_right (by decide) (by decide)
  have h3 : (2 : Nat) ^ 3071 < 2 ^ 3072 := Nat.pow_lt_pow_right (by decide) (by decide)
  have h1 : (1 : Nat) % 2 ^ 3071 = 1 := Nat.mod_eq_of_lt (Nat.one_lt_two_pow (by decide))
  have hp (x : Nat) : Crypto.powMod (2 ^ 3071) 32 x 1 = x * (1 % 2 ^ 3071) % 2 ^ 3071 := by
    rw [Crypto.powMod, powMod_zero]; rfl
  simp only [Crypto.verifies, selfSigned, hp, h1, Nat.mul_one, Nat.mod_eq_of_lt (Nat.lt_of_lt_of_le h h2), List.map_nil,
    beq_self_eq_true, Bool.and_true, Bool.and_eq_true]
  exact ⟨⟨decide_eq_true (Nat.le_refl _), decide_eq_true h3⟩, by decide⟩
theorem met_BringUp_bad (d : BitVec 256) : Crypto.verifies d ⟨[], 0, 1, 0⟩ = false := by simp [Crypto.verifies]

/-- A command that waits behind another, alone, and none; the stage of the training blocks. -/
theorem met_Training_queue : (3 ≤ demo.stage ∧ (2 : Nat) ≤ ({ demo with stage := 2 } : State).stage) ∧
    (let w : Word := BitVec.ofNat 64 (3 + 31 * 256); ([some w] : List (Option Word)) ≠ []) ∧
    (demo.stack? 0).any (fun k => (k.block 0).results.isEmpty && !k.trained) = true ∧
    (let k : Stack := ⟨0, false, (List.range 96).map fun g => ⟨g, 32, 32, none, true, 0, 0, [], false, 0, []⟩⟩; k.trained = true) := by
  decide +kernel

theorem met_KeptFromInstructions : (Instr.code (.nop zeroCtl)).isSome = true ∧ gives (.nop zeroCtl) demo (fun _ => true) = true := by
  decide +kernel

theorem keyless_reset : State.reset.keyless := by intro p hp; simp [State.reset] at hp

theorem met_InvariantKept : Inv State.reset ∧
    (match Machine.step (State.reset.withFetchWord 64 0xC230000000000000) with
      | .next _ => true
      | _ => false) = true :=
  ⟨⟨by decide, by decide, by decide, by decide, by decide, fun _ => keyless_reset, fun _ => rfl, by decide +kernel, by decide +kernel⟩,
    by decide +kernel⟩

end Sys2Proof.Tests
end

/-! Proofs: seats and lookups (R4, R14, R16, R17, R27, R31). -/

namespace Sys2Proof.Machine

/-! ### Records reached after an update -/

/-- A search by what the change keeps finds the same record, changed if the change selects it. -/
theorem find?_modWhere {α : Type} (p q : α → Bool) (f : α → α) (xs : List α) (hf : ∀ x, p x = true → q (f x) = q x) :
    (modWhere p f xs).find? q = (xs.find? q).map fun x => if p x then f x else x := by
  have hq : (q ∘ fun x => if p x then f x else x) = q := by
    funext x
    by_cases hp : p x = true
    · simp [hp, hf x hp]
    · simp [hp]
  rw [modWhere, List.find?_map, hq]

theorem State.part?_num {s : State} {n : Nat} {p : Partition} (h : s.part? n = some p) : p.num = n := by
  unfold State.part? at h
  simpa using List.find?_some h

theorem Partition.ctx?_num {p : Partition} {n : Nat} {c : Context} (h : p.ctx? n = some c) : c.num = n := by
  unfold Partition.ctx? at h
  simpa using List.find?_some h

theorem State.ctx?_num {s : State} {k : CtxId} {c : Context} (h : s.ctx? k = some c) : c.num = k.ctx := by
  obtain ⟨p, -, hc⟩ := Option.bind_eq_some_iff.mp h
  exact p.ctx?_num hc

theorem State.part?_modPart (s : State) (n m : Nat) (f : Partition → Partition) (hf : ∀ p, (f p).num = p.num) :
    (s.modPart n f).part? m = (s.part? m).map fun p => if p.num == n then f p else p :=
  find?_modWhere _ _ f s.parts fun p _ => by rw [hf]

theorem State.part?_modPart_same (s : State) (n : Nat) (f : Partition → Partition) (hf : ∀ p, (f p).num = p.num) :
    (s.modPart n f).part? n = (s.part? n).map f := by
  rw [s.part?_modPart n n f hf]
  cases hp : s.part? n with
  | none => rfl
  | some p => simp [State.part?_num hp]

/-- A change of a partition beside its contexts leaves every context. -/
theorem State.ctx?_modPart (s : State) (n : Nat) (f : Partition → Partition) (hn : ∀ p, (f p).num = p.num)
    (hc : ∀ p, (f p).ctxs = p.ctxs) (k : CtxId) : (s.modPart n f).ctx? k = s.ctx? k := by
  unfold State.ctx?
  rw [s.part?_modPart n k.part f hn]
  cases s.part? k.part with
  | none => rfl
  | some p =>
    by_cases hp : p.num = n
    · simp [hp, Partition.ctx?, hc]
    · simp [hp]

theorem State.part?_modCtx (s : State) {n : Nat} {k : CtxId} (f : Context → Context) (hk : k.part = n) :
    (s.modCtx k f).part? n = (s.part? n).map fun p => { p with ctxs := modWhere (fun c => c.num == k.ctx) f p.ctxs } :=
  hk ▸ s.part?_modPart_same _ _ fun _ => rfl

theorem State.ctx?_modCtx (s : State) (k : CtxId) (f : Context → Context) (hf : ∀ c, (f c).num = c.num) :
    (s.modCtx k f).ctx? k = (s.ctx? k).map f := by
  unfold State.ctx?
  rw [s.part?_modCtx f rfl]
  cases s.part? k.part with
  | none => rfl
  | some p =>
    have hfind := find?_modWhere (fun c => c.num == k.ctx) (fun c => c.num == k.ctx) f p.ctxs fun c _ => by rw [hf]
    simp only [Option.map_some, Option.bind_some, Partition.ctx?, hfind]
    cases hc : p.ctxs.find? fun c => c.num == k.ctx with
    | none => rfl
    | some c => simp [p.ctx?_num hc]

/-! ### The first of a list (R17, R162) -/

theorem firstBy_mem {α : Type} (before : α → α → Bool) (xs : List α) (y : α) (h : firstBy before xs = some y) :
    y ∈ xs := by
  induction xs with
  | nil => cases h
  | cons x xs ih =>
    unfold firstBy at h
    split at h
    next => simp_all
    next z hz => split at h <;> simp_all

/-- An element of the list that stands before every other is its first. -/
theorem firstBy_eq_of_before {α : Type} (before : α → α → Bool) (a : α) (xs : List α) (ha : a ∈ xs)
    (h : ∀ x ∈ xs, x = a ∨ before a x = true ∧ before x a = false) : firstBy before xs = some a := by
  induction xs with
  | nil => cases ha
  | cons x xs ih =>
    have hx := h x List.mem_cons_self
    have hxs := fun y hy => h y (List.mem_cons_of_mem x hy)
    unfold firstBy
    by_cases hmem : a ∈ xs
    · rw [ih hmem hxs]
      rcases hx with rfl | ⟨hx, -⟩
      · simp
      · simp [hx]
    · obtain rfl : a = x := (List.mem_cons.mp ha).resolve_right hmem
      cases hy : firstBy before xs with
      | none => rfl
      | some y =>
        have hin := firstBy_mem before xs y hy
        rcases hxs y hin with rfl | ⟨-, hlast⟩
        · exact absurd hin hmem
        · simp [hlast]

/-! ### Who may take a seat (R17) -/

theorem Context.mem_pendingFor (c : Context) (k : CtxId) (x : SeatId) (u : Task × Nat) :
    u ∈ c.pendingFor k x ↔ u.1 ∈ c.tasks ∧ c.claim k u.1 x.cluster x.core x.seat = some u.2 := by
  simp only [Context.pendingFor, List.mem_filterMap, Option.map_eq_some_iff]
  constructor
  · rintro ⟨t, ht, j, hj, rfl⟩
    exact ⟨ht, hj⟩
  · rintro ⟨ht, hj⟩
    exact ⟨u.1, ht, u.2, hj, rfl⟩

/-- A thread that claims a seat is claimed in the slot that its number gives (R16). -/
theorem Context.claim_slot {c : Context} {k : CtxId} {t : Task} {cluster core seat j : Nat}
    (h : c.claim k t cluster core seat = some j) :
    slotOf t.granted (j % (32 * t.granted.length)) = (cluster, core, seat) := by
  unfold Context.claim at h
  split at h
  next => cases h
  next =>
    split at h
    next => cases h
    next =>
      simp only [Option.ite_none_right_eq_some, Bool.and_eq_true, beq_iff_eq, Option.some.injEq] at h
      obtain ⟨⟨⟨-, hslot⟩, -⟩, rfl⟩ := h
      exact hslot

/-- The gang task at the head of the ready queue, where it would take the seat. -/
def State.gangFor (s : State) (p : Partition) (c : Context) (x : SeatId) : List (Task × Option Nat) :=
  match p.head? with
  | some (n, t) =>
    if n == c.num && ((s.chosen p c t).map fun cl => gangUses t cl x.cluster x.core x.seat).getD false then
      [(t, none)] else []
  | none => []

/-- Everything that THREAD_BIND chooses from: the threads that may take the seat, then the gang task at the head. -/
def State.seekers (s : State) (p : Partition) (c : Context) (x : SeatId) : List (Task × Option Nat) :=
  (c.pendingFor x.ctxId x).map (fun u => (u.1, some u.2)) ++ s.gangFor p c x

/-- A free seat goes to its first seeker: a thread takes it, and for a gang task that waits to be placed it is held. -/
def State.seatTo (s : State) (x : SeatId) : Option (Task × Option Nat) → State
  | none => s
  | some (t, some j) => s.bindThread ⟨x.part, x.ctx, t.create⟩ j
  | some (t, none) => s.modPart x.part fun p => { p with
      heldSeats := p.heldSeats.filter (fun h => h.1 != x) ++ [(x, t.create)] }

theorem gangFor_none (s : State) (p : Partition) (c : Context) (x : SeatId) (h : p.head? = none) :
    s.gangFor p c x = [] := by
  simp [State.gangFor, h]

theorem gangFor_some (s : State) (p : Partition) (c : Context) (x : SeatId) (t : Task) (cl : List Nat)
    (hh : p.head? = some (c.num, t)) (hcl : s.chosen p c t = some cl) (hg : t.tcb.gang = true)
    (hj : ∃ j, j < t.tcb.nthreads ∧ slotOf cl j = (x.cluster, x.core, x.seat)) : s.gangFor p c x = [(t, none)] := by
  have huses : gangUses t cl x.cluster x.core x.seat = true := by
    simpa [gangUses, hg] using hj
  simp [State.gangFor, hh, hcl, huses]

/-- What a thread that would take the seat is: of a task of the context, which claims it. -/
theorem of_mem_pending {c : Context} {x : SeatId} {e : Task × Option Nat}
    (h : e ∈ (c.pendingFor x.ctxId x).map fun u => (u.1, some u.2)) :
    e.1 ∈ c.tasks ∧ ∃ j, c.claim x.ctxId e.1 x.cluster x.core x.seat = some j ∧ e.2 = some j := by
  obtain ⟨u, hu, rfl⟩ := List.mem_map.mp h
  obtain ⟨ht, hj⟩ := (c.mem_pendingFor _ x u).mp hu
  exact ⟨ht, u.2, hj, rfl⟩

section
variable {x : SeatId} {s : State} {p : Partition} {c : Context}

/-- THREAD_BIND of a seat that is kept for a gang task changes nothing (log entry 15). -/
theorem execThreadBind_kept (hp : s.part? x.part = some p) (hc : s.ctx? x.ctxId = some c)
    (hk : p.seatKept x = true) : execThreadBind x s = .next s := by
  simp [execThreadBind, hp, hc, hk]

variable (hp : s.part? x.part = some p) (hc : s.ctx? x.ctxId = some c) (hact : s.active x.ctxId = true)
  (hfree : c.seatHeld x.cluster x.core x.seat = false) (hk : p.seatKept x = false)
include hp hc hact hfree hk

/-- THREAD_BIND of a free seat that is not kept: it goes to the first of those that seek it. -/
theorem execThreadBind_free :
    execThreadBind x s = .next (s.seatTo x (firstBy (fun a b => queueBefore a.1 b.1) (s.seekers p c x))) := by
  simp only [execThreadBind, hp, hc, hact, hfree, hk, Bool.not_true, Bool.or_self, Bool.false_eq_true, if_false]
  change (match firstBy _ (s.seekers p c x) with | none => _ | some (t, some j) => _ | some (t, none) => _) = _
  rcases firstBy _ (s.seekers p c x) with _ | ⟨t, _ | j⟩ <;> rfl

end

/-! ### A thread in its seat (R4, R13, R17) -/

section
variable {k : TaskId} {j : Nat} {s : State} {t : Task}

/-- The thread that takes its seat is as R4 creates it. -/
theorem thread?_bindThread (ht : s.task? k = some t) :
    (s.bindThread k j).thread? ⟨k.part, k.ctx, k.task, j⟩ = some (newThread k t t.granted j) := by
  obtain ⟨c, hc, -⟩ := Option.bind_eq_some_iff.mp ht
  have hid : (newThread k t t.granted j).id = ⟨k.part, k.ctx, k.task, j⟩ := rfl
  have hk : TId.ctxId ⟨k.part, k.ctx, k.task, j⟩ = k.ctxId := rfl
  unfold State.bindThread State.modTask State.thread?
  simp only [ht, hk]
  rw [State.ctx?_modPart _ _ _ (by intro _; rfl) (by intro _; rfl), State.ctx?_modCtx _ _ _ (by intro _; rfl),
    State.ctx?_modCtx _ _ _ (by intro _; rfl), hc]
  have hnone : (c.threads.filter fun y => y.id != ⟨k.part, k.ctx, k.task, j⟩).find?
      (fun h => h.id == ⟨k.part, k.ctx, k.task, j⟩) = none := by
    simp [List.find?_eq_none]
  simp [Context.thread?, Context.modTask, hid, List.find?_append, hnone]

/-- A seat that a thread has taken is held for nothing more. -/
theorem heldSeats_bindThread {p : Partition} (ht : s.task? k = some t) (hp : s.part? k.part = some p) :
    ∃ p', (s.bindThread k j).part? k.part = some p' ∧ p'.heldSeats = p.heldSeats.filter fun y =>
      let h := newThread k t t.granted j
      y.1 != ⟨k.part, k.ctx, h.cluster, h.core, h.seat⟩ := by
  have hk : k.ctxId.part = k.part := rfl
  unfold State.bindThread State.modTask
  simp only [ht]
  rw [State.part?_modPart_same _ _ _ (by intro _; rfl), State.part?_modCtx _ _ hk, State.part?_modCtx _ _ hk, hp]
  exact ⟨_, rfl, rfl⟩

end

/-- The place that a new thread stands in. -/
theorem newThread_place (k : TaskId) (t : Task) (granted : List Nat) (j : Nat) :
    ((newThread k t granted j).cluster, (newThread k t granted j).core, (newThread k t granted j).seat) =
      slotOf granted (j % (32 * granted.length)) := rfl

/-- R4, R40: the registers of a new thread. -/
theorem newThread_registers (k : TaskId) (t : Task) (granted : List Nat) (j : Nat) :
    let h := newThread k t granted j
    (∀ n, h.sreg n = 0) ∧ (∀ n, h.vreg n = 0) ∧ (∀ n, h.preg n = if n = 0 then BitVec.allOnes 64 else 0) ∧
      (∀ n, h.areg n = 0) ∧ (∀ n, h.qreg n = 0) := by
  refine ⟨fun n => ?_, fun n => ?_, fun n => ?_, fun n => ?_, fun n => ?_⟩
  · simp [Thread.sreg, newThread, Thread.blank]
  · simp [Thread.vreg, newThread, Thread.blank]
  · by_cases hn : n = 0
    · simp [Thread.preg, hn]
    · have : (0 : Nat) ≠ n.toNat := fun e => hn (BitVec.eq_of_toNat_eq e.symm)
      simp [Thread.preg, newThread, Thread.blank, Vector.getElem_set_ne, this]
  · simp [Thread.areg, newThread, Thread.blank]
  · simp [Thread.qreg, newThread, Thread.blank]

/-! ### Seats held for a gang task that no longer stands READY (R17) -/

@[simp] theorem State.retag_parts (g l : Nat) (s : State) : (s.retag g l).parts = s.parts := by
  unfold State.retag
  dsimp only
  split <;> rfl

@[simp] theorem State.physWrite_parts (s : State) (g pa : Nat) (bs : List Byte) :
    (s.physWrite g pa bs).parts = s.parts := by
  unfold State.physWrite
  dsimp only
  split
  · rfl
  · exact foldl_keeps State.parts _ (fun s l => State.retag_parts _ l s) _ _

@[simp] theorem State.homePut_parts (n : Nat) (x : Home) (bs : List Byte) (s : State) :
    (s.homePut n x bs).parts = s.parts := by
  cases x with
  | mem pa g => simp [State.homePut]
  | host a => rfl
  | phy n off =>
    simp only [State.homePut, State.phyWrite]
    split <;> rfl
  | remote a b => rfl

/-- Bytes written at home leave every partition. -/
@[simp] theorem State.homeWrites_parts (k : CtxId) (cl : Nat) (ws : List (Nat × List Byte)) (s : State) :
    (s.homeWrites k cl ws).parts = s.parts := by
  unfold State.homeWrites
  exact foldl_keeps State.parts _ (fun t p => by split <;> simp) _ _

/-- An image's write back leaves the partitions that are there. -/
theorem State.part?_writeBack_isSome (k : TaskId) (s : State) (n : Nat) :
    ((s.writeBack k).part? n).isSome = (s.part? n).isSome := by
  unfold State.writeBack
  split
  next => rfl
  next =>
    split
    next => rfl
    next =>
      split
      next => rfl
      next =>
        split
        next =>
          rw [State.part?_modPart _ _ _ _ (by intro _; rfl)]
          simp
        next => simp [State.part?]

theorem State.part?_modTask_isSome (k : TaskId) (f : Task → Task) (s : State) (n : Nat) :
    ((s.modTask k f).part? n).isSome = (s.part? n).isSome := by
  unfold State.modTask State.modCtx
  rw [State.part?_modPart _ _ _ _ (by intro _; rfl)]
  simp

/-- A task that stands in another state than READY has no seat held for it. -/
theorem heldSeats_setTaskState {s : State} {n : Nat} {k : TaskId} {st : TaskState} (hp : (s.part? n).isSome = true)
    (hst : st ≠ .ready) : ∃ p', (s.setTaskState k st).part? n = some p' ∧
      ∀ y ∈ p'.heldSeats, n = k.part → ¬(y.1.ctx = k.ctx ∧ y.2 = k.task) := by
  have hthere : (((s.modTask k fun t => { t with state := st }).writeBack k).part? n).isSome = true := by
    rw [State.part?_writeBack_isSome, State.part?_modTask_isSome, hp]
  obtain ⟨p1, hp1⟩ := Option.isSome_iff_exists.mp hthere
  unfold State.setTaskState State.dropSeats
  simp only [beq_iff_eq, hst, if_false]
  rw [State.part?_modPart _ _ _ _ (by intro _; rfl), hp1]
  refine ⟨_, rfl, fun y hy hn hof => ?_⟩
  have hnum : p1.num = k.part := (State.part?_num hp1).trans hn
  simp [hnum, hof.1, hof.2] at hy

/-! ### The gate (R14) -/

/-- SEAT_GATE of a free seat of the context that the gate does not hold yet. -/
theorem execSeatGate_free {x : SeatId} {s : State} {c : Context} (hc : s.ctx? x.ctxId = some c)
    (hact : s.active x.ctxId = true) (hfree : c.seatHeld x.cluster x.core x.seat = false)
    (hcl : x.cluster < c.nclusters) (hco : x.core < 8) (hse : x.seat < 4)
    (hg : (8 * x.cluster + x.core, x.seat) ∉ c.gated) :
    execSeatGate x s = .next (s.modCtx x.ctxId fun c => { c with
      gated := c.gated ++ [(8 * x.cluster + x.core, x.seat)] }) := by
  simp [execSeatGate, hc, hact, hfree, hg, Nat.not_le.mpr hcl, Nat.not_le.mpr hco, Nat.not_le.mpr hse]

/-! ### The statement -/

section
variable {x : SeatId} {s : State} {p : Partition} {c : Context} (hp : s.part? x.part = some p)
  (hc : s.ctx? x.ctxId = some c) (hact : s.active x.ctxId = true)
  (hfree : c.seatHeld x.cluster x.core x.seat = false) (hk : p.seatKept x = false)
include hp hc hact hfree hk

/-- R17: a gang task at the head that stands before every claimant of a free seat of its has it held for it. -/
theorem threadBind_holds {t : Task} {cl : List Nat} (hh : p.head? = some (x.ctx, t)) (hcl : s.chosen p c t = some cl)
    (hg : t.tcb.gang = true) (hj : ∃ j, j < t.tcb.nthreads ∧ slotOf cl j = (x.cluster, x.core, x.seat))
    (hfirst : ∀ v ∈ c.tasks, (c.claim x.ctxId v x.cluster x.core x.seat).isSome = true →
      queueBefore t v = true ∧ queueBefore v t = false) :
    execThreadBind x s = .next (s.modPart x.part fun p => { p with
      heldSeats := p.heldSeats.filter (fun h => h.1 != x) ++ [(x, t.create)] }) := by
  have hnum : c.num = x.ctx := State.ctx?_num hc
  have hgang := gangFor_some s p c x t cl (hnum ▸ hh) hcl hg hj
  have hlead : ∀ e ∈ s.seekers p c x, e = (t, none) ∨ queueBefore t e.1 = true ∧ queueBefore e.1 t = false := by
    intro e he
    rw [State.seekers, hgang] at he
    rcases List.mem_append.mp he with he | he
    · obtain ⟨htask, j, hclaim, -⟩ := of_mem_pending he
      exact .inr (hfirst e.1 htask (by simp [hclaim]))
    · exact .inl (List.mem_singleton.mp he)
  rw [execThreadBind_free hp hc hact hfree hk,
    firstBy_eq_of_before _ (t, none) _ (by simp [State.seekers, hgang]) hlead]
  rfl

/-- R17: with no task READY, the claimant of a free seat that stands before every other takes it. -/
theorem threadBind_takes {t : Task} {j : Nat} (hh : p.head? = none) (ht : t ∈ c.tasks)
    (hclaim : c.claim x.ctxId t x.cluster x.core x.seat = some j)
    (hfirst : ∀ v ∈ c.tasks, v ≠ t → (c.claim x.ctxId v x.cluster x.core x.seat).isSome = true →
      queueBefore t v = true ∧ queueBefore v t = false) :
    execThreadBind x s = .next (s.bindThread ⟨x.part, x.ctx, t.create⟩ j) := by
  have hseek : s.seekers p c x = (c.pendingFor x.ctxId x).map fun u => (u.1, some u.2) := by
    rw [State.seekers, gangFor_none s p c x hh, List.append_nil]
  have hin : (t, some j) ∈ s.seekers p c x := by
    rw [hseek]
    exact List.mem_map.mpr ⟨(t, j), (c.mem_pendingFor _ x _).mpr ⟨ht, hclaim⟩, rfl⟩
  have hlead : ∀ e ∈ s.seekers p c x, e = (t, some j) ∨ queueBefore t e.1 = true ∧ queueBefore e.1 t = false := by
    intro e he
    rw [hseek] at he
    obtain ⟨htask, i, hi, he2⟩ := of_mem_pending he
    by_cases hte : e.1 = t
    · rw [hte, hclaim, Option.some.injEq] at hi
      exact .inl (Prod.ext hte (hi ▸ he2))
    · exact .inr (hfirst e.1 htask hte (by simp [hi]))
  rw [execThreadBind_free hp hc hact hfree hk, firstBy_eq_of_before _ _ _ hin hlead]
  rfl

end

/-- Settles O49: the gate, a seat kept, held or taken, and the seats of a task that is no longer READY, each by its lemma
above. -/
theorem seats : Obligations.Seats := by
  unfold Obligations.Seats
  intro x s p c hp hc hact hfree
  refine ⟨?gate, ?kept, ?holds, ?takes, ?dropped⟩
  case gate =>
    intro hcl hco hse hg
    refine ⟨_, execSeatGate_free hc hact hfree hcl hco hse hg, _, rfl, fun y => ?_⟩
    simp [or_comm]
  case kept => exact fun hk => ⟨s, execThreadBind_kept hp hc hk, rfl⟩
  case holds =>
    intro t cl hk hh hcl hg hj hfirst
    refine ⟨_, threadBind_holds hp hc hact hfree hk hh hcl hg hj hfirst, _, rfl, fun y => ?_⟩
    simp [or_comm]
  case takes =>
    intro hk hh t j ht htask hclaim hfirst
    obtain ⟨hs, hv, hpr, ha, hq⟩ := newThread_registers ⟨x.part, x.ctx, t.create⟩ t t.granted j
    have hplace := (newThread_place ⟨x.part, x.ctx, t.create⟩ t t.granted j).trans (Context.claim_slot hclaim)
    obtain ⟨p', hp', hheld⟩ := heldSeats_bindThread (j := j) htask hp
    refine ⟨_, threadBind_takes hp hc hact hfree hk hh ht hclaim hfirst, _, thread?_bindThread htask, rfl, hplace, rfl, rfl,
      rfl, hs, hv, rfl, hpr, ha, hq, rfl, rfl, rfl, rfl, rfl, rfl, p', hp', fun y hy => ?_⟩
    obtain ⟨hcl, hco, hse⟩ : _ ∧ _ ∧ _ := by simpa only [Prod.mk.injEq] using hplace
    rw [hheld] at hy
    simpa [hcl, hco, hse] using (List.mem_filter.mp hy).2
  case dropped => exact fun tk st hst => heldSeats_setTaskState (by rw [hp]; rfl) hst

/-! ### Lookups: a flip of number 0 (R27, R31) -/

/-- A cluster's copy whose front shutter is absent (SIZELOG 0, R25), and whose back shutter sends a thread that finds no
entry to code index 0. -/
def absentFront : TableCopy := ⟨0, 1, [0, 0], [0, 0], 0, none⟩

/-- A table whose one message, a flip, bears the number 0. `InOrder` allows that, though `Table.enter` numbers a table's
operations from 1 on. -/
def flipZero : Table := ⟨0, 1, [absentFront], 0, none, [], 0, [⟨0, 0, .flip⟩]⟩

/-- The thread that waits for a `NEXT`'s lookup of that table. -/
def seeker : Thread := { Thread.blank with life := .here (.waiting (.lookup 0 0 0 none)), nthreads := 1 }

/-- Its context, with that table. -/
def seeking : Context := { fetchContext with threads := [seeker], tables := [flipZero] }

/-- The machine in full service with that context in partition 0. -/
def seekState : State :=
  { State.reset with stage := 5, clock := 16, parts := [{ newPartition 0 1 [0] 0 30 0x4001 0 with ctxs := [seeking] }] }

theorem flipZero_inOrder : InOrder seeking.nclusters flipZero := ⟨by decide, by decide, by decide⟩

/-- With no flip applied the lookup brings its cluster up to number 0, and so applies the flip: the thread sees the
shutter that was at the back, and goes on. -/
theorem seekState_goesOn : ∃ u, exec (.lookupComplete seeker.id) seekState = .next u ∧
    (u.thread? seeker.id).map (·.life) = some (.here .ready) := ⟨_, rfl, by decide +kernel⟩

/-- Refutes O45: on `seekState` the statement has the lookup trap on the absent front shutter, and the model applies the
flip of number 0 first (`Table.catchUp`), so that the thread goes on. The statement lacks a hypothesis that every message's
number is above 0; no table that only `Table.enter` has written to is like this one. -/
theorem not_lookups : ¬ Obligations.Lookups := by
  unfold Obligations.Lookups
  intro h
  obtain ⟨-, -, hseen⟩ := h.2 seeker.id seekState seeker seeking 0 0 0 none ⟨rfl, rfl⟩ rfl (by decide) rfl
  obtain ⟨habsent, -⟩ := hseen (by decide +kernel) flipZero absentFront rfl rfl flipZero_inOrder
  obtain ⟨u, hu, htrap⟩ := habsent (by decide)
  obtain ⟨v, hv, hlife⟩ := seekState_goesOn
  cases hu.symm.trans hv
  simp [htrap] at hlife

end Sys2Proof.Machine

/-! Proofs: the step of an issuing thread (R30, R43, R57, R342). -/

namespace Sys2Proof.Machine

/-! ### What a thread's issue runs -/

/-- The step of an issue runs the fetched bytes on the thread's checked-out registers and puts them back. -/
theorem step_issuesNext {s s1 : State} {t : TId} (h : IssuesNext s s1 t) : step s = noticed s (putBack s1.runIssue) := by
  obtain ⟨dt, rest, h, stalled, hag, hmay, hawake, hready, hstop, rfl⟩ := h
  have hisReady : h.life.isReady = true := by rw [hready]; rfl
  simp [step, hag, runAct, hmay, State.issue, hawake, hisReady, hstop]

/-- A change of a thread's record that keeps its role keeps that of the issuing thread. -/
theorem State.modThread_role (t : TId) (f : Thread → Thread) (s : State) (hf : ∀ h, (f h).role = h.role) :
    (s.modThread t f).cur.role = s.cur.role := by
  unfold State.modThread
  dsimp only
  split
  · exact hf _
  · rfl

@[simp] theorem State.cache_cur (k : CtxId) (a : Acc) (e : TlbEntry) (s : State) : (s.cache k a e).cur = s.cur := by
  unfold State.cache
  split <;> rfl

/-- A translation that is noted leaves the issuing thread's role. -/
theorem State.noteXlate_role (who : TId) (k : CtxId) (cluster va : Nat) (a : Acc) (s : State) :
    (s.noteXlate who k cluster va a).cur.role = s.cur.role := by
  unfold State.noteXlate
  split
  case h_1 => rfl
  case h_2 x _ =>
    have hcached : (if x.fresh then s.cache k a x.entry else s).cur.role = s.cur.role := by split <;> simp
    dsimp only
    split
    · exact (State.modThread_role _ _ _ fun _ => by rfl).trans hcached
    · exact hcached

/-- What a fetch leaves has the issuing thread's role (R261). -/
theorem State.noteFetch_role (s : State) : s.noteFetch.cur.role = s.cur.role := by
  unfold State.noteFetch
  split
  · rfl
  · split_ifs
    · rfl
    · exact State.noteXlate_role _ _ _ _ _ s

/-- The bytes of an instruction of the thread's profile run it where its registers are awake. -/
theorem runIssue_decoded {s1 : State} {bs tail : List Byte} {i : Instr} {c : Code} (hf : s1.fetch = .ok bs)
    (hd : decodeBytes bs = .ok (i, tail)) (hc : i.code = some c)
    (hprofile : s1.cur.role = none ∨ Code.inProfile c = true) :
    s1.runIssue = whenAwake c s1.noteFetch (exec i) := by
  have hrole : (s1.noteFetch.cur.role.isSome && !Code.inProfile c) = false := by
    rw [State.noteFetch_role]
    rcases hprofile with hr | hp
    · simp [hr]
    · simp [hp]
  simp [State.runIssue, hf, runBytes, hd, runInstr, hc, hrole]

/-! ### Registers that sleep or are absent (R43, R342) -/

/-- The banks that an instruction names and its thread retains. -/
def asleepFor (c : Code) (h : Thread) : List Nat :=
  h.retained.filter fun b => (codeGranules c).any fun g => g < 32 && g / 8 == b

/-- The granules that an instruction names and its thread has not yet. -/
def goneFor (c : Code) (h : Thread) : List Nat := h.absent.filter (codeGranules c).contains

/-- A thread is awake for an instruction that names nothing asleep and nothing absent. -/
theorem awake_iff (c : Code) (h : Thread) : Awake c h ↔ asleepFor c h = [] ∧ goneFor c h = [] := by
  simp only [Awake, asleepFor, goneFor, List.filter_eq_nil_iff, List.any_eq_true, List.contains_iff_mem, Bool.and_eq_true,
    decide_eq_true_eq, beq_iff_eq, not_exists, not_and]
  constructor
  · exact fun ha => ⟨fun b hb g hg hlt he => (ha g hg).2 hlt (he ▸ hb), fun g hgone hg => (ha g hg).1 hgone⟩
  · exact fun ⟨hs, hg⟩ g hin => ⟨fun hgone => hg g hgone hin, fun hlt hb => hs _ hb g hin hlt rfl⟩

/-- An instruction whose registers are awake acts. -/
theorem whenAwake_awake {c : Code} {s : State} {f : State → Result} (h : Awake c s.cur) : whenAwake c s f = f s := by
  obtain ⟨hs, hg⟩ := (awake_iff c s.cur).mp h
  unfold asleepFor at hs
  unfold goneFor at hg
  simp [whenAwake, hs, hg]

/-- Another waits until its banks are awake, within 12 cycles, and its granules filled. -/
theorem whenAwake_asleep {c : Code} {s : State} {f : State → Result} (h : ¬Awake c s.cur) :
    whenAwake c s f = .next { s with cur := { s.cur with
      retained := s.cur.retained.filter fun b => !(asleepFor c s.cur).contains b
      life := .here (.waiting (.again (.regs (goneFor c s.cur)
        (s.time + if (asleepFor c s.cur).isEmpty then 0 else 12)))) } } := by
  have hsome : ((asleepFor c s.cur).isEmpty && (goneFor c s.cur).isEmpty) = false := by
    rw [awake_iff] at h
    by_contra hn
    simp_all
  unfold asleepFor goneFor at hsome
  simp only [whenAwake, hsome, Bool.false_eq_true, if_false]
  rfl

/-! ### The statement -/

/-- Settles O5: the step is `runIssue`'s (`step_issuesNext`), which is `exec` of the decoded instruction unless a register
of it sleeps or is absent. -/
theorem stepRunsDecoded : Obligations.StepRunsDecoded := by
  unfold Obligations.StepRunsDecoded
  intro s s1 t bs tail i c hissue hf hd hc hprofile s2
  have hstep : step s = noticed s (putBack (whenAwake c s2 (exec i))) := by
    rw [step_issuesNext hissue, runIssue_decoded hf hd hc hprofile]
  refine ⟨fun hawake => ?awake, fun hasleep => ?asleep⟩
  case awake => rw [hstep, whenAwake_awake hawake]
  case asleep =>
    refine ⟨_, goneFor c s2.cur, _, fun g => ?gone, ?now, ?soon, by rw [hstep, whenAwake_asleep hasleep]⟩
    case gone => simp [goneFor]
    case now => exact Nat.le_add_right _ _
    case soon => split <;> omega

end Sys2Proof.Machine

/-! Proofs: states whose translation cache holds pages of one byte, which no walk gives (R228): a trap's write back of an
image (R87, R91, R153, R220) and a flush (R170). -/

namespace Sys2Proof.Machine

/-! ### Two traps with cause 0x02 -/

/-- R87: an instruction on a table that is absent traps with the table's number. -/
theorem onTable_absent {op : Nat} {x : CtlForm} {s : State} {c : Context} (f : Context → Table → State → Result)
    (halloc : Allocated (.ctl op x) s) (hg : s.cur.guardOk x.g = true) (hc : s.ctx? s.curCtx = some c)
    (ht : c.table? x.table.toNat = none) :
    onTable op x s f = .next (trapHere 0x02 (BitVec.ofNat 64 x.table.toNat) s) := by
  rw [onTable, alloc_pass _ _ _ halloc, scalar_pass _ _ _ hg]
  simp [hc, ht]

/-- R91: a group instruction on a handle that names no group traps with the handle. -/
theorem onGroup_invalid {x : CtlForm} {s : State} (f : Nat → Option Group → State → Result)
    (hg : s.cur.guardOk x.g = true) (hh : validHandle (s.cur.handle x) = false) :
    onGroup x s f = .next (trapHere 0x02 (BitVec.ofNat 64 (s.cur.handle x)) s) := by
  rw [onGroup, scalar_pass _ _ _ hg]
  simp [hh]

/-! ### An image cut by pages of one byte -/

/-- A cached translation of one byte: a page of size 1. -/
def bytePage (cluster va pa key : Nat) : TlbEntry := ⟨cluster, va, va, pa, 0, false, true, false, false, key, 0, []⟩

/-- The context of `fetchContext` with its task attached to the image at 0. The image's first two dynamic fields are
reached through pages of one byte under two keys, the others not at all. -/
def tornContext : Context := { fetchContext with
  tasks := fetchContext.tasks.map fun t => { t with attached := true }
  tlb := [bytePage trackerCluster 10 10 0, bytePage trackerCluster 28 28 1] }

/-- An HBM stack in service. -/
def trainedStack (n : Nat) : Stack :=
  ⟨n, false, (List.range 96).map fun g => ⟨g, 32, 32, none, true, 0, 0, [], false, 0, []⟩⟩

/-- The machine in full service whose memory is one page of HBM, all zero and never written, with that context's one thread
as the issuing one. The first key's generation is below `Config.firstGen`, so that one pass of XTS decides what the second
key makes of its line. -/
def tornState : State := { State.reset with
  stage := 5
  hbm := [trainedStack 0]
  regions := [⟨0, 4096, .hbm 0⟩]
  cur := { Thread.blank with life := .here .ready, nthreads := 1 }
  parts := [{ newPartition 0 1 [0] 0 30 0x4001 0 with keys := [.loaded 1 0, .loaded 2 0], ctxs := [tornContext] }] }

theorem tornState_ctx : tornState.ctx? tornState.curCtx = some tornContext := rfl

/-- Its fields lie at physical bytes 10 and 28, under two keys, and nowhere else. -/
theorem tornState_homes : ∀ va ∈ [10, 28, 52, 56],
    (tornState.xlate ⟨0, 0⟩ trackerCluster va .wr).toOption.map Xlate.home ∈
      [none, some (.mem 10 1), some (.mem 28 2)] := by decide +kernel

/-- No key has written its memory yet, so every key fits every line. -/
theorem tornState_keyFits (g pa : Nat) : KeyFits tornState g pa := .inr (.inl rfl)

/-- No byte but the fields' own may change when the image is written back: byte 0 may not. -/
theorem tornState_keeps_first : ¬WrittenBack tornState tornState.cur.id.ctxId 0 0 := by
  rintro ⟨w, hw, p, hp, x, pa, g, hx, hhome, hwritten⟩
  have hpieces : ∀ w ∈ [(10, 6), (28, 4), (52, 4), (56, 1)], ∀ p ∈ pieces (0 + w.1) w.2,
      p.1 ∈ [10, 28, 52, 56] := by decide
  have hin := tornState_homes p.1 (hpieces w hw p hp)
  have hx' : tornState.xlate ⟨0, 0⟩ trackerCluster p.1 .wr = .ok x := hx
  rw [hx'] at hin
  have hpa : pa ≠ 0 := by rintro rfl; simp [Except.toOption, hhome] at hin
  rcases hwritten with ⟨hle, -⟩ | ⟨i, -, -, hkey | hlow⟩
  · omega
  · exact hkey (tornState_keyFits g _)
  · exact hlow rfl

/-- It does: the write of the first field gives the line to one key, that of the second takes it over for the other, and the
line then holds what XTS makes of it (R321). -/
theorem tornState_first_changes : readByte (trapHere 0x02 16 tornState).mem 0 ≠ 0 := by decide +kernel

/-- A trap that makes the task FAULTED leaves a byte changed that `Trapped` says stays. -/
theorem tornState_not_trapped (taddr tinfo : Word) : ¬Trapped tornState (trapHere 0x02 16 tornState) 0x02 taddr tinfo := by
  rintro ⟨-, -, himage⟩
  have hfaults : ∀ tk ∈ tornContext.tasks.head?, Faults tornState 0x02 tk :=
    fun tk htk => ⟨.inr rfl, htk, by cases htk; rfl, by cases htk; rfl⟩
  exact tornState_first_changes (himage _ (hfaults _ rfl) 0 tornState_keeps_first)

/-! ### Table 16 and handle 16 -/

/-- An instruction of `tornState` that names table 16, and handle 16 by its offset. -/
def names16 : CtlForm := ⟨⟨false, 0⟩, 16, 0, 0, 16⟩

/-- Refutes O46: on `tornState` a `TBCLR` of the absent table 16 makes the task FAULTED, and the write back of its image
changes a byte of memory beside the image's fields, which `Trapped` excludes. The statement lacks a hypothesis that rules out
cached pages smaller than a line, which put one line of an image under two keys. -/
theorem not_tables : ¬Obligations.Tables := by
  unfold Obligations.Tables
  intro h
  obtain ⟨habsent, -⟩ := h.1 names16 tornState rfl
  obtain ⟨u, hu, htrap⟩ := habsent (0x013, .tbclr) (by simp) rfl fun c t ht => by
    obtain ⟨hc, ht⟩ := ht
    cases hc.symm.trans tornState_ctx
    cases ht
  have hexec : execTbclr names16 tornState = .next (trapHere 0x02 16 tornState) :=
    onTable_absent (x := names16) (c := tornContext) _ rfl rfl tornState_ctx rfl
  cases hu.symm.trans hexec
  exact tornState_not_trapped _ _ htrap

/-- Refutes O47: on `tornState` a `GJOIN` of handle 16, which names no group, makes the task FAULTED, and the write back of
its image changes a byte of memory beside the image's fields, as for O46. -/
theorem not_groups : ¬Obligations.Groups := by
  unfold Obligations.Groups
  intro h
  obtain ⟨hbad, -⟩ := h.1 names16 tornState rfl
  obtain ⟨u, hu, htrap⟩ := hbad (by unfold GoodHandle; decide) .gjoin (by simp)
  have hexec : execGjoin names16 tornState = .next (trapHere 0x02 16 tornState) := by
    rw [execGjoin, onGroup_invalid _ rfl rfl]
    rfl
  cases hu.symm.trans hexec
  exact tornState_not_trapped _ _ htrap

/-! ### A flush by a page of one byte -/

/-- A task whose commit is granted with one byte buffered, at virtual address 10. -/
def grantedTask (t : Task) : Task := { t with state := .committing, commitOk := true, buffers := [(0, [(10, 1)])] }

/-- Its context; the byte's address is cached in a page of one byte, at byte 0x8000 of die 0's commons, where the tables put
the pages of the first GiB at the commons' start. -/
def cutContext : Context := { fetchContext with
  tasks := fetchContext.tasks.map grantedTask
  tlb := [bytePage 0 10 (2 ^ 42 + 0x8000) 0] }

/-- The machine in full service with that context and its tables. -/
def cutState : State := { State.reset with
  stage := 5
  mem := fetchTables []
  parts := [{ newPartition 0 1 [0] 0 30 0x4001 0 with ctxs := [cutContext] }] }

/-- The cached page puts the byte at 0x8000 of the commons. -/
theorem cutState_atHome : AtHome { cutState with cur := { cutState.cur with id := ⟨0, 0, 0, 0⟩, cluster := 0 } } 10 1
    (2 ^ 42 + 0x8000) := by
  refine ⟨0, fun i hi => ?_⟩
  obtain rfl : i = 0 := by omega
  exact ⟨_, rfl, rfl, rfl, rfl, .inr (.inl rfl)⟩

/-- The flush looks up the byte's line first, which no cached page covers, and so caches the walk's page; that one then
translates the byte, which goes to the commons' byte 10. -/
theorem cutState_flushes : ∃ u, exec (.flushComplete ⟨0, 0, 0⟩) cutState = .next u ∧
    readByte u.mem (2 ^ 42 + 0x8000) = 0 := ⟨_, rfl, by decide +kernel⟩

/-- Refutes O50: on `cutState` the statement has FLUSH_COMPLETE store the buffered byte where the cached page of one byte puts
it, and the model stores it where the walk of its line's first byte does. The statement lacks a hypothesis that rules out
cached pages smaller than a line; a larger one translates a byte and its line's first alike. -/
theorem not_taskEvents : ¬Obligations.TaskEvents := by
  unfold Obligations.TaskEvents
  intro h
  obtain ⟨-, hflush, -⟩ := h.2 ⟨0, 0, 0⟩ cutState cutContext _ rfl rfl
  obtain ⟨u, hu, -, -, -, hstored⟩ := (hflush (by decide) rfl rfl).1 (by decide +kernel) (by decide +kernel)
  obtain ⟨hbytes, -⟩ := hstored 0 10 [1] _ rfl rfl rfl (by decide) cutState_atHome
  obtain ⟨v, hv, hbyte⟩ := cutState_flushes
  cases hu.symm.trans hv
  simp [hbytes] at hbyte

end Sys2Proof.Machine

/-! Proofs: a wait whose copy in the issuing registers is stale (R97, R341, R342). -/

namespace Sys2Proof.Machine

/-- A thread that a `WAITE` holds until a cycle. -/
def waitsUntil (d : Nat) : Thread := { Thread.blank with life := .here (.waiting (.event d)), nthreads := 1 }

/-- The machine in full service at cycle 12 whose one thread waits until cycle 15. The copy of the registers that issued last
still holds its wait as it stood at the issue, until cycle 10: a save at cycle 5 and a load at cycle 10 have moved the
deadline since (`Wait.remaining`, `Wait.resumed`). -/
def staleState : State := { State.reset with
  stage := 5
  time := 12
  cur := waitsUntil 10
  parts := [{ newPartition 0 1 [0] 0 30 0x4001 0 with ctxs := [{ fetchContext with threads := [waitsUntil 15] }] }] }

/-- WAITE_TIMEOUT leaves the thread's record as it is, but ends the wait of the stale copy. -/
theorem staleState_timeout : ∃ u, exec (.waiteTimeout ⟨0, 0, 0, 0⟩) staleState = .next u ∧
    u.cur.life = .here .ready := ⟨_, rfl, by decide +kernel⟩

/-- Refutes O48: on `staleState` the statement has WAITE_TIMEOUT change nothing before the deadline, and the model ends the
wait in `State.cur`, whose copy bears an earlier one (`State.modThread` changes both). The statement lacks a hypothesis that
the copy agrees with the thread's record, or, like `OnlyThread`, an exception for it. -/
theorem not_waitsEnd : ¬Obligations.WaitsEnd := by
  unfold Obligations.WaitsEnd
  intro h
  obtain ⟨-, -, -, -, -, -, -, -, -, hevent, -⟩ := h ⟨0, 0, 0, 0⟩ staleState (waitsUntil 15) _ rfl
  obtain ⟨-, -, hearly, -⟩ := hevent 15 ⟨by decide +kernel, rfl⟩
  obtain ⟨u, hu, rfl⟩ := hearly (by decide)
  obtain ⟨v, hv, hlife⟩ := staleState_timeout
  cases hu.symm.trans hv
  cases hlife

end Sys2Proof.Machine

/-! Proofs: words and instructions (R45 to R58). -/

namespace Sys2Proof

/-! ### Each field is read back from its code (R45, R48) -/

theorem toNat_field (w : Word) (lo n : Nat) : (field w lo n).toNat = w.toNat / 2 ^ lo % 2 ^ n := by
  simp [field, Nat.shiftRight_eq_div_pow]

theorem parseGuard_ofNat_enc (g : Guard) : parseGuard (BitVec.ofNat 4 g.enc) = g := by
  obtain ⟨inv, p⟩ := g
  revert inv p
  decide

theorem parseOpnd_ofNat_enc (o : Opnd) : parseOpnd (BitVec.ofNat 8 o.enc) = some o := by
  cases o with
  | reg n => revert n; decide
  | inc q => revert q; decide
  | str q => revert q; decide

theorem parseMod_ofNat_enc (m : SrcMod) : parseMod (BitVec.ofNat 2 m.enc) = m := by
  obtain ⟨neg, abs⟩ := m
  revert neg abs
  decide

theorem parseClamp_ofNat_enc (c : Clamp) : parseClamp (BitVec.ofNat 2 c.enc) = c := by cases c <;> rfl
theorem parseSpace_ofNat_enc (x : Space) : parseSpace (BitVec.ofNat 2 x.enc) = x := by cases x <;> rfl
theorem parseOrder_ofNat_enc (x : Order) : parseOrder (BitVec.ofNat 2 x.enc) = x := by cases x <;> rfl
theorem parseScope_ofNat_enc (x : Scope) : parseScope (BitVec.ofNat 2 x.enc) = x := by cases x <;> rfl
theorem ofNum_num (t : Ty) : Ty.ofNum t.num = some t := by cases t <;> rfl

/-! ### Each code is written back from its field -/

theorem enc_parseGuard : ∀ b : BitVec 4, (parseGuard b).enc = b.toNat := by decide
theorem enc_parseOpnd : ∀ b : BitVec 8, ∀ o ∈ parseOpnd b, o.enc = b.toNat := by decide
theorem enc_parseMod : ∀ b : BitVec 2, (parseMod b).enc = b.toNat := by decide
theorem enc_parseClamp : ∀ b : BitVec 2, (parseClamp b).enc = b.toNat := by decide
theorem enc_parseSpace : ∀ b : BitVec 2, (parseSpace b).enc = b.toNat := by decide
theorem enc_parseOrder : ∀ b : BitVec 2, (parseOrder b).enc = b.toNat := by decide
theorem enc_parseScope : ∀ b : BitVec 2, (parseScope b).enc = b.toNat := by decide
theorem num_ofNum : ∀ b : BitVec 4, ∀ t ∈ Ty.ofNum b.toNat, t.num = b.toNat := by decide

/-! ### The four formats (R45) -/

/-- A field of a word that is a sum of fields: what the sum leaves at its place. -/
theorem field_eq_ofNat {w : Word} {lo n v : Nat} (h : w.toNat / 2 ^ lo % 2 ^ n = v) : field w lo n = BitVec.ofNat n v := by
  apply BitVec.eq_of_toNat_eq
  rw [toNat_field, h, BitVec.toNat_ofNat, Nat.mod_eq_of_lt (h ▸ Nat.mod_lt _ (by positivity))]

theorem field_eq_of_toNat {w : Word} {lo n : Nat} {v : BitVec n} (h : w.toNat / 2 ^ lo % 2 ^ n = v.toNat) : field w lo n = v :=
  BitVec.eq_of_toNat_eq ((toNat_field w lo n).trans h)

open Laws in
theorem parseReg_word (op : Nat) (x : RegForm) (hop : op < 1024) : parseReg (Code.word (.reg op x)) = some x := by
  have hg := guard_enc_lt x.g
  have ht := ty_num_lt x.t
  have hd := opnd_enc_lt x.dst
  have hc := clamp_enc_lt x.clamp
  have hsc := x.scale.isLt
  have h1 := opnd_enc_lt x.s1
  have h2 := opnd_enc_lt x.s2
  have h3 := opnd_enc_lt x.s3
  have k1 := mod_enc_lt x.m1
  have k2 := mod_enc_lt x.m2
  have k3 := mod_enc_lt x.m3
  have hw : (Code.word (.reg op x)).toNat = op * 2 ^ 52 + x.g.enc * 2 ^ 48 + x.t.num * 2 ^ 44 + x.dst.enc * 2 ^ 36
      + x.clamp.enc * 2 ^ 34 + x.scale.toNat * 2 ^ 30 + x.s1.enc * 2 ^ 22 + x.s2.enc * 2 ^ 14
      + x.s3.enc * 2 ^ 6 + x.m1.enc * 16 + x.m2.enc * 4 + x.m3.enc := by
    rw [Code.word, BitVec.toNat_ofNat, Nat.mod_eq_of_lt (by omega)]
  have ft : (field (Code.word (.reg op x)) 44 4).toNat = x.t.num := by rw [toNat_field, hw]; omega
  have fd : field (Code.word (.reg op x)) 36 8 = BitVec.ofNat 8 x.dst.enc := field_eq_ofNat (by omega)
  have f1 : field (Code.word (.reg op x)) 22 8 = BitVec.ofNat 8 x.s1.enc := field_eq_ofNat (by omega)
  have f2 : field (Code.word (.reg op x)) 14 8 = BitVec.ofNat 8 x.s2.enc := field_eq_ofNat (by omega)
  have f3 : field (Code.word (.reg op x)) 6 8 = BitVec.ofNat 8 x.s3.enc := field_eq_ofNat (by omega)
  have fg : field (Code.word (.reg op x)) 48 4 = BitVec.ofNat 4 x.g.enc := field_eq_ofNat (by omega)
  have fc : field (Code.word (.reg op x)) 34 2 = BitVec.ofNat 2 x.clamp.enc := field_eq_ofNat (by omega)
  have fs : field (Code.word (.reg op x)) 30 4 = x.scale := field_eq_of_toNat (by omega)
  have e1 : field (Code.word (.reg op x)) 4 2 = BitVec.ofNat 2 x.m1.enc := field_eq_ofNat (by omega)
  have e2 : field (Code.word (.reg op x)) 2 2 = BitVec.ofNat 2 x.m2.enc := field_eq_ofNat (by omega)
  have e3 : field (Code.word (.reg op x)) 0 2 = BitVec.ofNat 2 x.m3.enc := field_eq_ofNat (by omega)
  simp only [parseReg, ft, fd, f1, f2, f3, fg, fc, fs, e1, e2, e3, ofNum_num, parseOpnd_ofNat_enc, parseGuard_ofNat_enc,
    parseClamp_ofNat_enc, parseMod_ofNat_enc]
  rfl

open Laws in
theorem parseImm_word (op : Nat) (x : ImmForm) (hop : op < 1024) : parseImm (Code.word (.imm op x)) = some x := by
  have hg := guard_enc_lt x.g
  have ht := ty_num_lt x.t
  have hd := opnd_enc_lt x.dst
  have hs := opnd_enc_lt x.src
  have hi := x.imm.isLt
  have hw : (Code.word (.imm op x)).toNat = 2 ^ 62 + op * 2 ^ 52 + x.g.enc * 2 ^ 48 + x.t.num * 2 ^ 44
      + x.dst.enc * 2 ^ 36 + x.src.enc * 2 ^ 28 + x.imm.toNat := by
    rw [Code.word, BitVec.toNat_ofNat, Nat.mod_eq_of_lt (by omega)]
  have ft : (field (Code.word (.imm op x)) 44 4).toNat = x.t.num := by rw [toNat_field, hw]; omega
  have fd : field (Code.word (.imm op x)) 36 8 = BitVec.ofNat 8 x.dst.enc := field_eq_ofNat (by omega)
  have fs : field (Code.word (.imm op x)) 28 8 = BitVec.ofNat 8 x.src.enc := field_eq_ofNat (by omega)
  have fg : field (Code.word (.imm op x)) 48 4 = BitVec.ofNat 4 x.g.enc := field_eq_ofNat (by omega)
  have fi : field (Code.word (.imm op x)) 0 28 = x.imm := field_eq_of_toNat (by omega)
  simp only [parseImm, ft, fd, fs, fg, fi, ofNum_num, parseOpnd_ofNat_enc, parseGuard_ofNat_enc]
  rfl

open Laws in
theorem parseMem_word (op : Nat) (x : MemForm) (hop : op < 1024) : parseMem (Code.word (.mem op x)) = some x := by
  have hg := guard_enc_lt x.g
  have ht := ty_num_lt x.t
  have hd := opnd_enc_lt x.data
  have hb := opnd_enc_lt x.base
  have hoff := x.off.isLt
  have hsp := space_enc_lt x.space
  have hor := order_enc_lt x.order
  have hsc := scope_enc_lt x.scope
  have hw : (Code.word (.mem op x)).toNat = 2 * 2 ^ 62 + op * 2 ^ 52 + x.g.enc * 2 ^ 48 + x.t.num * 2 ^ 44
      + x.data.enc * 2 ^ 36 + x.base.enc * 2 ^ 28 + x.off.toNat * 2 ^ 6
      + x.space.enc * 16 + x.order.enc * 4 + x.scope.enc := by
    rw [Code.word, BitVec.toNat_ofNat, Nat.mod_eq_of_lt (by omega)]
  have ft : (field (Code.word (.mem op x)) 44 4).toNat = x.t.num := by rw [toNat_field, hw]; omega
  have fd : field (Code.word (.mem op x)) 36 8 = BitVec.ofNat 8 x.data.enc := field_eq_ofNat (by omega)
  have fb : field (Code.word (.mem op x)) 28 8 = BitVec.ofNat 8 x.base.enc := field_eq_ofNat (by omega)
  have fg : field (Code.word (.mem op x)) 48 4 = BitVec.ofNat 4 x.g.enc := field_eq_ofNat (by omega)
  have fo : field (Code.word (.mem op x)) 6 22 = x.off := field_eq_of_toNat (by omega)
  have fp : field (Code.word (.mem op x)) 4 2 = BitVec.ofNat 2 x.space.enc := field_eq_ofNat (by omega)
  have fr : field (Code.word (.mem op x)) 2 2 = BitVec.ofNat 2 x.order.enc := field_eq_ofNat (by omega)
  have fc : field (Code.word (.mem op x)) 0 2 = BitVec.ofNat 2 x.scope.enc := field_eq_ofNat (by omega)
  simp only [parseMem, ft, fd, fb, fg, fo, fp, fr, fc, ofNum_num, parseOpnd_ofNat_enc, parseGuard_ofNat_enc,
    parseSpace_ofNat_enc, parseOrder_ofNat_enc, parseScope_ofNat_enc]
  rfl

open Laws in
theorem parseCtl_word (op : Nat) (x : CtlForm) (hop : op < 1024) : parseCtl (Code.word (.ctl op x)) = x := by
  have hg := guard_enc_lt x.g
  have ht := x.table.isLt
  have hk := x.key.isLt
  have hi := x.ind.isLt
  have hs := x.subop.isLt
  have hw : (Code.word (.ctl op x)).toNat = 3 * 2 ^ 62 + op * 2 ^ 52 + x.g.enc * 2 ^ 48 + x.table.toNat * 2 ^ 42
      + x.key.toNat * 2 ^ 37 + x.ind.toNat * 2 ^ 32 + x.subop.toNat := by
    rw [Code.word, BitVec.toNat_ofNat, Nat.mod_eq_of_lt (by omega)]
  have fg : field (Code.word (.ctl op x)) 48 4 = BitVec.ofNat 4 x.g.enc := field_eq_ofNat (by omega)
  have ft : field (Code.word (.ctl op x)) 42 6 = x.table := field_eq_of_toNat (by omega)
  have fk : field (Code.word (.ctl op x)) 37 5 = x.key := field_eq_of_toNat (by omega)
  have fi : field (Code.word (.ctl op x)) 32 5 = x.ind := field_eq_of_toNat (by omega)
  have fs : field (Code.word (.ctl op x)) 0 32 = x.subop := field_eq_of_toNat (by omega)
  simp only [parseCtl, fg, ft, fk, fi, fs, parseGuard_ofNat_enc]

/-- A field of a number and the bits below it are the bits below its upper end. -/
theorem digit_add_mod (m lo n : Nat) : m / 2 ^ lo % 2 ^ n * 2 ^ lo + m % 2 ^ lo = m % 2 ^ (lo + n) := by
  rw [Nat.pow_add, Nat.mod_mul, Nat.mul_comm, Nat.add_comm]

theorem word_parseReg {w : Word} {x : RegForm} (hcls : (field w 62 2).toNat = 0) (h : parseReg w = some x) :
    Code.word (.reg (field w 52 10).toNat x) = w := by
  simp only [parseReg, Option.bind_eq_bind, Option.bind_eq_some_iff] at h
  obtain ⟨t, ht, dst, hd, s1, h1, s2, h2, s3, h3, hx⟩ := h
  cases hx
  apply BitVec.eq_of_toNat_eq
  simp only [Code.word, num_ofNum _ t ht, enc_parseOpnd _ _ hd, enc_parseOpnd _ _ h1, enc_parseOpnd _ _ h2,
    enc_parseOpnd _ _ h3, enc_parseGuard, enc_parseClamp, enc_parseMod, toNat_field, BitVec.toNat_ofNat] at hcls ⊢
  have hw := w.isLt
  have := digit_add_mod w.toNat 0 2
  have := digit_add_mod w.toNat 2 2
  have := digit_add_mod w.toNat 4 2
  have := digit_add_mod w.toNat 6 8
  have := digit_add_mod w.toNat 14 8
  have := digit_add_mod w.toNat 22 8
  have := digit_add_mod w.toNat 30 4
  have := digit_add_mod w.toNat 34 2
  have := digit_add_mod w.toNat 36 8
  have := digit_add_mod w.toNat 44 4
  have := digit_add_mod w.toNat 48 4
  have := digit_add_mod w.toNat 52 10
  have := digit_add_mod w.toNat 62 2
  simp only [Nat.reducePow, Nat.reduceAdd] at *
  omega

theorem word_parseImm {w : Word} {x : ImmForm} (hcls : (field w 62 2).toNat = 1) (h : parseImm w = some x) :
    Code.word (.imm (field w 52 10).toNat x) = w := by
  simp only [parseImm, Option.bind_eq_bind, Option.bind_eq_some_iff] at h
  obtain ⟨t, ht, dst, hd, src, hs, hx⟩ := h
  cases hx
  apply BitVec.eq_of_toNat_eq
  simp only [Code.word, num_ofNum _ t ht, enc_parseOpnd _ _ hd, enc_parseOpnd _ _ hs, enc_parseGuard, toNat_field,
    BitVec.toNat_ofNat] at hcls ⊢
  have hw := w.isLt
  have := digit_add_mod w.toNat 0 28
  have := digit_add_mod w.toNat 28 8
  have := digit_add_mod w.toNat 36 8
  have := digit_add_mod w.toNat 44 4
  have := digit_add_mod w.toNat 48 4
  have := digit_add_mod w.toNat 52 10
  have := digit_add_mod w.toNat 62 2
  simp only [Nat.reducePow, Nat.reduceAdd] at *
  omega

theorem word_parseMem {w : Word} {x : MemForm} (hcls : (field w 62 2).toNat = 2) (h : parseMem w = some x) :
    Code.word (.mem (field w 52 10).toNat x) = w := by
  simp only [parseMem, Option.bind_eq_bind, Option.bind_eq_some_iff] at h
  obtain ⟨t, ht, data, hd, base, hb, hx⟩ := h
  cases hx
  apply BitVec.eq_of_toNat_eq
  simp only [Code.word, num_ofNum _ t ht, enc_parseOpnd _ _ hd, enc_parseOpnd _ _ hb, enc_parseGuard, enc_parseSpace,
    enc_parseOrder, enc_parseScope, toNat_field, BitVec.toNat_ofNat] at hcls ⊢
  have hw := w.isLt
  have := digit_add_mod w.toNat 0 2
  have := digit_add_mod w.toNat 2 2
  have := digit_add_mod w.toNat 4 2
  have := digit_add_mod w.toNat 6 22
  have := digit_add_mod w.toNat 28 8
  have := digit_add_mod w.toNat 36 8
  have := digit_add_mod w.toNat 44 4
  have := digit_add_mod w.toNat 48 4
  have := digit_add_mod w.toNat 52 10
  have := digit_add_mod w.toNat 62 2
  simp only [Nat.reducePow, Nat.reduceAdd] at *
  omega

theorem word_parseCtl {w : Word} (hcls : (field w 62 2).toNat = 3) :
    Code.word (.ctl (field w 52 10).toNat (parseCtl w)) = w := by
  apply BitVec.eq_of_toNat_eq
  simp only [Code.word, parseCtl, enc_parseGuard, toNat_field, BitVec.toNat_ofNat] at hcls ⊢
  have hw := w.isLt
  have := digit_add_mod w.toNat 0 32
  have := digit_add_mod w.toNat 32 5
  have := digit_add_mod w.toNat 37 5
  have := digit_add_mod w.toNat 42 6
  have := digit_add_mod w.toNat 48 4
  have := digit_add_mod w.toNat 52 10
  have := digit_add_mod w.toNat 62 2
  simp only [Nat.reducePow, Nat.reduceAdd] at *
  omega

/-! ### The opcode map (R58) -/

/-- The instruction that a code's class gives its opcode and fields. -/
def Code.instr? : Code → Option Instr
  | .reg op x => ofReg op x
  | .imm op x => ofImm op x
  | .mem op x => ofMem op x
  | .ctl op x => ofCtl op x

theorem ofReg_code {op : Nat} {x : RegForm} {i : Instr} (h : ofReg op x = some i) : i.code = some (.reg op x) := by
  unfold ofReg at h
  split at h <;> cases h <;> rfl

theorem ofImm_code {op : Nat} {x : ImmForm} {i : Instr} (h : ofImm op x = some i) : i.code = some (.imm op x) := by
  unfold ofImm at h
  split at h <;> cases h <;> rfl

theorem ofCtl_code {op : Nat} {x : CtlForm} {i : Instr} (h : ofCtl op x = some i) : i.code = some (.ctl op x) := by
  unfold ofCtl at h
  split at h <;> cases h <;> rfl

theorem ofMem_code {op : Nat} {x : MemForm} {i : Instr} (h : ofMem op x = some i) : i.code = some (.mem op x) := by
  unfold ofMem at h
  split at h
  case h_75 => cases h; split <;> rfl
  case h_76 => cases h; split <;> rfl
  all_goals (cases h <;> rfl)

theorem instr?_code {c : Code} {i : Instr} (h : c.instr? = some i) : i.code = some c := by
  cases c with
  | reg op x => exact ofReg_code h
  | imm op x => exact ofImm_code h
  | mem op x => exact ofMem_code h
  | ctl op x => exact ofCtl_code h

/-- An instruction of the right ORDER is the one its code gives (R192, R255). -/
theorem code_instr? {c : Code} {i : Instr} (h : i.code = some c) (ho : i.orderOk = true) : c.instr? = some i := by
  cases i <;> simp only [Instr.code, Option.some.injEq, reduceCtorEq] at h <;> subst h
  case ldf x =>
    have : x.order = .plain := by simpa [Instr.orderOk] using ho
    simp [Code.instr?, ofMem, this]
  case ldfEmpty x =>
    have : x.order = .acq := by simpa [Instr.orderOk] using ho
    simp [Code.instr?, ofMem, this]
  case rgetTake x =>
    have : x.order = .acq := by simpa [Instr.orderOk] using ho
    simp [Code.instr?, ofMem, this]
  case rgetPoll x =>
    have : x.order = .both := by simpa [Instr.orderOk] using ho
    simp [Code.instr?, ofMem, this]
  case rgetDone x =>
    have : x.order = .rel := by simpa [Instr.orderOk] using ho
    simp [Code.instr?, ofMem, this]
  all_goals rfl

/-- The instruction of a code whose fields are accepted has the ORDER it asks for: R192 gives `LDF` two orders, R255 gives
`RGET` three. -/
theorem instr?_orderOk {c : Code} {i : Instr} (h : c.instr? = some i) (hf : c.fieldsOk = true) : i.orderOk = true := by
  cases c with
  | reg op x => simp only [Code.instr?, ofReg] at h; split at h <;> cases h <;> rfl
  | imm op x => simp only [Code.instr?, ofImm] at h; split at h <;> cases h <;> rfl
  | ctl op x => simp only [Code.instr?, ofCtl] at h; split at h <;> cases h <;> rfl
  | mem op x =>
    simp only [Code.instr?, ofMem] at h
    split at h
    case h_75 => cases h; cases ho : x.order <;> simp_all [Code.fieldsOk, memOk, memSpec, Instr.orderOk]
    case h_76 => cases h; cases ho : x.order <;> simp_all [Code.fieldsOk, memOk, memSpec, Instr.orderOk]
    all_goals (cases h <;> rfl)

theorem code_defined {c : Code} {i : Instr} (h : i.code = some c) : opDefined (Laws.codeTop c).1 (Laws.codeTop c).2 = true := by
  cases i <;> simp only [Instr.code, Option.some.injEq, reduceCtorEq] at h <;> subst h <;> rfl

/-! ### Which opcodes are defined (R57 step 1, R58) -/

open Machine (definedOpcode)

/-- An opcode of the map stands in one of R58's ranges. -/
theorem definedOpcode_of_opDefined {cls op : Nat} (h : opDefined cls op = true) : definedOpcode cls op = true := by
  unfold opDefined at h
  split at h
  · unfold ofReg at h; split at h <;> cases h <;> rfl
  · unfold ofImm at h; split at h <;> cases h <;> rfl
  · unfold ofMem at h; split at h <;> cases h <;> rfl
  · next h0 h1 h2 =>
    have hcls : definedOpcode cls = definedOpcode 3 := by
      unfold definedOpcode; funext op; split <;> simp_all
    rw [hcls]
    unfold ofCtl at h; split at h <;> cases h <;> rfl

/-- Every opcode of R58's ranges is in the map. -/
theorem opDefined_of_definedOpcode {cls op : Nat} (h : definedOpcode cls op = true) : opDefined cls op = true := by
  unfold definedOpcode at h
  split at h
  all_goals simp only [Bool.or_eq_true, Bool.and_eq_true, decide_eq_true_eq] at h
  · rcases h with ((((⟨ha, hb⟩ | ⟨ha, hb⟩) | ⟨ha, hb⟩) | ⟨ha, hb⟩) | ⟨ha, hb⟩) | ⟨ha, hb⟩ <;> interval_cases op <;> rfl
  · obtain ⟨ha, hb⟩ := h
    interval_cases op <;> rfl
  · rcases h with ((((((((((⟨ha, hb⟩ | ⟨ha, hb⟩) | ⟨ha, hb⟩) | ⟨ha, hb⟩) | ⟨ha, hb⟩) | ⟨ha, hb⟩) | ⟨ha, hb⟩) | ⟨ha, hb⟩) |
      ⟨ha, hb⟩) | ⟨ha, hb⟩) | ⟨ha, hb⟩) | ⟨ha, hb⟩ <;> interval_cases op <;> rfl
  · next h0 h1 h2 =>
    have hcls : opDefined cls = opDefined 3 := by
      unfold opDefined; funext op; split <;> simp_all
    rw [hcls]
    rcases h with (((⟨ha, hb⟩ | ⟨ha, hb⟩) | ⟨ha, hb⟩) | ⟨ha, hb⟩) | ⟨ha, hb⟩ <;> interval_cases op <;> rfl

theorem opDefined_eq (cls op : Nat) : opDefined cls op = definedOpcode cls op :=
  Bool.eq_iff_iff.mpr ⟨definedOpcode_of_opDefined, opDefined_of_definedOpcode⟩

theorem op_lt_of_definedOpcode {cls op : Nat} (h : definedOpcode cls op = true) : op < 1024 := by
  unfold definedOpcode at h
  split at h <;> simp only [Bool.or_eq_true, Bool.and_eq_true, decide_eq_true_eq] at h <;> omega

/-! ### The decoder and the encoder -/

theorem finish_ne_opcode (c : Option Code) (i : Option Instr) : finish c i ≠ .error .opcode := by
  unfold finish
  repeat' split
  all_goals simp

/-- Steps 2 and 3 of R57 accept what they are given where both checks pass. -/
theorem finish_eq_ok {c : Option Code} {i : Option Instr} {j : Instr} :
    finish c i = .ok j ↔ ∃ d, c = some d ∧ i = some j ∧ d.fieldsOk = true ∧ d.misaligned = none := by
  cases c with
  | none => simp [finish]
  | some d =>
    cases i with
    | none => simp [finish]
    | some k => cases hf : d.fieldsOk <;> cases hm : d.misaligned <;> simp [finish, hf, hm]

/-- The decoder on the word of a code with a defined opcode. -/
theorem decode_word {c : Code} (hd : opDefined (Laws.codeTop c).1 (Laws.codeTop c).2 = true) :
    decode c.word = finish (some c) c.instr? := by
  have hop := op_lt_of_definedOpcode (definedOpcode_of_opDefined hd)
  obtain ⟨hcls, hcode⟩ := Laws.word_fields c hop
  unfold decode
  simp only [field, hcls, hcode, hd, if_true]
  cases c with
  | reg op x => simp [Laws.codeTop, parseReg_word op x hop, Code.instr?]
  | imm op x => simp [Laws.codeTop, parseImm_word op x hop, Code.instr?]
  | mem op x => simp [Laws.codeTop, parseMem_word op x hop, Code.instr?]
  | ctl op x => simp [Laws.codeTop, parseCtl_word op x hop, Code.instr?]

/-- A word that decodes is that of a code whose fields pass the decoder's checks. -/
theorem word_of_decode {w : Word} {i : Instr} (h : decode w = .ok i) :
    ∃ c : Code, c.word = w ∧ c.instr? = some i ∧ c.fieldsOk = true ∧ c.misaligned = none := by
  have hcls : (field w 62 2).toNat < 4 := (field w 62 2).isLt
  unfold decode at h
  dsimp only at h
  split at h
  case isFalse => cases h
  case isTrue =>
    split at h
    case h_1 h0 =>
      obtain ⟨d, hd, hj, hrest⟩ := finish_eq_ok.mp h
      obtain ⟨x, hx, rfl⟩ := Option.map_eq_some_iff.mp hd
      exact ⟨_, word_parseReg h0 hx, by simpa [hx, Code.instr?] using hj, hrest⟩
    case h_2 h1 =>
      obtain ⟨d, hd, hj, hrest⟩ := finish_eq_ok.mp h
      obtain ⟨x, hx, rfl⟩ := Option.map_eq_some_iff.mp hd
      exact ⟨_, word_parseImm h1 hx, by simpa [hx, Code.instr?] using hj, hrest⟩
    case h_3 h2 =>
      obtain ⟨d, hd, hj, hrest⟩ := finish_eq_ok.mp h
      obtain ⟨x, hx, rfl⟩ := Option.map_eq_some_iff.mp hd
      exact ⟨_, word_parseMem h2 hx, by simpa [hx, Code.instr?] using hj, hrest⟩
    case h_4 _ h0 h1 h2 =>
      obtain ⟨d, hd, hj, hrest⟩ := finish_eq_ok.mp h
      cases hd
      have hcls3 : (field w 62 2).toNat = 3 := by
        have : (field w 62 2).toNat ≠ 0 := h0
        have : (field w 62 2).toNat ≠ 1 := h1
        have : (field w 62 2).toNat ≠ 2 := h2
        omega
      exact ⟨_, word_parseCtl hcls3, hj, hrest⟩

/-- Settles O1: each field of the word is its code's (`parseReg_word` and its fellows), so that the decoder comes to the
checks that well-formedness says pass. -/
theorem decodeOfEncode : Obligations.DecodeOfEncode := by
  unfold Obligations.DecodeOfEncode
  intro i w hwf hw
  obtain ⟨c, hc, rfl⟩ := Option.map_eq_some_iff.mp hw
  simp only [Instr.wf, hc, Bool.and_eq_true, Option.isNone_iff_eq_none] at hwf
  obtain ⟨⟨hok, hal⟩, horder⟩ := hwf
  rw [decode_word (code_defined hc), code_instr? hc horder]
  exact finish_eq_ok.mpr ⟨c, rfl, rfl, hok, hal⟩

/-- Settles O2: the word's fields make its code (`word_parseReg` and its fellows), whose checks have passed. -/
theorem encodeOfDecode : Obligations.EncodeOfDecode := by
  unfold Obligations.EncodeOfDecode
  intro w i h
  obtain ⟨c, hw, hi, hok, hal⟩ := word_of_decode h
  have hc := instr?_code hi
  exact ⟨by simp [Instr.wf, hc, hok, hal, instr?_orderOk hi hok], by simp [encode, hc, hw]⟩

/-- Settles O3: only step 1 gives this error, and the map of R58 is its ranges. -/
theorem reservedOpcodes : Obligations.ReservedOpcodes := by
  unfold Obligations.ReservedOpcodes
  intro w
  rw [← opDefined_eq]
  unfold decode
  dsimp only [field]
  cases hd : opDefined (w.extractLsb' 62 2).toNat (w.extractLsb' 52 10).toNat with
  | false => simp
  | true =>
    simp only [if_true, reduceCtorEq, iff_false]
    split <;> exact finish_ne_opcode _ _

/-- Settles O4: each word is decoded in turn. -/
theorem wordsOfTheSpec : Obligations.WordsOfTheSpec := by
  unfold Obligations.WordsOfTheSpec
  decide

end Sys2Proof

/-! Proofs: scalar-tested instructions whose guard fails (R49). -/

namespace Sys2Proof.Machine

/-! ### The shared operations that test a guard

Each tests the guard first, after step 4 of R57 where its word names a vector register. -/

section
variable {s : State} {g : Guard} (hg : s.cur.guardOk g = false)
include hg

theorem alloc_scalar_fail {c : Code} (f : State → Result) (ha : Allocated c s) :
    alloc c s (fun s => scalar g s f) = .next s.advance :=
  (alloc_pass c s _ ha).trans (scalar_fail g s f hg)

end

section
variable {s : State} {x : RegForm} (hg : s.cur.guardOk x.g = false)
include hg

theorem scalarInt2_fail (f : Ty → Nat → Nat → Nat) : scalarInt2 x s f = .next s.advance := scalar_fail _ _ _ hg
theorem scalarInt1_fail (f : Ty → Nat → Nat) : scalarInt1 x s f = .next s.advance := scalar_fail _ _ _ hg
theorem scalarFloat_fail (f : RM → FVal → FVal → FVal → FVal × Flags) : scalarFloat x s f = .next s.advance :=
  scalar_fail _ _ _ hg
theorem scalarPick_fail (wantMax : Bool) : scalarPick x s wantMax = .next s.advance := scalar_fail _ _ _ hg

end

theorem scalarImm_fail {s : State} {x : ImmForm} (hg : s.cur.guardOk x.g = false) (f : Ty → Nat → Nat → Nat) :
    scalarImm x s f = .next s.advance := scalar_fail _ _ _ hg

section
variable {s : State} {x : MemForm} (hg : s.cur.guardOk x.g = false)
include hg

theorem atomic_fail (u : Use) (f : Ty → Nat → Nat → Nat) : atomic x u f s = .next s.advance := scalar_fail _ _ _ hg
theorem fullLoad_fail (empty : Bool) : fullLoad empty x s = .next s.advance := scalar_fail _ _ _ hg
theorem onImage_fail (f : TaskId → State → Bool × State) : onImage x s f = .next s.advance := scalar_fail _ _ _ hg
theorem ringTake_fail (poll : Bool) : ringTake poll x s = .next s.advance := scalar_fail _ _ _ hg
theorem matrixCmd_fail (op : Nat) (usesEa wr : Bool) (mk : Thread → Option JobOp) :
    matrixCmd op usesEa wr mk x s = .next s.advance := scalar_fail _ _ _ hg
theorem streamCmd_fail (pair : Nat) : streamCmd pair x s = .next s.advance := matrixCmd_fail hg _ _ _ _
theorem ssRange_fail (op : Nat) (wr : Bool) (f : Nat → Nat → Nat → State → Result) :
    ssRange op wr x s f = .next s.advance := scalar_fail _ _ _ hg
theorem listInstr_fail (act : State → Nat → Nat → ListAct) : listInstr x s act = .next s.advance := scalar_fail _ _ _ hg
theorem copyCmd_fail {op : Nat} (mk : Desc → JobOp) (ok : Desc → Nat → Bool) (ha : Allocated (.mem op x) s) :
    copyCmd op mk ok x s = .next s.advance := alloc_scalar_fail hg _ ha

end

section
variable {s : State} {x : CtlForm} (hg : s.cur.guardOk x.g = false)
include hg

theorem onTable_fail {op : Nat} (f : Context → Table → State → Result) (ha : Allocated (.ctl op x) s) :
    onTable op x s f = .next s.advance := alloc_scalar_fail hg _ ha
theorem onGroup_fail (f : Nat → Option Group → State → Result) : onGroup x s f = .next s.advance := scalar_fail _ _ _ hg

end

/-! ### The statement -/

/-- R49: a scalar-tested instruction whose guard fails moves on. -/
theorem exec_guard_fails {i : Instr} {s : State} {c : Code} {g : Guard} (hc : i.code = some c) (ht : scalarTested i = true)
    (hi : guardOf i = some g) (hg : s.cur.guardOk g = false) (ha : Allocated c s) : exec i s = .next s.advance := by
  cases i <;> simp only [Instr.code, Option.some.injEq, reduceCtorEq] at hc <;> subst hc <;>
    simp only [guardOf, Instr.code, Option.some.injEq] at hi <;> subst hi <;>
    simp only [exec]
  case add | sub | mul | mulh | div | rem | min | max | and | or | xor | andn | shl | shr | sra | rot =>
    exact scalarInt2_fail hg _
  case clz | popc | bswap => exact scalarInt1_fail hg _
  case fadd | fsub | fmul | fma => exact scalarFloat_fail hg _
  case fmin | fmax => exact scalarPick_fail hg _
  case addi | andi | ori | xori | shli | shri | srai | movi => exact scalarImm_fail hg _
  case aadd | amin | amax | aand | aor | axor | aswap => exact atomic_fail hg _ _
  case ldf | ldfEmpty => exact fullLoad_fail hg _
  case tcancel | tretry => exact onImage_fail hg _
  case rgetTake | rgetPoll => exact ringTake_fail hg _
  case mwld | mwswap | mzero | mdrain => exact matrixCmd_fail hg _ _ _ _
  case mstreamBf16Bf16 | mstreamFp16Fp16 | mstreamE4m3E4m3 | mstreamE4m3E5m2 |
      mstreamE5m2E4m3 | mstreamE5m2E5m2 | mstreamMxe4m3Mxe4m3 | mstreamMxe2m1Mxe2m1 | mstreamMxe2m1Mxe4m3 | mstreamI8I8 =>
    exact streamCmd_fail hg _
  case ssload | sssave => exact ssRange_fail hg _ _ _
  case lmove | lpop | lpush => exact listInstr_fail hg _
  case cpy | cpyf | gath | scat | fill | rput => exact copyCmd_fail hg _ _ ha
  case tbw | tbr | tbclr | tbcopy | tbflip | tbpin | tbunpin => exact onTable_fail hg _ ha
  case gjoin | gleave | gbar | gsize => exact onGroup_fail hg _
  case vext | vins | tnew | twin | feed | coll | tkstep => exact alloc_scalar_fail hg _ ha
  case extb | insb | lea | fcmp | fcvt | fclass | cmp | cbit | cset | sel | movSS | movSA | movSC | movCS | movSP | movPS |
      movSQ | movQS | gets | puts => exact scalar_fail _ _ _ hg
  case movhi => exact scalar_fail _ _ _ hg
  case ld | st | acas | aaddf | cellrd | fence | fencer | stf | clre | tsubmit | twait | tstat | tabort | fcwait | fcadd |
      jwait | jstat | rgetDone | unfeed | ssopen | ssnap | ssrewind | ssfork | ssclose | smopen | smpost | smtake | gwait =>
    exact scalar_fail _ _ _ hg
  case matchT | trap | resume | brk | nop | waite => exact scalar_fail _ _ _ hg
  all_goals simp [scalarTested, Instr.code] at ht

/-- Settles O7: every such instruction tests its guard before it acts (`exec_guard_fails`). -/
theorem guardFails : Obligations.GuardFails := by
  unfold Obligations.GuardFails
  intro i s g ht hi hg ha
  obtain ⟨c, hc⟩ : ∃ c, i.code = some c := by
    cases hc : i.code with
    | none => simp [guardOf, hc] at hi
    | some c => exact ⟨c, rfl⟩
  exact ⟨_, exec_guard_fails hc ht hi hg (ha c hc), rfl⟩

end Sys2Proof.Machine

/-! Proofs: integer results as bit vectors (R65 to R70, R75, R127 to R129). -/

namespace Sys2Proof

/-! ### The types (R55, R65) -/

theorem Ty.bits_pos (t : Ty) : 0 < t.bits := by cases t <;> decide
theorem Ty.bits_le (t : Ty) : t.bits ≤ 64 := by cases t <;> decide
theorem Ty.isFloat_of_isInt {t : Ty} (h : t.isInt = true) : t.isFloat = false := by
  revert h
  cases t <;> decide
theorem Ty.isFloat_of_isF {t : Ty} (h : t.isF = true) : t.isFloat = true := by
  revert h
  cases t <;> decide

end Sys2Proof

namespace Sys2Proof.Machine

/-! ### What a scalar instruction leaves (R40, R49) -/

theorem wroteS_putS (s : State) (d : BitVec 5) (v : Word) : WroteS s (s.putS d v) d v where
  value := Thread.sreg_setS_same s.cur d v
  others n hn := Thread.sreg_setS_ne s.cur d n v hn
  rest := by
    unfold State.putS Thread.setS State.modCur State.advance
    split <;> rfl

theorem wroteP_setP (s : State) (d : BitVec 3) (v : Word) : WroteP s (s.modCur fun h => h.setP d v).advance d v where
  value := Thread.preg_setP_same s.cur d v
  others n hn := Thread.preg_setP_ne s.cur d n v hn
  rest := by
    unfold Thread.setP State.modCur State.advance
    split <;> rfl

theorem wroteSF_putSF (s : State) (d : BitVec 5) (v : Word) (f : Flags) : WroteSF s (s.putSF d v f) d v f where
  value := Thread.sreg_setS_same s.cur d v
  others n hn := Thread.sreg_setS_ne s.cur d n v hn
  rest := by
    unfold State.putSF Thread.setS Thread.raise State.modCur State.advance
    split <;> rfl

/-! ### Patterns of w bits as numbers and as bit vectors -/

theorem toNat_ofNat_lowBits (w x : Nat) : (BitVec.ofNat w x).toNat = lowBits w x := BitVec.toNat_ofNat x w

theorem ofNat_lowBits (w x : Nat) : BitVec.ofNat w (lowBits w x) = BitVec.ofNat w x :=
  BitVec.eq_of_toNat_eq (by simp [lowBits])

theorem toSigned_eq (w x : Nat) (hw : 0 < w) : toSigned w x = (BitVec.ofNat w x).toInt := by
  obtain ⟨k, rfl⟩ := Nat.exists_eq_add_of_lt hw
  simp only [toSigned, lowBits, BitVec.toInt_eq_toNat_cond, BitVec.toNat_ofNat, Nat.zero_add, Nat.add_sub_cancel, Nat.pow_succ]
  have hcast : ((2 ^ k * 2 : Nat) : Int) = 2 ^ k * 2 := by push_cast; rfl
  split <;> split <;> omega

theorem intVal_eq (t : Ty) (x : Nat) : intVal t x = reads t (BitVec.ofNat t.bits x) := by
  unfold intVal reads
  split
  · exact toSigned_eq _ _ t.bits_pos
  · rw [toNat_ofNat_lowBits]

theorem ofNat_wrapTo (w : Nat) (i : Int) : BitVec.ofNat w (wrapTo w i) = BitVec.ofInt w i := by
  have hlt : (i % 2 ^ w).toNat < 2 ^ w := by
    have hpos : (0 : Int) < 2 ^ w := by positivity
    have := Int.emod_lt_of_pos i hpos
    have := Int.emod_nonneg i hpos.ne'
    zify
    omega
  apply BitVec.eq_of_toNat_eq
  simp [wrapTo, BitVec.toNat_ofInt, Nat.mod_eq_of_lt hlt]

theorem ofNat_wrapTo_neg (w x : Nat) (hw : 0 < w) : BitVec.ofNat w (wrapTo w (-toSigned w x)) = -BitVec.ofNat w x := by
  rw [ofNat_wrapTo, toSigned_eq w x hw, BitVec.ofInt_neg, BitVec.ofInt_toInt]

theorem intMin_eq (t : Ty) : intMin t = lowest t := by unfold intMin lowest; split <;> simp
theorem intMax_eq (t : Ty) : intMax t = highest t := by unfold intMax highest; split <;> simp

theorem ofNat_finishInt (t : Ty) (cl : Clamp) (i : Int) : BitVec.ofNat t.bits (finishInt t cl i) = narrow t cl i := by
  unfold finishInt narrow
  simp only [beq_iff_eq, intMin_eq, intMax_eq]
  split <;> exact ofNat_wrapTo _ _

theorem extendInt_eq (t : Ty) (r : Nat) : extendInt t r = standing t (BitVec.ofNat t.bits r) := by
  unfold extendInt standing
  split
  · rw [toSigned_eq _ _ t.bits_pos]; rfl
  · rw [← toNat_ofNat_lowBits, BitVec.ofNat_toNat]

/-- R50, R65: an integer source's modifiers. -/
theorem ofNat_modSrc (t : Ty) (m : SrcMod) (x : Nat) (ht : t.isFloat = false) :
    BitVec.ofNat t.bits (modSrc t m x) = intMod t m (BitVec.ofNat t.bits x) := by
  have habs : BitVec.ofNat t.bits
      (if (m.abs && toSigned t.bits x < 0) = true then wrapTo t.bits (-toSigned t.bits x) else lowBits t.bits x) =
        if m.abs then (BitVec.ofNat t.bits x).abs else BitVec.ofNat t.bits x := by
    have hneg : (toSigned t.bits x < 0) = ((BitVec.ofNat t.bits x).msb = true) := by
      rw [toSigned_eq _ _ t.bits_pos, BitVec.msb_eq_toInt, decide_eq_true_eq]
    cases m.abs
    · simp [ofNat_lowBits]
    · simp only [Bool.true_and, decide_eq_true_eq, hneg, if_true, BitVec.abs]
      split
      · exact ofNat_wrapTo_neg _ _ t.bits_pos
      · rw [ofNat_lowBits]
  unfold modSrc intMod
  simp only [ht, Bool.false_eq_true, if_false]
  split
  · rw [ofNat_wrapTo_neg _ _ t.bits_pos, habs]
  · exact habs

/-- R65: a scalar integer source is its register's low bits, modified. -/
theorem ofNat_srcT (h : Thread) (t : Ty) (m : SrcMod) (o : Opnd) (ht : t.isFloat = false) :
    BitVec.ofNat t.bits (h.srcT t m o) = srcBits h t m o := by
  rw [Thread.srcT, ofNat_modSrc _ _ _ ht, BitVec.ofNat_toNat]
  rfl

/-! ### Results at a type -/

theorem ofNat_addI (t : Ty) (cl : Clamp) (a b : Nat) : BitVec.ofNat t.bits (addI t cl a b) =
    narrow t cl (reads t (BitVec.ofNat t.bits a) + reads t (BitVec.ofNat t.bits b)) := by
  rw [addI, ofNat_finishInt, intVal_eq, intVal_eq]

theorem ofNat_subI (t : Ty) (cl : Clamp) (a b : Nat) : BitVec.ofNat t.bits (subI t cl a b) =
    narrow t cl (reads t (BitVec.ofNat t.bits a) - reads t (BitVec.ofNat t.bits b)) := by
  rw [subI, ofNat_finishInt, intVal_eq, intVal_eq]

theorem ofNat_mulI (t : Ty) (cl : Clamp) (a b : Nat) : BitVec.ofNat t.bits (mulI t cl a b) =
    narrow t cl (reads t (BitVec.ofNat t.bits a) * reads t (BitVec.ofNat t.bits b)) := by
  rw [mulI, ofNat_finishInt, intVal_eq, intVal_eq]

theorem ofNat_fmaI (t : Ty) (cl : Clamp) (a b c : Nat) : BitVec.ofNat t.bits (fmaI t cl a b c) = narrow t cl
    (reads t (BitVec.ofNat t.bits a) * reads t (BitVec.ofNat t.bits b) + reads t (BitVec.ofNat t.bits c)) := by
  rw [fmaI, ofNat_finishInt, intVal_eq, intVal_eq, intVal_eq]

theorem ofNat_mulhI (t : Ty) (a b : Nat) : BitVec.ofNat t.bits (mulhI t a b) =
    highProduct t (BitVec.ofNat t.bits a) (BitVec.ofNat t.bits b) := by
  rw [mulhI, ofNat_wrapTo, intVal_eq, intVal_eq]
  rfl

theorem ofNat_minI (t : Ty) (a b : Nat) : BitVec.ofNat t.bits (minI t a b) =
    if reads t (BitVec.ofNat t.bits b) < reads t (BitVec.ofNat t.bits a) then BitVec.ofNat t.bits b
    else BitVec.ofNat t.bits a := by
  rw [minI, intVal_eq, intVal_eq]
  split <;> exact ofNat_lowBits _ _

theorem ofNat_maxI (t : Ty) (a b : Nat) : BitVec.ofNat t.bits (maxI t a b) =
    if reads t (BitVec.ofNat t.bits a) < reads t (BitVec.ofNat t.bits b) then BitVec.ofNat t.bits b
    else BitVec.ofNat t.bits a := by
  rw [maxI, intVal_eq, intVal_eq]
  split <;> exact ofNat_lowBits _ _

/-! ### The scalar forms -/

/-- R65: an instruction of two sources gives what its function does on w-bit patterns. -/
theorem gives2_of {mk : RegForm → Instr} {n : RegForm → Ty → Nat → Nat → Nat}
    {f : (t : Ty) → Clamp → BitVec t.bits → BitVec t.bits → BitVec t.bits}
    (hexec : ∀ x s, exec (mk x) s = scalarInt2 x s (n x))
    (hf : ∀ (x : RegForm) (a b : Nat), BitVec.ofNat x.t.bits (n x x.t a b) =
      f x.t x.clamp (BitVec.ofNat x.t.bits a) (BitVec.ofNat x.t.bits b)) : Gives2 mk f := by
  intro x s ht hg
  have hfl := Ty.isFloat_of_isInt ht
  refine ⟨_, (hexec x s).trans (scalar_pass _ _ _ hg), ?_⟩
  rw [extendInt_eq, hf, ofNat_srcT _ _ _ _ hfl, ofNat_srcT _ _ _ _ hfl]
  exact wroteS_putS _ _ _

/-- Settles O8: each result is the model's function of the two patterns. -/
theorem integerArithmetic : Obligations.IntegerArithmetic := by
  unfold Obligations.IntegerArithmetic
  refine ⟨gives2_of (n := fun x t => addI t x.clamp) (fun x s => ?add) fun x => ofNat_addI x.t x.clamp,
    gives2_of (n := fun x t => subI t x.clamp) (fun x s => ?sub) fun x => ofNat_subI x.t x.clamp,
    gives2_of (n := fun x t => mulI t x.clamp) (fun x s => ?mul) fun x => ofNat_mulI x.t x.clamp,
    gives2_of (n := fun _ => mulhI) (fun x s => ?mulh) fun x => ofNat_mulhI x.t,
    gives2_of (n := fun _ => minI) (fun x s => ?min) fun x => ofNat_minI x.t,
    gives2_of (n := fun _ => maxI) (fun x s => ?max) fun x => ofNat_maxI x.t⟩
  all_goals simp only [exec]; rfl

/-- Settles O14: each writes the register it names. -/
theorem moves : Obligations.Moves := by
  unfold Obligations.Moves
  intro x s hg d a
  simp only [Completes, exec]
  refine ⟨⟨_, scalar_pass _ _ _ hg, ?lea⟩, ⟨_, scalar_pass _ _ _ hg, wroteS_putS _ _ _⟩,
    ⟨_, scalar_pass _ _ _ hg, wroteS_putS _ _ _⟩, ⟨_, scalar_pass _ _ _ hg, wroteS_putS _ _ _⟩,
    ⟨_, scalar_pass _ _ _ hg, rfl⟩, ⟨_, scalar_pass _ _ _ hg, wroteS_putS _ _ _⟩,
    ⟨_, scalar_pass _ _ _ hg, wroteP_setP _ _ _⟩, ⟨_, scalar_pass _ _ _ hg, wroteS_putS _ _ _⟩,
    ⟨_, scalar_pass _ _ _ hg, Thread.qreg_setQ_same _ _ _, fun n hn => Thread.qreg_setQ_ne _ _ _ _ hn, rfl⟩⟩
  case lea =>
    have hsum : a + s.cur.sreg x.s2.num5 * BitVec.ofNat 64 (x.t.bits / 8) =
        BitVec.ofNat 64 (a.toNat + (s.cur.sreg x.s2.num5).toNat * (x.t.bits / 8)) := by
      rw [BitVec.ofNat_add, BitVec.ofNat_mul, BitVec.ofNat_toNat, BitVec.ofNat_toNat, BitVec.setWidth_eq, BitVec.setWidth_eq]
    exact hsum ▸ wroteS_putS _ _ _

end Sys2Proof.Machine

/-! Proofs: a trap of step 4 on a state that cuts its image in two (R42, R57, R153), and a widening that R137 does not
list. -/

namespace Sys2Proof.Machine

/-! ### Step 4's trap on `tornState` (R42, R57) -/

/-- R57 step 4: a vector instruction that names a register which is not allocated traps. -/
theorem vec_unallocated {op : Nat} {x : RegForm} (sp : VSpec) {s : State} (k : State → VIn → State) {n : Nat}
    (h : badVreg (.reg op x) s.cur.vregs = some n) : vec op x sp s k = .next (trapHere 0x03 (BitVec.ofNat 64 n) s) := by
  unfold vec vecWith
  exact alloc_trap _ _ _ _ h

/-- The fields of a `VZIP` into the pair from register 31 on, whose second register does not exist. -/
def pairFrom31 : RegForm := { zeroReg with dst := .reg 31 }

theorem pairFrom31_badVreg : badVreg (.reg 0x1C5 pairFrom31) tornState.cur.vregs = some 32 := by decide

/-- The trap makes the task of `tornState` FAULTED, and the write back of its image changes a byte beside the image's
fields, as in `tornState_first_changes`. -/
theorem tornState_unallocated_changes : readByte (trapHere 0x03 32 tornState).mem 0 ≠ 0 := by decide +kernel

/-- Refutes O29: on `tornState` a `VZIP` into registers 31 and 32 traps, and a byte of memory changes that `Trapped` says
stays. The statement lacks a hypothesis that rules out cached pages smaller than a line, as O46 and O47 do. -/
theorem not_vectorTraps : ¬ Obligations.VectorTraps := by
  unfold Obligations.VectorTraps
  rintro ⟨h, -⟩
  obtain ⟨u, hu, -, -, himage⟩ := h (.vzip pairFrom31) _ tornState 32 rfl pairFrom31_badVreg
  have hexec : execVzip pairFrom31 tornState = .next (trapHere 0x03 32 tornState) := vec_unallocated _ _ pairFrom31_badVreg
  cases hu.symm.trans hexec
  exact tornState_unallocated_changes (himage _ ⟨.inr rfl, rfl, rfl, rfl⟩ 0 tornState_keeps_first)

/-! ### A widening from i64 to i8 (R137, R194) -/

/-- What a vector instruction's frame says of the error marks of the TCM that its stream lies in. -/
theorem VecFrame.tcmBad_eq {op : Nat} {x : RegForm} {g : Nat} {s t : State} {c : Context} (h : VecFrame op x g s t)
    (hd : Opnd.isStream x.dst = true) (hc : s.ctx? s.curCtx = some c) :
    let lo := coreKey s.cur.cluster s.cur.core + s.cur.qaddr (Opnd.q x.dst)
    let writes (k : Nat) : Bool := decide (lo ≤ k ∧ k < lo + 64 * g) && writesByte op x s (k - lo)
    (t.ctx? s.curCtx).map (·.tcmBad) =
      some (c.tcmBad.filter fun l => !(List.range 64).all fun i => writes (64 * l + i)) := by
  intro lo writes
  obtain ⟨f, ht, -⟩ := h.inTcm hd
  have hctx := (congrArg (fun u : State => u.ctx? s.curCtx) ht).trans (State.ctx?_modCtx s s.curCtx _ fun _ => rfl)
  dsimp only at hctx
  rw [hctx, hc]
  rfl

/-- The fields of a `VWIDEN` from i64 to i8, a pair that R137 does not list and the decoder refuses, into the stream at
pointer 0, for the elements whose predicate bit in p1 is clear. -/
def narrowing : RegForm := { zeroReg with g := ⟨true, 1⟩, dst := .str 0, s3 := .reg 3 }

/-- A context whose first line of TCM is marked with an error. -/
def markedContext : Context := { fetchContext with tcmBad := [0] }

/-- The machine with that context; every register of its one thread is zero. -/
def markedState : State := { State.reset with
  cur := { Thread.blank with nthreads := 1 }
  parts := [{ newPartition 0 1 [0] 0 30 0x4001 0 with ctxs := [markedContext] }] }

theorem markedState_ctx : markedState.ctx? markedState.curCtx = some markedContext := rfl

theorem markedState_ready : VecReady 0x185 narrowing markedState where
  alloc := rfl
  fit := by
    intro o ho hs
    obtain rfl | rfl | rfl | rfl : o = .str 0 ∨ o = .reg 0 ∨ o = .reg 0 ∨ o = .reg 3 := by simpa [narrowing, zeroReg] using ho
    · decide
    all_goals cases hs
  once := by decide
  free r := by simp [State.spanHeld, markedState_ctx, Context.heldSpans, markedContext, fetchContext, newContext]
  home := ⟨markedContext, rfl⟩

/-- The eight elements of the source fill eight bytes of the line, so that the mark stays. -/
theorem markedState_widen : ∃ u, exec (.vwiden narrowing) markedState = .next u ∧
    (u.ctx? markedState.curCtx).map (·.tcmBad) = some [0] := ⟨_, rfl, by decide +kernel⟩

/-- Refutes O24: on `markedState` the statement has a `VWIDEN` from i64 to i8 clear the error mark of the stream's line:
`writesByte` takes each of the 64 places of an i8 for an element, and one past the source's eight elements is active under an
inverted guard. The model writes eight bytes and the mark stays (R194). The statement lacks the hypothesis that the word's
fields are accepted; under R137's pairs both have as many elements. -/
theorem not_vectorsComplete : ¬ Obligations.VectorsComplete := by
  unfold Obligations.VectorsComplete
  intro h
  obtain ⟨u, hu, hframe⟩ := h (0x185, .vwiden) (by simp [vectorWriters]) narrowing markedState markedState_ready (by simp)
  obtain ⟨v, hv, hmark⟩ := markedState_widen
  cases hu.symm.trans hv
  exact absurd (hmark.symm.trans (hframe.tcmBad_eq rfl markedState_ctx)) (by decide +kernel)

end Sys2Proof.Machine

/-! Proofs: rounding a magnitude to a whole count of a unit, and the grid of a float format's codes (R100, R107). -/

namespace Sys2Proof.Machine

/-! ### One rounding to a whole count -/

/-- The rounding mode of a value of %rmode[1:0] (R84). -/
def rmOf : Nat → RM
  | 0 => .rne
  | 1 => .rz
  | 2 => .rd
  | _ => .ru

theorem ofBits_eq (b : BitVec 64) : RM.ofBits b = rmOf (b.toNat % 4) := by
  unfold RM.ofBits rmOf
  rfl

/-- A magnitude that stands a above one grid point and b below the next stays at the lower one. -/
def Stays (mode : RM) (neg odd : Bool) (a b : Rat) : Prop :=
  match mode with
  | .rne => a < b ∨ a = b ∧ odd = false
  | .rz => True
  | .rd => neg = true → a = 0
  | .ru => neg = false → a = 0
  | .sr _ => True

/-- The magnitude goes up to the next grid point. -/
def Raises (mode : RM) (neg odd : Bool) (a b : Rat) : Prop :=
  match mode with
  | .rne => b < a ∨ a = b ∧ odd = true
  | .rz => False
  | .rd => neg = true ∧ a ≠ 0
  | .ru => neg = false ∧ a ≠ 0
  | .sr _ => a ≠ 0

theorem Stays.scale {mode : RM} {neg odd : Bool} {a b k : Rat} (hk : 0 < k) (h : Stays mode neg odd a b) :
    Stays mode neg odd (a * k) (b * k) := by
  cases mode with
  | rne => exact h.imp (fun h => mul_lt_mul_of_pos_right h hk) (fun h => ⟨by rw [h.1], h.2⟩)
  | rz => trivial
  | rd => exact fun hn => by rw [h hn, zero_mul]
  | ru => exact fun hn => by rw [h hn, zero_mul]
  | sr u => trivial

theorem Raises.scale {mode : RM} {neg odd : Bool} {a b k : Rat} (hk : 0 < k) (h : Raises mode neg odd a b) :
    Raises mode neg odd (a * k) (b * k) := by
  cases mode with
  | rne => exact h.imp (fun h => mul_lt_mul_of_pos_right h hk) (fun h => ⟨by rw [h.1], h.2⟩)
  | rz => exact h
  | rd => exact ⟨h.1, mul_ne_zero h.2 hk.ne'⟩
  | ru => exact ⟨h.1, mul_ne_zero h.2 hk.ne'⟩
  | sr u => exact mul_ne_zero h hk.ne'

/-- The magnitude x, from lo on and below hi, rounds to hi if `up` and to lo if not; `ix` says that it is not lo. -/
structure RoundsInto (mode : RM) (neg odd : Bool) (lo hi x : Rat) (up ix : Bool) : Prop where
  le : lo ≤ x
  lt : x < hi
  stays : up = false → Stays mode neg odd (x - lo) (hi - x)
  raises : up = true → Raises mode neg odd (x - lo) (hi - x)
  inexact : ix = decide (x ≠ lo)

theorem RoundsInto.scale {mode : RM} {neg odd : Bool} {lo hi x k : Rat} {up ix : Bool} (hk : 0 < k)
    (h : RoundsInto mode neg odd lo hi x up ix) : RoundsInto mode neg odd (lo * k) (hi * k) (x * k) up ix where
  le := mul_le_mul_of_nonneg_right h.le hk.le
  lt := mul_lt_mul_of_pos_right h.lt hk
  stays hu := by simpa only [sub_mul] using (h.stays hu).scale hk
  raises hu := by simpa only [sub_mul] using (h.raises hu).scale hk
  inexact := by rw [h.inexact]; simp [hk.ne']

/-- A magnitude at a grid point is exact. -/
theorem RoundsInto.of_eq (mode : RM) (neg odd : Bool) {lo hi : Rat} (h : lo < hi) :
    RoundsInto mode neg odd lo hi lo false false where
  le := le_refl _
  lt := h
  stays _ := by
    cases mode with
    | rne => exact .inl (by rw [sub_self]; linarith)
    | rz => trivial
    | rd => exact fun _ => sub_self _
    | ru => exact fun _ => sub_self _
    | sr u => trivial
  raises h := nomatch h
  inexact := by simp

theorem RM.up_raises {mode : RM} {neg odd : Bool} {r d : Nat} (h : mode.up neg odd r d = true) :
    Raises mode neg odd (r : Rat) (d - r : Rat) := by
  cases mode with
  | rne =>
    simp only [RM.up, Bool.or_eq_true, decide_eq_true_eq, Bool.and_eq_true, beq_iff_eq] at h
    rcases h with h | ⟨h, ho⟩
    · exact .inl (by have : (d : Rat) < 2 * r := by exact_mod_cast h
                     linarith)
    · exact .inr ⟨by have : 2 * (r : Rat) = d := by exact_mod_cast h
                     linarith, ho⟩
  | rz => simp [RM.up] at h
  | rd => simpa [RM.up, Raises] using h
  | ru => simpa [RM.up, Raises] using h
  | sr u =>
    simp only [RM.up, Bool.and_eq_true, bne_iff_ne] at h
    simpa [Raises] using h.1

theorem RM.up_stays {mode : RM} {neg odd : Bool} {r d : Nat} (h : mode.up neg odd r d = false) :
    Stays mode neg odd (r : Rat) (d - r : Rat) := by
  cases mode with
  | rne =>
    simp only [RM.up, Bool.or_eq_false_iff, decide_eq_false_iff_not, not_lt, Bool.and_eq_false_iff, beq_eq_false_iff_ne] at h
    obtain ⟨hle, hor⟩ := h
    have hle' : 2 * (r : Rat) ≤ d := by exact_mod_cast hle
    rcases eq_or_lt_of_le hle' with heq | hlt
    · have : 2 * r = d := by exact_mod_cast heq
      exact .inr ⟨by linarith, hor.resolve_left (fun hn => hn this)⟩
    · exact .inl (by linarith)
  | rz => trivial
  | rd => intro hn; simpa [RM.up, hn] using h
  | ru => intro hn; simpa [RM.up, hn] using h
  | sr u => trivial

/-- m·2^e in units of 2^lsb: the whole count below it, and whether the mode goes up from there. -/
theorem roundAt_spec (mode : RM) (neg : Bool) (m : Nat) (e lsb : Int) : ∃ (q : Nat) (up : Bool),
    (roundAt mode neg m e lsb).1 = q + up.toNat ∧
      RoundsInto mode neg (q % 2 == 1) q (q + 1) (m * 2 ^ (e - lsb)) up (roundAt mode neg m e lsb).2 := by
  unfold roundAt
  split
  case isTrue h =>
    refine ⟨m * 2 ^ (e - lsb).toNat, false, rfl, ?_⟩
    have hx : (m : Rat) * 2 ^ (e - lsb) = (m * 2 ^ (e - lsb).toNat : Nat) := by
      conv_lhs => rw [← Int.toNat_of_nonneg (show 0 ≤ e - lsb by omega), zpow_natCast]
      push_cast; rfl
    rw [hx]
    exact .of_eq _ _ _ (lt_add_one _)
  case isFalse h =>
    have hd : (0 : Rat) < (2 ^ (lsb - e).toNat : Nat) := by positivity
    have hx : (m : Rat) * 2 ^ (e - lsb) = m / (2 ^ (lsb - e).toNat : Nat) := by
      rw [show e - lsb = -((lsb - e).toNat : Int) by omega, zpow_neg, zpow_natCast, div_eq_mul_inv]
      push_cast; rfl
    rw [hx]
    generalize hdd : 2 ^ (lsb - e).toNat = d at *
    have hd0 : 0 < d := by exact_mod_cast hd
    have hm : (m : Rat) = (m / d : Nat) * d + (m % d : Nat) := by exact_mod_cast (Nat.div_add_mod' m d).symm
    have hr : ((m % d : Nat) : Rat) < d := by exact_mod_cast Nat.mod_lt m hd0
    have hlo : (m : Rat) / d - (m / d : Nat) = (m % d : Nat) * (d : Rat)⁻¹ := by
      rw [div_eq_mul_inv]; conv_lhs => rw [hm]
      field_simp; ring
    have hhi : ((m / d : Nat) + 1 : Rat) - m / d = (d - (m % d : Nat)) * (d : Rat)⁻¹ := by
      rw [sub_mul, mul_inv_cancel₀ hd.ne']; linarith
    have hinv := inv_pos.mpr hd
    refine ⟨m / d, mode.up neg (m / d % 2 == 1) (m % d) d, by dsimp only; cases mode.up neg (m / d % 2 == 1) (m % d) d <;> rfl, ?_⟩
    constructor
    · have : 0 ≤ ((m % d : Nat) : Rat) * (d : Rat)⁻¹ := by positivity
      linarith
    · have : 0 < ((d : Rat) - (m % d : Nat)) * (d : Rat)⁻¹ := mul_pos (by linarith) hinv
      linarith
    · intro hu
      rw [hlo, hhi]
      exact (RM.up_stays hu).scale hinv
    · intro hu
      rw [hlo, hhi]
      exact (RM.up_raises hu).scale hinv
    · have hne : (m : Rat) / d ≠ (m / d : Nat) ↔ m % d ≠ 0 := by
        rw [← sub_ne_zero, hlo, ne_eq, mul_eq_zero, or_iff_left hinv.ne', Nat.cast_eq_zero]
      rw [Bool.eq_iff_iff, bne_iff_ne, decide_eq_true_eq, hne]

/-! ### The grid of a format's magnitudes (R100) -/

/-- How many units of its least exponent the magnitude code c of a format with M bits of mantissa stands for. -/
def grid (M c : Nat) : Nat := ((if c / 2 ^ M = 0 then 0 else 2 ^ M) + c % 2 ^ M) * 2 ^ (c / 2 ^ M - 1)

theorem grid_field (M q r : Nat) (h : r < 2 ^ M) :
    grid M (q * 2 ^ M + r) = ((if q = 0 then 0 else 2 ^ M) + r) * 2 ^ (q - 1) := by
  have hq : (q * 2 ^ M + r) / 2 ^ M = q := by
    rw [mul_comm, Nat.mul_add_div (by positivity), Nat.div_eq_of_lt h, add_zero]
  have hr : (q * 2 ^ M + r) % 2 ^ M = r := by rw [mul_comm, Nat.mul_add_mod, Nat.mod_eq_of_lt h]
  rw [grid, hq, hr]

/-- A count q of 2^j units, with a full mantissa unless j is 0. -/
theorem grid_count (M j q : Nat) (hq : q ≤ 2 ^ (M + 1)) (hj : j = 0 ∨ 2 ^ M ≤ q) : grid M (j * 2 ^ M + q) = q * 2 ^ j := by
  have hp : 2 ^ (M + 1) = 2 ^ M + 2 ^ M := by omega
  rcases Nat.lt_or_ge q (2 ^ M) with h | h
  · obtain rfl : j = 0 := by omega
    simpa using grid_field M 0 q h
  · rcases Nat.lt_or_ge q (2 ^ (M + 1)) with h2 | h2
    · have := grid_field M (j + 1) (q - 2 ^ M) (by omega)
      rwa [if_neg (by omega), Nat.add_sub_cancel, add_mul, one_mul, show j * 2 ^ M + 2 ^ M + (q - 2 ^ M) = j * 2 ^ M + q by omega,
        show 2 ^ M + (q - 2 ^ M) = q by omega] at this
    · obtain rfl : q = 2 ^ (M + 1) := by omega
      have := grid_field M (j + 2) 0 (by positivity)
      rw [if_neg (by omega), add_zero, add_zero, show j + 2 - 1 = j + 1 by omega, add_mul] at this
      rw [hp, show j * 2 ^ M + (2 ^ M + 2 ^ M) = j * 2 ^ M + 2 * 2 ^ M by omega, this, pow_succ]
      ring

theorem grid_succ (M c : Nat) : grid M (c + 1) = grid M c + 2 ^ (c / 2 ^ M - 1) := by
  have hr : c % 2 ^ M < 2 ^ M := Nat.mod_lt _ (by positivity)
  have hc : c / 2 ^ M * 2 ^ M + c % 2 ^ M = c := Nat.div_add_mod' c (2 ^ M)
  generalize c / 2 ^ M = q at hc
  generalize c % 2 ^ M = r at hr hc
  rw [← hc, grid_field M q r hr]
  rcases Nat.lt_or_ge (r + 1) (2 ^ M) with h | h
  · rw [show q * 2 ^ M + r + 1 = q * 2 ^ M + (r + 1) by omega, grid_field M q (r + 1) h]
    ring
  · have h0 := grid_field M (q + 1) 0 (by positivity)
    rw [if_neg (by omega), add_zero, add_zero, Nat.add_sub_cancel, add_mul, one_mul] at h0
    rw [show q * 2 ^ M + r + 1 = q * 2 ^ M + 2 ^ M by omega, h0]
    cases q with
    | zero => simp only [if_true, Nat.zero_sub, pow_zero]; omega
    | succ q =>
      rw [if_neg (by omega), Nat.add_sub_cancel, pow_succ, show r = 2 ^ M - 1 by omega]
      have : 1 ≤ 2 ^ M := Nat.one_le_two_pow
      generalize 2 ^ M = p at *
      obtain ⟨p, rfl⟩ := Nat.exists_eq_add_of_le this
      rw [Nat.add_sub_cancel_left]
      ring

theorem grid_strictMono (M : Nat) : StrictMono (grid M) :=
  strictMono_nat_of_lt_succ fun c => by rw [grid_succ]; exact Nat.lt_add_of_pos_right (by positivity)

@[simp] theorem grid_zero (M : Nat) : grid M 0 = 0 := by simp [grid]

end Sys2Proof.Machine

/-! Proofs: the codes of a float type, their numbers, and what the decoder reads from them (R100). -/

namespace Sys2Proof.Machine

/-! ### The format of a type -/

/-- The float types (R55). -/
theorem float_cases {t : Ty} (ht : t.isFloat = true) :
    t = .fp32 ∨ t = .bf16 ∨ t = .fp16 ∨ t = .e4m3 ∨ t = .e5m2 ∨ t = .e2m1 := by
  revert ht
  cases t <;> decide

theorem fmtOf_mant (t : Ty) : (fmtOf t).mant = mantBits t := by cases t <;> rfl

theorem fmtOf_bias {t : Ty} (ht : t.isFloat = true) : (fmtOf t).bias = biasOf t := by
  obtain rfl | rfl | rfl | rfl | rfl | rfl := float_cases ht <;> decide

theorem fmtOf_maxFin {t : Ty} (ht : t.isFloat = true) : (fmtOf t).maxFin = topCode t := by
  obtain rfl | rfl | rfl | rfl | rfl | rfl := float_cases ht <;> decide

theorem fmtOf_signBit {t : Ty} (ht : t.isFloat = true) : (fmtOf t).signBit = 2 ^ (t.bits - 1) := by
  obtain rfl | rfl | rfl | rfl | rfl | rfl := float_cases ht <;> rfl

/-- The exponent of the unit of a type's grid. -/
def unitExp (t : Ty) : Int := 1 - biasOf t - mantBits t

theorem fmtOf_lsbMin {t : Ty} (ht : t.isFloat = true) : (fmtOf t).lsbMin = unitExp t := by
  rw [Fmt.lsbMin, Fmt.emin, fmtOf_bias ht, fmtOf_mant, unitExp]

theorem mantBits_pos (t : Ty) : 0 < mantBits t := by cases t <;> decide

theorem topCode_lt {t : Ty} (ht : t.isFloat = true) : topCode t < 2 ^ (t.bits - 1) := by
  obtain rfl | rfl | rfl | rfl | rfl | rfl := float_cases ht <;> decide

/-- The exponent field of the largest code is not zero. -/
theorem topCode_field {t : Ty} (ht : t.isFloat = true) : 1 ≤ topCode t / 2 ^ mantBits t := by
  obtain rfl | rfl | rfl | rfl | rfl | rfl := float_cases ht <;> decide

theorem two_pow_bits (t : Ty) : 2 ^ t.bits = 2 * 2 ^ (t.bits - 1) := by
  rw [← pow_succ', Nat.sub_add_cancel t.bits_pos]

/-! ### The parts of a code -/

/-- The sign of a number. -/
def sgn (neg : Bool) : Rat := if neg then -1 else 1

theorem magnitude_lt (t : Ty) (r : BitVec t.bits) : magnitude t r < 2 ^ (t.bits - 1) := Nat.mod_lt _ (by positivity)

/-- The code of a sign and a magnitude. -/
def codeOf (t : Ty) (neg : Bool) (mag : Nat) : BitVec t.bits := BitVec.ofNat t.bits (mag + neg.toNat * 2 ^ (t.bits - 1))

theorem toNat_codeOf (t : Ty) (neg : Bool) {mag : Nat} (h : mag < 2 ^ (t.bits - 1)) :
    (codeOf t neg mag).toNat = mag + neg.toNat * 2 ^ (t.bits - 1) := by
  have := two_pow_bits t
  rw [codeOf, BitVec.toNat_ofNat, Nat.mod_eq_of_lt]
  cases neg
  · rw [Bool.toNat_false]; omega
  · rw [Bool.toNat_true]; omega

theorem msb_iff (t : Ty) (r : BitVec t.bits) : r.msb = decide (2 ^ (t.bits - 1) ≤ r.toNat) := BitVec.msb_eq_decide r

theorem toNat_eq (t : Ty) (r : BitVec t.bits) : r.toNat = magnitude t r + r.msb.toNat * 2 ^ (t.bits - 1) := by
  have hlt := r.isLt
  rw [two_pow_bits] at hlt
  rw [msb_iff, magnitude]
  by_cases h : 2 ^ (t.bits - 1) ≤ r.toNat
  · rw [decide_eq_true h, Bool.toNat_true, Nat.mod_eq_sub_mod h, Nat.mod_eq_of_lt (by omega)]; omega
  · rw [decide_eq_false h, Bool.toNat_false, Nat.mod_eq_of_lt (by omega)]; omega

theorem msb_codeOf (t : Ty) (neg : Bool) {mag : Nat} (h : mag < 2 ^ (t.bits - 1)) : (codeOf t neg mag).msb = neg := by
  rw [msb_iff, toNat_codeOf t neg h]
  cases neg
  · simpa using h
  · simp

theorem magnitude_codeOf (t : Ty) (neg : Bool) {mag : Nat} (h : mag < 2 ^ (t.bits - 1)) :
    magnitude t (codeOf t neg mag) = mag := by
  rw [magnitude, toNat_codeOf t neg h, Nat.add_mul_mod_self_right, Nat.mod_eq_of_lt h]

theorem codeOf_parts (t : Ty) (r : BitVec t.bits) : codeOf t r.msb (magnitude t r) = r :=
  BitVec.eq_of_toNat_eq (by rw [toNat_codeOf t _ (magnitude_lt t r), ← toNat_eq])

theorem ext_parts {t : Ty} {r r' : BitVec t.bits} (hs : r.msb = r'.msb) (hm : magnitude t r = magnitude t r') : r = r' := by
  rw [← codeOf_parts t r, hs, hm, codeOf_parts]

theorem bits_eq {t : Ty} (ht : t.isFloat = true) : t.bits - 1 = mantBits t + expBits t := by
  obtain rfl | rfl | rfl | rfl | rfl | rfl := float_cases ht <;> rfl

theorem expField_eq {t : Ty} (ht : t.isFloat = true) (r : BitVec t.bits) :
    expField t r = magnitude t r / 2 ^ mantBits t := by
  rw [expField, magnitude, bits_eq ht, pow_add, Nat.mod_mul_right_div_self]

theorem fraction_eq {t : Ty} (ht : t.isFloat = true) (r : BitVec t.bits) :
    fraction t r = magnitude t r % 2 ^ mantBits t := by
  rw [fraction, magnitude, bits_eq ht, pow_add, Nat.mod_mul_right_mod]

/-- The number a magnitude code stands for. -/
def gridVal (t : Ty) (c : Nat) : Rat := grid (mantBits t) c * 2 ^ unitExp t

theorem gridVal_strictMono (t : Ty) : StrictMono (gridVal t) := fun a b h =>
  mul_lt_mul_of_pos_right (by exact_mod_cast grid_strictMono _ h) (by positivity)

theorem gridVal_nonneg (t : Ty) (c : Nat) : 0 ≤ gridVal t c := mul_nonneg (by positivity) (by positivity)

@[simp] theorem gridVal_zero (t : Ty) : gridVal t 0 = 0 := by simp [gridVal]

theorem gridVal_eq_field (t : Ty) (c : Nat) : gridVal t c =
    ((if c / 2 ^ mantBits t = 0 then 0 else 2 ^ mantBits t) + c % 2 ^ mantBits t : Nat) *
      2 ^ (unitExp t + (max 1 (c / 2 ^ mantBits t : Nat) - 1 : Int)) := by
  rw [gridVal, grid, Nat.cast_mul, zpow_add₀ (by norm_num), mul_assoc, mul_comm (2 ^ unitExp t : Rat)]
  congr 2
  rw [Nat.cast_pow, ← zpow_natCast]
  congr 1
  omega

theorem number_eq {t : Ty} (ht : t.isFloat = true) (r : BitVec t.bits) :
    number t r = sgn r.msb * gridVal t (magnitude t r) := by
  rw [number, expField_eq ht, fraction_eq ht, gridVal_eq_field, sgn, ← mul_assoc]
  congr 2
  rw [unitExp]
  omega

theorem number_codeOf {t : Ty} (ht : t.isFloat = true) (neg : Bool) {mag : Nat} (h : mag < 2 ^ (t.bits - 1)) :
    number t (codeOf t neg mag) = sgn neg * gridVal t mag := by
  rw [number_eq ht, msb_codeOf t neg h, magnitude_codeOf t neg h]

theorem special_codeOf {t : Ty} (neg : Bool) {mag : Nat} (h : mag < 2 ^ (t.bits - 1)) :
    special t (codeOf t neg mag) = decide (topCode t < mag) := by
  rw [special, magnitude_codeOf t neg h]

theorem special_eq_false {t : Ty} {r : BitVec t.bits} : special t r = false ↔ magnitude t r ≤ topCode t := by
  rw [special, decide_eq_false_iff_not, not_lt]

/-! ### The decoder -/

theorem decode_sign {t : Ty} (ht : t.isFloat = true) (r : BitVec t.bits) :
    (r.toNat / (fmtOf t).signBit % 2 == 1) = r.msb := by
  rw [fmtOf_signBit ht, toNat_eq, Nat.add_mul_div_right _ _ (by positivity), Nat.div_eq_of_lt (magnitude_lt t r), zero_add]
  cases r.msb <;> rfl

theorem decode_magnitude {t : Ty} (ht : t.isFloat = true) (r : BitVec t.bits) :
    r.toNat % (fmtOf t).signBit = magnitude t r := by rw [fmtOf_signBit ht, magnitude]

/-- A special magnitude stands for infinity exactly if its fraction is zero, but in e4m3. -/
theorem inf_magnitude {t : Ty} (ht : t.isFloat = true) {mag : Nat} (hlt : mag < 2 ^ (t.bits - 1)) (h : topCode t < mag) :
    (fmtOf t).inf = some mag ↔ t ≠ .e4m3 ∧ mag % 2 ^ mantBits t = 0 := by
  obtain rfl | rfl | rfl | rfl | rfl | rfl := float_cases ht <;>
    simp [fmtOf, Fmt.fp32, Fmt.bf16, Fmt.fp16, Fmt.e4m3, Fmt.e5m2, Fmt.e2m1, topCode, mantBits, expBits, Ty.bits] at h hlt ⊢ <;>
    omega

theorem isNaN_eq {t : Ty} (ht : t.isFloat = true) {r : BitVec t.bits} (h : special t r = true) :
    isNaN t r = !((fmtOf t).inf == some (magnitude t r)) := by
  rw [Bool.eq_iff_iff, Bool.not_eq_true', beq_eq_false_iff_ne, ne_eq,
    inf_magnitude ht (magnitude_lt t r) (by simpa [special] using h), isNaN, h, fraction_eq ht]
  simp [imp_iff_not_or]

theorem special_of_isNaN {t : Ty} {r : BitVec t.bits} (h : isNaN t r = true) : special t r = true := by
  rw [isNaN, Bool.and_eq_true] at h
  exact h.1

theorem special_of_isInfinite {t : Ty} {r : BitVec t.bits} (h : isInfinite t r = true) : special t r = true := by
  rw [isInfinite, Bool.and_eq_true] at h
  exact h.1

/-- Every code is a NaN, an infinity or a number. -/
theorem code_cases (t : Ty) (r : BitVec t.bits) :
    (isNaN t r = true ∧ isInfinite t r = false ∧ special t r = true) ∨
      (isInfinite t r = true ∧ isNaN t r = false ∧ special t r = true) ∨
      (special t r = false ∧ isNaN t r = false ∧ isInfinite t r = false) := by
  unfold isInfinite
  cases hs : special t r
  · simp [isNaN, hs]
  · cases isNaN t r <;> simp

theorem decode_nan {t : Ty} (ht : t.isFloat = true) {r : BitVec t.bits} (h : isNaN t r = true) :
    (fmtOf t).decode r.toNat = .nan (isSignalling t r) := by
  have hs := special_of_isNaN h
  have hi := isNaN_eq ht hs
  have hsig : ((fmtOf t).sig && magnitude t r / 2 ^ ((fmtOf t).mant - 1) % 2 == 0) = isSignalling t r := by
    have hF : (fmtOf t).sig = t.isF := by
      obtain rfl | rfl | rfl | rfl | rfl | rfl := float_cases ht <;> rfl
    have hbit : magnitude t r / 2 ^ (mantBits t - 1) % 2 = r.toNat / 2 ^ (mantBits t - 1) % 2 := by
      have hb : t.bits - 1 = mantBits t - 1 + (expBits t + 1) := by have := bits_eq ht; have := mantBits_pos t; omega
      rw [magnitude, hb, pow_add, Nat.mod_mul_right_div_self, pow_succ', Nat.mod_mul_right_mod]
    rw [fmtOf_mant, hF, hbit, isSignalling, h, BitVec.getLsbD, Nat.testBit_eq_decide_div_mod_eq, Bool.and_true]
    rcases Nat.mod_two_eq_zero_or_one (r.toNat / 2 ^ (mantBits t - 1)) with h0 | h0 <;> simp [h0]
  rw [Fmt.decode]
  simp only [decode_sign ht, decode_magnitude ht, fmtOf_maxFin ht, hsig]
  rw [if_pos (by simpa [special] using hs), if_neg (by simpa [h] using hi)]

theorem decode_inf {t : Ty} (ht : t.isFloat = true) {r : BitVec t.bits} (h : isInfinite t r = true) :
    (fmtOf t).decode r.toNat = .inf r.msb := by
  have hs := special_of_isInfinite h
  have hi := isNaN_eq ht hs
  have hn : isNaN t r = false := by simpa [isInfinite, hs] using h
  rw [Fmt.decode]
  simp only [decode_sign ht, decode_magnitude ht, fmtOf_maxFin ht]
  rw [if_pos (by simpa [special] using hs), if_pos (by simpa [hn] using hi)]

theorem decode_fin {t : Ty} (ht : t.isFloat = true) {r : BitVec t.bits} (h : special t r = false) :
    ∃ (m : Nat) (e : Int), (fmtOf t).decode r.toNat = .fin r.msb m e ∧ gridVal t (magnitude t r) = m * 2 ^ e ∧
      (m = 0 ↔ isZero t r = true) := by
  have hz : isZero t r = true ↔ gridVal t (magnitude t r) = 0 := by
    rw [isZero, decide_eq_true_eq, ← gridVal_zero t, (gridVal_strictMono t).injective.eq_iff]
  have hf := gridVal_eq_field t (magnitude t r)
  rw [hz, Fmt.decode]
  simp only [decode_sign ht, decode_magnitude ht, fmtOf_maxFin ht, fmtOf_lsbMin ht, fmtOf_mant]
  rw [if_neg (by simpa [special] using h)]
  have hzero (m : Nat) (e : Int) : m = 0 ↔ (m : Rat) * 2 ^ e = 0 := by
    rw [mul_eq_zero, or_iff_left (by positivity), Nat.cast_eq_zero]
  by_cases he : magnitude t r / 2 ^ mantBits t = 0
  · rw [he] at hf ⊢
    refine ⟨_, _, if_pos rfl, ?_, ?_⟩
    · rw [hf]; simp
    · rw [hf, hzero _ (unitExp t)]; simp
  · rw [if_neg he] at hf
    generalize magnitude t r / 2 ^ mantBits t = q at he hf ⊢
    have hexp : unitExp t + ((max 1 q : Nat) - 1 : Int) = unitExp t + q - 1 := by omega
    rw [hexp] at hf
    exact ⟨_, _, if_neg (by simpa using he), hf, by rw [hf]; exact hzero _ _⟩

end Sys2Proof.Machine

/-! Proofs: one rounding of an exact number to a float type, with its flags (R106, R107, R111). -/

namespace Sys2Proof.Machine

/-! ### The directions of R107 -/

theorem sgn_mul_self (neg : Bool) : sgn neg * sgn neg = 1 := by cases neg <;> norm_num [sgn]

theorem abs_sgn_mul (neg : Bool) (x : Rat) : |sgn neg * x| = |x| := by cases neg <;> simp [sgn]

theorem sgn_neg_iff (neg : Bool) {x : Rat} (hx : 0 < x) : decide (sgn neg * x < 0) = neg := by
  cases neg <;> simp [sgn, hx, hx.le]

/-- Does a mode of R84 go away from zero for a sign? -/
def toward (n : Nat) (neg : Bool) : Bool := n == 2 && neg || n == 3 && !neg

theorem towardSign_sgn (n : Nat) (neg : Bool) {x : Rat} (hx : 0 < x) : towardSign n (sgn neg * x) = toward n neg := by
  rw [towardSign, toward]
  cases neg <;> simp [sgn, hx, hx.le]

/-- When the modes of R84 leave the lower grid point. -/
theorem RoundsInto.up_iff {n : Nat} (hn : n < 4) {neg odd : Bool} {lo hi x : Rat} {up ix : Bool}
    (h : RoundsInto (rmOf n) neg odd lo hi x up ix) : up = true ↔
      if n = 0 then hi - x < x - lo ∨ x - lo = hi - x ∧ odd = true else toward n neg = true ∧ lo < x := by
  have hle := h.le
  have hs := h.stays
  have hr := h.raises
  have hne : x - lo ≠ 0 ↔ lo < x := by rw [sub_ne_zero, lt_iff_le_and_ne, and_iff_right hle, ne_comm]
  match n, hn with
  | 0, _ =>
    rw [if_pos rfl]
    refine ⟨hr, fun hx => ?_⟩
    by_contra hu
    rcases hs (by simpa using hu) with hs | ⟨hs, ho⟩
    · rcases hx with hx | hx <;> linarith
    · rcases hx with hx | hx
      · linarith
      · simp [hx.2] at ho
  | 1, _ =>
    have : up ≠ true := hr
    simpa [toward] using this
  | 2, _ =>
    simp only [rmOf, Raises, Stays, hne] at hr hs
    cases up <;> cases neg <;> simp_all [toward, sub_eq_zero]
  | 3, _ =>
    simp only [rmOf, Raises, Stays, hne] at hr hs
    cases up <;> cases neg <;> simp_all [toward, sub_eq_zero]

/-- A magnitude that goes up was not at the grid point. -/
theorem RoundsInto.lt_of_up {mode : RM} {neg odd : Bool} {lo hi x : Rat} {up ix : Bool}
    (h : RoundsInto mode neg odd lo hi x up ix) (hu : up = true) : lo < x := by
  refine lt_of_le_of_ne h.le fun heq => ?_
  have hr := h.raises hu
  have hlt := h.lt
  subst heq
  cases mode with
  | rne => rcases hr with hr | hr <;> linarith
  | rz => exact hr
  | rd => exact hr.2 (sub_self _)
  | ru => exact hr.2 (sub_self _)
  | sr u => exact hr (sub_self _)

/-! ### The step above a code and the largest code -/

theorem gridVal_succ (t : Ty) (c : Nat) : gridVal t (c + 1) = gridVal t c + 2 ^ (unitExp t + (c / 2 ^ mantBits t - 1 : Nat)) := by
  rw [gridVal, gridVal, grid_succ, Nat.cast_add, add_mul, zpow_add₀ (by norm_num), zpow_natCast, Nat.cast_pow, Nat.cast_ofNat,
    mul_comm (2 ^ unitExp t : Rat) (2 ^ _)]

theorem number_largest {t : Ty} (ht : t.isFloat = true) : number t (largest t false) = gridVal t (topCode t) := by
  have := number_codeOf ht false (topCode_lt ht)
  rwa [sgn, if_neg (by decide), one_mul] at this

/-- R107's threshold is the next point of the grid above the largest code. -/
theorem overflows_eq {t : Ty} (ht : t.isFloat = true) (n : Nat) (e : Rat) : overflows t n e ↔
    if n = 0 then if t = .e4m3 then gridVal t (topCode t + 1) - |e| < |e| - gridVal t (topCode t)
        else gridVal t (topCode t + 1) - |e| ≤ |e| - gridVal t (topCode t)
      else if towardSign n e = true then gridVal t (topCode t) < |e| else gridVal t (topCode t + 1) ≤ |e| := by
  have hstep : gridVal t (topCode t) + 2 ^ ((topCode t / 2 ^ mantBits t : Nat) - biasOf t - mantBits t) =
      gridVal t (topCode t + 1) := by
    rw [gridVal_succ]
    congr 2
    have := topCode_field ht
    generalize topCode t / 2 ^ mantBits t = q at *
    rw [unitExp]
    omega
  unfold overflows
  simp only [number_largest ht]
  rw [hstep]
  split
  · split <;> constructor <;> intro h <;> linarith
  · rfl

theorem odd_topCode {t : Ty} (ht : t.isFloat = true) : (topCode t % 2 == 1) = decide (t ≠ .e4m3) := by
  obtain rfl | rfl | rfl | rfl | rfl | rfl := float_cases ht <;> decide

/-- The rounded magnitude exceeds the largest finite value exactly if its code does. -/
theorem overflows_iff {t : Ty} (ht : t.isFloat = true) {n : Nat} (hn : n < 4) {neg : Bool} {x : Rat} {c : Nat} {up ix : Bool}
    (hx : 0 < x) (h : RoundsInto (rmOf n) neg (c % 2 == 1) (gridVal t c) (gridVal t (c + 1)) x up ix) :
    overflows t n (sgn neg * x) ↔ topCode t < c + up.toNat := by
  have hmono := (gridVal_strictMono t).monotone
  have htop := gridVal_strictMono t (Nat.lt_succ_self (topCode t))
  have hle := h.le
  have hlt := h.lt
  rw [overflows_eq ht, towardSign_sgn n neg hx, abs_sgn_mul, abs_of_pos hx]
  rcases Nat.lt_trichotomy c (topCode t) with hc | rfl | hc
  · have hc1 : gridVal t (c + 1) ≤ gridVal t (topCode t) := hmono hc
    have hnot : ¬topCode t < c + up.toNat := by have := Bool.toNat_le up; omega
    refine iff_of_false (fun hx => ?_) hnot
    split at hx
    · split at hx <;> linarith
    · split at hx <;> linarith
  · have hup := h.up_iff hn
    have hcode : topCode t < topCode t + up.toNat ↔ up = true := by cases up <;> simp
    rw [hcode, hup]
    split
    · rw [odd_topCode ht, decide_eq_true_eq]
      by_cases h4 : t = .e4m3
      · rw [if_pos h4, or_iff_left (fun hx => hx.2 h4)]
      · rw [if_neg h4, le_iff_lt_or_eq, eq_comm (a := gridVal t (topCode t + 1) - x)]
        simp [h4]
    · split
      case isTrue hd => exact (and_iff_right hd).symm
      case isFalse hd => exact iff_of_false (not_le.mpr hlt) (fun hx => hd hx.1)
  · have hc1 : gridVal t (topCode t + 1) ≤ gridVal t c := hmono hc
    refine iff_of_true ?_ (Nat.lt_of_lt_of_le hc (Nat.le_add_right _ _))
    split
    · split <;> linarith
    · split <;> linarith

/-! ### A result within the range -/

/-- Two codes of a grid have no code between them. -/
theorem gridVal_dichotomy (t : Ty) (c c' : Nat) : gridVal t c' ≤ gridVal t c ∨ gridVal t (c + 1) ≤ gridVal t c' := by
  rcases Nat.lt_or_ge c c' with h | h
  · exact .inr ((gridVal_strictMono t).monotone h)
  · exact .inl ((gridVal_strictMono t).monotone h)

/-- A number in units of a sign lies at or below one grid point, or at or above the next. -/
theorem number_dichotomy {t : Ty} (ht : t.isFloat = true) (neg : Bool) (r : BitVec t.bits) :
    ∃ y, number t r = sgn neg * y ∧ ∀ c, y ≤ gridVal t c ∨ gridVal t (c + 1) ≤ y := by
  refine ⟨sgn neg * number t r, by rw [← mul_assoc, sgn_mul_self, one_mul], fun c => ?_⟩
  have hn := gridVal_nonneg t (magnitude t r)
  have hc := gridVal_nonneg t c
  rw [number_eq ht, ← mul_assoc]
  by_cases h : r.msb = neg
  · rw [h, sgn_mul_self, one_mul]
    exact gridVal_dichotomy t c _
  · refine .inl (le_trans ?_ hc)
    have hs : sgn neg * sgn r.msb = -1 := by
      revert h
      cases r.msb <;> cases neg <;> norm_num [sgn]
    rw [hs]
    linarith

/-- What R107 asks of a magnitude x between two neighbours lo and hi, against any other grid point y: the nearest one. -/
theorem nearest_of_neighbours {lo hi x N y : Rat} (hlo : lo ≤ x) (hx : x < hi) (hy : y ≤ lo ∨ hi ≤ y)
    (hN : N = lo ∧ x - lo ≤ hi - x ∨ N = hi ∧ hi - x ≤ x - lo) :
    |N - x| ≤ |y - x| ∧ (|N - x| = |y - x| → y ≠ N → x - lo = hi - x) := by
  have hNx : |N - x| = min (x - lo) (hi - x) := by
    rcases hN with ⟨rfl, h⟩ | ⟨rfl, h⟩
    · rw [min_eq_left h, abs_sub_comm, abs_of_nonneg (by linarith)]
    · rw [min_eq_right h, abs_of_nonneg (by linarith)]
  rw [hNx]
  have h1 := min_le_left (x - lo) (hi - x)
  have h2 := min_le_right (x - lo) (hi - x)
  rcases hy with hy | hy
  · rw [abs_sub_comm, abs_of_nonneg (by linarith)]
    refine ⟨by linarith, fun heq hne => ?_⟩
    obtain ⟨rfl, h⟩ | ⟨rfl, h⟩ := hN
    · exact absurd (by linarith) hne
    · linarith
  · rw [abs_of_nonneg (by linarith)]
    refine ⟨by linarith, fun heq hne => ?_⟩
    obtain ⟨rfl, h⟩ | ⟨rfl, h⟩ := hN
    · linarith
    · exact absurd (by linarith) hne

/-- The flags of a result within the range: inexact, and underflow if it is tiny too (R111). -/
def withinFlags (ix tn : Bool) : Flags := Flags.when ix Fl.nx ||| Flags.when (ix && tn) Fl.uf

theorem lsb_codeOf {t : Ty} (ht : t.isFloat = true) (neg : Bool) {mag : Nat} (h : mag < 2 ^ (t.bits - 1)) :
    (codeOf t neg mag).getLsbD 0 = decide (mag % 2 = 1) := by
  have hb : 2 ∣ 2 ^ (t.bits - 1) := dvd_pow_self 2 (by rw [bits_eq ht]; have := mantBits_pos t; omega)
  rw [BitVec.getLsbD, toNat_codeOf t neg h, Nat.testBit_eq_decide_div_mod_eq, pow_zero, Nat.div_one,
    Nat.add_mod, Nat.mod_eq_zero_of_dvd (hb.mul_left _), add_zero, Nat.mod_mod]

/-- A magnitude that is not strictly between the grid point of a code and the next one's. -/
def OffGap (t : Ty) (c : Nat) (y : Rat) : Prop := y ≤ gridVal t c ∨ gridVal t (c + 1) ≤ y

/-- A point at or below one that lies before the next code's point lies at or below the code's. -/
theorem OffGap.le_lower {t : Ty} {c : Nat} {x y : Rat} (hoff : OffGap t c y) (hyx : y ≤ x) (hhi : x < gridVal t (c + 1)) :
    y ≤ gridVal t c := by
  rcases hoff with h | h <;> linarith

/-- R107: the greatest number not above a signed magnitude, from the magnitudes on its side. -/
theorem greatest_below {t : Ty} (ht : t.isFloat = true) {c : Nat} {N x : Rat} (neg : Bool)
    (hpos : neg = false → N ≤ x ∧ ∀ y, OffGap t c y → y ≤ x → y ≤ N)
    (hneg : neg = true → x ≤ N ∧ ∀ y, OffGap t c y → x ≤ y → N ≤ y) :
    sgn neg * N ≤ sgn neg * x ∧ ∀ r : BitVec t.bits, number t r ≤ sgn neg * x → number t r ≤ sgn neg * N := by
  cases neg with
  | false =>
    obtain ⟨hle, hmax⟩ := hpos rfl
    refine ⟨by simpa [sgn] using hle, fun r hr => ?_⟩
    obtain ⟨y, hy, hoff⟩ := number_dichotomy ht false r
    simp only [hy, sgn, Bool.false_eq_true, if_false, one_mul] at hr ⊢
    exact hmax y (hoff c) hr
  | true =>
    obtain ⟨hge, hmin⟩ := hneg rfl
    refine ⟨by simpa [sgn] using hge, fun r hr => ?_⟩
    obtain ⟨y, hy, hoff⟩ := number_dichotomy ht true r
    simp only [hy, sgn, if_true, neg_mul, one_mul, neg_le_neg_iff] at hr ⊢
    exact hmin y (hoff c) hr

/-- R107: the least number not below a signed magnitude, from the magnitudes on its side. -/
theorem least_above {t : Ty} (ht : t.isFloat = true) {c : Nat} {N x : Rat} (neg : Bool)
    (hpos : neg = false → x ≤ N ∧ ∀ y, OffGap t c y → x ≤ y → N ≤ y)
    (hneg : neg = true → N ≤ x ∧ ∀ y, OffGap t c y → y ≤ x → y ≤ N) :
    sgn neg * x ≤ sgn neg * N ∧ ∀ r : BitVec t.bits, sgn neg * x ≤ number t r → sgn neg * N ≤ number t r := by
  cases neg with
  | false =>
    obtain ⟨hge, hmin⟩ := hpos rfl
    refine ⟨by simpa [sgn] using hge, fun r hr => ?_⟩
    obtain ⟨y, hy, hoff⟩ := number_dichotomy ht false r
    simp only [hy, sgn, Bool.false_eq_true, if_false, one_mul] at hr ⊢
    exact hmin y (hoff c) hr
  | true =>
    obtain ⟨hle, hmax⟩ := hneg rfl
    refine ⟨by simpa [sgn] using hle, fun r hr => ?_⟩
    obtain ⟨y, hy, hoff⟩ := number_dichotomy ht true r
    simp only [hy, sgn, if_true, neg_mul, one_mul, neg_le_neg_iff] at hr ⊢
    exact hmax y (hoff c) hr

/-- The code a magnitude rounds to stands for one of its neighbours. -/
theorem gridVal_add_toNat (t : Ty) (c : Nat) (up : Bool) :
    up = false ∧ gridVal t (c + up.toNat) = gridVal t c ∨ up = true ∧ gridVal t (c + up.toNat) = gridVal t (c + 1) := by
  cases up <;> simp

section
variable {t : Ty} {n : Nat} {neg : Bool} {x : Rat} {c : Nat} {up ix : Bool}
  (h : RoundsInto (rmOf n) neg (c % 2 == 1) (gridVal t c) (gridVal t (c + 1)) x up ix)
include h

/-- The rounded magnitude is the exact one just if the result is not inexact. -/
theorem RoundsInto.exact_iff : gridVal t (c + up.toNat) = x ↔ ix = false := by
  rw [h.inexact, decide_eq_false_iff_not, not_not]
  rcases gridVal_add_toNat t c up with ⟨hu, hN⟩ | ⟨hu, hN⟩
  · rw [hN, eq_comm]
  · rw [hN]
    exact iff_of_false h.lt.ne' (h.lt_of_up hu).ne'

/-- A directed mode away from the sign's side takes the lower neighbour. -/
theorem RoundsInto.below (hn : n < 4) (hn' : n ≠ 0) (hd : toward n neg = false) :
    gridVal t (c + up.toNat) ≤ x ∧ ∀ y, OffGap t c y → y ≤ x → y ≤ gridVal t (c + up.toNat) := by
  have hup := h.up_iff hn
  rw [if_neg hn'] at hup
  rcases gridVal_add_toNat t c up with ⟨-, hN⟩ | ⟨hu, -⟩
  · rw [hN]
    exact ⟨h.le, fun y hoff hy => hoff.le_lower hy h.lt⟩
  · simp [hup, hd] at hu

/-- A directed mode toward the sign's side takes the upper neighbour of what is not on the grid. -/
theorem RoundsInto.above (hn : n < 4) (hn' : n ≠ 0) (hd : toward n neg = true) :
    x ≤ gridVal t (c + up.toNat) ∧ ∀ y, OffGap t c y → x ≤ y → gridVal t (c + up.toNat) ≤ y := by
  have hup := h.up_iff hn
  rw [if_neg hn'] at hup
  rcases gridVal_add_toNat t c up with ⟨hu, hN⟩ | ⟨hu, hN⟩
  · have : ¬gridVal t c < x := by simpa [hu, hd] using hup
    rw [hN]
    exact ⟨by linarith, fun y _ hy => by linarith [h.le]⟩
  · have := (hup.mp hu).2
    rw [hN]
    exact ⟨h.lt.le, fun y hoff hy => by rcases hoff with hoff | hoff <;> linarith⟩

/-- R107, mode 0: no other grid point is nearer, and one as near leaves an even code. -/
theorem RoundsInto.nearest (hn : n = 0) {y : Rat} (hy : OffGap t c y) :
    |gridVal t (c + up.toNat) - x| ≤ |y - x| ∧
      (|gridVal t (c + up.toNat) - x| = |y - x| → y ≠ gridVal t (c + up.toNat) → (c + up.toNat) % 2 = 0) := by
  have hup := h.up_iff (by omega)
  rw [if_pos hn] at hup
  have hN := gridVal_add_toNat t c up
  generalize gridVal t (c + up.toNat) = N at *
  have hside : N = gridVal t c ∧ x - gridVal t c ≤ gridVal t (c + 1) - x ∨
      N = gridVal t (c + 1) ∧ gridVal t (c + 1) - x ≤ x - gridVal t c := by
    rcases hN with ⟨hu, hN⟩ | ⟨hu, hN⟩
    · exact .inl ⟨hN, by by_contra hc; exact absurd (hup.mpr (.inl (by linarith))) (by simp [hu])⟩
    · exact .inr ⟨hN, by rcases hup.mp hu with hc | hc <;> linarith⟩
  obtain ⟨hle, htie⟩ := nearest_of_neighbours h.le h.lt hy hside
  refine ⟨hle, fun heq hne => ?_⟩
  have hmid := htie heq hne
  have hodd : up = true ↔ (c % 2 == 1) = true := by
    rw [hup]
    exact ⟨fun hc => hc.elim (fun hc => by linarith) (·.2), fun hc => .inr ⟨hmid, hc⟩⟩
  cases up with
  | false =>
    have : ¬c % 2 = 1 := by simpa using hodd
    rw [Bool.toNat_false]; omega
  | true =>
    have : c % 2 = 1 := by simpa using hodd
    rw [Bool.toNat_true]; omega

end

/-- R107, R111: a magnitude that rounds to a finite code. -/
theorem roundedBy_within {t : Ty} (ht : t.isFloat = true) {n : Nat} (hn : n < 4) {neg : Bool} {x : Rat} {c : Nat}
    {up ix tn sat : Bool} (hx : 0 ≤ x)
    (h : RoundsInto (rmOf n) neg (c % 2 == 1) (gridVal t c) (gridVal t (c + 1)) x up ix)
    (hle : c + up.toNat ≤ topCode t) (hno : ¬overflows t n (sgn neg * x))
    (htn : ix = true → (tn = true ↔ tiny t n (sgn neg * x))) :
    RoundedBy sat t n (sgn neg * x) (codeOf t neg (c + up.toNat)) (withinFlags ix tn) := by
  have hlt : c + up.toNat < 2 ^ (t.bits - 1) := lt_of_le_of_lt hle (topCode_lt ht)
  have hnum := number_codeOf ht neg hlt
  have hcancel (x y : Rat) : sgn neg * x = sgn neg * y ↔ x = y :=
    ⟨fun hxy => by rw [← one_mul x, ← sgn_mul_self neg, mul_assoc, hxy, ← mul_assoc, sgn_mul_self, one_mul], fun hxy => by rw [hxy]⟩
  have hexact : number t (codeOf t neg (c + up.toNat)) = sgn neg * x ↔ ix = false := by rw [hnum, hcancel, h.exact_iff]
  constructor
  case beyond => exact fun hov => absurd hov hno
  case finite => exact fun _ => by rw [special_codeOf neg hlt, decide_eq_false_iff_not]; omega
  case nearest =>
    rintro - hzero c' -
    obtain ⟨y, hy, hoff⟩ := number_dichotomy ht neg c'
    obtain ⟨hnear, htie⟩ := h.nearest hzero (hoff c)
    have habs (z : Rat) : |sgn neg * z - sgn neg * x| = |z - x| := by rw [← mul_sub, abs_sgn_mul]
    rw [hnum, hy, habs, habs, lsb_codeOf ht neg hlt, decide_eq_false_iff_not]
    refine ⟨hnear, fun heq hne => ?_⟩
    have := htie heq fun hyN => hne (by rw [hyN])
    omega
  case zero =>
    rintro - rfl
    obtain ⟨hNx, hmax⟩ := h.below hn (by decide) (by cases neg <;> rfl)
    have hN0 := gridVal_nonneg t (c + up.toNat)
    rw [hnum, abs_sgn_mul, abs_sgn_mul, abs_of_nonneg hN0, abs_of_nonneg hx]
    refine ⟨hNx, ?_, fun c' _ _ hc' => ?_⟩
    · rw [mul_mul_mul_comm, sgn_mul_self, one_mul]
      positivity
    · rw [number_eq ht, abs_sgn_mul, abs_of_nonneg (gridVal_nonneg t _)] at hc' ⊢
      exact hmax _ (gridVal_dichotomy t c _) hc'
  case down =>
    rintro - rfl
    rw [hnum]
    obtain ⟨hbound, hbest⟩ := greatest_below ht (c := c) (N := gridVal t (c + up.toNat)) (x := x) neg
      (fun hs => h.below hn (by decide) (by rw [hs]; rfl)) (fun hs => h.above hn (by decide) (by rw [hs]; rfl))
    exact ⟨hbound, fun c' _ => hbest c'⟩
  case up =>
    rintro - rfl
    rw [hnum]
    obtain ⟨hbound, hbest⟩ := least_above ht (c := c) (N := gridVal t (c + up.toNat)) (x := x) neg
      (fun hs => h.above hn (by decide) (by rw [hs]; rfl)) (fun hs => h.below hn (by decide) (by rw [hs]; rfl))
    exact ⟨hbound, fun c' _ => hbest c'⟩
  case exact =>
    intro _ heq
    simp [withinFlags, hexact.mp heq, Flags.when]
  case inexact =>
    intro _ hne
    have hix : ix = true := by simpa using fun hix => hne (hexact.mpr hix)
    rw [← htn hix]
    cases tn <;> simp [withinFlags, hix, Flags.when, BitVec.or_comm]
  case sign =>
    intro h0 _
    have hpos : 0 < x := lt_of_le_of_ne hx fun hx0 => h0 (by rw [← hx0, mul_zero])
    rw [msb_codeOf t neg hlt, sgn_neg_iff neg hpos]

end Sys2Proof.Machine

/-! Proofs: the model's rounding is R107's (R106, R107, R109, R111). -/

namespace Sys2Proof.Machine

/-! ### The exponent of the leading bit -/

theorem log2_le {m : Nat} (hm : m ≠ 0) : 2 ^ Nat.log2 m ≤ m := (Nat.le_log2 hm).mp (le_refl _)
theorem lt_log2 {m : Nat} (hm : m ≠ 0) : m < 2 ^ (Nat.log2 m + 1) := (Nat.log2_lt hm).mp (Nat.lt_succ_self _)

/-- m·2^e in units of 2^(topExp − M) has M bits after its leading one. -/
theorem leading_bounds {m : Nat} (hm : m ≠ 0) (e lsb : Int) :
    (2 : Rat) ^ (topExp m e - lsb) ≤ m * 2 ^ (e - lsb) ∧ (m : Rat) * 2 ^ (e - lsb) < 2 ^ (topExp m e + 1 - lsb) := by
  have h1 : ((2 ^ Nat.log2 m : Nat) : Rat) ≤ m := by exact_mod_cast log2_le hm
  have h2 : (m : Rat) < (2 ^ (Nat.log2 m + 1) : Nat) := by exact_mod_cast lt_log2 hm
  have hpos : (0 : Rat) < 2 ^ (e - lsb) := by positivity
  have hp (k : Nat) : ((2 ^ k : Nat) : Rat) * 2 ^ (e - lsb) = 2 ^ (k + (e - lsb)) := by
    rw [zpow_add₀ (by norm_num), zpow_natCast, Nat.cast_pow, Nat.cast_ofNat]
  constructor
  · calc (2 : Rat) ^ (topExp m e - lsb) = (2 ^ Nat.log2 m : Nat) * 2 ^ (e - lsb) := by
          rw [hp, topExp]; congr 1; omega
      _ ≤ _ := mul_le_mul_of_nonneg_right h1 hpos.le
  · calc (m : Rat) * 2 ^ (e - lsb) < (2 ^ (Nat.log2 m + 1) : Nat) * 2 ^ (e - lsb) := mul_lt_mul_of_pos_right h2 hpos
      _ = 2 ^ (topExp m e + 1 - lsb) := by rw [hp, topExp]; congr 1; push_cast; omega

/-- With its last bit at topExp − M, the whole count has M + 1 bits. -/
theorem count_bounds {m : Nat} (hm : m ≠ 0) (e : Int) (M : Nat) {q : Nat} (hq : (q : Rat) ≤ m * 2 ^ (e - (topExp m e - M)))
    (hq1 : (m : Rat) * 2 ^ (e - (topExp m e - M)) < q + 1) : 2 ^ M ≤ q ∧ q < 2 ^ (M + 1) := by
  obtain ⟨h1, h2⟩ := leading_bounds hm e (topExp m e - M)
  rw [show topExp m e - (topExp m e - M) = (M : Int) by omega, zpow_natCast] at h1
  rw [show topExp m e + 1 - (topExp m e - M) = ((M + 1 : Nat) : Int) by omega, zpow_natCast] at h2
  constructor
  · have : (2 ^ M : Rat) < q + 1 := by linarith
    exact Nat.lt_succ_iff.mp (by exact_mod_cast this)
  · have : (q : Rat) < 2 ^ (M + 1) := by linarith
    exact_mod_cast this

/-! ### Tininess (R111) -/

/-- R111 as the model decides it: rounded with an unbounded range of exponents, below the smallest normal. -/
def tinyAfter (f : Fmt) (mode : RM) (neg : Bool) (m : Nat) (e : Int) : Bool :=
  decide (topExp (max (roundAt mode neg m e (topExp m e - f.mant)).1 1) (topExp m e - f.mant) < f.emin)

theorem log2_of_count {M q : Nat} (up : Bool) (h1 : 2 ^ M ≤ q) (h2 : q < 2 ^ (M + 1)) :
    Nat.log2 (max (q + up.toNat) 1) = if q + up.toNat = 2 ^ (M + 1) then M + 1 else M := by
  have hu := Bool.toNat_le up
  have hp : 2 ^ (M + 1) = 2 ^ M + 2 ^ M := by omega
  have h0 := Nat.one_le_two_pow (n := M)
  rw [max_eq_left (by omega), Nat.log2_eq_iff (by omega)]
  split
  · have : 2 ^ (M + 1 + 1) = 2 ^ (M + 1) + 2 ^ (M + 1) := by omega
    omega
  · omega

/-- A magnitude that a mode rounds to one below `least`, in steps of `step` there (R111). -/
def RoundsBelow (n : Nat) (neg : Bool) (least step x : Rat) : Prop :=
  if n = 0 then x < least - step / 2 else if toward n neg = true then x ≤ least - step else x < least

/-- A magnitude more than a step below the bound rounds below it in every mode. -/
theorem RoundsBelow.of_lt {n : Nat} {neg : Bool} {least step x : Rat} (hstep : 0 < step) (hx : x < least - step) :
    RoundsBelow n neg least step x := by
  unfold RoundsBelow
  split
  · linarith
  · split <;> linarith

/-- A magnitude at or above the bound rounds below it in no mode. -/
theorem RoundsBelow.not_of_le {n : Nat} {neg : Bool} {least step x : Rat} (hstep : 0 < step) (hx : least ≤ x) :
    ¬RoundsBelow n neg least step x := by
  unfold RoundsBelow
  split
  · linarith
  · split <;> linarith

/-- Multiples of a unit round below one as their numbers do. -/
theorem roundsBelow_mul {n : Nat} {neg : Bool} {least step x u : Rat} (hu : 0 < u) :
    RoundsBelow n neg (least * u) (step * u) (x * u) ↔ RoundsBelow n neg least step x := by
  unfold RoundsBelow
  rw [show least * u - step * u / 2 = (least - step / 2) * u by ring, show least * u - step * u = (least - step) * u by ring,
    mul_lt_mul_iff_left₀ hu, mul_le_mul_iff_left₀ hu, mul_lt_mul_iff_left₀ hu]

/-- In the binade below the bound, a count stays below it unless it is the last one and rounds up. -/
theorem roundsBelow_iff {M n q : Nat} (hn : n < 4) {neg : Bool} {y : Rat} {up ix : Bool} (hq2 : q < 2 ^ (M + 1))
    (h : RoundsInto (rmOf n) neg (q % 2 == 1) q (q + 1) y up ix) :
    RoundsBelow n neg (2 ^ (M + 1)) 1 y ↔ ¬(q + 1 = 2 ^ (M + 1) ∧ up = true) := by
  have hlt := h.lt
  by_cases htop : q + 1 = 2 ^ (M + 1)
  · have hcast : (q : Rat) + 1 = 2 ^ (M + 1) := by exact_mod_cast htop
    have hodd : q % 2 = 1 := by rw [pow_succ] at htop; omega
    rw [h.up_iff hn, RoundsBelow, ← hcast]
    simp only [htop, true_and, hodd]
    split
    · refine ⟨fun hx hc => ?_, fun hx => ?_⟩
      · rcases hc with hc | hc <;> linarith
      · by_contra hge
        rcases lt_or_eq_of_le (not_lt.mp hge) with hge | hge
        · exact hx (.inl (by linarith))
        · exact hx (.inr ⟨by linarith, rfl⟩)
    · cases toward n neg
      · exact iff_of_true (by simpa using hlt) (by simp)
      · simp
  · have hcast : (q : Rat) + 1 ≤ 2 ^ (M + 1) - 1 := by
      have : q + 2 ≤ 2 ^ (M + 1) := by omega
      have : (q : Rat) + 2 ≤ 2 ^ (M + 1) := by exact_mod_cast this
      linarith
    exact iff_of_true (.of_lt (by norm_num) (by linarith)) fun hc => htop hc.1

theorem tiny_iff (t : Ty) (n : Nat) (neg : Bool) {x : Rat} (hx : 0 < x) : tiny t n (sgn neg * x) ↔
    RoundsBelow n neg (2 ^ (1 - biasOf t)) (2 ^ (1 - biasOf t) / 2 ^ (mantBits t + 1)) x := by
  unfold tiny RoundsBelow
  simp only [towardSign_sgn n neg hx, abs_sgn_mul, abs_of_pos hx]
  exact and_iff_right (mul_ne_zero (by cases neg <;> simp [sgn]) hx.ne')

/-- A value two binades below the smallest normal is more than a step below it. -/
theorem lt_least_of_low {m : Nat} (hm : m ≠ 0) (e emin : Int) (M : Nat) (h : topExp m e + 1 < emin) :
    (m : Rat) * 2 ^ e < 2 ^ emin - 2 ^ emin / 2 ^ (M + 1) := by
  have h2 := (leading_bounds hm e 0).2
  rw [sub_zero, sub_zero] at h2
  have h3 : (2 : Rat) ^ (topExp m e + 1) ≤ 2 ^ (emin - 1) := zpow_le_zpow_right₀ (by norm_num) (by omega)
  have h4 : (2 : Rat) ^ (emin - 1) = 2 ^ emin / 2 := by rw [zpow_sub₀ (by norm_num), zpow_one]
  have h5 : (2 : Rat) ^ emin / 2 ^ (M + 1) ≤ 2 ^ emin / 2 := by
    apply div_le_div_of_nonneg_left (by positivity) (by norm_num)
    calc (2 : Rat) = 2 ^ 1 := by norm_num
      _ ≤ 2 ^ (M + 1) := pow_le_pow_right₀ (by norm_num) (by omega)
  linarith

theorem tinyAfter_iff {t : Ty} (ht : t.isFloat = true) {n : Nat} (hn : n < 4) (neg : Bool) {m : Nat} (hm : m ≠ 0) (e : Int) :
    tinyAfter (fmtOf t) (rmOf n) neg m e = true ↔ tiny t n (sgn neg * (m * 2 ^ e)) := by
  have hmin : (fmtOf t).emin = 1 - biasOf t := by rw [Fmt.emin, fmtOf_bias ht]
  obtain ⟨q, up, hq, hr⟩ := roundAt_spec (rmOf n) neg m e (topExp m e - mantBits t)
  obtain ⟨hq1, hq2⟩ := count_bounds hm e _ hr.le hr.lt
  rw [tiny_iff t n neg (by positivity), tinyAfter, decide_eq_true_eq, fmtOf_mant, hmin, hq, topExp, log2_of_count up hq1 hq2]
  generalize hM : mantBits t = M at *
  generalize hk : topExp m e = k at *
  generalize 1 - biasOf t = emin at *
  have hstep : (0 : Rat) < 2 ^ emin / 2 ^ (M + 1) := by positivity
  rcases lt_trichotomy (k + 1) emin with hlow | heq | hhigh
  · exact iff_of_true (by split <;> omega) (.of_lt hstep (lt_least_of_low hm e emin M (by omega)))
  · -- the binade below the smallest normal, whose counts are of steps
    have hunit : (2 : Rat) ^ emin / 2 ^ (M + 1) = 1 * 2 ^ (k - M) := by
      rw [← heq, ← zpow_natCast, ← zpow_sub₀ (by norm_num), one_mul]
      congr 1; push_cast; omega
    have hleast : (2 : Rat) ^ emin = 2 ^ (M + 1) * 2 ^ (k - M) := by rw [← one_mul (2 ^ (k - M) : Rat), ← hunit]; field_simp
    have hX : (m : Rat) * 2 ^ e = m * 2 ^ (e - (k - M)) * 2 ^ (k - M) := by
      rw [mul_assoc, ← zpow_add₀ (by norm_num)]; congr 2; omega
    rw [hunit, hleast, hX, roundsBelow_mul (by positivity), roundsBelow_iff hn hq2 hr]
    have hu : q + up.toNat = 2 ^ (M + 1) ↔ q + 1 = 2 ^ (M + 1) ∧ up = true := by
      cases up
      · simp only [Bool.toNat_false, Bool.false_eq_true, and_false, iff_false]; omega
      · simp
    rw [← hu]
    split
    case isTrue hc => exact iff_of_false (by push_cast; omega) (not_not.mpr hc)
    case isFalse hc => exact iff_of_true (by omega) hc
  · -- a normal value
    have hge : (2 : Rat) ^ emin ≤ m * 2 ^ e := by
      have h1 := (leading_bounds hm e 0).1
      rw [sub_zero, sub_zero, hk] at h1
      exact le_trans (zpow_le_zpow_right₀ (by norm_num) (by omega)) h1
    exact iff_of_false (by split <;> omega) (RoundsBelow.not_of_le hstep hge)

/-! ### The model's rounding -/

theorem Fmt.round_of_ne (f : Fmt) (mode : RM) (sat neg : Bool) {m : Nat} (hm : m ≠ 0) (e : Int) :
    f.round mode sat neg m e =
      let lsb := max (topExp m e - f.mant) f.lsbMin
      let code := (lsb - f.lsbMin).toNat * 2 ^ f.mant + (roundAt mode neg m e lsb).1
      if code > f.maxFin then (f.overflow mode sat neg, Fl.of ||| Fl.nx)
      else ((if neg then f.signBit else 0) + code, withinFlags (roundAt mode neg m e lsb).2 (tinyAfter f mode neg m e)) := by
  unfold Fmt.round tinyAfter withinFlags
  simp only [beq_iff_eq, hm, if_false]
  cases mode <;> rfl

/-- The rounded code of a magnitude: a point of the grid and whether the mode goes up from there. -/
theorem round_eq {t : Ty} (ht : t.isFloat = true) (mode : RM) (sat neg : Bool) {m : Nat} (hm : m ≠ 0) (e : Int) :
    ∃ (c : Nat) (up ix : Bool),
      RoundsInto mode neg (c % 2 == 1) (gridVal t c) (gridVal t (c + 1)) (m * 2 ^ e) up ix ∧
      (fmtOf t).round mode sat neg m e =
        if topCode t < c + up.toNat then ((fmtOf t).overflow mode sat neg, Fl.of ||| Fl.nx)
        else ((if neg then 2 ^ (t.bits - 1) else 0) + (c + up.toNat), withinFlags ix (tinyAfter (fmtOf t) mode neg m e)) := by
  obtain ⟨q, up, hq, hr⟩ := roundAt_spec mode neg m e (max (topExp m e - mantBits t) (unitExp t))
  have hM := mantBits_pos t
  have hle := hr.le
  have hlt := hr.lt
  generalize hj : (max (topExp m e - mantBits t) (unitExp t) - unitExp t).toNat = j
  have hlsb : max (topExp m e - mantBits t) (unitExp t) = unitExp t + j := by omega
  have hq1 : q < 2 ^ (mantBits t + 1) := by
    have h2 := (leading_bounds hm e (max (topExp m e - mantBits t) (unitExp t))).2
    have h3 : (2 : Rat) ^ (topExp m e + 1 - max (topExp m e - mantBits t) (unitExp t)) ≤ 2 ^ ((mantBits t + 1 : Nat) : Int) :=
      zpow_le_zpow_right₀ (by norm_num) (by push_cast; omega)
    rw [zpow_natCast] at h3
    have : (q : Rat) < 2 ^ (mantBits t + 1) := by linarith
    exact_mod_cast this
  have hq0 : j = 0 ∨ 2 ^ mantBits t ≤ q := by
    refine Classical.or_iff_not_imp_left.mpr fun hj0 => ?_
    have hmax : max (topExp m e - mantBits t) (unitExp t) = topExp m e - mantBits t := by omega
    rw [hmax] at hle hlt
    exact (count_bounds hm e _ hle hlt).1
  have hunit : (0 : Rat) < 2 ^ (j + unitExp t) := by positivity
  have hpow : (2 : Rat) ^ j * 2 ^ unitExp t = 2 ^ (j + unitExp t) := by rw [zpow_add₀ (by norm_num), zpow_natCast]
  have hg (q' : Nat) (hq' : q' ≤ 2 ^ (mantBits t + 1)) (h0 : j = 0 ∨ 2 ^ mantBits t ≤ q') :
      gridVal t (j * 2 ^ mantBits t + q') = q' * 2 ^ (j + unitExp t) := by
    rw [gridVal, grid_count _ _ _ hq' h0, ← hpow]; push_cast; ring
  have hgq := hg q (by omega) hq0
  have hgq1 := hg (q + 1) (by omega) (by omega)
  have hx : (m : Rat) * 2 ^ e = m * 2 ^ (e - max (topExp m e - mantBits t) (unitExp t)) * 2 ^ (j + unitExp t) := by
    rw [mul_assoc, ← zpow_add₀ (by norm_num)]; congr 2; omega
  have hpar : (j * 2 ^ mantBits t + q) % 2 = q % 2 := by
    obtain ⟨k, hk⟩ := Nat.exists_eq_add_of_lt hM
    rw [hk, pow_succ, Nat.add_mod, ← mul_assoc, Nat.mul_mod_left]; omega
  refine ⟨j * 2 ^ mantBits t + q, up, (roundAt mode neg m e (max (topExp m e - mantBits t) (unitExp t))).2, ?_, ?_⟩
  · rw [hpar, add_assoc, hgq, hgq1, hx]
    push_cast
    exact hr.scale hunit
  · rw [Fmt.round_of_ne _ _ _ _ hm]
    simp only [fmtOf_mant, fmtOf_lsbMin ht, fmtOf_maxFin ht, fmtOf_signBit ht, hj, hq, ← add_assoc]

/-! ### Beyond the range -/

/-- Does a mode take what overflows away from zero (R107)? -/
def awayMode (mode : RM) (neg : Bool) : Bool :=
  match mode with
  | .rne => true
  | .sr _ => true
  | .rz => false
  | .rd => neg
  | .ru => !neg

theorem awayMode_rmOf {n : Nat} (hn : n < 4) (neg : Bool) : awayMode (rmOf n) neg = true ↔ n = 0 ∨ toward n neg = true := by
  match n, hn with
  | 0, _ => simp [rmOf, awayMode]
  | 1, _ => simp [rmOf, awayMode, toward]
  | 2, _ => simp [rmOf, awayMode, toward]
  | 3, _ => simp [rmOf, awayMode, toward]

theorem Fmt.overflow_eq (f : Fmt) (mode : RM) (sat neg : Bool) : f.overflow mode sat neg =
    if sat || !awayMode mode neg then (if neg then f.signBit else 0) + f.maxFin
    else match f.inf, f.nan with
      | some i, _ => (if neg then f.signBit else 0) + i
      | none, some n => n
      | none, none => (if neg then f.signBit else 0) + f.maxFin := by
  unfold Fmt.overflow awayMode
  cases mode <;> rfl

/-- What a value that overflows becomes, by the direction it is rounded in. -/
def beyondCode (t : Ty) (sat away neg : Bool) : BitVec t.bits :=
  if sat = true ∨ t = .e2m1 ∨ away = false then largest t neg
  else if t = .e4m3 then canonical t else infinity t neg

theorem overflow_toNat {t : Ty} (ht : t.isFloat = true) (mode : RM) (sat neg : Bool) :
    (fmtOf t).overflow mode sat neg = (beyondCode t sat (awayMode mode neg) neg).toNat := by
  rw [Fmt.overflow_eq]
  generalize awayMode mode neg = away
  obtain rfl | rfl | rfl | rfl | rfl | rfl := float_cases ht <;> revert sat away neg <;> decide

theorem overflowed_eq {t : Ty} {n : Nat} (hn : n < 4) (sat neg : Bool) {x : Rat} (hx : 0 < x) :
    overflowed t n sat (sgn neg * x) = beyondCode t sat (awayMode (rmOf n) neg) neg := by
  unfold overflowed beyondCode
  simp only [sgn_neg_iff neg hx, towardSign_sgn n neg hx, ← awayMode_rmOf hn, Bool.not_eq_true]

/-! ### What the rounding gives -/

theorem toNat_codeOf_sign (t : Ty) (neg : Bool) {mag : Nat} (h : mag < 2 ^ (t.bits - 1)) :
    (if neg then 2 ^ (t.bits - 1) else 0) + mag = (codeOf t neg mag).toNat := by
  rw [toNat_codeOf t neg h]
  cases neg
  · simp
  · simp [add_comm]

theorem msb_beyond {t : Ty} (ht : t.isFloat = true) (sat away neg : Bool)
    (h : t ≠ .e4m3) : (beyondCode t sat away neg).msb = neg := by
  revert h
  obtain rfl | rfl | rfl | rfl | rfl | rfl := float_cases ht <;> revert sat away neg <;> decide

/-- R106, R107, R111: the model rounds an exact number once, as asked, and raises exactly the flags of that. -/
theorem round_roundedBy {t : Ty} (ht : t.isFloat = true) {n : Nat} (hn : n < 4) (sat neg : Bool) (m : Nat) (e : Int) :
    ∃ (v : BitVec t.bits) (f : Flags), (fmtOf t).round (rmOf n) sat neg m e = (v.toNat, f) ∧
      RoundedBy sat t n (sgn neg * (m * 2 ^ e)) v f ∧ (m = 0 → v = codeOf t neg 0) := by
  have htop := topCode_lt ht
  by_cases hm : m = 0
  · subst hm
    have h0 : RoundsInto (rmOf n) neg (0 % 2 == 1) (gridVal t 0) (gridVal t (0 + 1)) 0 false false := by
      rw [gridVal_zero]
      exact .of_eq _ _ _ (by simpa using gridVal_strictMono t (Nat.lt_succ_self 0))
    have hno : ¬overflows t n (sgn neg * 0) := by
      have h1 : gridVal t 0 < gridVal t (topCode t) := gridVal_strictMono t (by
        by_contra hc
        have := topCode_field ht
        rw [Nat.eq_zero_of_not_pos hc] at this
        simp at this)
      have h2 := gridVal_strictMono t (Nat.lt_succ_self (topCode t))
      rw [gridVal_zero] at h1
      rw [overflows_eq ht, mul_zero, abs_zero]
      split
      · split <;> linarith
      · split <;> linarith
    refine ⟨codeOf t neg 0, 0, ?_, ?_, fun _ => rfl⟩
    · rw [← toNat_codeOf_sign t neg (by positivity)]
      simp [Fmt.round, fmtOf_signBit ht]
    · rw [Nat.cast_zero, zero_mul]
      exact roundedBy_within (tn := false) ht hn le_rfl h0 (Nat.zero_le _) hno (fun h => nomatch h)
  · obtain ⟨c, up, ix, hr, heq⟩ := round_eq ht (rmOf n) sat neg hm e
    have hx : (0 : Rat) < m * 2 ^ e := by positivity
    have hov := overflows_iff ht hn (neg := neg) hx hr
    rw [heq]
    split
    case isTrue hc =>
      refine ⟨_, _, by rw [overflow_toNat ht], ?_, fun h => absurd h hm⟩
      have hyes := hov.mpr hc
      rw [← overflowed_eq hn sat neg hx]
      refine ⟨fun _ => ⟨rfl, rfl⟩, fun h => absurd hyes h, fun h => absurd hyes h, fun h => absurd hyes h,
        fun h => absurd hyes h, fun h => absurd hyes h, fun h => absurd hyes h, fun h => absurd hyes h, fun _ h => ?_⟩
      rw [overflowed_eq hn sat neg hx, msb_beyond ht _ _ _ (h.resolve_right (fun hno => hno hyes)), sgn_neg_iff neg hx]
    case isFalse hc =>
      have hle := not_lt.mp hc
      refine ⟨_, _, by rw [toNat_codeOf_sign t neg (lt_of_le_of_lt hle htop)], ?_, fun h => absurd h hm⟩
      exact roundedBy_within ht hn hx.le hr hle (fun h => hc (hov.mp h)) (fun _ => tinyAfter_iff ht hn neg hm e)

theorem Raises.awayMode {mode : RM} {neg odd : Bool} {a b : Rat} (h : Raises mode neg odd a b) : awayMode mode neg = true := by
  cases mode with
  | rne => rfl
  | rz => exact h.elim
  | rd => exact h.1
  | ru => simpa [Machine.awayMode] using h.1
  | sr u => rfl

/-- R109: what any mode, a stochastic one too, gives is what rounding down or rounding up gives. -/
theorem round_neighbour {t : Ty} (ht : t.isFloat = true) (mode : RM) (sat neg : Bool) (m : Nat) (e : Int) :
    ∃ n ∈ [2, 3], ((fmtOf t).round mode sat neg m e).1 = ((fmtOf t).round (rmOf n) sat neg m e).1 := by
  by_cases hm : m = 0
  · exact ⟨2, by simp, by simp [Fmt.round, hm]⟩
  obtain ⟨c, up, ix, hr, heq⟩ := round_eq ht mode sat neg hm e
  have hfst : ((fmtOf t).round mode sat neg m e).1 = if topCode t < c + up.toNat then (fmtOf t).overflow mode sat neg
      else (if neg then 2 ^ (t.bits - 1) else 0) + (c + up.toNat) := by
    rw [heq]
    split <;> rfl
  -- a directed mode meets the same point of the grid
  have other (n : Nat) : ∃ up' ix', ((fmtOf t).round (rmOf n) sat neg m e).1 =
      (if topCode t < c + up'.toNat then (fmtOf t).overflow (rmOf n) sat neg
        else (if neg then 2 ^ (t.bits - 1) else 0) + (c + up'.toNat)) ∧
      RoundsInto (rmOf n) neg (c % 2 == 1) (gridVal t c) (gridVal t (c + 1)) (m * 2 ^ e) up' ix' := by
    obtain ⟨c', up', ix', hr', heq'⟩ := round_eq ht (rmOf n) sat neg hm e
    have h1 := (gridVal_strictMono t).lt_iff_lt.mp (lt_of_le_of_lt hr.le hr'.lt)
    have h2 := (gridVal_strictMono t).lt_iff_lt.mp (lt_of_le_of_lt hr'.le hr.lt)
    obtain rfl : c' = c := by omega
    refine ⟨up', ix', ?_, hr'⟩
    rw [heq']
    split <;> rfl
  have hover {n : Nat} (h : awayMode mode neg = awayMode (rmOf n) neg) :
      (fmtOf t).overflow mode sat neg = (fmtOf t).overflow (rmOf n) sat neg := by
    rw [overflow_toNat ht, overflow_toNat ht, h]
  rw [hfst]
  by_cases hup : up = true ∨ topCode t < c ∧ awayMode mode neg = true
  · obtain ⟨n, hmem, hn, hn0, htw⟩ : ∃ n ∈ [2, 3], n < 4 ∧ n ≠ 0 ∧ toward n neg = true := by cases neg <;> decide
    obtain ⟨up', ix', heq', hr'⟩ := other n
    have haway : awayMode mode neg = true := hup.elim (fun h => (hr.raises h).awayMode) (·.2)
    refine ⟨n, hmem, ?_⟩
    rw [heq', hover (haway.trans ((awayMode_rmOf hn neg).mpr (.inr htw)).symm)]
    rcases hup with hup | hup
    · have : up' = true := by
        rw [hr'.up_iff hn, if_neg hn0]
        exact ⟨htw, hr.lt_of_up hup⟩
      rw [hup, this]
    · rw [if_pos (by omega), if_pos (by omega)]
  · obtain ⟨n, hmem, hn, hn0, htw⟩ : ∃ n ∈ [2, 3], n < 4 ∧ n ≠ 0 ∧ toward n neg = false := by cases neg <;> decide
    obtain ⟨up', ix', heq', hr'⟩ := other n
    rw [not_or, not_and] at hup
    have hup0 : up = false := by simpa using hup.1
    have hup' : up' = false := by
      have := hr'.up_iff hn
      rw [if_neg hn0, htw] at this
      simpa using this
    refine ⟨n, hmem, ?_⟩
    rw [heq', hup0, hup', Bool.toNat_false, add_zero]
    split
    case isTrue hc =>
      have hno : ¬awayMode (rmOf n) neg = true := by
        rw [awayMode_rmOf hn, htw]
        simpa using hn0
      exact hover (Bool.eq_iff_iff.mpr (iff_of_false (hup.2 hc) hno))
    case isFalse => rfl

end Sys2Proof.Machine

/-! Proofs: the clamps on a code (R51) and the conversion of a value to a float type (R106, R108). -/

namespace Sys2Proof.Machine

/-! ### The code of one, and zero -/

theorem special_zero (t : Ty) : special t 0 = false := by simp [special_eq_false, magnitude]

theorem msb_zero (t : Ty) : (0 : BitVec t.bits).msb = false := BitVec.msb_zero

theorem number_zero {t : Ty} (ht : t.isFloat = true) : number t 0 = 0 := by
  rw [number_eq ht]
  simp [magnitude]

/-- The magnitude code of 1. -/
def oneCode (t : Ty) : Nat := (fmtOf t).bias.toNat * 2 ^ mantBits t

theorem oneCode_le {t : Ty} (ht : t.isFloat = true) : oneCode t ≤ topCode t := by
  obtain rfl | rfl | rfl | rfl | rfl | rfl := float_cases ht <;> decide

theorem gridVal_oneCode {t : Ty} (ht : t.isFloat = true) : gridVal t (oneCode t) = 1 := by
  have hb : 1 ≤ (fmtOf t).bias.toNat := by obtain rfl | rfl | rfl | rfl | rfl | rfl := float_cases ht <;> decide
  have hg := grid_field (mantBits t) (fmtOf t).bias.toNat 0 (by positivity)
  rw [add_zero, add_zero, if_neg (by omega)] at hg
  rw [gridVal, oneCode, hg, unitExp, ← fmtOf_bias ht, Nat.cast_mul, Nat.cast_pow, Nat.cast_pow, Nat.cast_ofNat,
    ← zpow_natCast, ← zpow_natCast, ← zpow_add₀ (by norm_num), ← zpow_add₀ (by norm_num),
    show (mantBits t : Int) + ((fmtOf t).bias.toNat - 1 : Nat) + (1 - (fmtOf t).bias - mantBits t) = 0 by omega, zpow_zero]

theorem one_lt_iff {t : Ty} (ht : t.isFloat = true) (c : Nat) : oneCode t < c ↔ 1 < gridVal t c := by
  rw [← gridVal_oneCode ht, (gridVal_strictMono t).lt_iff_lt]

/-! ### The clamps -/

/-- The sign of what the decoder reads, and is it a NaN? -/
theorem decode_isNan_sign {t : Ty} (ht : t.isFloat = true) (v : BitVec t.bits) :
    ((fmtOf t).decode v.toNat).isNan = isNaN t v ∧ (isNaN t v = false → ((fmtOf t).decode v.toNat).sign = v.msb) := by
  rcases code_cases t v with ⟨hn, -, -⟩ | ⟨hi, hn, -⟩ | ⟨hf, hn, -⟩
  · rw [decode_nan ht hn, hn]; exact ⟨rfl, fun h => nomatch h⟩
  · rw [decode_inf ht hi, hn]; exact ⟨rfl, fun _ => rfl⟩
  · obtain ⟨m, e, hd, -, -⟩ := decode_fin ht hf
    rw [hd, hn]; exact ⟨rfl, fun _ => rfl⟩

theorem decode_isInf {t : Ty} (ht : t.isFloat = true) (v : BitVec t.bits) :
    ((fmtOf t).decode v.toNat).isInf = isInfinite t v := by
  rcases code_cases t v with ⟨hn, hi, -⟩ | ⟨hi, -, -⟩ | ⟨hf, -, hi⟩
  · rw [decode_nan ht hn, hi]; rfl
  · rw [decode_inf ht hi, hi]; rfl
  · obtain ⟨m, e, hd, -, -⟩ := decode_fin ht hf
    rw [hd, hi]; rfl

/-- A magnitude above one is an infinity or a number above one. -/
theorem one_lt_magnitude {t : Ty} (ht : t.isFloat = true) (v : BitVec t.bits) :
    oneCode t < magnitude t v ↔ isInfinite t v = true ∨ 1 < gridVal t (magnitude t v) := by
  rw [← one_lt_iff ht, iff_or_self]
  intro hi
  have hs := special_of_isInfinite hi
  have htop : topCode t < magnitude t v := by simpa [special] using hs
  exact lt_of_le_of_lt (oneCode_le ht) htop

/-- R51: the code [0, 1] leaves of one that is no NaN. -/
theorem clamped_c01 {t : Ty} (ht : t.isFloat = true) {v : BitVec t.bits} (hn : isNaN t v = false) :
    Clamped t .c01 v (if v.msb then 0 else if oneCode t < magnitude t v then codeOf t false (oneCode t) else v) := by
  have hone := lt_of_le_of_lt (oneCode_le ht) (topCode_lt ht)
  have hg := gridVal_nonneg t (magnitude t v)
  refine ⟨fun h => by simp at h, fun _ h => by simp [hn] at h, fun _ _ => ?_, fun h => nomatch h⟩
  cases hs : v.msb with
  | true =>
    have hneg : number t v = -gridVal t (magnitude t v) := by rw [number_eq ht, hs, sgn, if_pos rfl, neg_one_mul]
    rw [if_pos rfl, number_zero ht]
    refine ⟨special_zero t, msb_zero t, ?_⟩
    split
    · rfl
    · rw [max_eq_left]
      exact le_trans (min_le_right _ _) (by linarith)
  | false =>
    have hpos : number t v = gridVal t (magnitude t v) := by rw [number_eq ht, hs, sgn, if_neg (by decide), one_mul]
    rw [if_neg (by decide)]
    simp only [Bool.false_eq_true, if_false]
    split
    case isTrue h =>
      have hc := (one_lt_magnitude ht v).mp h
      rw [special_codeOf _ hone, msb_codeOf t _ hone, number_codeOf ht _ hone, gridVal_oneCode ht]
      refine ⟨by simpa using oneCode_le ht, rfl, ?_⟩
      rw [sgn, if_neg (by decide), mul_one]
      split
      · rfl
      case isFalse hi => rw [hpos, min_eq_left (hc.resolve_left hi).le, max_eq_right zero_le_one]
    case isFalse h =>
      have hc := fun hx => h ((one_lt_magnitude ht v).mpr hx)
      have hi : ¬isInfinite t v = true := fun hx => hc (.inl hx)
      have hf : special t v = false := by simpa [isInfinite, hn] using hi
      have hle : gridVal t (magnitude t v) ≤ 1 := not_lt.mp fun hx => hc (.inr hx)
      refine ⟨hf, hs, ?_⟩
      rw [if_neg hi, hpos, min_eq_right hle, max_eq_right hg]

/-- R51: the code [−1, 1] leaves of one that is no NaN. -/
theorem clamped_c11 {t : Ty} (ht : t.isFloat = true) {v : BitVec t.bits} (hn : isNaN t v = false) :
    Clamped t .c11 v (if oneCode t < magnitude t v then codeOf t v.msb (oneCode t) else v) := by
  have hone := lt_of_le_of_lt (oneCode_le ht) (topCode_lt ht)
  have hg := gridVal_nonneg t (magnitude t v)
  refine ⟨fun h => by simp at h, fun _ h => by simp [hn] at h, (fun h => nomatch h), fun _ _ => ?_⟩
  split
  case isTrue h =>
    have hc := (one_lt_magnitude ht v).mp h
    rw [special_codeOf _ hone, msb_codeOf t _ hone, number_codeOf ht _ hone, gridVal_oneCode ht, mul_one]
    refine ⟨by simpa using oneCode_le ht, rfl, ?_⟩
    split
    · rfl
    case isFalse hi =>
      have h1 := hc.resolve_left hi
      rw [number_eq ht, sgn]
      cases v.msb
      · simp only [Bool.false_eq_true, if_false, one_mul]
        rw [min_eq_left h1.le, max_eq_right (by norm_num)]
      · simp only [if_true, neg_one_mul]
        rw [min_eq_right (by linarith), max_eq_left (by linarith)]
  case isFalse h =>
    have hc := fun hx => h ((one_lt_magnitude ht v).mpr hx)
    have hi : ¬isInfinite t v = true := fun hx => hc (.inl hx)
    have hf : special t v = false := by simpa [isInfinite, hn] using hi
    have hle : gridVal t (magnitude t v) ≤ 1 := not_lt.mp fun hx => hc (.inr hx)
    refine ⟨hf, rfl, ?_⟩
    rw [if_neg hi, number_eq ht, sgn]
    cases v.msb
    · simp only [Bool.false_eq_true, if_false, one_mul]
      rw [min_eq_right hle, max_eq_right (by linarith)]
    · simp only [if_true, neg_one_mul]
      rw [min_eq_right (by linarith), max_eq_right (by linarith)]

/-- R51: the model clamps a code as asked; saturation is part of the rounding, which leaves no infinity. -/
theorem clampCode_clamped {t : Ty} (ht : t.isFloat = true) (cl : Clamp) {v : BitVec t.bits}
    (hsat : cl = .sat → isInfinite t v = false) :
    ∃ r : BitVec t.bits, (fmtOf t).clampCode cl v.toNat = r.toNat ∧ Clamped t cl v r := by
  obtain ⟨hnan, hsign⟩ := decode_isNan_sign ht v
  have hinf := decode_isInf ht v
  have hone := lt_of_le_of_lt (oneCode_le ht) (topCode_lt ht)
  have hcode : (fmtOf t).bias.toNat * 2 ^ (fmtOf t).mant = oneCode t := by rw [fmtOf_mant]; rfl
  have hnil (hc : cl = .c01 ∨ cl = .c11) (hn : isNaN t v = true) : Clamped t cl v 0 :=
    ⟨fun h => by rcases hc with rfl | rfl <;> simp at h, fun _ _ => rfl, fun _ h => by simp [hn] at h, fun _ h => by simp [hn] at h⟩
  unfold Fmt.clampCode
  simp only [hnan, hinf, hcode, decode_magnitude ht]
  cases cl with
  | none => exact ⟨v, rfl, fun _ => rfl, fun h => by simp at h, fun h => by simp at h, fun h => by simp at h⟩
  | sat =>
    refine ⟨v, ?_, fun _ => rfl, fun h => by simp at h, fun h => by simp at h, fun h => by simp at h⟩
    rw [hsat rfl]; rfl
  | c01 =>
    cases hn : isNaN t v with
    | true => exact ⟨0, by simp, hnil (.inl rfl) hn⟩
    | false =>
      refine ⟨_, ?_, clamped_c01 ht hn⟩
      rw [hsign hn]
      cases hs : v.msb with
      | true => simp
      | false =>
        simp only [Bool.or_false, Bool.false_eq_true, if_false]
        split
        · rw [toNat_codeOf t false hone]; simp
        · rfl
  | c11 =>
    cases hn : isNaN t v with
    | true => exact ⟨0, by simp, hnil (.inr rfl) hn⟩
    | false =>
      refine ⟨_, ?_, clamped_c11 ht hn⟩
      rw [hsign hn]
      simp only [Bool.false_eq_true, if_false]
      split
      · rw [fmtOf_signBit ht]; exact toNat_codeOf_sign t v.msb hone
      · rfl

/-! ### The conversion of a value (R106, R108) -/

/-- Under a saturating clamp no rounding gives an infinity. -/
theorem RoundedBy.not_infinite {t : Ty} (ht : t.isFloat = true) {n : Nat} {e : Rat} {v : BitVec t.bits} {f : Flags}
    (h : RoundedBy true t n e v f) : isInfinite t v = false := by
  by_cases hov : overflows t n e
  · rw [(h.beyond hov).1]
    unfold overflowed
    rw [if_pos (.inl rfl), isInfinite, largest, ← codeOf, special_codeOf _ (topCode_lt ht)]
    simp
  · rw [isInfinite, h.finite hov, Bool.false_and]

/-- A finite value: scaled, rounded once and clamped. -/
theorem convert_fin {t : Ty} (ht : t.isFloat = true) {n : Nat} (hn : n < 4) (cl : Clamp) (sc : Int) (neg : Bool) (m : Nat) (e : Int) :
    ∃ (v r : BitVec t.bits) (f : Flags), (fmtOf t).convert (rmOf n) cl sc (.fin neg m e) = (r.toNat, f) ∧
      RoundedBy (cl == .sat) t n (sgn neg * (m * 2 ^ e) * 2 ^ sc) v f ∧ Clamped t cl v r ∧ (m = 0 → v = codeOf t neg 0) := by
  obtain ⟨v, f, hr, hb, hz⟩ := round_roundedBy ht hn (cl == .sat) neg m (e + sc)
  obtain ⟨r, hc, hcl⟩ := clampCode_clamped ht cl (v := v) (fun h => by subst h; exact hb.not_infinite ht)
  refine ⟨v, r, f, ?_, ?_, hcl, hz⟩
  · rw [Fmt.convert, hr]; simp only [hc]
  · rwa [mul_assoc, mul_assoc, ← zpow_add₀ (by norm_num)]

/-- The code of a NaN result (R108). -/
theorem canonical_toNat {t : Ty} (ht : t.isFloat = true) : (fmtOf t).nanCode = (canonical t).toNat := by
  obtain rfl | rfl | rfl | rfl | rfl | rfl := float_cases ht <;> decide

theorem nan_isNone {t : Ty} (ht : t.isFloat = true) : (fmtOf t).nan.isNone = decide (t = .e2m1) := by
  obtain rfl | rfl | rfl | rfl | rfl | rfl := float_cases ht <;> decide

theorem canonical_not_infinite {t : Ty} (ht : t.isFloat = true) : isInfinite t (canonical t) = false := by
  obtain rfl | rfl | rfl | rfl | rfl | rfl := float_cases ht <;> decide

/-- A NaN, clamped, with the flag of a signalling one. -/
theorem convert_nan {t : Ty} (ht : t.isFloat = true) (mode : RM) (cl : Clamp) (sc : Int) (sig : Bool) :
    ∃ r : BitVec t.bits, (fmtOf t).convert mode cl sc (.nan sig) =
        (r.toNat, Flags.when (sig || decide (t = .e2m1)) Fl.nv) ∧ Clamped t cl (canonical t) r := by
  obtain ⟨r, hc, hcl⟩ := clampCode_clamped ht cl (v := canonical t) (fun _ => canonical_not_infinite ht)
  exact ⟨r, by simp only [Fmt.convert, canonical_toNat ht, hc, nan_isNone ht], hcl⟩

/-- What an infinity becomes in a type (R108). -/
def infiniteCode (t : Ty) (sat neg : Bool) : BitVec t.bits :=
  if sat = true ∨ t = .e2m1 then largest t neg else if t = .e4m3 then canonical t else infinity t neg

theorem infCode_eq {t : Ty} (ht : t.isFloat = true) (sat neg : Bool) : (fmtOf t).infCode sat neg =
    ((infiniteCode t sat neg).toNat, if t = .e2m1 ∨ t = .e4m3 ∧ sat = false then Fl.nv else 0) := by
  obtain rfl | rfl | rfl | rfl | rfl | rfl := float_cases ht <;> revert sat neg <;> decide

theorem infiniteCode_not_infinite {t : Ty} (ht : t.isFloat = true) (neg : Bool) : isInfinite t (infiniteCode t true neg) = false := by
  obtain rfl | rfl | rfl | rfl | rfl | rfl := float_cases ht <;> revert neg <;> decide

/-- An infinity, clamped. -/
theorem convert_inf {t : Ty} (ht : t.isFloat = true) (mode : RM) (cl : Clamp) (sc : Int) (neg : Bool) :
    ∃ r : BitVec t.bits, (fmtOf t).convert mode cl sc (.inf neg) =
        (r.toNat, if t = .e2m1 ∨ t = .e4m3 ∧ (cl == .sat) = false then Fl.nv else 0) ∧
      Clamped t cl (infiniteCode t (cl == .sat) neg) r := by
  obtain ⟨r, hc, hcl⟩ := clampCode_clamped ht cl (v := infiniteCode t (cl == .sat) neg)
    (fun h => by subst h; exact infiniteCode_not_infinite ht neg)
  exact ⟨r, by simp only [Fmt.convert, infCode_eq ht, hc], hcl⟩

/-- A zero keeps its sign, whatever the mode. -/
theorem convert_zero {t : Ty} (ht : t.isFloat = true) (mode : RM) (cl : Clamp) (sc : Int) (neg : Bool) (e : Int) :
    ∃ r : BitVec t.bits, (fmtOf t).convert mode cl sc (.fin neg 0 e) = (r.toNat, 0) ∧ Clamped t cl (zeroOf t neg) r := by
  have hz : zeroOf t neg = codeOf t neg 0 := by rw [zeroOf, codeOf, zero_add]
  have hlt : 0 < 2 ^ (t.bits - 1) := by positivity
  have hround (sat : Bool) : (fmtOf t).round mode sat neg 0 (e + sc) = ((zeroOf t neg).toNat, 0) := by
    rw [hz, ← toNat_codeOf_sign t neg hlt]
    simp [Fmt.round, fmtOf_signBit ht]
  obtain ⟨r, hc, hcl⟩ := clampCode_clamped ht cl (v := zeroOf t neg)
    (fun _ => by rw [isInfinite, hz, special_codeOf _ hlt]; simp)
  exact ⟨r, by simp only [Fmt.convert, hround, hc], hcl⟩

end Sys2Proof.Machine

/-! Proofs: exact sums and products of values, and what they become in a scalar float type (R76, R77). -/

namespace Sys2Proof.Machine

/-! ### The value of a code -/

/-- What the decoder reads from a code. -/
def val (t : Ty) (r : BitVec t.bits) : FVal := (fmtOf t).decode r.toNat

theorem valF_eq (t : Ty) (x : Nat) : valF t x = val t (BitVec.ofNat t.bits x) := by
  rw [valF, val, toNat_ofNat_lowBits]

theorem val_nan {t : Ty} (ht : t.isFloat = true) {r : BitVec t.bits} (h : isNaN t r = true) :
    val t r = .nan (isSignalling t r) := decode_nan ht h

theorem val_inf {t : Ty} (ht : t.isFloat = true) {r : BitVec t.bits} (h : isInfinite t r = true) :
    val t r = .inf r.msb := decode_inf ht h

theorem val_fin {t : Ty} (ht : t.isFloat = true) {r : BitVec t.bits} (h : special t r = false) :
    ∃ (m : Nat) (e : Int), val t r = .fin r.msb m e ∧ number t r = sgn r.msb * (m * 2 ^ e) ∧ (m = 0 ↔ isZero t r = true) := by
  obtain ⟨m, e, hd, hg, hz⟩ := decode_fin ht h
  exact ⟨m, e, hd, by rw [number_eq ht, hg], hz⟩

theorem isNaN_of_isSignalling {t : Ty} {r : BitVec t.bits} (h : isSignalling t r = true) : isNaN t r = true := by
  simp only [isSignalling, Bool.and_eq_true] at h
  exact h.1.2

theorem not_isNaN_of_isInfinite {t : Ty} {r : BitVec t.bits} (h : isInfinite t r = true) : isNaN t r = false := by
  simp only [isInfinite, Bool.and_eq_true, Bool.not_eq_true'] at h
  exact h.2

theorem not_isNaN_of_number {t : Ty} {r : BitVec t.bits} (h : special t r = false) : isNaN t r = false := by
  rw [isNaN, h, Bool.false_and]

theorem not_isZero_of_isInfinite {t : Ty} {r : BitVec t.bits} (h : isInfinite t r = true) : isZero t r = false := by
  have hs := special_of_isInfinite h
  simp only [special, decide_eq_true_eq] at hs
  simp only [isZero, decide_eq_false_iff_not]
  omega

/-- Only a signalling NaN signals. -/
theorem val_isSig {t : Ty} (ht : t.isFloat = true) (r : BitVec t.bits) : (val t r).isSig = isSignalling t r := by
  have hq (h : isNaN t r = false) : isSignalling t r = false := by simp [isSignalling, h]
  rcases code_cases t r with ⟨hn, -, -⟩ | ⟨hi, hn, -⟩ | ⟨hf, hn, -⟩
  · rw [val_nan ht hn]; rfl
  · rw [val_inf ht hi, hq hn]; rfl
  · obtain ⟨m, e, hv, -, -⟩ := val_fin ht hf
    rw [hv, hq hn]; rfl

theorem val_isZero {t : Ty} (ht : t.isFloat = true) (r : BitVec t.bits) : (val t r).isZero = isZero t r := by
  have hs (h : special t r = true) : isZero t r = false := by
    simp only [special, decide_eq_true_eq] at h
    simp only [isZero, decide_eq_false_iff_not]
    omega
  rcases code_cases t r with ⟨hn, -, h⟩ | ⟨hi, -, h⟩ | ⟨hf, -, -⟩
  · rw [val_nan ht hn, hs h]; rfl
  · rw [val_inf ht hi, hs h]; rfl
  · obtain ⟨m, e, hv, -, hz⟩ := val_fin ht hf
    rw [hv, Bool.eq_iff_iff, ← hz]
    exact beq_iff_eq

theorem sigFlags_eq {t : Ty} (ht : t.isFloat = true) (rs : List (BitVec t.bits)) :
    sigFlags (rs.map (val t)) = signals t rs := by
  rw [sigFlags, signals, Flags.when, List.any_map, show FVal.isSig ∘ val t = isSignalling t from funext (val_isSig ht)]

theorem signals_eq_zero {t : Ty} {rs : List (BitVec t.bits)} (h : ∀ r ∈ rs, isNaN t r = false) : signals t rs = 0 := by
  rw [signals, if_neg]
  rw [Bool.not_eq_true, List.any_eq_false]
  exact fun r hr hs => absurd (isNaN_of_isSignalling hs) (by simp [h r hr])

/-! ### The modifiers (R50) -/

theorem zeroOf_eq (t : Ty) (neg : Bool) : zeroOf t neg = codeOf t neg 0 := by rw [zeroOf, codeOf, zero_add]

/-- A flipped sign. -/
theorem xor_sign (t : Ty) (r : BitVec t.bits) : r ^^^ zeroOf t true = codeOf t (!r.msb) (magnitude t r) := by
  have hz : (0 : Nat) < 2 ^ (t.bits - 1) := by positivity
  refine ext_parts ?_ ?_
  · rw [msb_codeOf t _ (magnitude_lt t r), BitVec.msb_xor, zeroOf_eq, msb_codeOf t _ hz, Bool.xor_true]
  · rw [magnitude_codeOf t _ (magnitude_lt t r), magnitude, BitVec.toNat_xor, Nat.xor_mod_two_pow]
    change _ ^^^ magnitude t (zeroOf t true) = _
    rw [zeroOf_eq, magnitude_codeOf t _ hz, Nat.xor_zero]
    rfl

/-- A cleared sign. -/
theorem and_not_sign (t : Ty) (r : BitVec t.bits) : r &&& ~~~zeroOf t true = codeOf t false (magnitude t r) := by
  have hz : (0 : Nat) < 2 ^ (t.bits - 1) := by positivity
  refine ext_parts ?_ ?_
  · rw [msb_codeOf t _ (magnitude_lt t r), BitVec.msb_and, BitVec.msb_not, zeroOf_eq, msb_codeOf t _ hz]
    simp
  · have hmask : (~~~zeroOf t true).toNat % 2 ^ (t.bits - 1) = 2 ^ (t.bits - 1) - 1 := by
      have h2 := two_pow_bits t
      rw [BitVec.toNat_not, zeroOf_eq, toNat_codeOf t _ hz, Bool.toNat_true,
        show 2 ^ t.bits - 1 - (0 + 1 * 2 ^ (t.bits - 1)) = 2 ^ (t.bits - 1) - 1 by omega, Nat.mod_eq_of_lt (by omega)]
    rw [magnitude_codeOf t _ (magnitude_lt t r), magnitude, BitVec.toNat_and, Nat.and_mod_two_pow, hmask,
      Nat.and_two_pow_sub_one_eq_mod, Nat.mod_mod]
    rfl

/-- R50: a float source's modifiers. -/
theorem ofNat_modSrc_float {t : Ty} (ht : t.isFloat = true) (m : SrcMod) (x : Nat) :
    BitVec.ofNat t.bits (modSrc t m x) = floatMod t m (BitVec.ofNat t.bits x) := by
  have h2 := two_pow_bits t
  have hlow : magnitude t (BitVec.ofNat t.bits x) = x % 2 ^ (t.bits - 1) := by
    rw [magnitude, BitVec.toNat_ofNat, h2, Nat.mod_mul_left_mod]
  have habs : ∃ y, (if m.abs then x % 2 ^ (t.bits - 1) else x % (2 * 2 ^ (t.bits - 1))) = y ∧ y < 2 ^ t.bits ∧
      (if m.abs then BitVec.ofNat t.bits x &&& ~~~zeroOf t true else BitVec.ofNat t.bits x) = BitVec.ofNat t.bits y := by
    cases m.abs
    · refine ⟨_, rfl, ?_, ?_⟩
      · rw [h2]; exact Nat.mod_lt _ (by positivity)
      · simp only [Bool.false_eq_true, if_false]
        rw [← h2]; exact (ofNat_lowBits _ _).symm
    · refine ⟨_, rfl, ?_, ?_⟩
      · have := Nat.mod_lt x (show 0 < 2 ^ (t.bits - 1) by positivity)
        simp only [if_true]; omega
      · rw [if_pos rfl, if_pos rfl, and_not_sign, hlow, codeOf, Bool.toNat_false, zero_mul, add_zero]
  obtain ⟨y, hy, hlt, hb⟩ := habs
  unfold modSrc floatMod
  simp only [ht, if_true, fmtOf_signBit ht, hy, hb]
  cases m.neg
  · rfl
  · have hyn : (BitVec.ofNat t.bits y).toNat = y := by rw [BitVec.toNat_ofNat, Nat.mod_eq_of_lt hlt]
    rw [if_pos rfl, if_pos rfl, xor_sign, codeOf, magnitude, msb_iff, hyn]
    split
    case isTrue h => rw [decide_eq_false (by omega), Nat.mod_eq_of_lt h]; simp
    case isFalse h =>
      rw [decide_eq_true (by omega), Nat.mod_eq_sub_mod (by omega), Nat.mod_eq_of_lt (by omega)]; simp

/-- R65, R76: a scalar float source. -/
theorem val_srcT {t : Ty} (ht : t.isFloat = true) (h : Thread) (m : SrcMod) (o : Opnd) :
    valF t (h.srcT t m o) = val t (floatSrc h t m o) := by
  rw [valF_eq, Thread.srcT, ofNat_modSrc_float ht, floatSrc, BitVec.ofNat_toNat]

theorem magnitude_xor_sign (t : Ty) (r : BitVec t.bits) : magnitude t (r ^^^ zeroOf t true) = magnitude t r := by
  rw [xor_sign, magnitude_codeOf t _ (magnitude_lt t r)]

theorem number_xor_sign {t : Ty} (ht : t.isFloat = true) (r : BitVec t.bits) : number t (r ^^^ zeroOf t true) = -number t r := by
  rw [xor_sign, number_codeOf ht _ (magnitude_lt t r), number_eq ht]
  cases r.msb <;> simp [sgn]

theorem special_xor_sign (t : Ty) (r : BitVec t.bits) : special t (r ^^^ zeroOf t true) = special t r := by
  rw [special, magnitude_xor_sign]; rfl

/-- The value of a code with its sign flipped. -/
theorem val_xor_sign {t : Ty} (ht : t.isFloat = true) (r : BitVec t.bits) : val t (r ^^^ zeroOf t true) = (val t r).neg := by
  have hs : ((r ^^^ zeroOf t true).toNat / (fmtOf t).signBit % 2 == 1) = !(r.toNat / (fmtOf t).signBit % 2 == 1) := by
    rw [decode_sign ht, decode_sign ht, xor_sign, msb_codeOf t _ (magnitude_lt t r)]
  have hm := decode_magnitude ht (r ^^^ zeroOf t true)
  rw [magnitude_xor_sign, ← decode_magnitude ht r] at hm
  unfold val Fmt.decode
  simp only [hs, hm]
  split
  · split <;> rfl
  · split <;> rfl

/-! ### Exact sums and products -/

/-- A finite value as a whole count of 2^k. -/
theorem units_eq (n : Bool) (m : Nat) {e k : Int} (he : k ≤ e) :
    sgn n * ((m : Rat) * 2 ^ e) = (((if n then -1 else 1 : Int) * (m * 2 ^ (e - k).toNat : Nat) : Int) : Rat) * 2 ^ k := by
  have hp : (2 : Rat) ^ e = 2 ^ (e - k).toNat * 2 ^ k := by
    rw [← zpow_natCast, ← zpow_add₀ (by norm_num)]; congr 1; omega
  rw [hp, sgn]
  cases n <;> push_cast <;> simp <;> ring

theorem addFin_spec (mode : RM) (n1 : Bool) (m1 : Nat) (e1 : Int) (n2 : Bool) (m2 : Nat) (e2 : Int) :
    ∃ (s : Bool) (m : Nat) (e : Int), addFin mode n1 m1 e1 n2 m2 e2 = .fin s m e ∧
      sgn s * (m * 2 ^ e) = sgn n1 * (m1 * 2 ^ e1) + sgn n2 * (m2 * 2 ^ e2) ∧
      (sgn n1 * ((m1 : Rat) * 2 ^ e1) + sgn n2 * (m2 * 2 ^ e2) = 0 →
        m = 0 ∧ s = if m1 = 0 ∧ m2 = 0 ∧ n1 = n2 then n1 else mode == .rd) := by
  unfold addFin
  dsimp only
  generalize hi1 : ((if n1 then -1 else 1 : Int) * (m1 * 2 ^ (e1 - min e1 e2).toNat : Nat)) = i1
  generalize hi2 : ((if n2 then -1 else 1 : Int) * (m2 * 2 ^ (e2 - min e1 e2).toNat : Nat)) = i2
  rw [units_eq n1 m1 (min_le_left _ _), units_eq n2 m2 (min_le_right _ _), hi1, hi2, ← add_mul, ← Int.cast_add]
  simp only [beq_iff_eq]
  split
  case isTrue h => exact ⟨_, _, _, rfl, by rw [h]; simp, fun _ => ⟨rfl, by simp [and_assoc]⟩⟩
  case isFalse h =>
    refine ⟨_, _, _, rfl, ?_, fun h0 => ?_⟩
    · rw [← mul_assoc]
      congr 1
      rcases lt_or_ge (i1 + i2) 0 with hneg | hpos
      · rw [decide_eq_true hneg, sgn, if_pos rfl, neg_one_mul, ← Int.cast_natCast, Int.ofNat_natAbs_of_nonpos hneg.le, Int.cast_neg, neg_neg]
      · rw [decide_eq_false (not_lt.mpr hpos), sgn, if_neg (by decide), one_mul, ← Int.cast_natCast, Int.natAbs_of_nonneg hpos]
    · rw [mul_eq_zero, or_iff_left (by positivity), Int.cast_eq_zero] at h0
      exact absurd h0 h

theorem addV_fin (mode : RM) (n1 : Bool) (m1 : Nat) (e1 : Int) (n2 : Bool) (m2 : Nat) (e2 : Int) :
    ∃ (s : Bool) (m : Nat) (e : Int), addV mode (.fin n1 m1 e1) (.fin n2 m2 e2) = (.fin s m e, 0) ∧
      sgn s * (m * 2 ^ e) = sgn n1 * (m1 * 2 ^ e1) + sgn n2 * (m2 * 2 ^ e2) ∧
      (sgn n1 * ((m1 : Rat) * 2 ^ e1) + sgn n2 * (m2 * 2 ^ e2) = 0 →
        m = 0 ∧ s = if m1 = 0 ∧ m2 = 0 ∧ n1 = n2 then n1 else mode == .rd) := by
  have hne (n : Bool) (m : Nat) (e : Int) (h : m ≠ 0) : sgn n * ((m : Rat) * 2 ^ e) ≠ 0 :=
    mul_ne_zero (by cases n <;> simp [sgn]) (mul_ne_zero (by exact_mod_cast h) (by positivity))
  unfold addV
  simp only [Bool.and_eq_true, beq_iff_eq, bne_iff_ne]
  split
  case isTrue h =>
    obtain ⟨rfl, h1⟩ := h
    refine ⟨n1, m1, e1, rfl, by simp, fun h0 => absurd h0 ?_⟩
    simpa using hne n1 m1 e1 h1
  case isFalse h =>
    split
    case isTrue h' =>
      obtain ⟨rfl, h2⟩ := h'
      refine ⟨n2, m2, e2, rfl, by simp, fun h0 => absurd h0 ?_⟩
      simpa using hne n2 m2 e2 h2
    case isFalse h' =>
      obtain ⟨s, m, e, ha, hv, hz⟩ := addFin_spec mode n1 m1 e1 n2 m2 e2
      exact ⟨s, m, e, by rw [ha], hv, hz⟩

theorem addV_nan_left (mode : RM) (s : Bool) (y : FVal) : addV mode (.nan s) y = (.nan false, 0) := rfl

theorem addV_nan_right (mode : RM) (x : FVal) (s : Bool) : addV mode x (.nan s) = (.nan false, 0) := by cases x <;> rfl

theorem addV_inf_fin (mode : RM) (k n : Bool) (m : Nat) (e : Int) : addV mode (.inf k) (.fin n m e) = (.inf k, 0) := rfl

theorem addV_fin_inf (mode : RM) (k n : Bool) (m : Nat) (e : Int) : addV mode (.fin n m e) (.inf k) = (.inf k, 0) := rfl

theorem addV_inf_inf (mode : RM) (j k : Bool) :
    addV mode (.inf j) (.inf k) = if j = k then (.inf j, 0) else (.nan false, Fl.nv) := by
  simp only [addV, beq_iff_eq]

section Products
variable {t : Ty} (ht : t.isFloat = true) {a b : BitVec t.bits}
include ht

theorem mulV_nan (h : isNaN t a = true ∨ isNaN t b = true) : mulV (val t a) (val t b) = (.nan false, 0) := by
  rcases h with h | h
  · rw [val_nan ht h]; rfl
  · rw [val_nan ht h]; cases val t a <;> rfl

theorem mulV_zeroInf (h : zeroTimesInf t a b) : mulV (val t a) (val t b) = (.nan false, Fl.nv) := by
  rcases h with ⟨hz, hi⟩ | ⟨hi, hz⟩
  · have hz' := val_isZero ht a
    rw [hz] at hz'
    rw [val_inf ht hi]
    cases hv : val t a with
    | nan s => rw [hv] at hz'; cases hz'
    | inf s => rw [hv] at hz'; cases hz'
    | fin n m e => rw [hv] at hz'; simp only [mulV, hz', if_true]
  · rw [val_inf ht hi]
    have hz' := val_isZero ht b
    rw [hz] at hz'
    cases hv : val t b with
    | nan s => rw [hv] at hz'; cases hz'
    | inf s => rw [hv] at hz'; cases hz'
    | fin n m e => rw [hv] at hz'; simp only [mulV, hz', if_true]

/-- The sign of a code that is no NaN. -/
theorem val_sign (h : isNaN t a = false) : (val t a).sign = a.msb := (decode_isNan_sign ht a).2 h

theorem mulV_infProduct (h : infProduct t a b) : mulV (val t a) (val t b) = (.inf (a.msb != b.msb), 0) := by
  obtain ⟨hi, hna, hnb, hza, hzb⟩ := h
  have hza' := val_isZero ht a
  have hzb' := val_isZero ht b
  have hsa := val_sign ht hna
  have hsb := val_sign ht hnb
  have hNa : (val t a).isNan = false := by rw [← hna]; exact (decode_isNan_sign ht a).1
  have hNb : (val t b).isNan = false := by rw [← hnb]; exact (decode_isNan_sign ht b).1
  rw [hza] at hza'
  rw [hzb] at hzb'
  rcases hi with hi | hi
  · rw [val_inf ht hi] at *
    cases hv : val t b with
    | nan s => rw [hv] at hNb; cases hNb
    | inf s => rw [hv] at hsb; simp only [mulV, FVal.isZero, FVal.sign] at *; simp [hsb]
    | fin n m e => rw [hv] at hsb hzb'; simp only [mulV, hzb', FVal.sign] at *; simp [hsb]
  · rw [val_inf ht hi] at *
    cases hv : val t a with
    | nan s => rw [hv] at hNa; cases hNa
    | inf s => rw [hv] at hsa; simp only [mulV, FVal.isZero, FVal.sign] at *; simp [hsa]
    | fin n m e => rw [hv] at hsa hza'; simp only [mulV, hza', FVal.sign] at *; simp [hsa]

theorem mulV_number (ha : special t a = false) (hb : special t b = false) :
    ∃ (m : Nat) (e : Int), mulV (val t a) (val t b) = (.fin (a.msb != b.msb) m e, 0) ∧
      sgn (a.msb != b.msb) * (m * 2 ^ e) = number t a * number t b ∧
      (m = 0 ↔ isZero t a = true ∨ isZero t b = true) := by
  obtain ⟨m1, e1, hva, hna, hza⟩ := val_fin ht ha
  obtain ⟨m2, e2, hvb, hnb, hzb⟩ := val_fin ht hb
  refine ⟨m1 * m2, e1 + e2, by rw [hva, hvb]; rfl, ?_, by rw [Nat.mul_eq_zero, hza, hzb]⟩
  have hsgn : sgn (a.msb != b.msb) = sgn a.msb * sgn b.msb := by cases a.msb <;> cases b.msb <;> norm_num [sgn]
  rw [hna, hnb, hsgn, zpow_add₀ (by norm_num)]
  push_cast
  ring

end Products

end Sys2Proof.Machine

/-! Proofs: the scalar float instructions (R76, R77): one rounding, NaNs, infinities and zeros. -/

namespace Sys2Proof.Machine

/-! ### A value's result at a type -/

/-- What an operation's value becomes at a float type, with the flags: SCALE, one rounding, CLAMP. -/
def floatResult (t : Ty) (mode : RM) (cl : Clamp) (sc : Int) (p : FVal × Flags) : BitVec t.bits × Flags :=
  (BitVec.ofNat t.bits (finishF t mode cl sc p).1, (finishF t mode cl sc p).2)

@[simp] theorem flags_zero_or (f : Flags) : 0 ||| f = f := BitVec.zero_or
@[simp] theorem flags_or_zero (f : Flags) : f ||| 0 = f := BitVec.or_zero

theorem floatResult_of_convert {t : Ty} {mode : RM} {cl : Clamp} {sc : Int} {v : FVal} {fl f : Flags} {r : BitVec t.bits}
    (h : (fmtOf t).convert mode cl sc v = (r.toNat, f)) : floatResult t mode cl sc (v, fl) = (r, f ||| fl) := by
  simp only [floatResult, finishF, h, BitVec.ofNat_toNat, BitVec.setWidth_eq]

/-- The result stands in the type's bits. -/
theorem finishF_toNat {t : Ty} (ht : t.isFloat = true) {n : Nat} (hn : n < 4) (cl : Clamp) (sc : Int) (p : FVal × Flags) :
    (finishF t (rmOf n) cl sc p).1 = (floatResult t (rmOf n) cl sc p).1.toNat := by
  obtain ⟨v, fl⟩ := p
  have key {r : BitVec t.bits} {f : Flags} (h : (fmtOf t).convert (rmOf n) cl sc v = (r.toNat, f)) :
      (finishF t (rmOf n) cl sc (v, fl)).1 = (floatResult t (rmOf n) cl sc (v, fl)).1.toNat := by
    rw [floatResult_of_convert h]
    simp only [finishF, h]
  cases v with
  | nan sig => obtain ⟨r, h, -⟩ := convert_nan ht (rmOf n) cl sc sig; exact key h
  | inf neg => obtain ⟨r, h, -⟩ := convert_inf ht (rmOf n) cl sc neg; exact key h
  | fin neg m e => obtain ⟨v, r, f, h, -⟩ := convert_fin ht hn cl sc neg m e; exact key h

theorem ne_of_isF {t : Ty} (ht : t.isF = true) : t ≠ .e2m1 ∧ t ≠ .e4m3 := by
  revert ht
  cases t <;> decide

section Results
variable {t : Ty} (ht : t.isF = true)
include ht

theorem floatResult_nan (mode : RM) (cl : Clamp) (sc : Int) (fl : Flags) :
    GivesNaN t cl (floatResult t mode cl sc (.nan false, fl)).1 ∧ (floatResult t mode cl sc (.nan false, fl)).2 = fl := by
  obtain ⟨r, h, hc⟩ := convert_nan (Ty.isFloat_of_isF ht) mode cl sc false
  rw [floatResult_of_convert h]
  exact ⟨hc, by simp [Flags.when, (ne_of_isF ht).1]⟩

theorem floatResult_inf (mode : RM) (cl : Clamp) (sc : Int) (neg : Bool) (fl : Flags) :
    GivesInf t cl neg (floatResult t mode cl sc (.inf neg, fl)).1 ∧ (floatResult t mode cl sc (.inf neg, fl)).2 = fl := by
  obtain ⟨h2, h4⟩ := ne_of_isF ht
  obtain ⟨r, h, hc⟩ := convert_inf (Ty.isFloat_of_isF ht) mode cl sc neg
  rw [floatResult_of_convert h]
  refine ⟨?_, by simp [h2, h4]⟩
  simpa [GivesInf, infiniteCode, h2, h4] using hc

theorem floatResult_zero (mode : RM) (cl : Clamp) (sc : Int) (neg : Bool) (e : Int) (fl : Flags) :
    GivesZero t cl neg (floatResult t mode cl sc (.fin neg 0 e, fl)).1 ∧ (floatResult t mode cl sc (.fin neg 0 e, fl)).2 = fl := by
  obtain ⟨r, h, hc⟩ := convert_zero (Ty.isFloat_of_isF ht) mode cl sc neg e
  rw [floatResult_of_convert h]
  exact ⟨hc, by simp⟩

theorem floatResult_fin {n : Nat} (hn : n < 4) (cl : Clamp) (sc : Int) (neg : Bool) (m : Nat) (e : Int) :
    ∃ v, RoundedBy (cl == .sat) t n (sgn neg * (m * 2 ^ e) * 2 ^ sc) v (floatResult t (rmOf n) cl sc (.fin neg m e, 0)).2 ∧
      Clamped t cl v (floatResult t (rmOf n) cl sc (.fin neg m e, 0)).1 := by
  obtain ⟨v, r, f, h, hb, hc, -⟩ := convert_fin (Ty.isFloat_of_isF ht) hn cl sc neg m e
  rw [floatResult_of_convert h]
  exact ⟨v, by simpa using hb, hc⟩

end Results

/-! ### Sums (R77) -/

section Sums
variable {t : Ty} (hF : t.isF = true) {a b : BitVec t.bits}
include hF

theorem faddV_nan (mode : RM) (h : isNaN t a = true ∨ isNaN t b = true) :
    faddV mode (val t a) (val t b) = (.nan false, signals t [a, b]) := by
  have ht := Ty.isFloat_of_isF hF
  have hs := sigFlags_eq ht [a, b]
  have hadd : addV mode (val t a) (val t b) = (.nan false, 0) := by
    rcases h with h | h
    · rw [val_nan ht h, addV_nan_left]
    · rw [val_nan ht h, addV_nan_right]
  simp only [List.map] at hs
  simp [faddV, hadd, hs]

/-- Without a NaN the sum's flags are the addition's own. -/
theorem faddV_eq (mode : RM) (ha : isNaN t a = false) (hb : isNaN t b = false) :
    faddV mode (val t a) (val t b) = addV mode (val t a) (val t b) := by
  have hs := sigFlags_eq (Ty.isFloat_of_isF hF) [a, b]
  rw [signals_eq_zero (by simp [ha, hb])] at hs
  simp only [List.map] at hs
  simp [faddV, hs]

theorem addV_infinite_left (mode : RM) (ha : isInfinite t a = true)
    (hb : special t b = false ∨ isInfinite t b = true ∧ a.msb = b.msb) :
    addV mode (val t a) (val t b) = (.inf a.msb, 0) := by
  have ht := Ty.isFloat_of_isF hF
  rw [val_inf ht ha]
  rcases hb with hb | ⟨hb, hs⟩
  · obtain ⟨m, e, hv, -, -⟩ := val_fin ht hb
    rw [hv, addV_inf_fin]
  · rw [val_inf ht hb, addV_inf_inf, if_pos hs]

theorem addV_infinite_right (mode : RM) (ha : special t a = false) (hb : isInfinite t b = true) :
    addV mode (val t a) (val t b) = (.inf b.msb, 0) := by
  have ht := Ty.isFloat_of_isF hF
  obtain ⟨m, e, hv, -, -⟩ := val_fin ht ha
  rw [hv, val_inf ht hb, addV_fin_inf]

/-- The exact sum of two numbers, and the sign of a zero one. -/
theorem addV_number (mode : RM) (ha : special t a = false) (hb : special t b = false) :
    ∃ (s : Bool) (m : Nat) (e : Int), addV mode (val t a) (val t b) = (.fin s m e, 0) ∧
      sgn s * (m * 2 ^ e) = number t a + number t b ∧
      (number t a + number t b = 0 → m = 0 ∧
        s = if isZero t a = true ∧ isZero t b = true ∧ a.msb = b.msb then a.msb else mode == .rd) := by
  have ht := Ty.isFloat_of_isF hF
  obtain ⟨m1, e1, hva, hna, hza⟩ := val_fin ht ha
  obtain ⟨m2, e2, hvb, hnb, hzb⟩ := val_fin ht hb
  obtain ⟨s, m, e, h, hv, hz⟩ := addV_fin mode a.msb m1 e1 b.msb m2 e2
  simp only [hza, hzb] at hz
  rw [hva, hvb, hna, hnb]
  exact ⟨s, m, e, h, hv, hz⟩

end Sums

theorem rmOf_rd (n : Nat) : (rmOf n == .rd) = (n == 2) := by
  match n with
  | 0 => rfl
  | 1 => rfl
  | 2 => rfl
  | n + 3 => exact (beq_eq_false_iff_ne.mpr (by omega)).symm

/-- A number that is an exact result, scaled, rounded once and clamped. -/
theorem finishes_of_value {x : RegForm} (hF : x.t.isF = true) {n : Nat} (hn : n < 4) {p : FVal × Flags} {s : Bool} {m : Nat} {e : Int}
    {q : Rat} (hp : p = (.fin s m e, 0)) (hq : sgn s * (m * 2 ^ e) = q) :
    Finishes x n q (floatResult x.t (rmOf n) x.clamp x.scale.toInt p).1
      (floatResult x.t (rmOf n) x.clamp x.scale.toInt p).2 := by
  rw [hp, ← hq]
  exact floatResult_fin hF hn x.clamp x.scale.toInt s m e

section Sum
variable {x : RegForm} (hF : x.t.isF = true) {n : Nat} (a b : BitVec x.t.bits)
include hF

/-- The result of a sum. -/
theorem sum_specials : SumSpecials x.t x.clamp n a b
    (floatResult x.t (rmOf n) x.clamp x.scale.toInt (faddV (rmOf n) (val x.t a) (val x.t b))).1
    (floatResult x.t (rmOf n) x.clamp x.scale.toInt (faddV (rmOf n) (val x.t a) (val x.t b))).2 where
  nan h := by rw [faddV_nan hF _ h]; exact floatResult_nan hF _ _ _ _
  clash ha hb hs := by
    have ht := Ty.isFloat_of_isF hF
    rw [faddV_eq hF _ (not_isNaN_of_isInfinite ha) (not_isNaN_of_isInfinite hb), val_inf ht ha, val_inf ht hb, addV_inf_inf,
      if_neg hs]
    exact floatResult_nan hF _ _ _ _
  infLeft ha hb := by
    have hnb : isNaN x.t b = false := hb.elim not_isNaN_of_number fun h => not_isNaN_of_isInfinite h.1
    rw [faddV_eq hF _ (not_isNaN_of_isInfinite ha) hnb, addV_infinite_left hF _ ha hb]
    exact floatResult_inf hF _ _ _ _ _
  infRight ha hb := by
    rw [faddV_eq hF _ (not_isNaN_of_number ha) (not_isNaN_of_isInfinite hb), addV_infinite_right hF _ ha hb]
    exact floatResult_inf hF _ _ _ _ _
  zero ha hb h0 := by
    obtain ⟨s, m, e, h, -, hz⟩ := addV_number hF (rmOf n) ha hb
    obtain ⟨rfl, hs⟩ := hz h0
    rw [faddV_eq hF _ (not_isNaN_of_number ha) (not_isNaN_of_number hb), h, hs, rmOf_rd]
    exact floatResult_zero hF _ _ _ _ _ _

theorem sum_finishes (hn : n < 4) (ha : special x.t a = false) (hb : special x.t b = false) :
    Finishes x n (number x.t a + number x.t b)
      (floatResult x.t (rmOf n) x.clamp x.scale.toInt (faddV (rmOf n) (val x.t a) (val x.t b))).1
      (floatResult x.t (rmOf n) x.clamp x.scale.toInt (faddV (rmOf n) (val x.t a) (val x.t b))).2 := by
  obtain ⟨s, m, e, h, hv, -⟩ := addV_number hF (rmOf n) ha hb
  rw [faddV_eq hF _ (not_isNaN_of_number ha) (not_isNaN_of_number hb)]
  exact finishes_of_value hF hn h hv

/-! ### Products -/

theorem fmulV_nan (h : isNaN x.t a = true ∨ isNaN x.t b = true) :
    fmulV (val x.t a) (val x.t b) = (.nan false, signals x.t [a, b]) := by
  have ht := Ty.isFloat_of_isF hF
  have hs := sigFlags_eq ht [a, b]
  simp only [List.map] at hs
  simp [fmulV, mulV_nan ht h, hs]

theorem fmulV_eq (ha : isNaN x.t a = false) (hb : isNaN x.t b = false) :
    fmulV (val x.t a) (val x.t b) = mulV (val x.t a) (val x.t b) := by
  have hs := sigFlags_eq (Ty.isFloat_of_isF hF) [a, b]
  rw [signals_eq_zero (by simp [ha, hb])] at hs
  simp only [List.map] at hs
  simp [fmulV, hs]

omit hF in
theorem not_isNaN_of_isZero {t : Ty} {r : BitVec t.bits} (h : isZero t r = true) : isNaN t r = false := by
  simp only [isZero, decide_eq_true_eq] at h
  exact not_isNaN_of_number (by rw [special_eq_false, h]; exact Nat.zero_le _)

omit hF in
theorem zeroTimesInf_not_nan {t : Ty} {a b : BitVec t.bits} (h : zeroTimesInf t a b) : isNaN t a = false ∧ isNaN t b = false := by
  rcases h with ⟨hz, hi⟩ | ⟨hi, hz⟩
  · exact ⟨not_isNaN_of_isZero hz, not_isNaN_of_isInfinite hi⟩
  · exact ⟨not_isNaN_of_isInfinite hi, not_isNaN_of_isZero hz⟩

/-- The result of a product. -/
theorem product_specials : ProductSpecials x.t x.clamp a b
    (floatResult x.t (rmOf n) x.clamp x.scale.toInt (fmulV (val x.t a) (val x.t b))).1
    (floatResult x.t (rmOf n) x.clamp x.scale.toInt (fmulV (val x.t a) (val x.t b))).2 where
  nan h := by rw [fmulV_nan hF a b h]; exact floatResult_nan hF _ _ _ _
  zeroInf h := by
    obtain ⟨ha, hb⟩ := zeroTimesInf_not_nan h
    rw [fmulV_eq hF a b ha hb, mulV_zeroInf (Ty.isFloat_of_isF hF) h]
    exact floatResult_nan hF _ _ _ _
  infinite h := by
    obtain ⟨-, ha, hb, -, -⟩ := id h
    rw [fmulV_eq hF a b ha hb, mulV_infProduct (Ty.isFloat_of_isF hF) h]
    exact floatResult_inf hF _ _ _ _ _
  zero ha hb hz := by
    obtain ⟨m, e, h, -, hm⟩ := mulV_number (Ty.isFloat_of_isF hF) ha hb
    rw [fmulV_eq hF a b (not_isNaN_of_number ha) (not_isNaN_of_number hb), h, hm.mpr hz]
    exact floatResult_zero hF _ _ _ _ _ _

theorem product_finishes (hn : n < 4) (ha : special x.t a = false) (hb : special x.t b = false) :
    Finishes x n (number x.t a * number x.t b)
      (floatResult x.t (rmOf n) x.clamp x.scale.toInt (fmulV (val x.t a) (val x.t b))).1
      (floatResult x.t (rmOf n) x.clamp x.scale.toInt (fmulV (val x.t a) (val x.t b))).2 := by
  obtain ⟨m, e, h, hv, -⟩ := mulV_number (Ty.isFloat_of_isF hF) ha hb
  rw [fmulV_eq hF a b (not_isNaN_of_number ha) (not_isNaN_of_number hb)]
  exact finishes_of_value hF hn h hv

/-! ### Fused products -/

variable (c : BitVec x.t.bits)

/-- Without a signalling NaN the flags are those of the product and of the sum. -/
theorem fmaV_eq (mode : RM) {p q : FVal × Flags} (hp : mulV (val x.t a) (val x.t b) = p) (hq : addV mode p.1 (val x.t c) = q) :
    fmaV mode (val x.t a) (val x.t b) (val x.t c) = (q.1, p.2 ||| q.2 ||| signals x.t [a, b, c]) := by
  have hs := sigFlags_eq (Ty.isFloat_of_isF hF) [a, b, c]
  simp only [List.map] at hs
  simp [fmaV, hp, hq, hs]

omit hF in
theorem nv_or_signals (vs : List (BitVec x.t.bits)) : Fl.nv ||| signals x.t vs = Fl.nv := by
  unfold signals
  split <;> decide

/-- The exact fused product of numbers, and the sign of a zero one. -/
theorem fmaV_number (mode : RM) (ha : special x.t a = false) (hb : special x.t b = false) (hc : special x.t c = false) :
    ∃ (s : Bool) (m : Nat) (e : Int), fmaV mode (val x.t a) (val x.t b) (val x.t c) = (.fin s m e, 0) ∧
      sgn s * (m * 2 ^ e) = number x.t a * number x.t b + number x.t c ∧
      (number x.t a * number x.t b + number x.t c = 0 → m = 0 ∧
        s = if (isZero x.t a = true ∨ isZero x.t b = true) ∧ isZero x.t c = true ∧ c.msb = (a.msb != b.msb) then c.msb
          else mode == .rd) := by
  have ht := Ty.isFloat_of_isF hF
  obtain ⟨m1, e1, hp, hv1, hz1⟩ := mulV_number ht ha hb
  obtain ⟨m2, e2, hvc, hnc, hzc⟩ := val_fin ht hc
  obtain ⟨s, m, e, h, hv, hz⟩ := addV_fin mode (a.msb != b.msb) m1 e1 c.msb m2 e2
  refine ⟨s, m, e, ?_, by rw [hv, hv1, hnc], fun h0 => ?_⟩
  · have hsig : signals x.t [a, b, c] = 0 := signals_eq_zero (by
      simp [not_isNaN_of_number ha, not_isNaN_of_number hb, not_isNaN_of_number hc])
    rw [fmaV_eq hF a b c mode hp (q := (.fin s m e, 0)) (by rw [hvc]; exact h), hsig]
    simp
  · rw [hv1, ← hnc] at hz
    obtain ⟨hm, hs⟩ := hz h0
    refine ⟨hm, ?_⟩
    rw [hs]
    simp only [hz1, hzc]
    by_cases hmsb : c.msb = (a.msb != b.msb)
    · simp [hmsb]
    · rw [if_neg (fun h => hmsb h.2.2.symm), if_neg (fun h => hmsb h.2.2)]

omit hF in
/-- A product that is no 0 × ∞ and has no NaN factor raises nothing. -/
theorem mulV_quiet (ht : x.t.isFloat = true) (hz : ¬zeroTimesInf x.t a b)
    (ha : isNaN x.t a = false) (hb : isNaN x.t b = false) : ∃ p, mulV (val x.t a) (val x.t b) = (p, 0) := by
  by_cases hinf : isInfinite x.t a = true ∨ isInfinite x.t b = true
  · refine ⟨_, mulV_infProduct ht ⟨hinf, ha, hb, Bool.eq_false_iff.mpr fun hza => ?_, Bool.eq_false_iff.mpr fun hzb => ?_⟩⟩
    · rcases hinf with hi | hi
      · simp [not_isZero_of_isInfinite hi] at hza
      · exact hz (.inl ⟨hza, hi⟩)
    · rcases hinf with hi | hi
      · exact hz (.inr ⟨hi, hzb⟩)
      · simp [not_isZero_of_isInfinite hi] at hzb
  · rw [not_or] at hinf
    obtain ⟨m, e, hm, -, -⟩ := mulV_number ht (a := a) (b := b) (by simpa [isInfinite, ha] using hinf.1)
      (by simpa [isInfinite, hb] using hinf.2)
    exact ⟨_, hm⟩

omit hF in
/-- A NaN operand that meets no 0 × ∞ makes the fused product a NaN, the sum raising nothing. -/
theorem mulV_addV_nan (ht : x.t.isFloat = true) (mode : RM) (hz : ¬zeroTimesInf x.t a b)
    (h : isNaN x.t a = true ∨ isNaN x.t b = true ∨ isNaN x.t c = true) :
    ∃ p, mulV (val x.t a) (val x.t b) = (p, 0) ∧ addV mode p (val x.t c) = (.nan false, 0) := by
  by_cases hab : isNaN x.t a = true ∨ isNaN x.t b = true
  · exact ⟨_, mulV_nan ht hab, addV_nan_left _ _ _⟩
  · rw [not_or] at hab
    obtain ⟨hna, hnb⟩ := hab
    have hc : isNaN x.t c = true := by simpa [hna, hnb] using h
    obtain ⟨p, hp⟩ := mulV_quiet a b ht hz (by simpa using hna) (by simpa using hnb)
    exact ⟨p, hp, by rw [val_nan ht hc, addV_nan_right]⟩

/-- The result of a fused product. -/
theorem fused_specials : FusedSpecials x.t x.clamp n a b c
    (floatResult x.t (rmOf n) x.clamp x.scale.toInt (fmaV (rmOf n) (val x.t a) (val x.t b) (val x.t c))).1
    (floatResult x.t (rmOf n) x.clamp x.scale.toInt (fmaV (rmOf n) (val x.t a) (val x.t b) (val x.t c))).2 where
  zeroInf h := by
    rw [fmaV_eq hF a b c _ (mulV_zeroInf (Ty.isFloat_of_isF hF) h) (addV_nan_left _ _ _)]
    simp only [flags_or_zero, nv_or_signals]
    exact floatResult_nan hF _ _ _ _
  nan hz h := by
    have ht := Ty.isFloat_of_isF hF
    obtain ⟨p, hp, hq⟩ := mulV_addV_nan a b c ht (rmOf n) hz h
    rw [fmaV_eq hF a b c _ hp hq]
    simp only [flags_zero_or]
    exact floatResult_nan hF _ _ _ _
  clash h hc hs := by
    have ht := Ty.isFloat_of_isF hF
    obtain ⟨-, ha, hb, -, -⟩ := id h
    rw [fmaV_eq hF a b c _ (mulV_infProduct ht h) (by rw [val_inf ht hc, addV_inf_inf, if_neg (Ne.symm hs)])]
    simp only [flags_zero_or, nv_or_signals]
    exact floatResult_nan hF _ _ _ _
  product h hc := by
    have ht := Ty.isFloat_of_isF hF
    obtain ⟨-, ha, hb, -, -⟩ := id h
    have hnc : isNaN x.t c = false := hc.elim not_isNaN_of_number fun h => not_isNaN_of_isInfinite h.1
    have hq : addV (rmOf n) (.inf (a.msb != b.msb)) (val x.t c) = (.inf (a.msb != b.msb), 0) := by
      rcases hc with hc | ⟨hc, hs⟩
      · obtain ⟨m, e, hv, -, -⟩ := val_fin ht hc
        rw [hv, addV_inf_fin]
      · rw [val_inf ht hc, addV_inf_inf, if_pos hs.symm]
    rw [fmaV_eq hF a b c _ (mulV_infProduct ht h) hq, signals_eq_zero (by simp [ha, hb, hnc])]
    simp only [flags_zero_or]
    exact floatResult_inf hF _ _ _ _ _
  addend ha hb hc := by
    have ht := Ty.isFloat_of_isF hF
    obtain ⟨m, e, hm, -, -⟩ := mulV_number ht ha hb
    rw [fmaV_eq hF a b c _ hm (by rw [val_inf ht hc, addV_fin_inf]), signals_eq_zero (by
      simp [not_isNaN_of_number ha, not_isNaN_of_number hb, not_isNaN_of_isInfinite hc])]
    simp only [flags_zero_or]
    exact floatResult_inf hF _ _ _ _ _
  zero ha hb hc h0 := by
    obtain ⟨s, m, e, h, -, hz⟩ := fmaV_number hF a b c (rmOf n) ha hb hc
    obtain ⟨rfl, hs⟩ := hz h0
    rw [h, hs, rmOf_rd]
    exact floatResult_zero hF _ _ _ _ _ _

theorem fused_finishes (hn : n < 4) (ha : special x.t a = false) (hb : special x.t b = false) (hc : special x.t c = false) :
    Finishes x n (number x.t a * number x.t b + number x.t c)
      (floatResult x.t (rmOf n) x.clamp x.scale.toInt (fmaV (rmOf n) (val x.t a) (val x.t b) (val x.t c))).1
      (floatResult x.t (rmOf n) x.clamp x.scale.toInt (fmaV (rmOf n) (val x.t a) (val x.t b) (val x.t c))).2 := by
  obtain ⟨s, m, e, h, hv, -⟩ := fmaV_number hF a b c (rmOf n) ha hb hc
  exact finishes_of_value hF hn h hv

end Sum

/-! ### The scalar instructions -/

theorem Thread.rm_eq (h : Thread) : h.rm = rmOf (h.rmode.toNat % 4) := ofBits_eq h.rmode

theorem mode_lt (h : Thread) : h.rmode.toNat % 4 < 4 := Nat.mod_lt _ (by decide)

/-- A scalar float instruction writes the result of its operation on the values of its sources. -/
theorem givesFloat_of {mk : RegForm → Instr} {g : RM → FVal → FVal → FVal → FVal × Flags} {x : RegForm} {s : State}
    {p : BitVec x.t.bits → Flags → Prop} (hexec : exec (mk x) s = scalarFloat x s g) (hF : x.t.isF = true)
    (hg : s.cur.guardOk x.g = true)
    (hp :
      let q := g (rmOf (s.cur.rmode.toNat % 4)) (val x.t (floatSrc s.cur x.t x.m1 x.s1))
        (val x.t (floatSrc s.cur x.t x.m2 x.s2)) (val x.t (floatSrc s.cur x.t x.m3 x.s3))
      p (floatResult x.t (rmOf (s.cur.rmode.toNat % 4)) x.clamp x.scale.toInt q).1
        (floatResult x.t (rmOf (s.cur.rmode.toNat % 4)) x.clamp x.scale.toInt q).2) : GivesFloat mk x s p := by
  have ht := Ty.isFloat_of_isF hF
  refine ⟨_, hexec.trans (scalar_pass _ _ _ hg), _, _, ?_, hp⟩
  rw [Thread.rm_eq, val_srcT ht, val_srcT ht, val_srcT ht, scaleOf, finishF_toNat ht (mode_lt s.cur), BitVec.ofNat_toNat]
  exact wroteSF_putSF _ _ _ _

/-- Settles O17: the value of each operation is the exact result, and the model's rounding is R107's. -/
theorem floatRounding : Obligations.FloatRounding := by
  unfold Obligations.FloatRounding
  intro x s hF hg a b c p ha hb
  have hn := mode_lt s.cur
  have hb' : special x.t (b ^^^ zeroOf x.t true) = false := by rw [special_xor_sign, hb]
  refine ⟨givesFloat_of (g := fun m a b _ => faddV m a b) ?_ hF hg (sum_finishes hF a b hn ha hb),
    givesFloat_of (g := fun m a b _ => faddV m a b.neg) ?_ hF hg ?sub,
    givesFloat_of (g := fun _ a b _ => fmulV a b) ?_ hF hg (product_finishes hF a b hn ha hb),
    fun hc => givesFloat_of (g := fun m a b c => fmaV m a b c) ?_ hF hg (fused_finishes hF a b c hn ha hb hc)⟩
  case sub =>
    have h := sum_finishes hF a (b ^^^ zeroOf x.t true) hn ha hb'
    rwa [number_xor_sign (Ty.isFloat_of_isF hF), ← sub_eq_add_neg, val_xor_sign (Ty.isFloat_of_isF hF)] at h
  all_goals simp only [exec]; rfl

/-- Settles O18: the value of each operation on NaNs, infinities and zeros, and what it becomes. -/
theorem floatSpecials : Obligations.FloatSpecials := by
  unfold Obligations.FloatSpecials
  intro x s hF hg a b c m
  refine ⟨givesFloat_of (g := fun m a b _ => faddV m a b) ?_ hF hg (sum_specials hF a b),
    givesFloat_of (g := fun m a b _ => faddV m a b.neg) ?_ hF hg ?sub,
    givesFloat_of (g := fun _ a b _ => fmulV a b) ?_ hF hg (product_specials hF a b),
    givesFloat_of (g := fun m a b c => fmaV m a b c) ?_ hF hg (fused_specials hF a b c)⟩
  case sub =>
    have h := sum_specials (n := m) hF a (b ^^^ zeroOf x.t true)
    rwa [val_xor_sign (Ty.isFloat_of_isF hF)] at h
  all_goals simp only [exec]; rfl

end Sys2Proof.Machine

/-! Proofs: the bytes of a row that a vector instruction writes to TCM, run by run (R49, R124, R194). -/

namespace Sys2Proof.Machine

/-! ### The runs of touched bytes -/

/-- Is byte k in one of the runs? -/
def Covered (R : List (Nat × List Byte)) (k : Nat) : Prop := ∃ r ∈ R, r.1 ≤ k ∧ k < r.1 + r.2.length

/-- What a list of runs of bytes bs from place i on must be: each run holds its bytes, the touched bytes are covered and no
others, and between a run and any later one there is a gap. -/
structure RunsOf (i : Nat) (bs : List Byte) (ts : List Bool) (R : List (Nat × List Byte)) : Prop where
  covered : ∀ k, Covered R k ↔ i ≤ k ∧ ts[k - i]? = some true
  bytes : ∀ r ∈ R, ∀ k, r.1 ≤ k → k < r.1 + r.2.length → i ≤ k ∧ r.2[k - r.1]? = bs[k - i]?
  gaps : R.Pairwise fun r r' => r.1 + r.2.length < r'.1

theorem RunsOf.skip {i : Nat} {b : Byte} {bs : List Byte} {ts : List Bool} {R : List (Nat × List Byte)}
    (h : RunsOf (i + 1) bs ts R) : RunsOf i (b :: bs) (false :: ts) R where
  covered k := by
    rw [h.covered]
    rcases Nat.lt_trichotomy k i with hk | rfl | hk
    · simp only [show ¬i + 1 ≤ k by omega, show ¬i ≤ k by omega, false_and]
    · simp
    · rw [show k - i = k - (i + 1) + 1 by omega, List.getElem?_cons_succ]
      simp only [show i + 1 ≤ k by omega, show i ≤ k by omega, true_and]
  bytes r hr k h1 h2 := by
    obtain ⟨hk, hb⟩ := h.bytes r hr k h1 h2
    exact ⟨by omega, by rw [hb, show k - i = k - (i + 1) + 1 by omega, List.getElem?_cons_succ]⟩
  gaps := h.gaps

section
variable {i : Nat} {b : Byte} {bs : List Byte} {ts : List Bool} {R : List (Nat × List Byte)}

/-- The touched bytes with a touched one before them. -/
theorem RunsOf.covered_cons (h : RunsOf (i + 1) bs ts R) (k : Nat) :
    (i ≤ k ∧ (true :: ts)[k - i]? = some true) ↔ k = i ∨ Covered R k := by
  rw [h.covered]
  rcases Nat.lt_trichotomy k i with hk | rfl | hk
  · omega
  · simp
  · rw [show k - i = k - (i + 1) + 1 by omega, List.getElem?_cons_succ]
    simp only [show i + 1 ≤ k by omega, show i ≤ k by omega, true_and, show k ≠ i by omega, false_or]

/-- The runs' bytes with a byte before them. -/
theorem RunsOf.bytes_cons (h : RunsOf (i + 1) bs ts R) {r : Nat × List Byte} (hr : r ∈ R) {k : Nat} (h1 : r.1 ≤ k)
    (h2 : k < r.1 + r.2.length) : i < k ∧ r.2[k - r.1]? = (b :: bs)[k - i]? := by
  obtain ⟨hk, hb⟩ := h.bytes r hr k h1 h2
  exact ⟨by omega, by rw [hb, show k - i = k - (i + 1) + 1 by omega, List.getElem?_cons_succ]⟩

/-- A touched byte before a gap is a run of its own. -/
theorem RunsOf.single (h : RunsOf (i + 1) bs ts R) (hgap : ∀ r ∈ R, i + 1 < r.1) :
    RunsOf i (b :: bs) (true :: ts) ((i, [b]) :: R) where
  covered k := by
    rw [h.covered_cons]
    simp only [Covered, List.exists_mem_cons_iff, List.length_cons, List.length_nil]
    exact or_congr_left (by omega)
  bytes r hr k h1 h2 := by
    rcases List.mem_cons.mp hr with rfl | hr
    · obtain rfl : k = i := by simp at h1 h2; omega
      simp
    · exact ⟨(h.bytes_cons (b := b) hr h1 h2).1.le, (h.bytes_cons hr h1 h2).2⟩
  gaps := List.pairwise_cons.mpr ⟨by simpa using hgap, h.gaps⟩

/-- A touched byte right before a run joins it. -/
theorem RunsOf.join {r : List Byte} (h : RunsOf (i + 1) bs ts ((i + 1, r) :: R)) :
    RunsOf i (b :: bs) (true :: ts) ((i, b :: r) :: R) where
  covered k := by
    rw [h.covered_cons]
    simp only [Covered, List.exists_mem_cons_iff, List.length_cons]
    rw [← or_assoc]
    exact or_congr_left (by omega)
  bytes r' hr k h1 h2 := by
    rcases List.mem_cons.mp hr with rfl | hr
    · refine ⟨h1, ?_⟩
      rcases Nat.eq_or_lt_of_le h1 with rfl | hlt
      · simp
      · simp only [List.length_cons] at h2
        have hb := (h.bytes_cons (b := b) (r := (i + 1, r)) (by simp) hlt (by simp only; omega)).2
        rw [← hb, show k - i = k - (i + 1) + 1 by omega, List.getElem?_cons_succ]
    · have hr' := List.mem_cons_of_mem (i + 1, r) hr
      exact ⟨(h.bytes_cons (b := b) hr' h1 h2).1.le, (h.bytes_cons hr' h1 h2).2⟩
  gaps := by
    obtain ⟨hfirst, hrest⟩ := List.pairwise_cons.mp h.gaps
    refine List.pairwise_cons.mpr ⟨fun r' hr' => ?_, hrest⟩
    have := hfirst r' hr'
    simp only [List.length_cons] at this ⊢
    omega

end

/-- The touched bytes, run by run. -/
theorem runsOf_touchedRuns (i : Nat) (bs : List Byte) (ts : List Bool) (hlen : bs.length = ts.length) :
    RunsOf i bs ts (touchedRuns i bs ts) ∧ ∀ r ∈ touchedRuns i bs ts, i ≤ r.1 := by
  induction bs generalizing i ts with
  | nil =>
    obtain rfl : ts = [] := List.eq_nil_of_length_eq_zero hlen.symm
    refine ⟨⟨fun k => ?_, fun r hr => ?_, .nil⟩, fun r hr => ?_⟩
    · simp [touchedRuns, Covered]
    · simp [touchedRuns] at hr
    · simp [touchedRuns] at hr
  | cons b bs ih =>
    obtain ⟨t, ts, rfl⟩ : ∃ t ts', ts = t :: ts' := by
      cases ts with
      | nil => cases hlen
      | cons t ts => exact ⟨t, ts, rfl⟩
    obtain ⟨hruns, hge⟩ := ih (i + 1) ts (by simpa using hlen)
    cases t with
    | false => exact ⟨by rw [touchedRuns]; exact hruns.skip, fun r hr => by rw [touchedRuns] at hr; have := hge r hr; omega⟩
    | true =>
      rw [touchedRuns]
      generalize touchedRuns (i + 1) bs ts = R at hruns hge
      cases R with
      | nil => exact ⟨hruns.single (by simp), by simp⟩
      | cons r R =>
        obtain ⟨j, r⟩ := r
        have hfirst := hge (j, r) (by simp)
        have hlater : ∀ r' ∈ R, j < r'.1 := fun r' hr' => by
          have := (List.pairwise_cons.mp hruns.gaps).1 r' hr'
          dsimp only at this
          omega
        dsimp only
        split
        case isTrue hij =>
          obtain rfl : j = i + 1 := by simpa using hij
          refine ⟨hruns.join, fun r' hr' => ?_⟩
          rcases List.mem_cons.mp hr' with rfl | hr'
          · exact le_refl _
          · have := hlater r' hr'; omega
        case isFalse hij =>
          have hij : i + 1 < j := lt_of_le_of_ne hfirst fun h => hij (by simp [h])
          refine ⟨hruns.single fun r' hr' => ?_, fun r' hr' => ?_⟩
          · rcases List.mem_cons.mp hr' with rfl | hr'
            · exact hij
            · have := hlater r' hr'; omega
          · rcases List.mem_cons.mp hr' with rfl | hr'
            · exact le_refl _
            · have := hge r' hr'; omega

/-- Touched bytes in a row lie in one run. -/
theorem RunsOf.one_run {i : Nat} {bs : List Byte} {ts : List Bool} {R : List (Nat × List Byte)} (h : RunsOf i bs ts R)
    (a n : Nat) (hall : ∀ m, m ≤ n → Covered R (a + m)) : ∃ r ∈ R, r.1 ≤ a ∧ a + n < r.1 + r.2.length := by
  induction n with
  | zero => exact hall 0 (le_refl _)
  | succ n ih =>
    obtain ⟨r, hr, h1, h2⟩ := ih fun m hm => hall m (by omega)
    obtain ⟨r', hr', h1', h2'⟩ := hall (n + 1) (le_refl _)
    by_cases hlt : a + (n + 1) < r.1 + r.2.length
    · exact ⟨r, hr, h1, hlt⟩
    · -- the next byte would begin another run without a gap
      exfalso
      have hne : r ≠ r' := by rintro rfl; omega
      obtain ⟨k, hk, rfl⟩ := List.getElem_of_mem hr
      obtain ⟨k', hk', rfl⟩ := List.getElem_of_mem hr'
      have hgap := List.pairwise_iff_getElem.mp h.gaps
      rcases Nat.lt_trichotomy k k' with hkk | rfl | hkk
      · have := hgap k k' hk hk' hkk; omega
      · exact hne rfl
      · have := hgap k' k hk' hk hkk; omega

/-! ### Writing the runs -/

/-- A byte after a run of writes that all take a byte from one place: that byte where a write covers it. -/
theorem readByte_writeRuns (m : Cells) (a : Nat) (g : Nat → Byte) (R : List (Nat × List Byte))
    (hg : ∀ r ∈ R, ∀ k, r.1 ≤ k → k < r.1 + r.2.length → r.2[k - r.1]? = some (g k)) (k : Nat) :
    ((∃ j, k = a + j ∧ Covered R j ∧ readByte (R.foldl (fun m r => writeBytes m (a + r.1) r.2) m) k = g j)) ∨
      (¬(∃ j, k = a + j ∧ Covered R j) ∧ readByte (R.foldl (fun m r => writeBytes m (a + r.1) r.2) m) k = readByte m k) := by
  induction R generalizing m with
  | nil => exact .inr ⟨fun ⟨j, _, r, hr, _⟩ => by simp at hr, rfl⟩
  | cons r R ih =>
    rcases ih (writeBytes m (a + r.1) r.2) fun r' hr' => hg r' (List.mem_cons_of_mem _ hr') with ⟨j, hk, ⟨r', hr', hc⟩, hb⟩ | ⟨hno, hb⟩
    · exact .inl ⟨j, hk, ⟨r', List.mem_cons_of_mem _ hr', hc⟩, hb⟩
    · rw [List.foldl_cons, hb, readByte_writeBytes]
      split
      case isTrue hin =>
        refine .inl ⟨k - a, by omega, ⟨r, by simp, by omega, by omega⟩, ?_⟩
        have := hg r (by simp) (k - a) (by omega) (by omega)
        rw [List.getD_eq_getElem?_getD, show k - (a + r.1) = k - a - r.1 by omega, this]
        rfl
      case isFalse hout =>
        refine .inr ⟨fun ⟨j, hk, r', hr', h1, h2⟩ => ?_, rfl⟩
        rcases List.mem_cons.mp hr' with rfl | hr'
        · omega
        · exact hno ⟨j, hk, r', hr', h1, h2⟩

/-- The runs of a context's TCM written at a place of a core: the cells, and the error marks of the lines written whole. -/
theorem foldl_setChip (c : Context) (cluster core a : Nat) (R : List (Nat × List Byte)) :
    R.foldl (fun c r => c.setChip .tcm cluster core (a + r.1) r.2) c =
      { c with
        tcm := R.foldl (fun m r => writeBytes m (coreKey cluster core + a + r.1) r.2) c.tcm
        tcmBad := c.tcmBad.filter fun l => R.all fun r => !wholeLine (coreKey cluster core + a + r.1) r.2.length l } := by
  induction R generalizing c with
  | nil => simp
  | cons r R ih =>
    rw [List.foldl_cons, ih]
    simp only [Context.setChip, List.foldl_cons, List.filter_filter, List.all_cons, ← Nat.add_assoc, Bool.and_comm]

/-! ### A context written twice -/

theorem modWhere_modWhere {α : Type} (p : α → Bool) (f g : α → α) (xs : List α) (hf : ∀ x, p (f x) = p x) :
    modWhere p g (modWhere p f xs) = modWhere p (g ∘ f) xs := by
  unfold modWhere
  rw [List.map_map]
  refine List.map_congr_left fun x _ => ?_
  by_cases h : p x = true <;> simp [h, hf]

theorem State.modCtx_modCtx (s : State) (k : CtxId) (f g : Context → Context) (hf : ∀ c, (f c).num = c.num) :
    (s.modCtx k f).modCtx k g = s.modCtx k (g ∘ f) := by
  unfold State.modCtx State.modPart
  dsimp only
  rw [modWhere_modWhere]
  · congr 2
    funext p
    simp only [Function.comp_apply]
    rw [modWhere_modWhere _ _ _ _ fun c => by rw [hf]]
  · intro p; rfl

theorem State.modCtx_id (s : State) (k : CtxId) : s.modCtx k (fun c => c) = s := by
  unfold State.modCtx State.modPart modWhere
  simp

theorem Context.setChip_num (c : Context) (cluster core a : Nat) (bs : List Byte) :
    (c.setChip .tcm cluster core a bs).num = c.num := rfl

/-- R124: the touched bytes of a row in TCM, as one change of the issuing thread's context. -/
theorem State.writeRow_eq (s : State) (a n x : Nat) (ts : List Bool) : s.writeRow a n x ts =
    s.modCtx s.curCtx fun c =>
      (touchedRuns 0 (leBytes n x) ts).foldl (fun c r => c.setChip .tcm s.cur.cluster s.cur.core (a + r.1) r.2) c := by
  unfold State.writeRow
  generalize touchedRuns 0 (leBytes n x) ts = R
  induction R generalizing s with
  | nil => exact (s.modCtx_id _).symm
  | cons r R ih =>
    rw [List.foldl_cons, ih]
    unfold State.setChip
    rw [show (s.modCtx s.curCtx fun c => c.setChip .tcm s.cur.cluster s.cur.core (a + r.1) r.2).curCtx = s.curCtx from rfl,
      State.modCtx_cur]
    exact State.modCtx_modCtx s _ _ _ fun c => rfl

end Sys2Proof.Machine

/-! Proofs: rows of elements and the destination of a vector instruction (R41, R49, R53, R123, R124). -/

namespace Sys2Proof.Machine

/-! ### Elements of a row -/

theorem elem_lt (w i v : Nat) : elem w i v < 2 ^ w := Nat.mod_lt _ (by positivity)

theorem testBit_elem (w i v b : Nat) : (elem w i v).testBit b = (decide (b < w) && v.testBit (i * w + b)) := by
  rw [elem, Nat.testBit_mod_two_pow, Nat.testBit_div_two_pow, Nat.add_comm]

/-- Element i of a register is the model's. -/
theorem lane_eq (t : Ty) (v : VWord) (i : Nat) : lane t v i = BitVec.ofNat t.bits (elem t.bits i v.toNat) := by
  apply BitVec.eq_of_toNat_eq
  rw [lane, BitVec.extractLsb'_toNat, BitVec.toNat_ofNat, elem, Nat.mod_mod, Nat.shiftRight_eq_div_pow]

theorem packElems_lt (w : Nat) (es : List Nat) : packElems w es < 2 ^ (w * es.length) := by
  induction es with
  | nil => simp [packElems]
  | cons e es ih =>
    have hlow : e % 2 ^ w < 2 ^ w := Nat.mod_lt _ (by positivity)
    have hval : packElems w (e :: es) = packElems w es * 2 ^ w + e % 2 ^ w := rfl
    rw [hval, List.length_cons, Nat.mul_succ, Nat.pow_add]
    calc packElems w es * 2 ^ w + e % 2 ^ w < (packElems w es + 1) * 2 ^ w := by rw [Nat.add_mul, Nat.one_mul]; omega
      _ ≤ _ := Nat.mul_le_mul_right _ ih

theorem elem_packElems (w : Nat) (es : List Nat) (i : Nat) (h : i < es.length) :
    elem w i (packElems w es) = es[i] % 2 ^ w := by
  induction es generalizing i with
  | nil => simp at h
  | cons e es ih =>
    have hlow : e % 2 ^ w < 2 ^ w := Nat.mod_lt _ (by positivity)
    have hval : packElems w (e :: es) = packElems w es * 2 ^ w + e % 2 ^ w := rfl
    rw [elem, hval]
    cases i with
    | zero => simp [Nat.mul_comm (packElems w es)]
    | succ i =>
      rw [Nat.succ_mul, Nat.add_comm (i * w), Nat.pow_add, ← Nat.div_div_eq_div_mul, Nat.mul_comm (packElems w es),
        Nat.mul_add_div (by positivity), Nat.div_eq_of_lt hlow, Nat.add_zero, List.getElem_cons_succ]
      exact ih i (by simpa using h)

/-- Merged elements, place by place. -/
theorem mergeElems_map {α : Type} (A : α → Bool) (N O : α → Nat) (l : List α) :
    mergeElems (l.map A) (l.map N) (l.map O) = l.map fun i => if A i = true then N i else O i := by
  induction l with
  | nil => rfl
  | cons i l ih =>
    simp only [List.map_cons]
    cases h : A i <;> simp [mergeElems, ih]

/-- The flags of active elements, joined to others. -/
theorem activeFlags_map {α : Type} (A : α → Bool) (R : α → Nat × Flags) (l : List α) (f : Flags) :
    f ||| activeFlags (l.map A) (l.map R) = (l.filter A).foldl (fun y i => y ||| (R i).2) f := by
  induction l generalizing f with
  | nil => exact BitVec.or_zero
  | cons i l ih =>
    simp only [List.map_cons]
    cases h : A i
    · rw [activeFlags, List.filter_cons_of_neg (by simp [h]), ih]
    · rw [activeFlags, List.filter_cons_of_pos h, List.foldl_cons, ← ih, BitVec.or_assoc]

/-! ### Bytes of a row -/

theorem leBytes_getElem? (n v k : Nat) (h : k < n) : (leBytes n v)[k]? = some (BitVec.ofNat 8 (v / 2 ^ (8 * k))) := by
  induction n generalizing v k with
  | zero => omega
  | succ n ih =>
    cases k with
    | zero => simp [leBytes]
    | succ k =>
      rw [leBytes, List.getElem?_cons_succ, ih _ _ (by omega), Nat.div_div_eq_div_mul, Nat.mul_succ, Nat.pow_add, Nat.mul_comm]

theorem leBytes_leVal (bs : List Byte) : leBytes bs.length (leVal bs) = bs := by
  induction bs with
  | nil => rfl
  | cons b bs ih =>
    have hb := b.isLt
    rw [List.length_cons, leVal, leBytes, Nat.add_mul_div_left _ _ (by decide), Nat.div_eq_of_lt hb, Nat.zero_add, ih]
    congr 1
    apply BitVec.eq_of_toNat_eq
    rw [BitVec.toNat_ofNat, Nat.add_mul_mod_self_left, Nat.mod_eq_of_lt hb]

/-- Two rows agree in the bytes of an element in which they agree. -/
theorem byte_of_elem {w : Nat} (hw : 8 ∣ w) (hpos : 0 < w) {v v' i k : Nat} (he : elem w i v = elem w i v') (hi : 8 * k / w = i) :
    BitVec.ofNat 8 (v / 2 ^ (8 * k)) = BitVec.ofNat 8 (v' / 2 ^ (8 * k)) := by
  obtain ⟨m, rfl⟩ := hw
  have hk : i * (8 * m) ≤ 8 * k ∧ 8 * k + 8 ≤ i * (8 * m) + 8 * m := by
    have h1 := Nat.div_mul_le_self (8 * k) (8 * m)
    have h2 := Nat.lt_div_mul_add hpos (a := 8 * k)
    rw [hi] at h1 h2
    rw [show i * (8 * m) = 8 * (i * m) by ring] at *
    omega
  apply BitVec.eq_of_toNat_eq
  rw [BitVec.toNat_ofNat, BitVec.toNat_ofNat]
  apply Nat.eq_of_testBit_eq
  intro b
  rw [Nat.testBit_mod_two_pow, Nat.testBit_mod_two_pow, Nat.testBit_div_two_pow, Nat.testBit_div_two_pow]
  by_cases hb : b < 8
  · have h1 := congrArg (fun x => x.testBit (8 * k - i * (8 * m) + b)) he
    simp only [testBit_elem] at h1
    rw [decide_eq_true (by omega), Bool.true_and, Bool.true_and,
      show i * (8 * m) + (8 * k - i * (8 * m) + b) = b + 8 * k by omega] at h1
    rw [h1]
  · simp [hb]

/-! ### Activity (R49) -/

theorem activity_eq (h : Thread) (g : Guard) (w n : Nat) (hn : n * w ≤ 512) :
    h.activity g w n = (List.range n).map fun i => active h g w i := by
  unfold Thread.activity actives activeAt guardMask predBit active
  refine List.map_congr_left fun i hi => ?_
  have hi := List.mem_range.mp hi
  have hbit : i * w / 8 < 64 := by
    rw [Nat.div_lt_iff_lt_mul (by decide)]
    rcases Nat.eq_zero_or_pos w with rfl | hw
    · omega
    · calc i * w < n * w := Nat.mul_lt_mul_of_pos_right hi hw
        _ ≤ 64 * 8 := hn
  cases g.inv
  · simp
  · simp [hbit]

/-! ### Stream pointers (R53) -/

/-- The low half of a pointer moves by its stride. -/
theorem stepped_eq (v : Word) : (v &&& (0xFFFFFFFF00000000 : Word)) ||| (BitVec.truncate 32 v +
    BitVec.signExtend 32 (BitVec.truncate 16 (v >>> 32) : BitVec 16)).zeroExtend 64 = stepped v := by
  unfold stepped
  have hlo : BitVec.truncate 32 v = v.extractLsb' 0 32 := by
    apply BitVec.eq_of_getLsbD_eq; intro i hi; simp [hi]
  have hst : BitVec.truncate 16 (v >>> 32) = v.extractLsb' 32 16 := by
    apply BitVec.eq_of_getLsbD_eq; intro i hi; simp [hi]
  rw [hlo, hst]
  generalize v.extractLsb' 0 32 + BitVec.signExtend 32 (v.extractLsb' 32 16) = y
  have hmask (i : Nat) : (0xFFFFFFFF00000000 : Word).getLsbD i = (decide (32 ≤ i) && decide (i < 64)) := by
    rw [show (0xFFFFFFFF00000000 : Word) = (BitVec.allOnes 32) ++ (0 : BitVec 32) by decide, BitVec.getLsbD_append]
    by_cases hi : i < 32
    · simp [hi]
    · rw [if_neg hi, BitVec.getLsbD_allOnes, decide_eq_true (show 32 ≤ i by omega), Bool.true_and, decide_eq_decide]; omega
  apply BitVec.eq_of_getLsbD_eq
  intro i hi
  rw [BitVec.getLsbD_or, BitVec.getLsbD_and, hmask, BitVec.getLsbD_append]
  by_cases hlt : i < 32
  · simp [hlt, hi]
  · simp [hlt, hi, show 32 ≤ i by omega, show i - 32 < 32 by omega, show 32 + (i - 32) = i by omega]

/-- A pointer after a post-increment. -/
theorem stepQ_eq (h : Thread) (q : BitVec 3) : h.stepQ q = h.setQ q (stepped (h.qreg q)) := by
  rw [← stepped_eq]
  rfl

/-- Each post-incremented pointer steps in turn. -/
theorem stepStreams_eq (h : Thread) (x : RegForm) : h.stepStreams x = x.incs.foldl (fun h q => h.stepQ q) h := by
  unfold RegForm.incs
  rw [List.foldl_filterMap]
  unfold Thread.stepStreams Thread.stepOpnd
  simp only [List.foldl_cons, List.foldl_nil]
  cases x.dst <;> cases x.s1 <;> cases x.s2 <;> cases x.s3 <;> rfl

/-- Pointers that step once each, and nothing else of the thread. -/
theorem steps_spec (qs : List (BitVec 3)) (hnd : qs.Nodup) (h : Thread) :
    qs.foldl (fun h q => h.stepQ q) h = { h with q := (qs.foldl (fun h q => h.stepQ q) h).q } ∧
      ∀ n, (qs.foldl (fun h q => h.stepQ q) h).qreg n = if n ∈ qs then stepped (h.qreg n) else h.qreg n := by
  induction qs generalizing h with
  | nil => exact ⟨rfl, fun n => by simp⟩
  | cons q qs ih =>
    obtain ⟨hq, hnd⟩ := List.nodup_cons.mp hnd
    obtain ⟨hrest, hreg⟩ := ih hnd (h.stepQ q)
    rw [List.foldl_cons]
    refine ⟨?_, fun n => ?_⟩
    · generalize qs.foldl (fun h q => h.stepQ q) (h.stepQ q) = X at hrest
      refine hrest.trans ?_
      rw [stepQ_eq]
      rfl
    · rw [hreg, stepQ_eq]
      by_cases hn : n = q
      · subst hn
        simp [hq, Thread.qreg_setQ_same]
      · rw [Thread.qreg_setQ_ne _ _ _ _ hn]
        simp [hn]

end Sys2Proof.Machine

/-! Proofs: a vector instruction that can run reads its sources, and what its destination write leaves (R49, R52, R124). -/

namespace Sys2Proof.Machine

/-! ### A vector instruction that can run (R52, R124) -/

theorem streamFault_none (h : Thread) (ps : List VPos)
    (hp : ∀ p ∈ ps, Opnd.isStream p.o = true → h.qaddr (Opnd.q p.o) % 8 = 0 ∧ h.qaddr (Opnd.q p.o) + 256 ≤ h.tcmLimit)
    (hg : ∀ p ∈ ps, p.g ≤ 4 ∧ p.size ∣ 8) : streamFault h ps = none := by
  induction ps with
  | nil => rfl
  | cons p ps ih =>
    have hrest := ih (fun p' h' => hp p' (List.mem_cons_of_mem _ h')) (fun p' h' => hg p' (List.mem_cons_of_mem _ h'))
    obtain ⟨hg4, hsize⟩ := hg p (by simp)
    rw [streamFault]
    split
    case isFalse => exact hrest
    case isTrue hlive =>
      obtain ⟨ha, hroom⟩ := hp p (by simp) (by simp only [VPos.live, Bool.and_eq_true] at hlive; exact hlive.2)
      have hdvd : h.qaddr (Opnd.q p.o) % p.size = 0 := Nat.mod_eq_zero_of_dvd (hsize.trans (Nat.dvd_of_mod_eq_zero ha))
      dsimp only
      rw [hdvd, if_neg (by decide), if_neg (by omega)]
      exact hrest

theorem streamHeld_none {s : State} (h : Unheld s) (ps : List VPos) : streamHeld s ps = none := by
  unfold streamHeld
  rw [List.find?_eq_none.mpr fun p _ => by rw [h]; simp]
  rfl

/-- What a vector instruction works on. -/
def vecIn (x : RegForm) (sp : VSpec) (s : State) : VIn :=
  ⟨s.readV x.s1 sp.g1, s.readV x.s2 sp.g2, s.readV x.s3 sp.g3, s.readV x.dst sp.gd, s.cur.activity x.g sp.gw sp.n⟩

/-- The state after a vector instruction's act: its streams step and the code index moves on. -/
def afterVec (x : RegForm) (s : State) : State := (s.modCur fun h => h.stepStreams x).advance

/-- An instruction whose registers, streams and ranges are in order acts, whatever its elements. -/
theorem vec_ready {op : Nat} {x : RegForm} {sp : VSpec} {s : State} (k : State → VIn → State) (h : VecReady op x s)
    (hg : sp.gd ≤ 4 ∧ sp.g1 ≤ 4 ∧ sp.g2 ≤ 4 ∧ sp.g3 ≤ 4) (hd : max 1 (sp.wd / 8) ∣ 8) (hs : max 1 (sp.ws / 8) ∣ 8) :
    vec op x sp s k = .next (afterVec x (k s (vecIn x sp s))) := by
  obtain ⟨hgd, hg1, hg2, hg3⟩ := hg
  have hfit := h.fit
  unfold StreamsFit at hfit
  unfold vec vecWith
  rw [alloc_pass _ _ _ h.alloc]
  dsimp only
  rw [streamFault_none _ _ (by simpa using hfit) (by simp [hgd, hg1, hg2, hg3, hd, hs]), streamHeld_none h.free]
  simp only [ite_self]
  rfl

/-! ### The destination -/

/-- The stream pointers step and nothing else of the thread changes. -/
theorem stepStreams_spec {x : RegForm} (hnd : x.incs.Nodup) (h : Thread) :
    h.stepStreams x = { h with q := (h.stepStreams x).q } ∧
      ∀ n, (h.stepStreams x).qreg n = if n ∈ x.incs then stepped (h.qreg n) else h.qreg n := by
  rw [stepStreams_eq]
  exact steps_spec x.incs hnd h

/-- The state after a write of a row to the destination, its flags, the streams' steps and the move of the code index. -/
def afterWrite (x : RegForm) (w : Nat) (act : List Bool) (row : Nat) (f : Flags) (s : State) : State :=
  afterVec x ((s.writeV x.dst 1 w act row).modCur fun h => h.raise f)

/-- One row to the destination: a register whole. -/
theorem writeV_reg (s : State) (n : BitVec 5) (w row : Nat) (act : List Bool) :
    s.writeV (.reg n) 1 w act row = s.modCur fun h => h.setV n (BitVec.ofNat 512 row) := rfl

/-- The bytes that a stream destination writes. -/
theorem touchedBytes_getElem? {w : Nat} (hw : 8 ≤ w) (act : List Bool) {k : Nat} (hk : k < 64) :
    (touchedBytes w (64 * 1) act)[k]? = some (act.getD (8 * k / w) false) := by
  rw [touchedBytes, List.getElem?_map, List.getElem?_range (by omega)]
  simp [show ¬w < 8 by omega]

/-- A line is written whole exactly if each of its bytes is written. -/
theorem wholeLine_iff {bs : List Byte} {ts : List Bool} {R : List (Nat × List Byte)} (h : RunsOf 0 bs ts R) (lo l : Nat) :
    (R.all fun r => !wholeLine (lo + r.1) r.2.length l) = true ↔ ¬∀ i, i < 64 → ∃ k, 64 * l + i = lo + k ∧ Covered R k := by
  simp only [List.all_eq_true, Bool.not_eq_true', wholeLine]
  constructor
  · intro hall hlines
    obtain ⟨k0, hk0, -⟩ := hlines 0 (by decide)
    obtain ⟨r, hr, h1, h2⟩ := h.one_run (64 * l - lo) 63 fun m hm => by
      obtain ⟨k, hk, hc⟩ := hlines m (by omega)
      rwa [show 64 * l - lo + m = k by omega]
    have := hall r hr
    simp only [Bool.and_eq_false_iff, decide_eq_false_iff_not] at this
    omega
  · intro hno r hr
    by_contra hw
    simp only [Bool.not_eq_false, Bool.and_eq_true, decide_eq_true_eq] at hw
    exact hno fun i hi => ⟨64 * l + i - lo, by omega, r, hr, by omega, by omega⟩

section Stream
variable {x : RegForm} {s : State} {w row : Nat} {act : List Bool}

/-- The runs of a stream destination's touched bytes. -/
def destRuns (w row : Nat) (act : List Bool) : List (Nat × List Byte) :=
  touchedRuns 0 (leBytes (64 * 1) row) (touchedBytes w (64 * 1) act)

theorem destRuns_runs : RunsOf 0 (leBytes (64 * 1) row) (touchedBytes w (64 * 1) act) (destRuns w row act) :=
  (runsOf_touchedRuns 0 _ _ (by simp [leBytes_length, touchedBytes])).1

theorem destRuns_covered (hw : 8 ≤ w) (k : Nat) : Covered (destRuns w row act) k ↔ k < 64 ∧ act.getD (8 * k / w) false = true := by
  rw [destRuns_runs.covered]
  by_cases hk : k < 64
  · rw [Nat.sub_zero, touchedBytes_getElem? hw act hk]
    simp [hk]
  · rw [List.getElem?_eq_none (by simp [touchedBytes]; omega)]
    simp [hk]

theorem destRuns_bytes (r : Nat × List Byte) (hr : r ∈ destRuns w row act) (k : Nat) (h1 : r.1 ≤ k) (h2 : k < r.1 + r.2.length) :
    r.2[k - r.1]? = some (BitVec.ofNat 8 (row / 2 ^ (8 * k))) := by
  have hb := (destRuns_runs.bytes r hr k h1 h2).2
  have hsome : k - r.1 < r.2.length := by omega
  rw [List.getElem?_eq_getElem hsome, Nat.sub_zero] at hb
  have hk : k < 64 * 1 := by
    have := (List.getElem?_eq_some_iff.mp hb.symm).1
    rwa [leBytes_length] at this
  rw [List.getElem?_eq_getElem hsome, hb, leBytes_getElem? _ _ _ hk]

/-- The cells of a context after the runs. -/
def destCells (w row : Nat) (act : List Bool) (lo : Nat) (m : Cells) : Cells :=
  (destRuns w row act).foldl (fun m r => writeBytes m (lo + r.1) r.2) m

theorem readByte_destCells (hw : 8 ≤ w) (lo : Nat) (m : Cells) (k : Nat) : readByte (destCells w row act lo m) k =
    if lo ≤ k ∧ k < lo + 64 ∧ act.getD (8 * (k - lo) / w) false = true then BitVec.ofNat 8 (row / 2 ^ (8 * (k - lo)))
    else readByte m k := by
  have h := readByte_writeRuns m lo (fun j => BitVec.ofNat 8 (row / 2 ^ (8 * j))) (destRuns w row act) destRuns_bytes k
  simp only [destRuns_covered hw] at h
  rcases h with ⟨j, rfl, ⟨hj, hc⟩, hb⟩ | ⟨hno, hb⟩
  · rw [if_pos ⟨by omega, by omega, by rwa [Nat.add_sub_cancel_left]⟩, Nat.add_sub_cancel_left]
    exact hb
  · rw [if_neg fun ⟨h1, h2, h3⟩ => hno ⟨k - lo, by omega, by omega, h3⟩]
    exact hb

/-- A context after the runs: its cells, and the error marks of the lines written whole. -/
def destContext (w row : Nat) (act : List Bool) (lo : Nat) (c : Context) : Context :=
  { c with
    tcm := destCells w row act lo c.tcm
    tcmBad := c.tcmBad.filter fun l => (destRuns w row act).all fun r => !wholeLine (lo + r.1) r.2.length l }

theorem writeV_stream (s : State) {o : Opnd} (ho : Opnd.isStream o = true) (w row : Nat) (act : List Bool) :
    s.writeV o 1 w act row =
      s.modCtx s.curCtx (destContext w row act (coreKey s.cur.cluster s.cur.core + s.cur.qaddr (Opnd.q o))) := by
  have hrow : s.writeV o 1 w act row = s.writeRow (s.cur.qaddr (Opnd.q o)) (64 * 1) row (touchedBytes w (64 * 1) act) := by
    cases o with
    | reg n => cases ho
    | inc q => rfl
    | str q => rfl
  rw [hrow, State.writeRow_eq]
  simp only [foldl_setChip]
  rfl

end Stream

end Sys2Proof.Machine

/-! Proofs: the lane instructions (R124, R127 to R129). -/

namespace Sys2Proof.Machine

/-! ### Widths of the arithmetic types -/

theorem lanes_eq (t : Ty) : laneCount t = lanes t := rfl

/-- The types of the lane instructions have elements of whole bytes. -/
theorem bits_of_arith {t : Ty} (ht : t.isInt = true ∨ t.isF = true) :
    8 ∣ t.bits ∧ 8 ≤ t.bits ∧ max 1 (t.bits / 8) ∣ 8 ∧ lanes t * t.bits = 512 := by
  revert ht
  cases t <;> decide

/-! ### The write of a row -/

theorem readV_one (s : State) (o : Opnd) : s.readV o 1 = (rowAt s s.cur o 0).toNat := by
  have hreg (n : BitVec 5) : s.readV (.reg n) 1 = (rowAt s s.cur (.reg n) 0).toNat := by
    simp [State.readV, Thread.vgroup, rowAt]
  have hlt (bs : List Byte) (h : bs.length = 64) : leVal bs = (BitVec.ofNat 512 (leVal bs)).toNat := by
    have := leVal_lt bs
    rw [h] at this
    rw [BitVec.toNat_ofNat, Nat.mod_eq_of_lt this]
  have hlen (a : Nat) : (s.chip .tcm a 64).length = 64 := by
    unfold State.chip Context.chip
    split
    · rw [readBytes_eq]; simp
    · simp
  cases o with
  | reg n => exact hreg n
  | inc q => exact hlt _ (hlen _)
  | str q => exact hlt _ (hlen _)

theorem readV_stream (s : State) {o : Opnd} (ho : Opnd.isStream o = true) :
    s.readV o 1 = leVal (s.chip .tcm (s.cur.qaddr (Opnd.q o)) 64) := by
  cases o with
  | reg n => cases ho
  | inc q => rfl
  | str q => rfl

theorem rowAt_stream (s : State) (h : Thread) {o : Opnd} (ho : Opnd.isStream o = true) :
    rowAt s h o 0 = BitVec.ofNat 512 (leVal (s.chip .tcm (h.qaddr (Opnd.q o)) 64)) := by
  cases o with
  | reg n => cases ho
  | inc q => rfl
  | str q => rfl

theorem writesByte_plain {op : Nat} (x : RegForm) (s : State) (hop : op ≠ 0x1C7 ∧ op ≠ 0x1C2 ∧ op ≠ 0x185) {b : Nat}
    (hb : 8 * b / x.t.bits < laneCount x.t) : writesByte op x s b = active s.cur x.g x.t.bits (8 * b / x.t.bits) := by
  obtain ⟨h1, h2, h3⟩ := hop
  unfold writesByte
  simp only [h1, h2, h3, if_false, Nat.mod_eq_of_lt hb]

theorem activity_getD {h : Thread} {g : Guard} {w n i : Nat} (hn : n * w ≤ 512) (hi : i < n) :
    (h.activity g w n).getD i false = active h g w i := by
  rw [activity_eq h g w n hn, List.getD_eq_getElem?_getD, List.getElem?_map, List.getElem?_range hi]
  rfl

/-- A row that went to the destination, with flags: the frame of the instruction, and the row. -/
structure RowWritten (op : Nat) (x : RegForm) (row : Nat) (f : Flags) (s t : State) : Prop where
  frame : VecFrame op x 1 s t
  flags : t.cur.fflags = s.cur.fflags ||| f
  rcount : t.cur.rcount = s.cur.rcount
  row : rowAt t s.cur x.dst 0 = BitVec.ofNat 512 row

theorem flags_kept (y f : Flags) : (y ||| f) &&& y = y := by
  apply BitVec.eq_of_getLsbD_eq
  intro i hi
  simp only [BitVec.getLsbD_and, BitVec.getLsbD_or]
  cases y.getLsbD i <;> simp

/-- R53, R111, R124: a row written to a register. -/
theorem rowWritten_reg {op : Nat} {x : RegForm} {s : State} {d : BitVec 5} (w row : Nat) (act : List Bool) (f : Flags)
    (h : VecReady op x s) (hd : x.dst = .reg d) : RowWritten op x row f s (afterWrite x w act row f s) := by
  have hcur : (afterWrite x w act row f s).cur =
      { ((s.cur.setV d (BitVec.ofNat 512 row)).raise f).stepStreams x with
        pc := (((s.cur.setV d (BitVec.ofNat 512 row)).raise f).stepStreams x).pc + 1 } := by
    rw [afterWrite, hd, writeV_reg]; rfl
  have hst : afterWrite x w act row f s = { s with cur := (afterWrite x w act row f s).cur } := by
    rw [afterWrite, hd, writeV_reg]; rfl
  generalize afterWrite x w act row f s = t at hcur hst ⊢
  obtain ⟨hstep, hq⟩ := stepStreams_spec h.once ((s.cur.setV d (BitVec.ofNat 512 row)).raise f)
  generalize ((s.cur.setV d (BitVec.ofNat 512 row)).raise f).stepStreams x = H at *
  have hv (n : BitVec 5) : t.cur.vreg n = (s.cur.setV d (BitVec.ofNat 512 row)).vreg n := by rw [hcur, hstep]; rfl
  refine ⟨⟨by rw [hcur, hstep]; rfl, by rw [hcur, hstep]; exact flags_kept _ _, fun n => ?_, fun n hn => ?_, fun _ => hst, ?_⟩,
    by rw [hcur, hstep]; rfl, by rw [hcur, hstep]; rfl, ?_⟩
  · rw [hcur]; exact hq n
  · rw [hv]
    exact Thread.vreg_setV_ne _ _ _ _ (by simpa using hn d 0 hd (by decide))
  · intro hs; rw [hd] at hs; cases hs
  · rw [hd]
    change t.cur.vreg (d + 0#5) = _
    rw [hv, BitVec.add_zero]
    exact Thread.vreg_setV_same _ _ _

/-- The bytes of a stream's row. -/
theorem row_bytes (m : Cells) (lo n i : Nat) (hi : i < n) :
    BitVec.ofNat 8 (leVal (readBytes m lo n) / 2 ^ (8 * i)) = readByte m (lo + i) := by
  have hlen : (readBytes m lo n).length = n := by rw [readBytes_eq]; simp
  have h := leBytes_getElem? n (leVal (readBytes m lo n)) i hi
  have hb := leBytes_leVal (readBytes m lo n)
  rw [hlen] at hb
  rw [hb, readBytes_eq, List.getElem?_map, List.getElem?_range hi, Option.map_some, Option.some.injEq] at h
  rw [readBytes_eq]
  exact h.symm

theorem readBytes_of_row {m : Cells} {lo n row : Nat}
    (h : ∀ i, i < n → readByte m (lo + i) = BitVec.ofNat 8 (row / 2 ^ (8 * i))) : readBytes m lo n = leBytes n row := by
  apply List.ext_getElem?
  intro i
  by_cases hi : i < n
  · rw [leBytes_getElem? _ _ _ hi, readBytes_eq, List.getElem?_map, List.getElem?_range hi, Option.map_some, h i hi]
  · rw [List.getElem?_eq_none (by rw [readBytes_eq]; simpa using hi), List.getElem?_eq_none (by rw [leBytes_length]; omega)]

section
variable {x : RegForm} (ht : x.t.isInt = true ∨ x.t.isF = true)
include ht

/-- Byte k of a row belongs to element 8k / w. -/
theorem lane_lt {k : Nat} (hk : k < 64) : 8 * k / x.t.bits < lanes x.t := by
  obtain ⟨-, hw, -, hlanes⟩ := bits_of_arith ht
  rw [Nat.div_lt_iff_lt_mul (by omega)]
  omega

theorem activity_byte (h : Thread) {k : Nat} (hk : k < 64) :
    (h.activity x.g x.t.bits (lanes x.t)).getD (8 * k / x.t.bits) false = active h x.g x.t.bits (8 * k / x.t.bits) :=
  activity_getD (bits_of_arith ht).2.2.2.le (lane_lt ht hk)

/-- The bytes a row's write touches are those the frame says are written. -/
theorem writesByte_touched {op : Nat} (s : State) (hop : op ≠ 0x1C7 ∧ op ≠ 0x1C2 ∧ op ≠ 0x185) {k : Nat} (hk : k < 64) :
    writesByte op x s k = (s.cur.activity x.g x.t.bits (lanes x.t)).getD (8 * k / x.t.bits) false := by
  rw [writesByte_plain x s hop (lane_lt ht hk), activity_byte ht _ hk]

/-- A row's write clears the error marks of the lines whose every byte it writes (R194). -/
theorem destContext_clears {op : Nat} (s : State) (hop : op ≠ 0x1C7 ∧ op ≠ 0x1C2 ∧ op ≠ 0x185) (row lo : Nat) (c : Context) :
    (destContext x.t.bits row (s.cur.activity x.g x.t.bits (lanes x.t)) lo c).tcmBad =
      c.tcmBad.filter fun l => !(List.range 64).all fun i =>
        decide (lo ≤ 64 * l + i ∧ 64 * l + i < lo + 64 * 1) && writesByte op x s (64 * l + i - lo) := by
  have hw := (bits_of_arith ht).2.1
  refine List.filter_congr fun l _ => ?_
  rw [Bool.eq_iff_iff, wholeLine_iff destRuns_runs, Bool.not_eq_true', Bool.eq_false_iff, ne_eq, List.all_eq_true]
  refine not_congr (forall_congr' fun i => ?_)
  rw [List.mem_range]
  refine imp_congr_right fun _ => ?_
  rw [Bool.and_eq_true, decide_eq_true_eq]
  constructor
  · rintro ⟨k, hk, hcov⟩
    obtain ⟨hk64, hact⟩ := (destRuns_covered hw k).mp hcov
    rw [show 64 * l + i - lo = k by omega, writesByte_touched ht s hop hk64]
    exact ⟨by omega, hact⟩
  · rintro ⟨hin, hb⟩
    have hk64 : 64 * l + i - lo < 64 := by omega
    rw [writesByte_touched ht s hop hk64] at hb
    exact ⟨64 * l + i - lo, by omega, (destRuns_covered hw _).mpr ⟨hk64, hb⟩⟩

/-- A row's write keeps every byte that the frame says is not written. -/
theorem destCells_frame {op : Nat} (s : State) (hop : op ≠ 0x1C7 ∧ op ≠ 0x1C2 ∧ op ≠ 0x185) (row lo : Nat) (m : Cells) {k : Nat}
    (hk : (decide (lo ≤ k ∧ k < lo + 64 * 1) && writesByte op x s (k - lo)) = false) :
    readByte (destCells x.t.bits row (s.cur.activity x.g x.t.bits (lanes x.t)) lo m) k = readByte m k := by
  rw [readByte_destCells (bits_of_arith ht).2.1, if_neg]
  rintro ⟨h1, h2, h3⟩
  rw [writesByte_touched ht s hop (by omega), h3, decide_eq_true ⟨h1, by omega⟩] at hk
  cases hk

/-- After a row's write the place holds the row, if its elements that are not active are the old ones. -/
theorem destCells_row (h : Thread) (row lo : Nat) (m : Cells)
    (hold : ∀ i, i < lanes x.t → active h x.g x.t.bits i = false →
      elem x.t.bits i row = elem x.t.bits i (leVal (readBytes m lo 64))) :
    readBytes (destCells x.t.bits row (h.activity x.g x.t.bits (lanes x.t)) lo m) lo 64 = leBytes 64 row := by
  obtain ⟨h8, hw, -, -⟩ := bits_of_arith ht
  refine readBytes_of_row fun i hi => ?_
  rw [readByte_destCells hw, Nat.add_sub_cancel_left]
  split
  case isTrue => rfl
  case isFalse hno =>
    have hoff : active h x.g x.t.bits (8 * i / x.t.bits) = false := by
      rw [← activity_byte ht h hi]
      simpa [hi] using hno
    rw [byte_of_elem h8 (by omega) (hold _ (lane_lt ht hi) hoff) rfl, row_bytes _ _ _ _ hi]

end

/-- A stream's 64 bytes, in its context's TCM. -/
theorem chip_stream {s : State} {c : Context} (hc : s.ctx? s.curCtx = some c) (a : Nat) :
    s.chip .tcm a 64 = readBytes c.tcm (coreKey s.cur.cluster s.cur.core + a) 64 := by
  unfold State.chip
  rw [hc]
  rfl

/-- R49, R53, R111, R124, R194: a row written to a stream, which has the old elements where they are not active. -/
theorem rowWritten_stream {op : Nat} {x : RegForm} {s : State} {row : Nat} (f : Flags) (h : VecReady op x s)
    (hd : Opnd.isStream x.dst = true) (hop : op ≠ 0x1C7 ∧ op ≠ 0x1C2 ∧ op ≠ 0x185) (ht : x.t.isInt = true ∨ x.t.isF = true)
    (hold : ∀ i, i < lanes x.t → active s.cur x.g x.t.bits i = false → elem x.t.bits i row = elem x.t.bits i (s.readV x.dst 1)) :
    RowWritten op x row f s (afterWrite x x.t.bits (s.cur.activity x.g x.t.bits (lanes x.t)) row f s) := by
  obtain ⟨c, hc⟩ := h.home
  rw [readV_stream s hd, chip_stream hc] at hold
  have hclean := destContext_clears ht s hop row
  have hkeep := destCells_frame ht s hop row
  have hwritten := destCells_row ht s.cur row _ _ hold
  generalize s.cur.activity x.g x.t.bits (lanes x.t) = act at *
  generalize hlo : coreKey s.cur.cluster s.cur.core + s.cur.qaddr (Opnd.q x.dst) = lo at *
  have hwrite : s.writeV x.dst 1 x.t.bits act row = s.modCtx s.curCtx (destContext x.t.bits row act lo) := by
    rw [writeV_stream s hd, hlo]
  have hcur : (afterWrite x x.t.bits act row f s).cur =
      { (s.cur.raise f).stepStreams x with pc := ((s.cur.raise f).stepStreams x).pc + 1 } := by
    rw [afterWrite, hwrite]; rfl
  have hst : afterWrite x x.t.bits act row f s =
      { s.modCtx s.curCtx (destContext x.t.bits row act lo) with cur := (afterWrite x x.t.bits act row f s).cur } := by
    rw [afterWrite, hwrite]; rfl
  generalize afterWrite x x.t.bits act row f s = t at hcur hst ⊢
  obtain ⟨hstep, hq⟩ := stepStreams_spec h.once (s.cur.raise f)
  generalize (s.cur.raise f).stepStreams x = H at *
  refine ⟨⟨by rw [hcur, hstep]; rfl, by rw [hcur, hstep]; exact flags_kept _ _, fun n => ?_, fun n _ => ?_, fun hs => ?_,
    fun _ => ⟨fun c => destCells x.t.bits row act lo c.tcm, ?_, ?_⟩⟩, by rw [hcur, hstep]; rfl, by rw [hcur, hstep]; rfl, ?_⟩
  · rw [hcur]; exact hq n
  · rw [hcur, hstep]; rfl
  · rw [hd] at hs; cases hs
  · rw [hlo]
    conv_lhs => rw [hst]
    simp only [← hclean]
    rfl
  · intro c k hk
    rw [hlo] at hk
    exact hkeep lo c.tcm hk
  · have hid : t.curCtx = s.curCtx := by unfold State.curCtx; rw [hcur, hstep]; rfl
    have hctx : t.ctx? t.curCtx = some (destContext x.t.bits row act lo c) := by
      rw [hid, hst]
      exact (s.ctx?_modCtx s.curCtx (destContext x.t.bits row act lo) fun _ => rfl).trans (by rw [hc]; rfl)
    have hplace : t.cur.cluster = s.cur.cluster ∧ t.cur.core = s.cur.core := by rw [hcur, hstep]; exact ⟨rfl, rfl⟩
    rw [rowAt_stream t s.cur hd, chip_stream hctx, hplace.1, hplace.2, hlo]
    change BitVec.ofNat 512 (leVal (readBytes (destCells x.t.bits row act lo c.tcm) lo 64)) = _
    rw [hwritten, leVal_leBytes]
    exact ofNat_lowBits 512 row

/-- R124: a row written to the destination, register or stream. -/
theorem rowWritten {op : Nat} {x : RegForm} {s : State} {row : Nat} (f : Flags) (h : VecReady op x s)
    (hop : op ≠ 0x1C7 ∧ op ≠ 0x1C2 ∧ op ≠ 0x185) (ht : x.t.isInt = true ∨ x.t.isF = true)
    (hold : ∀ i, i < lanes x.t → active s.cur x.g x.t.bits i = false → elem x.t.bits i row = elem x.t.bits i (s.readV x.dst 1)) :
    RowWritten op x row f s (afterWrite x x.t.bits (s.cur.activity x.g x.t.bits (lanes x.t)) row f s) := by
  cases hd : Opnd.isStream x.dst with
  | true => exact rowWritten_stream f h hd hop ht hold
  | false =>
    cases hdst : x.dst with
    | reg d => exact rowWritten_reg _ _ _ f h hdst
    | inc q => rw [hdst] at hd; cases hd
    | str q => rw [hdst] at hd; cases hd

/-! ### The lanes -/

/-- Is a position one of vector registers? -/
def usedBy (pos : Pos) : Nat :=
  match pos with
  | .v => 1
  | _ => 0

/-- Element i of a source as a lane instruction reads it: its modifier applied; zero of a position that is none. -/
def laneSrc (x : RegForm) (s : State) (pos : Pos) (m : SrcMod) (o : Opnd) (i : Nat) : Nat :=
  modSrc x.t m (elem x.t.bits i (s.readV o (usedBy pos)))

/-- What a lane instruction makes of element i. -/
def laneOut (op : Nat) (x : RegForm) (s : State) (f : Thread → Nat → Nat → Nat → Nat × Flags) (i : Nat) : Nat × Flags :=
  f s.cur (laneSrc x s (regSpec op).s1 x.m1 x.s1 i) (laneSrc x s (regSpec op).s2 x.m2 x.s2 i)
    (laneSrc x s (regSpec op).s3 x.m3 x.s3 i)

theorem usedBy_le (pos : Pos) : usedBy pos ≤ 4 := by
  unfold usedBy
  split <;> decide

/-- R124, R127: a lane instruction completes, changes the active elements as asked and joins their flags. -/
theorem lane3_spec {op : Nat} {x : RegForm} {s : State} (f : Thread → Nat → Nat → Nat → Nat × Flags) (h : VecReady op x s)
    (hop : op ≠ 0x1C7 ∧ op ≠ 0x1C2 ∧ op ≠ 0x185) (ht : x.t.isInt = true ∨ x.t.isF = true) :
    ∃ t, lane3 op x s f = .next t ∧ VecFrame op x 1 s t ∧ t.cur.rcount = s.cur.rcount ∧
      FlagsOf s t (active s.cur x.g x.t.bits) (laneCount x.t) (fun i => (laneOut op x s f i).2) ∧
      ∀ i, i < laneCount x.t → lane x.t (rowAt t s.cur x.dst 0) i =
        if active s.cur x.g x.t.bits i = true then BitVec.ofNat x.t.bits (laneOut op x s f i).1
        else lane x.t (rowAt s s.cur x.dst 0) i := by
  obtain ⟨-, -, hsize, hlanes⟩ := bits_of_arith ht
  have hact := activity_eq s.cur x.g x.t.bits (lanes x.t) (by omega)
  let A := active s.cur x.g x.t.bits
  let new (i : Nat) : Nat := if A i = true then (laneOut op x s f i).1 else elem x.t.bits i (s.readV x.dst 1)
  let row := packElems x.t.bits ((List.range (lanes x.t)).map new)
  let flags := activeFlags ((List.range (lanes x.t)).map A) ((List.range (lanes x.t)).map (laneOut op x s f))
  have hrun : lane3 op x s f = .next (afterWrite x x.t.bits (s.cur.activity x.g x.t.bits (lanes x.t)) row flags s) := by
    unfold lane3
    dsimp only
    refine (vec_ready _ h ⟨show 1 ≤ 4 by decide, usedBy_le _, usedBy_le _, usedBy_le _⟩ hsize hsize).trans ?_
    unfold State.putV srcElems vecIn afterWrite
    simp only [elems, List.map_map, List.zip_map', hact]
    rw [mergeElems_map]
    rfl
  have helem (i : Nat) (hi : i < lanes x.t) : elem x.t.bits i row = new i % 2 ^ x.t.bits := by
    rw [elem_packElems _ _ _ (by simpa using hi)]
    simp
  have hw := rowWritten (row := row) flags h hop ht fun i hi hoff => by
    rw [helem i hi]
    simp only [new, A, hoff, Bool.false_eq_true, if_false]
    exact Nat.mod_eq_of_lt (elem_lt _ _ _)
  refine ⟨_, hrun, hw.frame, hw.rcount, ?_, fun i hi => ?_⟩
  · unfold FlagsOf
    rw [hw.flags]
    exact activeFlags_map A (laneOut op x s f) (List.range (lanes x.t)) s.cur.fflags
  · have hlen := packElems_lt x.t.bits ((List.range (lanes x.t)).map new)
    rw [List.length_map, List.length_range, Nat.mul_comm, hlanes] at hlen
    rw [hw.row, lane_eq, BitVec.toNat_ofNat, Nat.mod_eq_of_lt hlen, helem i hi, lane_eq x.t (rowAt s s.cur x.dst 0), ← readV_one]
    simp only [new, A]
    split <;> exact ofNat_lowBits _ _

/-- A used source is the element of its row, modified. -/
theorem laneSrc_eq {x : RegForm} {s : State} {pos : Pos} (hp : pos = .v) (m : SrcMod) (o : Opnd) (i : Nat) :
    laneSrc x s pos m o i = modSrc x.t m (elem x.t.bits i (rowAt s s.cur o 0).toNat) := by
  subst hp
  rw [laneSrc, usedBy, readV_one]

theorem laneSrc_int {x : RegForm} {s : State} {pos : Pos} (ht : x.t.isInt = true) (hp : pos = .v) (m : SrcMod) (o : Opnd) (i : Nat) :
    BitVec.ofNat x.t.bits (laneSrc x s pos m o i) = intMod x.t m (lane x.t (rowAt s s.cur o 0) i) := by
  rw [laneSrc_eq hp, ofNat_modSrc _ _ _ (Ty.isFloat_of_isInt ht), lane_eq]

theorem laneSrc_float {x : RegForm} {s : State} {pos : Pos} (ht : x.t.isF = true) (hp : pos = .v) (m : SrcMod) (o : Opnd) (i : Nat) :
    BitVec.ofNat x.t.bits (laneSrc x s pos m o i) = floatMod x.t m (lane x.t (rowAt s s.cur o 0) i) := by
  rw [laneSrc_eq hp, ofNat_modSrc_float (Ty.isFloat_of_isF ht), lane_eq]

/-- R127, R129: an integer lane instruction whose function of w-bit patterns is F, which does not use what its positions
do not hold. -/
theorem givesLanes_of {op : Nat} {mk : RegForm → Instr} {n : RegForm → Nat → Nat → Nat → Nat}
    {F : (t : Ty) → Clamp → BitVec t.bits → BitVec t.bits → BitVec t.bits → BitVec t.bits}
    (hop : op ≠ 0x1C7 ∧ op ≠ 0x1C2 ∧ op ≠ 0x185) (h1 : (regSpec op).s1 = .v)
    (h2 : (regSpec op).s2 = .v ∨ ∀ t cl a b b' c, F t cl a b c = F t cl a b' c)
    (h3 : (regSpec op).s3 = .v ∨ ∀ t cl a b c c', F t cl a b c = F t cl a b c')
    (hexec : ∀ x s, x.t.isInt = true → exec (mk x) s = lane3 op x s fun _ a b c => (n x a b c, 0))
    (hF : ∀ (x : RegForm) (a b c : Nat), BitVec.ofNat x.t.bits (n x a b c) =
      F x.t x.clamp (BitVec.ofNat x.t.bits a) (BitVec.ofNat x.t.bits b) (BitVec.ofNat x.t.bits c)) : GivesLanes op mk F := by
  intro x s h ht
  obtain ⟨t, hrun, hframe, hrc, hflags, hlane⟩ := lane3_spec (fun _ a b c => (n x a b c, 0)) h hop (.inl ht)
  refine ⟨t, (hexec x s ht).trans hrun, hframe, ?_, hrc, fun i hi => ?_⟩
  · have hzero (l : List Nat) (y : Flags) : l.foldl (fun y i => y ||| (laneOut op x s (fun _ a b c => (n x a b c, 0)) i).2) y = y := by
      induction l generalizing y with
      | nil => rfl
      | cons i l ih => exact (ih _).trans (flags_or_zero y)
    exact hflags.trans (hzero _ _)
  · rw [hlane i hi]
    refine if_congr Iff.rfl ?_ rfl
    rw [laneOut, hF, laneSrc_int ht h1]
    rcases h2 with h2 | h2
    · rw [laneSrc_int ht h2]
      rcases h3 with h3 | h3
      · rw [laneSrc_int ht h3]
      · exact h3 ..
    · rcases h3 with h3 | h3
      · rw [laneSrc_int ht h3]
        exact h2 ..
      · exact (h2 ..).trans (h3 ..)

/-- R127: a float lane instruction whose function gives what p asks, which does not speak of a position that holds no source. -/
theorem givesFloatLanes_of {op : Nat} {mk : RegForm → Instr} {n : RegForm → Thread → Nat → Nat → Nat → Nat × Flags}
    {p : (x : RegForm) → Nat → BitVec x.t.bits → BitVec x.t.bits → BitVec x.t.bits → BitVec x.t.bits → Flags → Prop}
    (ok : RegForm → Prop) (hop : op ≠ 0x1C7 ∧ op ≠ 0x1C2 ∧ op ≠ 0x185) (h1 : (regSpec op).s1 = .v) (h2 : (regSpec op).s2 = .v)
    (h3 : (regSpec op).s3 = .v ∨ ∀ x m a b c c' r f, p x m a b c r f → p x m a b c' r f)
    (hexec : ∀ x s, exec (mk x) s = lane3 op x s (n x))
    (hp : ∀ (x : RegForm) (h : Thread) (a b c : Nat), x.t.isF = true →
      p x (h.rmode.toNat % 4) (BitVec.ofNat x.t.bits a) (BitVec.ofNat x.t.bits b) (BitVec.ofNat x.t.bits c)
        (BitVec.ofNat x.t.bits (n x h a b c).1) (n x h a b c).2) : GivesFloatLanes op mk ok p := by
  intro x s h ht _
  obtain ⟨t, hrun, hframe, hrc, hflags, hlane⟩ := lane3_spec (n x) h hop (.inr ht)
  refine ⟨t, (hexec x s).trans hrun, hframe, hrc, _, hflags, fun i hi => ⟨fun hact => ?_, fun hact => ?_⟩⟩
  · rw [hlane i hi, if_pos hact, ← laneSrc_float ht h1, ← laneSrc_float ht h2]
    have hout := hp x s.cur (laneSrc x s (regSpec op).s1 x.m1 x.s1 i) (laneSrc x s (regSpec op).s2 x.m2 x.s2 i)
      (laneSrc x s (regSpec op).s3 x.m3 x.s3 i) ht
    rcases h3 with h3 | h3
    · rw [← laneSrc_float ht h3]
      exact hout
    · exact h3 _ _ _ _ _ _ _ _ hout
  · rw [hlane i hi, if_neg (by simp [hact])]

end Sys2Proof.Machine

/-! Proofs: the integer lane instructions on patterns of w bits (R127 to R129). -/

namespace Sys2Proof.Machine

theorem ofNat_andI (t : Ty) (a b : Nat) : BitVec.ofNat t.bits (andI t a b) = BitVec.ofNat t.bits a &&& BitVec.ofNat t.bits b := by
  apply BitVec.eq_of_toNat_eq
  rw [BitVec.toNat_and, toNat_ofNat_lowBits, toNat_ofNat_lowBits, toNat_ofNat_lowBits]
  exact Nat.mod_eq_of_lt (Nat.and_lt_two_pow _ (Nat.mod_lt _ (by positivity)))

theorem ofNat_orI (t : Ty) (a b : Nat) : BitVec.ofNat t.bits (orI t a b) = BitVec.ofNat t.bits a ||| BitVec.ofNat t.bits b := by
  apply BitVec.eq_of_toNat_eq
  rw [BitVec.toNat_or, toNat_ofNat_lowBits, toNat_ofNat_lowBits, toNat_ofNat_lowBits]
  exact Nat.mod_eq_of_lt (Nat.or_lt_two_pow (Nat.mod_lt _ (by positivity)) (Nat.mod_lt _ (by positivity)))

theorem ofNat_xorI (t : Ty) (a b : Nat) : BitVec.ofNat t.bits (xorI t a b) = BitVec.ofNat t.bits a ^^^ BitVec.ofNat t.bits b := by
  apply BitVec.eq_of_toNat_eq
  rw [BitVec.toNat_xor, toNat_ofNat_lowBits, toNat_ofNat_lowBits, toNat_ofNat_lowBits]
  exact Nat.mod_eq_of_lt (Nat.xor_lt_two_pow (Nat.mod_lt _ (by positivity)) (Nat.mod_lt _ (by positivity)))

/-- A shift amount modulo the width is the pattern's, which the width divides. -/
theorem shift_amount (t : Ty) (b : Nat) : (BitVec.ofNat t.bits b).toNat % t.bits = b % t.bits := by
  have hdvd : t.bits ∣ 2 ^ t.bits := by cases t <;> decide
  rw [BitVec.toNat_ofNat, Nat.mod_mod_of_dvd _ hdvd]

theorem ofNat_shlI (t : Ty) (a b : Nat) : BitVec.ofNat t.bits (shlI t a b) =
    BitVec.ofNat t.bits a <<< ((BitVec.ofNat t.bits b).toNat % t.bits) := by
  apply BitVec.eq_of_toNat_eq
  rw [shift_amount, shlI, ofNat_lowBits, BitVec.toNat_shiftLeft, BitVec.toNat_ofNat, BitVec.toNat_ofNat, Nat.shiftLeft_eq,
    Nat.mod_mul_mod]

theorem ofNat_shrI (t : Ty) (a b : Nat) : BitVec.ofNat t.bits (shrI t a b) =
    BitVec.ofNat t.bits a >>> ((BitVec.ofNat t.bits b).toNat % t.bits) := by
  apply BitVec.eq_of_toNat_eq
  rw [shift_amount, BitVec.toNat_ushiftRight, toNat_ofNat_lowBits, toNat_ofNat_lowBits, Nat.shiftRight_eq_div_pow]
  exact Nat.mod_eq_of_lt (lt_of_le_of_lt (Nat.div_le_self _ _) (Nat.mod_lt _ (by positivity)))

theorem ofNat_sraI (t : Ty) (a b : Nat) : BitVec.ofNat t.bits (sraI t a b) =
    (BitVec.ofNat t.bits a).sshiftRight ((BitVec.ofNat t.bits b).toNat % t.bits) := by
  rw [shift_amount, sraI, ofNat_wrapTo, toSigned_eq _ _ t.bits_pos]
  rw [← BitVec.ofInt_toInt (x := (BitVec.ofNat t.bits a).sshiftRight (b % t.bits)), BitVec.toInt_sshiftRight,
    Int.shiftRight_eq_div_pow]
  norm_cast

theorem popcGo_eq (k x : Nat) : popcGo k x = ((List.range k).filter fun i => x.testBit i).length := by
  induction k generalizing x with
  | zero => rfl
  | succ k ih =>
    rw [popcGo, ih, List.range_succ_eq_map, List.filter_cons, List.filter_map, Nat.testBit_zero]
    have hstep : (fun i => (x / 2).testBit i) = (fun i => x.testBit i) ∘ Nat.succ := by
      funext i
      simp [Nat.testBit_succ]
    rw [hstep]
    rcases Nat.mod_two_eq_zero_or_one x with h | h
    · simp [h]
    · simp [h]; omega

theorem ofNat_popcI (t : Ty) (a : Nat) : BitVec.ofNat t.bits (popcI t a) =
    BitVec.ofNat t.bits ((List.range t.bits).filter fun i => (BitVec.ofNat t.bits a).getLsbD i).length := by
  rw [popcI, popcGo_eq]
  congr 2
  refine List.filter_congr fun i hi => ?_
  rw [BitVec.getLsbD_ofNat, decide_eq_true (List.mem_range.mp hi), Bool.true_and]

/-- A prefix of places that satisfy p, up to one that does not. -/
theorem takeWhile_range_length {p : Nat → Bool} {n k : Nat} (hk : k ≤ n) (hp : ∀ i, i < k → p i = true)
    (hstop : k < n → p k = false) : ((List.range n).takeWhile p).length = k := by
  have hsplit : List.range n = List.range k ++ (List.range (n - k)).map (k + ·) := by
    rw [← List.range_add, Nat.add_sub_cancel' hk]
  rw [hsplit, List.takeWhile_append_of_pos fun i hi => hp i (List.mem_range.mp hi), List.length_append, List.length_range]
  rcases Nat.eq_or_lt_of_le hk with rfl | hlt
  · simp
  · obtain ⟨m, hm⟩ := Nat.exists_eq_add_of_lt hlt
    rw [show n - k = m + 1 by omega, List.range_succ_eq_map, List.map_cons, List.takeWhile_cons_of_neg (by simp [hstop hlt])]
    rfl

theorem ofNat_clzI (t : Ty) (a : Nat) : BitVec.ofNat t.bits (clzI t a) = BitVec.ofNat t.bits
    ((List.range t.bits).takeWhile fun i => !(BitVec.ofNat t.bits a).getLsbD (t.bits - 1 - i)).length := by
  have hpos := t.bits_pos
  have hbit (i : Nat) (hi : i < t.bits) : (BitVec.ofNat t.bits a).getLsbD i = (lowBits t.bits a).testBit i := by
    rw [lowBits, Nat.testBit_mod_two_pow, BitVec.getLsbD_ofNat]
  rw [clzI]
  congr 1
  symm
  simp only [beq_iff_eq]
  split
  case isTrue h0 =>
    refine takeWhile_range_length (le_refl _) (fun i hi => ?_) (fun h => absurd h (lt_irrefl _))
    rw [hbit _ (by omega), h0, Nat.zero_testBit]
    rfl
  case isFalse h0 =>
    have hlog : (lowBits t.bits a).log2 < t.bits := by
      rw [Nat.log2_lt h0]
      exact Nat.mod_lt _ (by positivity)
    refine takeWhile_range_length (by omega) (fun i hi => ?_) (fun _ => ?_)
    · rw [hbit _ (by omega), Nat.testBit_lt_two_pow]
      · rfl
      · exact (Nat.log2_lt h0).mp (by omega)
    · rw [hbit _ (by omega), show t.bits - 1 - (t.bits - 1 - (lowBits t.bits a).log2) = (lowBits t.bits a).log2 by omega,
        Nat.testBit_log2 h0]
      rfl

/-- Settles O21: each lane is the model's function of the two or three patterns. -/
theorem vectorIntegers : Obligations.VectorIntegers := by
  unfold Obligations.VectorIntegers
  refine ⟨
    givesLanes_of (n := fun x a b _ => addI x.t x.clamp a b) (by decide) rfl (.inl rfl) (.inr fun _ _ _ _ _ _ => rfl)
      (fun x s ht => ?add) fun x a b _ => ofNat_addI x.t x.clamp a b,
    givesLanes_of (n := fun x a b _ => subI x.t x.clamp a b) (by decide) rfl (.inl rfl) (.inr fun _ _ _ _ _ _ => rfl)
      (fun x s ht => ?sub) fun x a b _ => ofNat_subI x.t x.clamp a b,
    givesLanes_of (n := fun x a b _ => mulI x.t x.clamp a b) (by decide) rfl (.inl rfl) (.inr fun _ _ _ _ _ _ => rfl)
      (fun x s ht => ?mul) fun x a b _ => ofNat_mulI x.t x.clamp a b,
    givesLanes_of (n := fun x => fmaI x.t x.clamp) (by decide) rfl (.inl rfl) (.inl rfl)
      (fun x s ht => ?fma) fun x => ofNat_fmaI x.t x.clamp,
    givesLanes_of (n := fun x a b _ => minI x.t a b) (by decide) rfl (.inl rfl) (.inr fun _ _ _ _ _ _ => rfl)
      (fun x s ht => ?min) fun x a b _ => ofNat_minI x.t a b,
    givesLanes_of (n := fun x a b _ => maxI x.t a b) (by decide) rfl (.inl rfl) (.inr fun _ _ _ _ _ _ => rfl)
      (fun x s ht => ?max) fun x a b _ => ofNat_maxI x.t a b,
    givesLanes_of (n := fun x a b _ => mulhI x.t a b) (by decide) rfl (.inl rfl) (.inr fun _ _ _ _ _ _ => rfl)
      (fun x s _ => ?mulh) fun x a b _ => ofNat_mulhI x.t a b,
    givesLanes_of (n := fun x a b _ => andI x.t a b) (by decide) rfl (.inl rfl) (.inr fun _ _ _ _ _ _ => rfl)
      (fun x s _ => ?and) fun x a b _ => ofNat_andI x.t a b,
    givesLanes_of (n := fun x a b _ => orI x.t a b) (by decide) rfl (.inl rfl) (.inr fun _ _ _ _ _ _ => rfl)
      (fun x s _ => ?or) fun x a b _ => ofNat_orI x.t a b,
    givesLanes_of (n := fun x a b _ => xorI x.t a b) (by decide) rfl (.inl rfl) (.inr fun _ _ _ _ _ _ => rfl)
      (fun x s _ => ?xor) fun x a b _ => ofNat_xorI x.t a b,
    givesLanes_of (n := fun x a b _ => shlI x.t a b) (by decide) rfl (.inl rfl) (.inr fun _ _ _ _ _ _ => rfl)
      (fun x s _ => ?shl) fun x a b _ => ofNat_shlI x.t a b,
    givesLanes_of (n := fun x a b _ => shrI x.t a b) (by decide) rfl (.inl rfl) (.inr fun _ _ _ _ _ _ => rfl)
      (fun x s _ => ?shr) fun x a b _ => ofNat_shrI x.t a b,
    givesLanes_of (n := fun x a b _ => sraI x.t a b) (by decide) rfl (.inl rfl) (.inr fun _ _ _ _ _ _ => rfl)
      (fun x s _ => ?sra) fun x a b _ => ofNat_sraI x.t a b,
    givesLanes_of (n := fun x a _ _ => popcI x.t a) (by decide) rfl (.inr fun _ _ _ _ _ _ => rfl) (.inr fun _ _ _ _ _ _ => rfl)
      (fun x s _ => ?popc) fun x a _ _ => ofNat_popcI x.t a,
    givesLanes_of (n := fun x a _ _ => clzI x.t a) (by decide) rfl (.inr fun _ _ _ _ _ _ => rfl) (.inr fun _ _ _ _ _ _ => rfl)
      (fun x s _ => ?clz) fun x a _ _ => ofNat_clzI x.t a⟩
  case add => simp only [exec, execVadd, addT, Ty.isFloat_of_isInt ht, Bool.false_eq_true, if_false]
  case sub => simp only [exec, execVsub, subT, Ty.isFloat_of_isInt ht, Bool.false_eq_true, if_false]
  case mul => simp only [exec, execVmul, mulT, Ty.isFloat_of_isInt ht, Bool.false_eq_true, if_false]
  case fma => simp only [exec, execVfma, fmaT, Ty.isFloat_of_isInt ht, Bool.false_eq_true, if_false]
  case min => simp only [exec, execVmin, minT, Ty.isFloat_of_isInt ht, Bool.false_eq_true, if_false]
  case max => simp only [exec, execVmax, maxT, Ty.isFloat_of_isInt ht, Bool.false_eq_true, if_false]
  all_goals simp only [exec]; rfl

end Sys2Proof.Machine

/-! Proofs: R78's order of float codes, and the float lane instructions (R127, R128). -/

namespace Sys2Proof.Machine

/-! ### The order of two values (R78) -/

theorem compare_units (n1 : Bool) (m1 : Nat) (e1 : Int) (n2 : Bool) (m2 : Nat) (e2 : Int) :
    cmpV (.fin n1 m1 e1) (.fin n2 m2 e2) = compare (sgn n1 * ((m1 : Rat) * 2 ^ e1)) (sgn n2 * (m2 * 2 ^ e2)) := by
  have hpos : (0 : Rat) < 2 ^ min e1 e2 := by positivity
  rw [units_eq n1 m1 (min_le_left e1 e2), units_eq n2 m2 (min_le_right e1 e2)]
  unfold cmpV
  dsimp only
  generalize ((if n1 = true then -1 else 1 : Int) * (m1 * 2 ^ (e1 - min e1 e2).toNat : Nat)) = i
  generalize ((if n2 = true then -1 else 1 : Int) * (m2 * 2 ^ (e2 - min e1 e2).toNat : Nat)) = j
  rcases lt_trichotomy i j with h | rfl | h
  · rw [compare_lt_iff_lt.mpr h, eq_comm, compare_lt_iff_lt]
    exact mul_lt_mul_of_pos_right (by exact_mod_cast h) hpos
  · rw [compare_eq_iff_eq.mpr rfl, compare_eq_iff_eq.mpr rfl]
  · rw [compare_gt_iff_gt.mpr h, eq_comm, compare_gt_iff_gt]
    exact mul_lt_mul_of_pos_right (by exact_mod_cast h) hpos

section Order
variable {t : Ty} (ht : t.isFloat = true) {a b : BitVec t.bits}
include ht

/-- Numbers compare as their codes' signs and magnitudes do, the zeros being equal. -/
theorem number_lt_iff (a b : BitVec t.bits) : number t a < number t b ↔
    match a.msb, b.msb with
    | false, false => magnitude t a < magnitude t b
    | false, true => False
    | true, false => 0 < magnitude t a ∨ 0 < magnitude t b
    | true, true => magnitude t b < magnitude t a := by
  have hmono := gridVal_strictMono t
  have hlt (c d : Nat) : gridVal t c < gridVal t d ↔ c < d := hmono.lt_iff_lt
  have hpos (c : Nat) : 0 < gridVal t c ↔ 0 < c := by rw [← gridVal_zero t, hlt]
  have hna := gridVal_nonneg t (magnitude t a)
  have hnb := gridVal_nonneg t (magnitude t b)
  rw [number_eq ht, number_eq ht, sgn, sgn, ← hpos (magnitude t a), ← hpos (magnitude t b), ← hlt (magnitude t a), ← hlt (magnitude t b)]
  cases a.msb <;> cases b.msb <;> simp only [Bool.false_eq_true, if_false, if_true, one_mul, neg_one_mul]
  · rw [iff_false, not_lt]; linarith
  · constructor
    · intro h
      by_contra hc
      rw [not_or, not_lt, not_lt] at hc
      linarith
    · rintro (h | h) <;> linarith
  · constructor <;> intro h <;> linarith

/-- R78: the model's order is that of the codes' places. -/
theorem ltV_iff (ha : isNaN t a = false) (hb : isNaN t b = false) : ltV (val t a) (val t b) = decide (place t a < place t b) := by
  have hinf {r : BitVec t.bits} (h : isInfinite t r = true) : topCode t < magnitude t r := by
    simpa [special] using special_of_isInfinite h
  have hmag {r r' : BitVec t.bits} (h : isInfinite t r = true) (h' : isInfinite t r' = true) : magnitude t r = magnitude t r' := by
    have key {r : BitVec t.bits} (h : isInfinite t r = true) : (fmtOf t).inf = some (magnitude t r) := by
      have := isNaN_eq ht (special_of_isInfinite h)
      rw [not_isNaN_of_isInfinite h] at this
      simpa using this.symm
    exact Option.some.inj ((key h).symm.trans (key h'))
  have numbers {r : BitVec t.bits} (h : isNaN t r = false) (hi : ¬isInfinite t r = true) : special t r = false := by
    simpa [isInfinite, h] using hi
  unfold place
  by_cases hia : isInfinite t a = true
  · by_cases hib : isInfinite t b = true
    · rw [val_inf ht hia, val_inf ht hib, hmag hia hib]
      unfold ltV cmpV
      cases a.msb <;> cases b.msb <;> simp [FVal.sign]
      omega
    · have hfb := special_eq_false.mp (numbers hb hib)
      obtain ⟨m, e, hv, -, -⟩ := val_fin ht (numbers hb hib)
      have := hinf hia
      rw [val_inf ht hia, hv]
      unfold ltV cmpV
      cases a.msb <;> cases b.msb <;> simp <;> omega
  · by_cases hib : isInfinite t b = true
    · have hfa := special_eq_false.mp (numbers ha hia)
      obtain ⟨m, e, hv, -, -⟩ := val_fin ht (numbers ha hia)
      have := hinf hib
      rw [val_inf ht hib, hv]
      unfold ltV cmpV
      cases a.msb <;> cases b.msb <;> simp <;> omega
    · obtain ⟨m1, e1, hva, hna, -⟩ := val_fin ht (numbers ha hia)
      obtain ⟨m2, e2, hvb, hnb, -⟩ := val_fin ht (numbers hb hib)
      rw [hva, hvb, ltV, compare_units, ← hna, ← hnb]
      have hab := number_lt_iff ht a b
      have hba := number_lt_iff ht b a
      rcases lt_trichotomy (number t a) (number t b) with h | h | h
      · rw [compare_lt_iff_lt.mpr h]
        have := hab.mp h
        cases ha : a.msb <;> cases hb : b.msb <;> simp only [ha, hb] at this <;> simp <;> omega
      · rw [compare_eq_iff_eq.mpr h]
        have h1 := mt hab.mpr h.not_lt
        have h2 := mt hba.mpr h.not_gt
        cases ha : a.msb <;> cases hb : b.msb <;> simp only [ha, hb] at h1 h2 <;> simp [FVal.sign] <;> omega
      · rw [compare_gt_iff_gt.mpr h]
        have := hba.mp h
        cases ha : a.msb <;> cases hb : b.msb <;> simp only [ha, hb] at this <;> simp <;> omega

end Order

/-- R78: the smaller or larger of two codes. -/
theorem extreme_fminmax {t : Ty} (hF : t.isF = true) (larger : Bool) (a b : BitVec t.bits) :
    Extreme t larger a b (BitVec.ofNat t.bits (fminmax (fmtOf t) larger a.toNat b.toNat).1)
      (fminmax (fmtOf t) larger a.toNat b.toNat).2 := by
  have ht := Ty.isFloat_of_isF hF
  have hna : (val t a).isNan = isNaN t a := (decode_isNan_sign ht a).1
  have hnb : (val t b).isNan = isNaN t b := (decode_isNan_sign ht b).1
  have hsig : sigFlags [val t a, val t b] = signals t [a, b] := sigFlags_eq ht [a, b]
  have hof (r : BitVec t.bits) : BitVec.ofNat t.bits r.toNat = r := by simp
  unfold Extreme fminmax
  have hval (r : BitVec t.bits) : (fmtOf t).decode r.toNat = val t r := rfl
  simp only [hval, hna, hnb, hsig, canonical_toNat ht]
  cases ha : isNaN t a with
  | true =>
    cases hb : isNaN t b with
    | true => exact ⟨rfl, hof _⟩
    | false => exact ⟨rfl, hof _⟩
  | false =>
    cases hb : isNaN t b with
    | true => exact ⟨rfl, hof _⟩
    | false =>
      have h0 : signals t [a, b] = 0 := signals_eq_zero (by simp [ha, hb])
      rw [ltV_iff ht ha hb, ltV_iff ht hb ha]
      cases larger
      · simp only [Bool.false_and, Bool.false_eq_true, if_false, false_and, decide_eq_true_eq, h0]
        split <;> exact ⟨trivial, hof _⟩
      · simp only [Bool.false_and, Bool.false_eq_true, if_false, if_true, false_and, decide_eq_true_eq, h0]
        split <;> exact ⟨trivial, hof _⟩

/-! ### The float lanes -/

/-- Settles O22: each lane is a scalar operation on the lane's values, and the flags are those of the active lanes. -/
theorem vectorRounding : Obligations.VectorRounding := by
  unfold Obligations.VectorRounding
  intro all
  refine ⟨
    givesFloatLanes_of (n := fun x h a b _ => addT x.t h.rm x.clamp (scaleOf x.scale) a b) all (by decide) rfl rfl
      (.inr fun _ _ _ _ _ _ _ _ h => h) (fun x s => ?add) fun x h a b _ hF => ?addp,
    givesFloatLanes_of (n := fun x h a b _ => subT x.t h.rm x.clamp (scaleOf x.scale) a b) all (by decide) rfl rfl
      (.inr fun _ _ _ _ _ _ _ _ h => h) (fun x s => ?sub) fun x h a b _ hF => ?subp,
    givesFloatLanes_of (n := fun x h a b _ => mulT x.t h.rm x.clamp (scaleOf x.scale) a b) all (by decide) rfl rfl
      (.inr fun _ _ _ _ _ _ _ _ h => h) (fun x s => ?mul) fun x h a b _ hF => ?mulp,
    givesFloatLanes_of (n := fun x h a b c => fmaT x.t h.rm x.clamp (scaleOf x.scale) a b c) all (by decide) rfl rfl (.inl rfl)
      (fun x s => ?fma) fun x h a b c hF => ?fmap,
    givesFloatLanes_of (n := fun x _ a b _ => minT x.t a b) all (by decide) rfl rfl (.inr fun _ _ _ _ _ _ _ _ h => h)
      (fun x s => ?min) fun x h a b _ hF => ?minp,
    givesFloatLanes_of (n := fun x _ a b _ => maxT x.t a b) all (by decide) rfl rfl (.inr fun _ _ _ _ _ _ _ _ h => h)
      (fun x s => ?max) fun x h a b _ hF => ?maxp⟩
  case addp =>
    rw [addT, if_pos (Ty.isFloat_of_isF hF), Thread.rm_eq, valF_eq, valF_eq]
    exact ⟨sum_specials hF _ _, sum_finishes hF _ _ (mode_lt h)⟩
  case subp =>
    have ht := Ty.isFloat_of_isF hF
    have hfin := sum_finishes hF (BitVec.ofNat x.t.bits a) (BitVec.ofNat x.t.bits b ^^^ zeroOf x.t true) (mode_lt h)
    have hsp := sum_specials (n := h.rmode.toNat % 4) hF (BitVec.ofNat x.t.bits a) (BitVec.ofNat x.t.bits b ^^^ zeroOf x.t true)
    rw [number_xor_sign ht, ← sub_eq_add_neg, val_xor_sign ht, special_xor_sign] at hfin
    rw [val_xor_sign ht] at hsp
    rw [subT, if_pos ht, Thread.rm_eq, valF_eq, valF_eq]
    exact ⟨hsp, hfin⟩
  case mulp =>
    rw [mulT, if_pos (Ty.isFloat_of_isF hF), Thread.rm_eq, valF_eq, valF_eq]
    exact ⟨product_specials hF _ _, product_finishes hF _ _ (mode_lt h)⟩
  case fmap =>
    rw [fmaT, if_pos (Ty.isFloat_of_isF hF), Thread.rm_eq, valF_eq, valF_eq, valF_eq]
    exact ⟨fused_specials hF _ _ _, fused_finishes hF _ _ _ (mode_lt h)⟩
  case minp =>
    rw [minT, if_pos (Ty.isFloat_of_isF hF), ← toNat_ofNat_lowBits, ← toNat_ofNat_lowBits]
    exact extreme_fminmax hF false _ _
  case maxp =>
    rw [maxT, if_pos (Ty.isFloat_of_isF hF), ← toNat_ofNat_lowBits, ← toNat_ofNat_lowBits]
    exact extreme_fminmax hF true _ _
  all_goals simp only [exec]; rfl

end Sys2Proof.Machine

/-! Proofs: conversions between types (R80, R106 to R110). -/

namespace Sys2Proof.Machine

/-! ### To a float type -/

/-- Whatever the mode, the result of a finite value is that of rounding down or up. -/
theorem convert_neighbour {t : Ty} (ht : t.isFloat = true) (mode : RM) (cl : Clamp) (sc : Int) (neg : Bool) (m : Nat) (e : Int) :
    ∃ n ∈ [2, 3], ((fmtOf t).convert mode cl sc (.fin neg m e)).1 = ((fmtOf t).convert (rmOf n) cl sc (.fin neg m e)).1 := by
  obtain ⟨n, hmem, h⟩ := round_neighbour ht mode (cl == .sat) neg m (e + sc)
  exact ⟨n, hmem, by simp only [Fmt.convert, h]⟩

/-- R106, R108: a float code on its way to a float type. -/
theorem convert_toFloat {d u : Ty} (hd : d.isFloat = true) (hu : u.isFloat = true) {n : Nat} (hn : n < 4) (cl : Clamp) (sc : Int)
    (a : BitVec u.bits) : ∃ (v r : BitVec d.bits) (f : Flags), (fmtOf d).convert (rmOf n) cl sc (val u a) = (r.toNat, f) ∧
      ToFloat (cl == .sat) d u n sc a v f ∧ Clamped d cl v r := by
  have hzn (h : special u a = true) : isZero u a ≠ true := by
    simp only [special, decide_eq_true_eq] at h
    simp only [isZero, ne_eq, decide_eq_true_eq]
    omega
  rcases code_cases u a with ⟨hnan, hinf, hs⟩ | ⟨hinf, hnan, hs⟩ | ⟨hfin, hnan, hinf⟩
  · obtain ⟨r, h, hc⟩ := convert_nan hd (rmOf n) cl sc (isSignalling u a)
    refine ⟨canonical d, r, _, by rw [val_nan hu hnan, h], ⟨fun _ => ⟨rfl, ?_⟩, fun h => ?_, fun h => ?_, fun h => ?_⟩, hc⟩
    · simp [Flags.when]
    · simp [hinf] at h
    · simp [hs] at h
    · exact absurd h (hzn hs)
  · obtain ⟨r, h, hc⟩ := convert_inf hd (rmOf n) cl sc a.msb
    refine ⟨infiniteCode d (cl == .sat) a.msb, r, _, by rw [val_inf hu hinf, h],
      ⟨fun h => ?_, fun _ => ⟨rfl, rfl⟩, fun h => ?_, fun h => ?_⟩, hc⟩
    · simp [hnan] at h
    · simp [hs] at h
    · exact absurd h (hzn hs)
  · obtain ⟨m, e, hv, hnum, hz⟩ := val_fin hu hfin
    obtain ⟨v, r, f, h, hb, hc, h0⟩ := convert_fin hd hn cl sc a.msb m e
    refine ⟨v, r, f, by rw [hv, h], ⟨fun h => ?_, fun h => ?_, fun _ => by rwa [hnum], fun h => ?_⟩, hc⟩
    · simp [hnan] at h
    · simp [hinf] at h
    · rw [h0 (hz.mpr h), zeroOf_eq]

/-- R80: an integer on its way to a float type. -/
theorem convert_ofInt {d : Ty} (hd : d.isFloat = true) {n : Nat} (hn : n < 4) (cl : Clamp) (sc : Int) (i : Int) :
    ∃ (v r : BitVec d.bits) (f : Flags), (fmtOf d).convert (rmOf n) cl sc (.ofInt i) = (r.toNat, f) ∧
      RoundedBy (cl == .sat) d n (i * 2 ^ sc) v f ∧ Clamped d cl v r := by
  obtain ⟨v, r, f, h, hb, hc, -⟩ := convert_fin hd hn cl sc (decide (i < 0)) i.natAbs 0
  have hi : sgn (decide (i < 0)) * ((i.natAbs : Rat) * 2 ^ (0 : Int)) = i := by
    rw [zpow_zero, mul_one, sgn]
    rcases lt_or_ge i 0 with hneg | hpos
    · rw [decide_eq_true hneg, if_pos rfl, neg_one_mul, ← Int.cast_natCast, Int.ofNat_natAbs_of_nonpos hneg.le, Int.cast_neg, neg_neg]
    · rw [decide_eq_false (not_lt.mpr hpos), if_neg (by decide), one_mul, ← Int.cast_natCast, Int.natAbs_of_nonneg hpos]
  rw [hi] at hb
  exact ⟨v, r, f, h, hb, hc⟩

/-! ### Exact conversions (R106) -/

/-- A count of few bits at an exponent in range is a point of the grid. -/
theorem gridVal_of_count {t : Ty} {m : Nat} {e : Int} (hm : m < 2 ^ (mantBits t + 1)) (he : unitExp t ≤ e) :
    ∃ c, gridVal t c = m * 2 ^ e := by
  obtain ⟨j, rfl⟩ := Int.le.dest he
  induction j generalizing m with
  | zero => exact ⟨m, by have := grid_count (mantBits t) 0 m hm.le (.inl rfl); simp at this; simp [gridVal, this]⟩
  | succ j ih =>
    have hp : 2 ^ (mantBits t + 1) = 2 ^ mantBits t + 2 ^ mantBits t := by omega
    rcases Nat.lt_or_ge m (2 ^ mantBits t) with h | h
    · obtain ⟨c, hc⟩ := ih (m := 2 * m) (by omega) (by omega)
      refine ⟨c, hc.trans ?_⟩
      push_cast
      rw [← add_assoc, zpow_add_one₀ (by norm_num)]
      ring
    · refine ⟨(j + 1) * 2 ^ mantBits t + m, ?_⟩
      rw [gridVal, grid_count _ _ _ hm.le (.inr h), zpow_add₀ (by norm_num), zpow_natCast]
      push_cast
      ring

/-- A number of the grid rounds to itself, without a flag. -/
theorem RoundedBy.exact_of_number {t : Ty} (ht : t.isFloat = true) {n : Nat} (hn : n < 4) {sat : Bool} {r c : BitVec t.bits} {f : Flags}
    (hc : special t c = false) (h : RoundedBy sat t n (number t c) r f) : number t r = number t c ∧ f = 0 := by
  have hno : ¬overflows t n (number t c) := by
    have hle : |number t c| ≤ gridVal t (topCode t) := by
      rw [number_eq ht, abs_sgn_mul, abs_of_nonneg (gridVal_nonneg t _)]
      exact (gridVal_strictMono t).monotone (special_eq_false.mp hc)
    have htop := gridVal_strictMono t (Nat.lt_succ_self (topCode t))
    rw [overflows_eq ht]
    split
    · split <;> linarith
    · split <;> linarith
  have hnum : number t r = number t c := by
    match n, hn with
    | 0, _ =>
      have := (h.nearest hno rfl c hc).1
      rw [sub_self, abs_zero] at this
      linarith [abs_nonpos_iff.mp this]
    | 1, _ =>
      obtain ⟨hle, hsign, hmax⟩ := h.zero hno rfl
      have hge := hmax c hc (mul_self_nonneg _) (le_refl _)
      rcases abs_eq_abs.mp (le_antisymm hle hge) with heq | heq
      · exact heq
      · rw [heq, neg_mul, Left.nonneg_neg_iff] at hsign
        have h0 : number t c = 0 := mul_self_eq_zero.mp (le_antisymm hsign (mul_self_nonneg _))
        rw [heq, h0, neg_zero]
    | 2, _ =>
      obtain ⟨hle, hmax⟩ := h.down hno rfl
      exact le_antisymm hle (hmax c hc (le_refl _))
    | 3, _ =>
      obtain ⟨hge, hmin⟩ := h.up hno rfl
      exact le_antisymm (hmin c hc (le_refl _)) hge
  exact ⟨hnum, h.exact hno hnum⟩

/-- How far the exponent and the count of a code's value reach. -/
theorem val_fin_bounds {t : Ty} (ht : t.isFloat = true) {r : BitVec t.bits} {s : Bool} {m : Nat} {e : Int}
    (h : val t r = .fin s m e) : m < 2 ^ (mantBits t + 1) ∧ unitExp t ≤ e ∧
      e ≤ unitExp t + ((topCode t / 2 ^ mantBits t : Nat) - 1 : Int) := by
  have htop := topCode_field ht
  have hp : 2 ^ (mantBits t + 1) = 2 ^ mantBits t + 2 ^ mantBits t := by omega
  have hfrac : magnitude t r % 2 ^ mantBits t < 2 ^ mantBits t := Nat.mod_lt _ (by positivity)
  have hfield (hle : magnitude t r ≤ topCode t) := Nat.div_le_div_right (c := 2 ^ mantBits t) hle
  unfold val Fmt.decode at h
  simp only [decode_sign ht, decode_magnitude ht, fmtOf_maxFin ht, fmtOf_lsbMin ht, fmtOf_mant] at h
  generalize magnitude t r % 2 ^ mantBits t = fr at *
  generalize topCode t / 2 ^ mantBits t = tf at *
  generalize magnitude t r / 2 ^ mantBits t = ef at *
  split at h
  case isTrue => split at h <;> cases h
  case isFalse hle =>
    have := hfield (not_lt.mp hle)
    split at h
    · cases h
      omega
    case isFalse hef =>
      have hef : ef ≠ 0 := by simpa using hef
      cases h
      omega

/-- R106: every number of fp16 and bf16 is a number of fp32, with the same sign. -/
theorem number_widens {u : Ty} (hu : u = .fp16 ∨ u = .bf16) {a : BitVec u.bits} (ha : special u a = false) :
    ∃ c : BitVec Ty.fp32.bits, special .fp32 c = false ∧ number .fp32 c = number u a := by
  have hf : u.isFloat = true := by rcases hu with rfl | rfl <;> rfl
  have h32 : Ty.fp32.isFloat = true := rfl
  obtain ⟨m, e, hv, hnum, -⟩ := val_fin hf ha
  obtain ⟨hm, hlo, hhi⟩ := val_fin_bounds hf hv
  have hfit : mantBits u + 1 ≤ mantBits .fp32 + 1 ∧ unitExp .fp32 ≤ unitExp u ∧
      (mantBits u + 1 : Nat) + (unitExp u + ((topCode u / 2 ^ mantBits u : Nat) - 1 : Int)) ≤ 128 := by
    rcases hu with rfl | rfl <;> decide
  obtain ⟨hM, hU, hT⟩ := hfit
  obtain ⟨c, hc⟩ := gridVal_of_count (t := .fp32) (lt_of_lt_of_le hm (Nat.pow_le_pow_right (by decide) hM)) (hU.trans hlo)
  have htop : gridVal .fp32 (topCode .fp32 + 1) = 2 ^ (128 : Int) := by
    have hg := grid_field 23 255 0 (by decide)
    rw [gridVal, show mantBits .fp32 = 23 from rfl, show topCode .fp32 + 1 = 255 * 2 ^ 23 + 0 by decide, hg,
      show unitExp .fp32 = -149 by decide, if_neg (by decide), add_zero, Nat.cast_mul, Nat.cast_pow, Nat.cast_pow, Nat.cast_ofNat,
      ← zpow_natCast, ← zpow_natCast, ← zpow_add₀ (by norm_num), ← zpow_add₀ (by norm_num)]
    rfl
  have hlt : gridVal .fp32 c < gridVal .fp32 (topCode .fp32 + 1) := by
    have hm' : (m : Rat) < 2 ^ ((mantBits u + 1 : Nat) : Int) := by rw [zpow_natCast]; exact_mod_cast hm
    rw [hc, htop]
    calc (m : Rat) * 2 ^ e < 2 ^ ((mantBits u + 1 : Nat) : Int) * 2 ^ e := mul_lt_mul_of_pos_right hm' (by positivity)
      _ = 2 ^ ((mantBits u + 1 : Nat) + e) := (zpow_add₀ (by norm_num) _ _).symm
      _ ≤ 2 ^ (128 : Int) := zpow_le_zpow_right₀ (by norm_num) (by omega)
  have hle : c ≤ topCode .fp32 := Nat.lt_succ_iff.mp ((gridVal_strictMono .fp32).lt_iff_lt.mp hlt)
  have hcode := lt_of_le_of_lt hle (topCode_lt h32)
  exact ⟨codeOf .fp32 a.msb c, by rw [special_codeOf _ hcode]; simpa using hle, by rw [number_codeOf h32 _ hcode, hc, hnum]⟩

/-! ### To an integer type (R80) -/

section
variable {n : Nat} {neg up ix : Bool} {q : Nat} {x : Rat} (h : RoundsInto (rmOf n) neg (q % 2 == 1) q (q + 1) x up ix)
include h

theorem RoundsInto.floor_eq : ⌊x⌋ = q := by
  rw [Int.floor_eq_iff]
  push_cast
  exact ⟨h.le, h.lt⟩

theorem RoundsInto.ceil_eq : ⌈x⌉ = if (q : Rat) < x then (q : Int) + 1 else q := by
  have hle := h.le
  have hlt := h.lt
  rw [Int.ceil_eq_iff]
  split
  case isTrue hq => push_cast; constructor <;> linarith
  case isFalse hq => push_cast; constructor <;> linarith

/-- A directed mode takes the whole number above where it goes away from zero, else the one below. -/
theorem RoundsInto.directed (hn : n < 4) (hn' : n ≠ 0) :
    ((q + up.toNat : Nat) : Int) = if toward n neg = true then ⌈x⌉ else ⌊x⌋ := by
  have hup := h.up_iff hn
  rw [if_neg hn'] at hup
  rw [h.floor_eq, h.ceil_eq]
  cases hd : toward n neg with
  | false =>
    have : up = false := by simpa [hd] using hup
    simp [this]
  | true =>
    have hup' : up = true ↔ (q : Rat) < x := by simpa [hd] using hup
    cases up with
    | false => rw [if_pos rfl, if_neg (mt hup'.mpr (by decide))]; rfl
    | true => rw [if_pos rfl, if_pos (hup'.mp rfl)]; rfl

/-- R84's mode 0 takes a whole number at most half away, an even one in the middle. -/
theorem RoundsInto.to_even (hn : n = 0) :
    |((q + up.toNat : Nat) : Rat) - x| ≤ 1 / 2 ∧ (|((q + up.toNat : Nat) : Rat) - x| = 1 / 2 → (q + up.toNat) % 2 = 0) := by
  have hup := h.up_iff (by omega)
  rw [if_pos hn] at hup
  have hlo := h.le
  have hhi := h.lt
  cases up with
  | false =>
    have hno := mt hup.mpr (by decide)
    rw [not_or, not_and, not_lt] at hno
    rw [Bool.toNat_false, add_zero, abs_sub_comm, abs_of_nonneg (by linarith)]
    refine ⟨by linarith [hno.1], fun htie => ?_⟩
    have := hno.2 (by linarith)
    simp at this
    omega
  | true =>
    have hyes := hup.mp rfl
    rw [Bool.toNat_true, Nat.cast_add, Nat.cast_one, abs_of_nonneg (by linarith)]
    refine ⟨by rcases hyes with h | h <;> linarith, fun htie => ?_⟩
    rcases hyes with h | ⟨-, h⟩
    · linarith
    · simp at h; omega

end

/-- A whole number with a sign. -/
def signedNat (neg : Bool) (k : Nat) : Int := if neg then -(k : Nat) else k

theorem cast_signedNat (neg : Bool) (k : Nat) : (signedNat neg k : Rat) = sgn neg * k := by
  cases neg <;> simp [signedNat, sgn]

/-- A sum of an exact value's whole count and its step, as R84 rounds it. -/
theorem RoundsInto.roundsTo {n : Nat} (hn : n < 4) {neg up ix : Bool} {q : Nat} {x : Rat}
    (h : RoundsInto (rmOf n) neg (q % 2 == 1) q (q + 1) x up ix) :
    RoundsTo n (sgn neg * x) (signedNat neg (q + up.toNat)) := by
  have hx0 : 0 ≤ x := le_trans (Nat.cast_nonneg q) h.le
  refine ⟨?_, ?_, ?_, ?_⟩
  · intro hzero
    have hpar : signedNat neg (q + up.toNat) % 2 = 0 ↔ (q + up.toNat) % 2 = 0 := by
      unfold signedNat
      split <;> omega
    rw [cast_signedNat, ← mul_sub, abs_sgn_mul, hpar]
    exact h.to_even hzero
  · rintro rfl
    have hdir : ((q + up.toNat : Nat) : Int) = ⌊x⌋ := by
      rw [h.directed hn (by decide)]
      cases neg <;> simp [toward]
    rw [signedNat, hdir]
    cases neg with
    | false => simp [sgn, not_lt.mpr hx0]
    | true =>
      rcases hx0.eq_or_lt with rfl | hpos
      · simp
      · simp [sgn, hpos, Int.ceil_neg]
  · rintro rfl
    rw [signedNat, h.directed hn (by decide)]
    cases neg <;> simp [sgn, toward, Int.floor_neg]
  · rintro rfl
    rw [signedNat, h.directed hn (by decide)]
    cases neg <;> simp [sgn, toward, Int.ceil_neg]

/-- A value in a type's range stands in it. -/
theorem reads_ofInt {d : Ty} {i : Int} (h1 : lowest d ≤ i) (h2 : i ≤ highest d) :
    reads d (BitVec.ofInt d.bits i) = i := by
  have hw := d.bits_pos
  have hp : (2 : Int) ^ d.bits = 2 * 2 ^ (d.bits - 1) := by exact_mod_cast two_pow_bits d
  unfold reads
  unfold lowest at h1
  unfold highest at h2
  split
  case isTrue hI =>
    rw [if_pos hI] at h1 h2
    rw [BitVec.toInt_ofInt]
    apply Int.bmod_eq_of_le
    · push_cast; omega
    · push_cast; omega
  case isFalse hI =>
    rw [if_neg hI] at h1 h2
    rw [BitVec.toNat_ofInt]
    push_cast
    rw [Int.emod_eq_of_lt h1 (by omega), Int.toNat_of_nonneg h1]

theorem lowest_le_highest (d : Ty) : lowest d ≤ highest d := by cases d <;> decide

theorem reads_wrapTo {d : Ty} {i : Int} (h1 : lowest d ≤ i) (h2 : i ≤ highest d) :
    reads d (BitVec.ofNat d.bits (wrapTo d.bits i)) = i := by
  rw [ofNat_wrapTo, reads_ofInt h1 h2]

/-- No number is so large that the model's bound on shifts counts. -/
theorem topExp_small {u : Ty} (hu : u.isFloat = true) {a : BitVec u.bits} {m : Nat} {e : Int} (hv : val u a = .fin a.msb m e) :
    ¬topExp (max m 1) e > 200 := by
  obtain ⟨hm, -, he⟩ := val_fin_bounds hu hv
  have hlim : mantBits u + (unitExp u + ((topCode u / 2 ^ mantBits u : Nat) - 1 : Int)) ≤ 200 := by
    obtain rfl | rfl | rfl | rfl | rfl | rfl := float_cases hu <;> decide
  have hlog : Nat.log2 (max m 1) < mantBits u + 1 := by
    rw [Nat.log2_lt (by omega)]
    have := Nat.one_lt_two_pow (n := mantBits u + 1) (by omega)
    omega
  rw [topExp]
  omega

/-- The rounded whole number is the exact value just if the result is not inexact. -/
theorem RoundsInto.signedNat_eq_iff {mode : RM} {neg odd up ix : Bool} {q : Nat} {x : Rat}
    (h : RoundsInto mode neg odd q (q + 1) x up ix) : (signedNat neg (q + up.toNat) : Rat) = sgn neg * x ↔ ix = false := by
  rw [cast_signedNat, mul_right_inj' (by cases neg <;> simp [sgn]), h.inexact, decide_eq_false_iff_not, not_not]
  cases hu : up with
  | false => simp [eq_comm]
  | true =>
    push_cast
    simp only [Bool.toNat_true, Nat.cast_one]
    exact iff_of_false h.lt.ne' (h.lt_of_up hu).ne'

/-- A finite float code rounded to a whole number and bounded to the type's range. -/
theorem floatToInt_fin {d : Ty} (mode : RM) (neg : Bool) {m : Nat} {e : Int} (hsmall : ¬topExp (max m 1) e > 200) {q : Nat}
    {up : Bool} (hq : (roundAt mode neg m e 0).1 = q + up.toNat) : floatToInt d mode (.fin neg m e) =
      if signedNat neg (q + up.toNat) < lowest d then (wrapTo d.bits (lowest d), Fl.nv)
      else if signedNat neg (q + up.toNat) > highest d then (wrapTo d.bits (highest d), Fl.nv)
      else (wrapTo d.bits (signedNat neg (q + up.toNat)), Flags.when (roundAt mode neg m e 0).2 Fl.nx) := by
  simp only [floatToInt, toIntV, if_neg hsmall, hq, intMin_eq, intMax_eq, signedNat]
  rfl

/-- R80: a float code on its way to an integer type. -/
theorem floatToInt_toInteger {d u : Ty} (hu : u.isFloat = true) {n : Nat} (hn : n < 4) (a : BitVec u.bits) :
    ToInteger d u n a (BitVec.ofNat d.bits (floatToInt d (rmOf n) (val u a)).1) (floatToInt d (rmOf n) (val u a)).2 := by
  have hlh := lowest_le_highest d
  rcases code_cases u a with ⟨hnan, hinf, hs⟩ | ⟨hinf, hnan, hs⟩ | ⟨hfin, hnan, hinf⟩
  · refine ⟨fun _ => by rw [val_nan hu hnan]; exact ⟨rfl, rfl⟩, fun h => ?_, fun h => ?_⟩
    · simp [hinf] at h
    · simp [hs] at h
  · refine ⟨fun h => ?_, fun _ => ?_, fun h => ?_⟩
    · simp [hnan] at h
    · rw [val_inf hu hinf]
      simp only [floatToInt, intMin_eq, intMax_eq]
      cases a.msb
      · exact ⟨reads_wrapTo hlh (le_refl _), trivial⟩
      · exact ⟨reads_wrapTo (le_refl _) hlh, trivial⟩
    · simp [hs] at h
  · refine ⟨fun h => ?_, fun h => ?_, fun _ => ?_⟩
    · simp [hnan] at h
    · simp [hinf] at h
    · obtain ⟨m, e, hv, hnum, -⟩ := val_fin hu hfin
      obtain ⟨q, up, hq, hr⟩ := roundAt_spec (rmOf n) a.msb m e 0
      rw [sub_zero] at hr
      have hexact := hr.signedNat_eq_iff
      rw [← hnum] at hexact
      refine ⟨signedNat a.msb (q + up.toNat), by rw [hnum]; exact hr.roundsTo hn, ?_⟩
      rw [hv, floatToInt_fin (rmOf n) a.msb (topExp_small hu hv) hq]
      generalize signedNat a.msb (q + up.toNat) = i at *
      refine ⟨fun h => ?_, fun h => ?_, fun h1 h2 => ?_⟩
      · rw [if_pos h]
        exact ⟨reads_wrapTo (le_refl _) hlh, rfl⟩
      · rw [if_neg (by omega), if_pos h]
        exact ⟨reads_wrapTo hlh (le_refl _), rfl⟩
      · rw [if_neg (by omega), if_neg (by omega)]
        refine ⟨reads_wrapTo h1 h2, ?_⟩
        simp only [hexact]
        cases (roundAt (rmOf n) a.msb m e 0).2 <;> rfl

/-! ### The conversion of one element (R80, R106 to R110) -/

/-- A conversion's mode: `dn` for one between float types that is no exact widening, else R84's. -/
theorem cvtT_converts {x : RegForm} {u : Ty} {h : Thread} {dn : RM} (hdn : h.rmode.getLsbD 2 = false → dn = h.rm)
    (hwide : (widenGroup x.t u).isSome = true → x.t.isFloat = true → u.isFloat = true → isDown x.t u = false) (v : Nat) :
    Converts x u h (BitVec.ofNat u.bits v)
      (BitVec.ofNat x.t.bits (cvtT x.t u h.rm dn x.clamp (scaleOf x.scale) (modSrc u x.m1 v)).1)
      (cvtT x.t u h.rm dn x.clamp (scaleOf x.scale) (modSrc u x.m1 v)).2 := by
  have hn := mode_lt h
  have hint (d : Ty) (hd : d.isInt = true) : ¬d.isFloat = true := by simp [Ty.isFloat_of_isInt hd]
  refine ⟨fun hd hf hm => ?_, fun hd hf hr hs => ?_, fun hd hi => ?_, fun hi hf => ?_, fun hd hi => ?_⟩
  · have hmode : (if isDown x.t u then dn else h.rm) = rmOf (h.rmode.toNat % 4) := by
      rw [← h.rm_eq]
      split
      case isTrue hdown =>
        rcases hm with hm | hm
        · exact hdn hm
        · simp [hwide hm hd hf] at hdown
      case isFalse => rfl
    obtain ⟨w, r, f, hc, htf, hcl⟩ := convert_toFloat hd hf hn x.clamp x.scale.toInt (floatMod u x.m1 (BitVec.ofNat u.bits v))
    rw [cvtT, if_pos hf, if_pos hd, hmode, valF_eq, ofNat_modSrc_float hf, scaleOf, hc]
    exact ⟨w, htf, by rwa [BitVec.ofNat_toNat, BitVec.setWidth_eq]⟩
  · obtain ⟨m, e, hv, hnum, -⟩ := val_fin hf hs
    obtain ⟨n, hmem, heq⟩ := convert_neighbour hd (if isDown x.t u then dn else h.rm) x.clamp x.scale.toInt
      (floatMod u x.m1 (BitVec.ofNat u.bits v)).msb m e
    obtain ⟨w, r, f, hc, hb, hcl, -⟩ := convert_fin hd (show n < 4 by simp at hmem; omega) x.clamp x.scale.toInt
      (floatMod u x.m1 (BitVec.ofNat u.bits v)).msb m e
    refine ⟨n, hmem, f, w, by rwa [hnum], ?_⟩
    rw [cvtT, if_pos hf, if_pos hd, valF_eq, ofNat_modSrc_float hf, scaleOf, hv, heq, hc, BitVec.ofNat_toNat, BitVec.setWidth_eq]
    exact hcl
  · obtain ⟨w, r, f, hc, hb, hcl⟩ := convert_ofInt hd hn x.clamp x.scale.toInt (reads u (intMod u x.m1 (BitVec.ofNat u.bits v)))
    rw [cvtT, if_neg (hint u hi), if_pos hd, intVal_eq, ofNat_modSrc _ _ _ (Ty.isFloat_of_isInt hi), h.rm_eq, scaleOf, hc]
    exact ⟨w, hb, by rwa [BitVec.ofNat_toNat, BitVec.setWidth_eq]⟩
  · rw [cvtT, if_pos hf, if_neg (hint x.t hi), h.rm_eq, valF_eq, ofNat_modSrc_float hf]
    exact floatToInt_toInteger hf hn _
  · rw [cvtT, if_neg (hint u hi), if_neg (hint x.t hd), intVal_eq, ofNat_modSrc _ _ _ (Ty.isFloat_of_isInt hi), ofNat_finishInt]
    exact ⟨rfl, rfl⟩

/-- The result of a conversion stands in the type's bits. -/
theorem cvtT_lt {d u : Ty} (hd : d.isFloat = true) (mode dn : RM) (cl : Clamp) (sc : Int) (v : Nat) :
    (cvtT d u mode dn cl sc v).1 < 2 ^ d.bits := by
  have key (mode : RM) (w : FVal) : ((fmtOf d).convert mode cl sc w).1 < 2 ^ d.bits := by
    cases w with
    | nan sig => obtain ⟨r, h, -⟩ := convert_nan hd mode cl sc sig; rw [h]; exact r.isLt
    | inf neg => obtain ⟨r, h, -⟩ := convert_inf hd mode cl sc neg; rw [h]; exact r.isLt
    | fin neg m e =>
      obtain ⟨k, hmem, h⟩ := convert_neighbour hd mode cl sc neg m e
      obtain ⟨-, r, f, hc, -⟩ := convert_fin hd (show k < 4 by simp at hmem; omega) cl sc neg m e
      rw [h, hc]; exact r.isLt
  unfold cvtT
  rw [if_pos hd, if_pos hd]
  split <;> exact key _ _

/-! ### The scalar conversion -/

/-- The types of `FCVT`. -/
theorem fcvt_types {x : RegForm} {u : Ty} (h : Code.fieldsOk (.reg 0x047 x) = true) (hu : x.srcTy = some u) :
    isFcvtTy x.t = true ∧ isFcvtTy u = true ∧ x.t ≠ u := by
  have hok : regOk 0x047 x = true := h
  unfold regOk at hok
  simp only [hu, Bool.and_eq_true, isTwoType, pairOk] at hok
  obtain ⟨⟨⟨⟨⟨⟨⟨⟨⟨⟨⟨-, -⟩, -⟩, -⟩, -⟩, hpair⟩, -⟩, -⟩, -⟩, -⟩, -⟩, -⟩ := hok
  simpa [and_assoc] using hpair

theorem fcvt_kinds {t : Ty} (h : isFcvtTy t = true) : (t.isFloat = true ∨ t.isInt = true) ∧ (t.isFloat = true → t.isF = true) := by
  revert h
  cases t <;> decide

/-- A conversion between two float types of `FCVT` rounds by the down-conversion's mode unless it goes to fp32. -/
theorem fcvt_isDown {d u : Ty} (hd : isFcvtTy d = true) (hu : isFcvtTy u = true) (hne : d ≠ u) :
    (isDown d u = true ↔ d.isF = true ∧ u.isF = true ∧ d ≠ .fp32) ∧ ((widenGroup d u).isSome = true → isDown d u = false) := by
  revert hd hu hne
  cases d <;> cases u <;> decide

theorem Thread.countDraws_restored (h : Thread) (d u : Ty) (e : Nat) (y : BitVec 64) :
    { h.countDraws d u e with rcount := y } = { h with rcount := y } := by
  unfold Thread.countDraws
  split <;> rfl

theorem Thread.countDraws_one (h : Thread) (d u : Ty) : (h.countDraws d u 1).rcount =
    if h.rmode.getLsbD 2 = true ∧ isDown d u = true then h.rcount + 1 else h.rcount := by
  unfold Thread.countDraws
  simp only [Bool.and_eq_true]
  split <;> rfl

/-- R80, R110: what `FCVT` leaves, the rounding counter put back. -/
theorem fcvt_wroteSF (s : State) (d u : Ty) (n : BitVec 5) (v : Word) (f : Flags) :
    let t := (s.putSF n v f).modCur fun h => h.countDraws d u 1
    WroteSF s { t with cur := { t.cur with rcount := s.cur.rcount } } n v f ∧
      t.cur.rcount = if s.cur.rmode.getLsbD 2 = true ∧ isDown d u = true then s.cur.rcount + 1 else s.cur.rcount := by
  intro t
  have hrc : (s.putSF n v f).cur.rcount = s.cur.rcount := Thread.setS_rcount s.cur n v
  have hrm : (s.putSF n v f).cur.rmode = s.cur.rmode := Thread.setS_rmode s.cur n v
  constructor
  · have hback : { t with cur := { t.cur with rcount := s.cur.rcount } } = s.putSF n v f := by
      change { s.putSF n v f with
        cur := { (s.putSF n v f).cur.countDraws d u 1 with rcount := s.cur.rcount } } = s.putSF n v f
      rw [Thread.countDraws_restored, ← hrc]
    rw [hback]
    exact wroteSF_putSF s n v f
  · change ((s.putSF n v f).cur.countDraws d u 1).rcount = _
    rw [Thread.countDraws_one, hrc, hrm]

theorem fcvt_narrow {u : Ty} (hu : u.isF = true) (h : u ≠ .fp32) : u = .fp16 ∨ u = .bf16 := by
  revert hu h
  cases u <;> decide

/-- R106: to a wider float a number goes exactly, with its sign. -/
theorem ToFloat.exact_of_widens {sat : Bool} {d u : Ty} {n : Nat} {a : BitVec u.bits} {v : BitVec d.bits} {f : Flags}
    (h : ToFloat sat d u n (0 : BitVec 4).toInt a v f) (hn : n < 4) (hd : d = .fp32) (hu : u = .fp16 ∨ u = .bf16)
    (hs : special u a = false) : number d v = number u a ∧ v.msb = a.msb ∧ f = 0 := by
  subst hd
  have huf : u.isFloat = true := by rcases hu with rfl | rfl <;> rfl
  obtain ⟨c, hc, hnum⟩ := number_widens hu hs
  have hround := h.finite hs
  rw [show (2 : Rat) ^ (0 : BitVec 4).toInt = 1 from rfl, mul_one, ← hnum] at hround
  obtain ⟨hv, hf⟩ := hround.exact_of_number rfl hn hc
  refine ⟨hv.trans hnum, ?_, hf⟩
  by_cases hz : isZero u a = true
  · rw [h.zero hz, zeroOf_eq]
    exact msb_codeOf .fp32 _ (by decide)
  · have hpos : 0 < gridVal u (magnitude u a) := by
      rw [← gridVal_zero u, (gridVal_strictMono u).lt_iff_lt]
      exact Nat.pos_of_ne_zero (by simpa [isZero] using hz)
    have hsign := sgn_neg_iff a.msb hpos
    rw [← number_eq huf, ← hnum] at hsign
    have hne : number .fp32 c ≠ 0 := by
      rw [hnum, number_eq huf]
      exact mul_ne_zero (by cases a.msb <;> simp [sgn]) hpos.ne'
    rw [hround.sign hne (.inl (by decide)), hsign]

/-- Settles O20: a conversion is the model's `convert` or its rounding to an integer, each as asked. -/
theorem floatConversions : Obligations.FloatConversions := by
  unfold Obligations.FloatConversions
  intro x s u hok hu hg a narrower
  obtain ⟨hd, hsrc, hne⟩ := fcvt_types hok hu
  obtain ⟨hdown, hwide⟩ := fcvt_isDown hd hsrc hne
  obtain ⟨hkind, hF⟩ := fcvt_kinds hd
  obtain ⟨-, huF⟩ := fcvt_kinds hsrc
  have ha : a = BitVec.ofNat u.bits (s.cur.sreg x.s1.num5).toNat := (BitVec.ofNat_toNat ..).symm
  have hconv := cvtT_converts (x := x) (u := u) (h := s.cur) (dn := s.cur.dnMode 0)
    (fun h => by rw [Thread.dnMode, h, if_neg (by decide)]) (fun h _ _ => hwide h) (s.cur.sreg x.s1.num5).toNat
  rw [← ha] at hconv
  generalize hc : cvtT x.t u s.cur.rm (s.cur.dnMode 0) x.clamp (scaleOf x.scale) (modSrc u x.m1 (s.cur.sreg x.s1.num5).toNat) = c
    at hconv
  have hrun : exec (.fcvt x) s = .next ((s.putSF x.dst.num5
      (if x.t.isFloat then BitVec.ofNat 64 c.1 else extendInt x.t c.1) c.2).modCur fun h => h.countDraws x.t u 1) := by
    simp only [exec]
    refine (scalar_pass _ _ _ hg).trans ?_
    simp only [hu, Option.getD_some, Thread.srcT, hc]
  have hword : (if x.t.isFloat then BitVec.ofNat 64 c.1 else extendInt x.t c.1) =
      if x.t.isInt = true then standing x.t (BitVec.ofNat x.t.bits c.1) else (BitVec.ofNat x.t.bits c.1).setWidth 64 := by
    by_cases hi : x.t.isInt = true
    · rw [if_pos hi, Ty.isFloat_of_isInt hi, if_neg (by decide), extendInt_eq]
    · have hf := hkind.resolve_right hi
      have hlt := cvtT_lt (u := u) hf s.cur.rm (s.cur.dnMode 0) x.clamp (scaleOf x.scale)
        (modSrc u x.m1 (s.cur.sreg x.s1.num5).toNat)
      rw [hc] at hlt
      rw [if_neg hi, if_pos hf, ← BitVec.ofNat_toNat, BitVec.toNat_ofNat, Nat.mod_eq_of_lt hlt]
  obtain ⟨hw, hcount⟩ := fcvt_wroteSF s x.t u x.dst.num5
    (if x.t.isFloat then BitVec.ofNat 64 c.1 else extendInt x.t c.1) c.2
  rw [hword] at hw hcount hrun
  refine ⟨_, hrun, BitVec.ofNat x.t.bits c.1, c.2, hw, by simp only [hcount, hdown]; rfl, hconv, ?_⟩
  intro h32 hu' hs hcl hsc
  have hwider : u = .fp16 ∨ u = .bf16 := fcvt_narrow hu' (fun h => hne (h32.trans h.symm))
  have hsome : (widenGroup x.t u).isSome = true := by rw [h32]; rcases hwider with rfl | rfl <;> rfl
  obtain ⟨v, htf, hclamp⟩ := hconv.floats (by rw [h32]; rfl) (Ty.isFloat_of_isF hu') (.inr hsome)
  rw [hclamp.same (.inl hcl)]
  rw [hsc] at htf
  exact htf.exact_of_widens (mode_lt s.cur) h32 hwider hs

end Sys2Proof.Machine

/-! Proofs: image writes that stay owed (R153, R313), and a fetched word that is no instruction on a state whose trap cuts
its image in two and leaves its write owed (R57). -/

namespace Sys2Proof.Machine

/-! ### What a step's end does to memory while a write stays owed -/

/-- A task's image write waits for its page (R313). -/
def State.Owes (s : State) (k : TaskId) : Prop := ∃ p ∈ s.parts, p.num = k.part ∧ (k.ctx, k.task) ∈ p.owed

/-- A context's tasks are the one task k alone. -/
def Context.OnlyTask (c : Context) (k : TaskId) : Prop := c.num = k.ctx ∧ ∀ t ∈ c.tasks, t.create = k.task

/-- A partition's tasks are the one task k alone. -/
def Partition.OnlyTask (p : Partition) (k : TaskId) : Prop := p.num = k.part ∧ ∀ c ∈ p.ctxs, c.OnlyTask k

/-- No task but k is anywhere. -/
def State.OnlyTask (s : State) (k : TaskId) : Prop := ∀ p ∈ s.parts, p.OnlyTask k

theorem State.OnlyTask.task?_none {s : State} {k k' : TaskId} (h : s.OnlyTask k) (hk : k' ≠ k) : s.task? k' = none := by
  cases htask : s.task? k' with
  | none => rfl
  | some t =>
    obtain ⟨c, hc, ht⟩ := Option.bind_eq_some_iff.mp htask
    obtain ⟨p, hp, hc⟩ := Option.bind_eq_some_iff.mp hc
    obtain ⟨hpart, hctxs⟩ := h p (List.mem_of_find?_eq_some hp)
    obtain ⟨hctx, htasks⟩ := hctxs c (List.mem_of_find?_eq_some hc)
    have hcreate : t.create = k'.task := by simpa using List.find?_some ht
    refine absurd ?_ hk
    calc k' = ⟨p.num, c.num, t.create⟩ := by rw [State.part?_num hp, p.ctx?_num hc, hcreate]; rfl
      _ = k := by rw [hpart, hctx, htasks t (List.mem_of_find?_eq_some ht)]

/-- Changes of the partitions, each keeping its tasks' names, keep whose tasks there are. -/
theorem State.onlyTask_map {s t : State} {k : TaskId} (g : Partition → Partition) (h : t.parts = s.parts.map g)
    (hg : ∀ p, (g p).OnlyTask k ↔ p.OnlyTask k) : t.OnlyTask k ↔ s.OnlyTask k := by
  simp [State.OnlyTask, h, hg]

/-- Changes of the partitions that keep what each owes keep what is owed. -/
theorem State.owes_map {s t : State} {k : TaskId} (g : Partition → Partition) (h : t.parts = s.parts.map g)
    (hn : ∀ p, (g p).num = p.num) (hg : ∀ p, (g p).owed = p.owed) : t.Owes k ↔ s.Owes k := by
  simp [State.Owes, h, hn, hg]

/-- Changes of a partition's contexts beside their tasks keep whose tasks there are. -/
theorem Partition.onlyTask_map {p : Partition} {k : TaskId} (f : Context → Context) (hn : ∀ c, (f c).num = c.num)
    (ht : ∀ c, (f c).tasks = c.tasks) : Partition.OnlyTask { p with ctxs := p.ctxs.map f } k ↔ p.OnlyTask k := by
  simp [Partition.OnlyTask, Context.OnlyTask, hn, ht]

/-- `payOwed`'s step: the write of one task's image, if its page can be reached. -/
def State.payFor (s : State) (k : TaskId) : State :=
  if s.imageHeld k then s
  else (s.writeBack k).modPart k.part fun p => { p with owed := p.owed.filter fun o => o != (k.ctx, k.task) }

theorem State.payOwed_eq (s : State) :
    s.payOwed = (s.parts.flatMap fun p => p.owed.map fun o => (⟨p.num, o.1, o.2⟩ : TaskId)).foldl State.payFor s := rfl

theorem State.payFor_held {s : State} {k : TaskId} (h : s.imageHeld k = true) : s.payFor k = s := by
  simp [State.payFor, h]

/-- A write back whose page can be reached leaves the partitions' records. -/
theorem State.writeBack_parts {s : State} {k : TaskId} (h : s.imageHeld k = false) : (s.writeBack k).parts = s.parts := by
  unfold State.writeBack
  split
  next => rfl
  next =>
    split
    next => rfl
    next =>
      rw [h]
      split
      next => rfl
      next => simp

/-- There is nothing to write for a task that does not exist. -/
theorem State.writeBack_of_no_task {s : State} {k : TaskId} (h : s.task? k = none) : s.writeBack k = s := by
  unfold State.writeBack
  split
  next => rfl
  next c hc =>
    have hnone : c.task? k.task = none := by simpa [State.task?, hc] using h
    rw [hnone]

theorem State.payFor_parts {s : State} {k : TaskId} (h : s.imageHeld k = false) : (s.payFor k).parts =
    modWhere (fun p => p.num == k.part) (fun p => { p with owed := p.owed.filter fun o => o != (k.ctx, k.task) }) s.parts := by
  simp [State.payFor, h, State.writeBack_parts h]

/-- Paying adds to no debt, and no debt that it pays stays. -/
theorem State.Owes.of_payFor {s : State} {k k' : TaskId} (h : (s.payFor k').Owes k) :
    s.Owes k ∧ (s.imageHeld k' = true ∨ k' ≠ k) := by
  cases hheld : s.imageHeld k' with
  | true => exact ⟨State.payFor_held hheld ▸ h, .inl rfl⟩
  | false =>
    obtain ⟨p, hp, hnum, howed⟩ := h
    rw [State.payFor_parts hheld, modWhere, List.mem_map] at hp
    obtain ⟨q, hq, rfl⟩ := hp
    by_cases hpart : (q.num == k'.part) = true
    · simp only [hpart, if_true] at hnum howed
      obtain ⟨hin, hne⟩ := List.mem_filter.mp howed
      refine ⟨⟨q, hq, hnum, hin⟩, .inr ?_⟩
      rintro rfl
      simp at hne
    · simp only [hpart] at hnum howed
      refine ⟨⟨q, hq, hnum, howed⟩, .inr ?_⟩
      rintro rfl
      exact hpart (beq_iff_eq.mpr hnum)

theorem State.Owes.of_foldl_payFor {k : TaskId} (ks : List TaskId) {s : State} (h : (ks.foldl State.payFor s).Owes k) :
    s.Owes k := by
  induction ks generalizing s with
  | nil => exact h
  | cons k' ks ih => exact (ih h).of_payFor.1

theorem State.onlyTask_payFor {s : State} {k k' : TaskId} : (s.payFor k').OnlyTask k ↔ s.OnlyTask k := by
  cases hheld : s.imageHeld k' with
  | true => rw [State.payFor_held hheld]
  | false => exact State.onlyTask_map _ (State.payFor_parts hheld) fun p => by split <;> rfl

theorem State.onlyTask_foldl_payFor {k : TaskId} (ks : List TaskId) {s : State} :
    (ks.foldl State.payFor s).OnlyTask k ↔ s.OnlyTask k := by
  induction ks generalizing s with
  | nil => rfl
  | cons k' ks ih => exact ih.trans State.onlyTask_payFor

/-- While the one task's write stays owed, no write is made. -/
theorem foldl_payFor_mem {k : TaskId} (ks : List TaskId) {s : State} (hone : s.OnlyTask k)
    (h : (ks.foldl State.payFor s).Owes k) : (ks.foldl State.payFor s).mem = s.mem := by
  induction ks generalizing s with
  | nil => rfl
  | cons k' ks ih =>
    have hstep : (s.payFor k').mem = s.mem := by
      obtain ⟨-, hheld | hother⟩ := (State.Owes.of_foldl_payFor ks h).of_payFor
      · rw [State.payFor_held hheld]
      · unfold State.payFor
        rw [State.writeBack_of_no_task (hone.task?_none hother)]
        split <;> rfl
    exact (ih (State.onlyTask_payFor.mpr hone) h).trans hstep

theorem State.tellThreads_owes {s : State} {k : TaskId} : s.tellThreads.Owes k ↔ s.Owes k :=
  State.owes_map _ rfl (fun _ => rfl) fun _ => rfl

theorem State.onlyTask_tellThreads {s : State} {k : TaskId} : s.tellThreads.OnlyTask k ↔ s.OnlyTask k :=
  State.onlyTask_map _ rfl fun _ => Partition.onlyTask_map _ (fun _ => rfl) fun _ => rfl

theorem State.onlyTask_checkIn {s : State} {k : TaskId} : s.checkIn.OnlyTask k ↔ s.OnlyTask k := by
  refine State.onlyTask_map _ rfl fun p => ?_
  split
  · exact Partition.onlyTask_map _ (fun c => by split <;> rfl) fun c => by split <;> rfl
  · rfl

theorem State.heard_parts (old s : State) : (State.heard old s).parts = s.parts := by
  unfold State.heard
  split <;> rfl

theorem State.heard_mem (old s : State) : (State.heard old s).mem = s.mem := by
  unfold State.heard
  split <;> rfl

/-- The state that `putBack` makes of an act's next one. -/
def State.handBack (s : State) : State := (s.modCur (Thread.afterIssue s.time)).checkIn

theorem putBack_next (s : State) : putBack (.next s) = .next s.handBack := rfl

/-- Where a step's end pays nothing of what the act left owed of the one task, every act with that outcome left that memory:
had the write been made at the step's end, it would be owed no more. -/
theorem mem_of_noticed {old u v : State} {k : TaskId} (h : noticed old (putBack (.next u)) = noticed old (putBack (.next v)))
    (hpay : v.handBack.payOwed = v.handBack) (hone : v.handBack.OnlyTask k) (howes : v.handBack.Owes k) : u.mem = v.mem := by
  rw [putBack_next, putBack_next] at h
  injection h with h
  set u' := u.handBack with hu
  set v' := v.handBack with hv'
  have hparts : u'.notice.parts = v'.notice.parts := by
    simpa only [State.heard_parts] using congrArg State.parts h
  have hmem : u'.notice.mem = v'.notice.mem := by simpa only [State.heard_mem] using congrArg State.mem h
  have hv : v'.notice = v'.tellThreads := congrArg State.tellThreads hpay
  have hone' : u'.notice.OnlyTask k := by
    simpa only [State.OnlyTask, hparts, hv] using State.onlyTask_tellThreads.mpr hone
  have howes' : u'.notice.Owes k := by simpa only [State.Owes, hparts, hv] using State.tellThreads_owes.mpr howes
  calc u.mem = u'.payOwed.mem := (foldl_payFor_mem _ ((State.onlyTask_foldl_payFor _).mp
        (State.onlyTask_tellThreads.mp hone')) (State.tellThreads_owes.mp howes')).symm
    _ = v'.notice.mem := hmem
    _ = v.mem := by rw [hv, hv']; rfl

/-! ### An image whose write changes its own translation -/

/-- The task of `fetchContext` with its image at byte 2^30, in whose energy field stands a table entry: a 1 GiB leaf at 2^30
(R228). -/
def heldTask (t : Task) : Task := { t with image := 2 ^ 30, attached := true, energyUsed := 0x4000000F }

/-- The one thread of `fetchContext` as engine firmware, which is read from the engine's own copy (R261). -/
def engineThread : Thread := { Thread.blank with life := .here .ready, nthreads := 1, role := some [] }

/-- Their context. Both stages walk the table at 0; the image's fields are reached through pages of one byte, the first and the
third in one line of HBM under two keys, the energy field at the entry that both stages read for the image. -/
def heldContext : Context := { fetchContext with
  s1root := 0, s2root := 0, engineCode := [0]
  tasks := fetchContext.tasks.map heldTask
  threads := [engineThread]
  tlb := [bytePage trackerCluster (2 ^ 30 + 10) 0x200A 0, bytePage trackerCluster (2 ^ 30 + 28) 0x1008 0,
    bytePage trackerCluster (2 ^ 30 + 52) 0x2034 1] }

/-- The machine with that context, whose next act is the issue of its thread. Its tables map the first GiB to itself and
nothing else; what lies from 2^30 on is HBM of a stack that is not in service. The task's image write is owed. -/
def heldState : State := { State.reset with
  stage := 5
  agenda := [(0, .issue ⟨0, 0, 0, 0⟩ [])]
  hbm := [trainedStack 0]
  regions := [⟨0, 0x2000, .commons 0⟩, ⟨0x2000, 4096, .hbm 0⟩, ⟨2 ^ 30, 4096, .hbm 1⟩]
  mem := writeBytes (writeBytes [] 0 (leBytes 8 0x1001)) 0x1000 (leBytes 8 0xF)
  parts := [{ newPartition 0 1 [0] 0 30 0x4001 0 with
    keys := [.loaded 1 0, .loaded 2 0], owed := [(0, 0)], ctxs := [heldContext] }] }

/-- The thread's registers are checked out. -/
def heldIssue : State := State.checkOut engineThread { heldState with agenda := [] }

theorem heldState_issues : IssuesNext heldState heldIssue ⟨0, 0, 0, 0⟩ :=
  ⟨0, [], engineThread, [], rfl, by decide +kernel, by decide +kernel, rfl, by decide +kernel, rfl⟩

theorem heldIssue_fetch : heldIssue.fetch = .ok (bytesOfWord 0) := by rfl

theorem heldIssue_noteFetch : heldIssue.noteFetch = heldIssue := by rfl

theorem decodeBytes_zero : decodeBytes (bytesOfWord 0) = .error .opcode := by rfl

/-- Its trap on word 0. -/
def heldTrap : State := trapHere 0x01 (wordOfBytes (bytesOfWord 0)) heldIssue

theorem runIssue_undecoded {s : State} {bs : List Byte} {e : DecErr} (hf : s.fetch = .ok bs)
    (hd : decodeBytes bs = .error e) : s.runIssue = decodeTrap e (wordOfBytes bs) s.noteFetch := by
  simp only [State.runIssue, hf, runBytes, hd]

theorem heldState_step : step heldState = noticed heldState (putBack (.next heldTrap)) := by
  rw [step_issuesNext heldState_issues, runIssue_undecoded heldIssue_fetch decodeBytes_zero, heldIssue_noteFetch]
  rfl

/-- The fields of the image lie at these physical bytes, under two keys and none, and nowhere else. -/
theorem heldIssue_homes : ∀ va ∈ [10, 28, 52, 56],
    (heldIssue.xlate ⟨0, 0⟩ trackerCluster (2 ^ 30 + va) .wr).toOption.map Xlate.home ∈
      [none, some (.mem 0x200A 1), some (.mem 0x1008 0), some (.mem 0x2034 2)] := by decide +kernel

/-- No byte but the fields' own may change when the image is written back: the first of the HBM page may not. -/
theorem heldIssue_keeps_first : ¬WrittenBack heldIssue heldIssue.cur.id.ctxId (2 ^ 30) 0x2000 := by
  rintro ⟨w, hw, p, hp, x, pa, g, hx, hhome, hwritten⟩
  have hpieces : ∀ w ∈ [(10, 6), (28, 4), (52, 4), (56, 1)], ∀ p ∈ pieces (2 ^ 30 + w.1) w.2,
      p.1 - 2 ^ 30 ∈ [10, 28, 52, 56] ∧ 2 ^ 30 + (p.1 - 2 ^ 30) = p.1 ∧ p.2 ≤ 6 := by decide
  obtain ⟨hva, hsum, hlen⟩ := hpieces w hw p hp
  have hin := heldIssue_homes _ hva
  rw [hsum, show heldIssue.xlate ⟨0, 0⟩ trackerCluster p.1 .wr = .ok x from hx] at hin
  have hpa : pa = 0x200A ∨ pa = 0x1008 ∨ pa = 0x2034 := by
    simp only [Except.toOption, Option.map_some, hhome, List.mem_cons, List.not_mem_nil, or_false, reduceCtorEq,
      Option.some.injEq, Home.mem.injEq, false_or] at hin
    omega
  rcases hwritten with ⟨hle, hlt⟩ | ⟨i, -, -, hkey | hlow⟩
  · omega
  · exact hkey (.inr (.inl rfl))
  · exact hlow rfl

/-- The trap does change it, as on `tornState`; and its write of the energy field has moved the image to the stack that is not
in service. -/
theorem heldTrap_changes_held :
    readByte heldTrap.mem 0x2000 ≠ 0 ∧ heldTrap.handBack.imageHeld ⟨0, 0, 0⟩ = true := by decide +kernel

theorem heldTrap_owed :
    (heldTrap.handBack.parts.flatMap fun p => p.owed.map fun o => (⟨p.num, o.1, o.2⟩ : TaskId)) =
      [⟨0, 0, 0⟩] := by decide +kernel

theorem heldTrap_owes : heldTrap.handBack.Owes ⟨0, 0, 0⟩ := by unfold State.Owes; decide +kernel

theorem heldTrap_onlyTask : heldTrap.handBack.OnlyTask ⟨0, 0, 0⟩ := by
  unfold State.OnlyTask Partition.OnlyTask Context.OnlyTask
  decide +kernel

theorem heldTrap_payOwed : heldTrap.handBack.payOwed = heldTrap.handBack := by
  rw [State.payOwed_eq, heldTrap_owed, List.foldl_cons, List.foldl_nil]
  exact State.payFor_held heldTrap_changes_held.2

/-- The task of `heldState` becomes FAULTED, and its image stands at byte 2^30. -/
theorem heldIssue_faults : ∃ tk, Faults heldIssue 0x01 tk ∧ tk.image = 2 ^ 30 := by
  have hrole : heldIssue.cur.role.isSome = true := rfl
  have htask : ∃ tk ∈ heldIssue.task? heldIssue.cur.id.taskId,
      tk.faults = true ∧ tk.attached = true ∧ tk.image = 2 ^ 30 := by decide +kernel
  obtain ⟨tk, htk, hfaults, hatt, himage⟩ := htask
  exact ⟨tk, ⟨.inl hrole, Option.mem_def.mp htk, hfaults, hatt⟩, himage⟩

/-- Refutes O6: on `heldState` the issue of word 0 makes the task FAULTED, and the write back of its image changes a byte of
memory that `Trapped` says stays. No other state before the step's end has that outcome (`mem_of_noticed`): the image's write
stays owed, so the step's end makes none. The statement lacks a hypothesis that rules out cached pages smaller than a line, as
O29 does. -/
theorem not_undecodedTraps : ¬ Obligations.UndecodedTraps := by
  unfold Obligations.UndecodedTraps
  intro h
  obtain ⟨u, hu, htrap⟩ := h _ _ _ _ _ heldState_issues heldIssue_fetch decodeBytes_zero
  rw [heldIssue_noteFetch] at htrap
  obtain ⟨-, -, himage⟩ := htrap
  obtain ⟨tk, hfaults, htk⟩ := heldIssue_faults
  have hmem : u.mem = heldTrap.mem :=
    mem_of_noticed (hu.symm.trans heldState_step) heldTrap_payOwed heldTrap_onlyTask heldTrap_owes
  have hzero : readByte heldIssue.mem 0x2000 = 0 := by decide +kernel
  exact heldTrap_changes_held.1 (hmem ▸ (himage tk hfaults 0x2000 (htk ▸ heldIssue_keeps_first)).trans hzero)

end Sys2Proof.Machine

/-! Proofs: a round two of whose ranks name one TCM by different core numbers (R260), and a store feed whose access evicts a
cached translation of its own row (R228, R229, R257). -/

namespace Sys2Proof.Machine

/-! ### Jobs, and what a result's state holds -/

/-- The first job of thread n of task 0, on core 0 of cluster 0, with nothing done yet. -/
def firstJob (n : Nat) (op : JobOp) (unit : EngUnit) (place : Place) : Job where
  thread := ⟨0, 0, 0, n⟩
  id := 1
  op := op
  ea := 0
  space := .sp
  scope := .cl
  cluster := 0
  core := 0
  cls := 0
  arr := 0
  door := none
  target := 0
  unit := unit
  place := place
  status := 0
  bytes := 0
  row := 0
  part := []
  stopHead := none
  moved := []
  merged := []
  cameAt := 0
  flags := 0

/-- The next state of a result. -/
def nextOf (r : Result) : Option State :=
  match r with
  | .next u => some u
  | _ => none

/-! ### An all-gather into one TCM under two names -/

/-- An all-gather (OP 3) of one i8 of each rank, to a place in its TCM. -/
def gatherDesc (dst : Nat) : CollDesc := ⟨dst, 1, Ty.num .i8, 3, 0x8000, 0, 0, .tcm⟩

/-- The command of rank n, its source at byte 0 of its cluster's scratchpad. -/
def gatherJob (n cluster core dst : Nat) : Job :=
  { firstJob n (.coll (gatherDesc dst)) .coll .heldRound with cluster := cluster, core := core, status := 2 }

/-- Its round of two ranks: one says core 8 of cluster 0, the other core 0 of cluster 1, which is one place of
`Context.tcm` (`coreKey`). Their destinations are bytes 0 and 1, and 1 and 2, of that TCM. -/
def gatherRound : Round := ⟨0, 0, 0x8000, [0, 1], gatherDesc 0, [(0, 1), (1, 1)], false, none⟩

/-- The ranks' sources are 1 and 0. -/
def gatherContext : Context := { fetchContext with
  sp := [(0, 1)], jobs := [gatherJob 0 0 8 0, gatherJob 1 1 0 1] }

def gatherPartition : Partition :=
  { newPartition 0 1 [0] 0 30 0x4001 0 with rounds := [gatherRound], ctxs := [gatherContext] }

/-- The machine in full service with that round. -/
def gatherState : State := { State.reset with stage := 5, parts := [gatherPartition] }

theorem gatherState_ready : gatherState.active ⟨0, 0⟩ = true ∧ gatherState.roundReady ⟨0, 0⟩ gatherRound = true := by
  decide +kernel

theorem gatherState_rankJobs : gatherState.rankJobs ⟨0, 0⟩ gatherRound = [gatherJob 0 0 8 0, gatherJob 1 1 0 1] := by
  decide +kernel

theorem gatherState_runs : ∃ s1,
    runRound ⟨0, 0⟩ gatherRound (gatherState.rankJobs ⟨0, 0⟩ gatherRound) gatherState = .ok s1 := by
  have hok : (runRound ⟨0, 0⟩ gatherRound (gatherState.rankJobs ⟨0, 0⟩ gatherRound) gatherState).toOption.isSome = true := by
    decide +kernel
  cases hrun : runRound ⟨0, 0⟩ gatherRound (gatherState.rankJobs ⟨0, 0⟩ gatherRound) gatherState with
  | ok s1 => exact ⟨s1, rfl⟩
  | error e => rw [hrun] at hok; cases hok

/-- The second rank's first element stands where the first rank's second one should: 1, not 0. -/
theorem gatherState_overwritten :
    ((nextOf (exec (.roundComplete ⟨0, 0, 0, 0x8000⟩) gatherState)).bind fun u =>
      (u.ctx? ⟨0, 0⟩).map fun c => c.chip .tcm 0 8 1 1) = some [1] := by decide +kernel

/-- Refutes O51: on `gatherState` the statement has the first rank's destination hold both ranks' elements, and the model's
second rank overwrites one of them: core 8 of cluster 0 is core 0 of cluster 1 in `Context.tcm`. The statement takes two
different pairs of cluster and core for two TCMs; it lacks the hypothesis that core numbers are below 8. -/
theorem not_engineEvents : ¬Obligations.EngineEvents := by
  unfold Obligations.EngineEvents
  rintro ⟨-, h, -⟩
  obtain ⟨s1, hrun⟩ := gatherState_runs
  obtain ⟨hactive, hready⟩ := gatherState_ready
  obtain ⟨-, -, -, hdata⟩ := h ⟨0, 0, 0, 0x8000⟩ gatherState gatherPartition gatherRound rfl rfl hactive hready
  have hranks : ∀ y ∈ gatherState.rankJobs ⟨0, 0⟩ gatherRound,
      y.space = .sp ∧ y.door = none ∧ y.merged = [] ∧ ∃ d, y.op = .coll d ∧ d.dSpace = .tcm := by
    rw [gatherState_rankJobs]
    intro y hy
    obtain rfl | rfl : y = gatherJob 0 0 8 0 ∨ y = gatherJob 1 1 0 1 := by simpa using hy
    · exact ⟨rfl, rfl, rfl, gatherDesc 0, rfl, rfl⟩
    · exact ⟨rfl, rfl, rfl, gatherDesc 1, rfl, rfl⟩
  obtain ⟨u, hu, c', hc', hgives⟩ := hdata s1 gatherContext .i8 hrun (by decide) rfl rfl (.inl rfl) hranks
    (by rw [gatherState_rankJobs]; exact List.pairwise_pair.mpr (.inl (by decide)))
  have hsecond := hgives 0 (gatherJob 0 0 8 0) (gatherDesc 0) 1 (by rw [gatherState_rankJobs]; rfl) rfl
    (by rw [gatherState_rankJobs]; decide)
  have hone := gatherState_overwritten
  rw [hu, nextOf, Option.bind_some, hc', Option.map_some, Option.some.injEq] at hone
  rw [gatherState_rankJobs] at hsecond
  change RoundGives .i8 3 1 2 _ 0 1 (valueOf .i8 (c'.chip .tcm 0 8 1 1)) at hsecond
  rw [hone, RoundGives, if_pos rfl] at hsecond
  exact absurd hsecond (by decide)

/-! ### A store feed that evicts a translation of its own row -/

/-- One row of 16 bytes: the last eight of page 1 and the first eight of page 2. -/
def straddling : Window := ⟨0x1FF8, 16, 1, 0, 2⟩

/-- A store feed of that row, its ring's control block at 0x1000 of TCM. -/
def straddlingJob : Job :=
  { firstJob 0 (.feed straddling 1 true) .feed .queued with ea := 0x1000, space := .tcm }

/-- A cached page of 4 KiB, mapped to itself with every right. -/
def ownPage (va : Nat) : TlbEntry := ⟨0, va, va, va, 12, true, true, true, false, 0, 0, []⟩

/-- Its context, with one record of 16 bytes in the ring at 0x2000, the first byte 1. The translation cache is full; its
oldest entry is the one of page 1. -/
def evictContext : Context := { fetchContext with
  s1root := 0x3000, s2root := 0x3000
  tasks := fetchContext.tasks.map fun t => { t with windows := [straddling] }
  tcm := writeBytes (writeBytes [] 0x1000 (leBytes 24 (0x2000 + 6 * 2 ^ 64 + 24 * 2 ^ 128))) 0x2000
    (leBytes 9 (16 + 2 ^ 64))
  tlb := (List.range (Config.tlbSize - 1)).map (fun i => ownPage (2 ^ 30 + 4096 * i)) ++ [ownPage 0x1000]
  jobs := [straddlingJob] }

def evictPartition : Partition :=
  { newPartition 0 1 [0] 0 30 0x4001 0 with keys := [.loaded 2 0], ctxs := [evictContext] }

/-- The machine in full service with that context. Both stages walk the one table at 0x3000, whose entry 0 names the table
itself, so that its entries 1 to 3 map pages 1 to 3 to themselves: page 1 by now as device memory (R228), which its cached
entry does not say. Pages 1 and 2 are HBM of a stack in service. -/
def evictState : State := { State.reset with
  stage := 5
  hbm := [trainedStack 0]
  regions := [⟨0x1000, 0x2000, .hbm 0⟩, ⟨0x3000, 0x1000, .commons 0⟩]
  mem := writeBytes [] 0x3000 (leBytes 32 (0x3001 + 0x102F * 2 ^ 64 + 0x200F * 2 ^ 128 + 0x300F * 2 ^ 192))
  parts := [evictPartition] }

theorem evictState_turn : evictState.active ⟨0, 0⟩ = true ∧
    evictState.turn evictPartition evictContext straddlingJob = true := by decide +kernel

/-- The row passes its checks. -/
theorem evictState_passes : evictState.tileStop ⟨0, 0⟩ straddlingJob straddling 0 1 .wr = none ∧
    evictState.winStop ⟨0, 0, 0⟩ 0 .store (.ofEngine []) 0x1FF8 16 = none ∧
    (evictState.remoteIn ⟨0, 0⟩ 0 0x1FF8 16 .wr).2 = false := by decide +kernel

/-- Before the access no byte of the row is device memory or under an A window. -/
theorem evictState_buffered : ∃ tk, evictState.task? ⟨0, 0, 0⟩ = some tk ∧ ∀ i, i < 16 →
    evictState.devPage ⟨0, 0⟩ 0 (0x1FF8 + i) .wr = false ∧ tk.inA (0x1FF8 + i) = false := ⟨_, rfl, by decide +kernel⟩

/-- The access caches page 2 in the place of page 1, and page 1, walked again, is device memory, stored at home. -/
theorem evictState_storesHome :
    (nextOf (exec (.jobStart ⟨0, 0, 0, 0⟩ 1) evictState)).map (fun u => readByte u.mem 0x1FF8) = some 1 ∧
      readByte evictState.mem 0x1FF8 = 0 := by decide +kernel

/-- Refutes O52: on `evictState` the statement has the store feed's row go into its task's buffer and home memory stay, and
the model stores the bytes of page 1 at home. The statement asks that no byte of the row be device memory before the access;
the access's own translations can evict that of a page whose tables say otherwise by now. It lacks the hypothesis that the
row's translations are all cached (`Cached`). -/
theorem not_jobsRun : ¬Obligations.JobsRun := by
  unfold Obligations.JobsRun
  intro h
  obtain ⟨hactive, hturn⟩ := evictState_turn
  obtain ⟨htile, hwindow, hremote⟩ := evictState_passes
  obtain ⟨tk, htask, hbuffered⟩ := evictState_buffered
  obtain ⟨-, -, -, hmain, -⟩ :=
    h ⟨0, 0, 0, 0⟩ 1 evictState evictPartition evictContext straddlingJob rfl rfl rfl rfl rfl hactive
  obtain ⟨-, -, hstore, -⟩ := hmain hturn rfl rfl rfl
  have hedges : ∀ e ∈ evictContext.edges, e.src = 0 → e.hard = true := fun e he => by cases he
  obtain ⟨u, hu, ⟨⟨hmem, -⟩, -⟩, -⟩ := hstore straddling 1 tk rfl rfl rfl rfl rfl (by decide) htask hedges
    (by decide) (by decide +kernel) (by decide +kernel) (by decide +kernel) (by decide +kernel) (by decide +kernel)
    htile hwindow hremote hbuffered
  obtain ⟨hstored, hzero⟩ := evictState_storesHome
  rw [hu, nextOf, Option.map_some, hmem, hzero] at hstored
  exact absurd hstored (by decide)

end Sys2Proof.Machine

/-! Proofs: fixed-point cells (R119 to R121). -/

namespace Sys2Proof.Machine

/-! ### The marks of a cell -/

theorem cellBit_eq (c i : Nat) : cellBit c i = c.testBit i := by
  rw [cellBit, Nat.testBit_eq_decide_div_mod_eq, ← Bool.beq_eq_decide_eq]

theorem testBit_cellSet (c i j : Nat) : (cellSet c i).testBit j = (c.testBit j || decide (i = j)) := by
  rw [cellSet, cellBit_eq]
  split
  case isTrue h =>
    by_cases hij : i = j
    · subst hij; simp [h]
    · simp [hij]
  case isFalse h =>
    have hr : c % 2 ^ i < 2 ^ i := Nat.mod_lt _ (by positivity)
    obtain ⟨k, hk⟩ : ∃ k, c / 2 ^ i = 2 * k := by
      rw [Nat.testBit_eq_decide_div_mod_eq, decide_eq_true_eq] at h
      exact ⟨c / 2 ^ i / 2, by omega⟩
    have hc : c = 2 ^ i * (2 * k) + c % 2 ^ i := by rw [← hk, Nat.div_add_mod]
    have hs : c + 2 ^ i = 2 ^ i * (2 * k + 1) + c % 2 ^ i := by rw [mul_add, mul_one]; omega
    rw [hs]
    conv_rhs => rw [hc]
    rw [Nat.testBit_two_pow_mul_add _ hr, Nat.testBit_two_pow_mul_add _ hr]
    split
    case isTrue hj => simp [show i ≠ j by omega]
    case isFalse hj =>
      obtain hij | ⟨d, hd⟩ : i = j ∨ ∃ d, j - i = d + 1 := by
        rcases Nat.eq_zero_or_pos (j - i) with h0 | h0
        · exact .inl (by omega)
        · exact .inr ⟨j - i - 1, by omega⟩
      · subst hij; simp
      · rw [hd, Nat.testBit_succ, Nat.testBit_succ]
        simp [show i ≠ j by omega, show (2 * k + 1) / 2 = k by omega]

/-- R120: a mark is set and stays set. -/
theorem cellSet_eq (c i : Nat) : cellSet c i = c ||| 2 ^ i :=
  Nat.eq_of_testBit_eq fun j => by rw [testBit_cellSet, Nat.testBit_or, Nat.testBit_two_pow]

/-! ### The count of a cell -/

/-- A cell with another count, and its marks. -/
def withCount (c : Nat) (i : Int) : Nat := c / 2 ^ 480 * 2 ^ 480 + wrapTo 480 i

theorem wrapTo_lt (w : Nat) (i : Int) : wrapTo w i < 2 ^ w := by
  have h := Int.emod_lt_of_pos i (b := 2 ^ w) (by positivity)
  unfold wrapTo
  zify
  omega

theorem testBit_withCount (c : Nat) (i : Int) {j : Nat} (hj : 480 ≤ j) : (withCount c i).testBit j = c.testBit j := by
  rw [withCount, mul_comm, Nat.testBit_two_pow_mul_add _ (wrapTo_lt 480 i), if_neg (by omega), Nat.testBit_div_two_pow,
    show j - 480 + 480 = j by omega]

theorem ofNat_mul_two_pow_add (w a b : Nat) : BitVec.ofNat w (a * 2 ^ w + b) = BitVec.ofNat w b :=
  BitVec.eq_of_toNat_eq (by rw [BitVec.toNat_ofNat, BitVec.toNat_ofNat, Nat.mul_add_mod'])

theorem ofNat_withCount (c : Nat) (i : Int) : BitVec.ofNat 480 (withCount c i) = BitVec.ofInt 480 i :=
  (ofNat_mul_two_pow_add 480 _ _).trans (ofNat_wrapTo 480 i)

theorem ofNat_cellSet (c : Nat) {i : Nat} (hi : 480 ≤ i) : BitVec.ofNat 480 (cellSet c i) = BitVec.ofNat 480 c := by
  refine BitVec.eq_of_getLsbD_eq fun j hj => ?_
  rw [BitVec.getLsbD_ofNat, BitVec.getLsbD_ofNat, testBit_cellSet, decide_eq_false (show i ≠ j by omega), Bool.or_false]

/-! ### What an addition does (R120) -/

theorem valF_toNat (t : Ty) (r : BitVec t.bits) : valF t r.toNat = val t r := by
  rw [valF_eq, BitVec.ofNat_toNat, BitVec.setWidth_eq]

/-- A finite fp32 value is a whole number of the cell's units. -/
theorem number_units {x : BitVec 32} {m : Nat} {e : Int} (he : unitExp .fp32 ≤ e)
    (hn : number .fp32 x = sgn x.msb * (m * 2 ^ e)) :
    (((if x.msb then -1 else 1) * ((m * 2 ^ (e + 160).toNat : Nat) : Int) : Int) : Rat) = number .fp32 x * 2 ^ (160 : Nat) := by
  have hlow : (-149 : Int) ≤ e := he
  have hexp : ((2 : Rat) ^ (e + 160).toNat) = 2 ^ e * 2 ^ (160 : Nat) := by
    rw [← zpow_natCast, ← zpow_natCast, ← zpow_add₀ (by norm_num)]
    congr 1
    omega
  rw [hn, Int.cast_mul, Int.cast_natCast, Nat.cast_mul, Nat.cast_pow, Nat.cast_ofNat, hexp]
  cases x.msb <;> simp [sgn] <;> ring

/-- R120: the addition of a finite value, and the overflow mark of a sum beyond the count. -/
theorem cellAdd_finite (c : Nat) {x : BitVec 32} (hx : special .fp32 x = false) :
    ∃ d : Int, (d : Rat) = number .fp32 x * 2 ^ (160 : Nat) ∧
      cellAdd c x.toNat = if (BitVec.ofNat 480 c).toInt + d < -2 ^ 479 ∨ 2 ^ 479 ≤ (BitVec.ofNat 480 c).toInt + d
        then cellSet (withCount c ((BitVec.ofNat 480 c).toInt + d)) 483
        else withCount c ((BitVec.ofNat 480 c).toInt + d) := by
  have hf : Ty.fp32.isFloat = true := rfl
  obtain ⟨m, e, hv, hn, -⟩ := val_fin hf hx
  refine ⟨_, number_units (val_fin_bounds hf hv).2.1 hn, ?_⟩
  have hval : valF .fp32 x.toNat = .fin x.msb m e := (valF_toNat .fp32 x).trans hv
  rw [cellAdd, hval, ← toSigned_eq 480 c (by norm_num)]
  simp only [Bool.or_eq_true, decide_eq_true_eq, ge_iff_le, withCount, Nat.cast_pow, Nat.cast_ofNat]

/-- R120: the marks of a NaN and of the infinities. -/
theorem cellAdd_special (c : Nat) {x : BitVec 32} (hx : special .fp32 x = true) :
    cellAdd c x.toNat = c ||| 2 ^ (if isNaN .fp32 x = true then 480 else if x.msb then 482 else 481) := by
  have hf : Ty.fp32.isFloat = true := rfl
  have hval : valF .fp32 x.toNat = val .fp32 x := valF_toNat .fp32 x
  rcases code_cases .fp32 x with ⟨hn, -, -⟩ | ⟨hi, hn, -⟩ | ⟨hs, -, -⟩
  · rw [cellAdd, hval, val_nan hf hn, if_pos hn]
    exact cellSet_eq c 480
  · rw [cellAdd, hval, val_inf hf hi, hn]
    exact cellSet_eq c _
  · rw [hs] at hx
    cases hx

/-! ### What a cell reads as (R121) -/

theorem sgn_mul_natAbs (v : Int) : sgn (decide (v < 0)) * (v.natAbs : Rat) = v := by
  rcases lt_or_ge v 0 with hneg | hneg
  · rw [decide_eq_true hneg, Nat.cast_natAbs, abs_of_neg hneg]
    simp [sgn]
  · rw [decide_eq_false (not_lt.mpr hneg), Nat.cast_natAbs, abs_of_nonneg hneg]
    simp [sgn]

/-- R121: a count rounded once to nearest. -/
theorem count_rounded (v : Int) : ∃ (r : BitVec 32) (f : Flags),
    (if (v == 0) = true then (0, 0) else (fmtOf .fp32).convert .rne .none 0 (.fin (v < 0) v.natAbs (-160))) = (r.toNat, f) ∧
      Rounded .fp32 0 (v / 2 ^ (160 : Nat)) r f := by
  have hf : Ty.fp32.isFloat = true := rfl
  by_cases h0 : v = 0
  · subst h0
    obtain ⟨r, f, hr, hb, -⟩ := round_roundedBy hf (by norm_num : 0 < 4) false false 0 (-160)
    exact ⟨r, f, hr, by simpa [Rounded] using hb⟩
  · obtain ⟨r, w, f, hr, hb, hcl, -⟩ := convert_fin hf (by norm_num : 0 < 4) .none 0 (decide (v < 0)) v.natAbs (-160)
    rw [hcl.same (.inl rfl)] at hr
    rw [zpow_zero, mul_one, ← mul_assoc, sgn_mul_natAbs, zpow_neg, ← div_eq_mul_inv] at hb
    exact ⟨r, f, (if_neg (by simpa using h0)).trans hr, hb⟩

theorem cellValue_unmarked {c : Nat} (h : ∀ i, 480 ≤ i → i ≤ 483 → c.testBit i = false) :
    ∃ r : BitVec 32, (cellValue c).1 = r.toNat ∧
      Rounded .fp32 0 ((BitVec.ofNat 480 c).toInt / 2 ^ (160 : Nat)) r (cellValue c).2 := by
  obtain ⟨r, f, hr, hb⟩ := count_rounded (BitVec.ofNat 480 c).toInt
  have hmark (i : Nat) (hi : 480 ≤ i) (hi' : i ≤ 483) : cellBit c i = false := (cellBit_eq c i).trans (h i hi hi')
  have hvalue : cellValue c = (r.toNat, f) := by
    rw [cellValue, hmark 480 (by omega) (by omega), hmark 481 (by omega) (by omega), hmark 482 (by omega) (by omega),
      hmark 483 (by omega) (by omega), toSigned_eq 480 c (by norm_num)]
    exact hr
  rw [hvalue]
  exact ⟨r, rfl, hb⟩

/-- The marks under which a cell reads as the NaN. -/
def ReadsNaN (c : Nat) : Prop :=
  c.testBit 480 = true ∨ c.testBit 481 = true ∧ c.testBit 482 = true ∨ c.testBit 483 = true

theorem cellValue_nan {c : Nat} (h : ReadsNaN c) :
    cellValue c = ((canonical .fp32).toNat, if c.testBit 483 then Fl.nv else 0) := by
  unfold cellValue
  simp only [cellBit_eq]
  rw [if_pos (by simpa [ReadsNaN, or_assoc] using h)]
  rfl

/-- R121: without the NaN, a mark of an infinity; both together are the NaN. -/
theorem cellValue_infinity {c : Nat} (h : ¬ReadsNaN c) (neg : Bool) (hm : c.testBit (if neg then 482 else 481) = true) :
    cellValue c = ((infinity .fp32 neg).toNat, 0) := by
  unfold cellValue
  simp only [cellBit_eq]
  rw [if_neg (by simpa [ReadsNaN, or_assoc] using h)]
  cases neg
  · rw [if_pos (by simpa using hm)]
    rfl
  · have h481 : ¬c.testBit 481 = true := fun h1 => h (.inr (.inl ⟨h1, by simpa using hm⟩))
    rw [if_neg h481, if_pos (by simpa using hm)]
    rfl

/-- Settles O31, by the cell's count and marks after an addition, and by one rounding of the count. -/
theorem cells : Obligations.Cells := by
  unfold Obligations.Cells
  refine ⟨fun c x _ hx => ?_, fun c x _ hx => cellAdd_special c hx, fun c _ h => cellValue_unmarked h, fun c _ => ?_⟩
  · obtain ⟨d, hd, hadd⟩ := cellAdd_finite c hx
    have hcount (b : Prop) [Decidable b] (i : Int) :
        BitVec.ofNat 480 (if b then cellSet (withCount c i) 483 else withCount c i) = BitVec.ofInt 480 i := by
      split
      · rw [ofNat_cellSet _ (by norm_num), ofNat_withCount]
      · rw [ofNat_withCount]
    refine ⟨d, hd, ?_, fun i hi _ h483 => ?_, ?_⟩
    · change BitVec.ofNat 480 (cellAdd c x.toNat) = BitVec.ofNat 480 c + BitVec.ofInt 480 d
      rw [hadd, hcount, BitVec.ofInt_add, BitVec.ofInt_toInt]
    · rw [hadd]
      split
      · rw [testBit_cellSet, testBit_withCount _ _ hi, decide_eq_false (Ne.symm h483), Bool.or_false]
      · rw [testBit_withCount _ _ hi]
    · rw [hadd]
      split
      case isTrue h => rw [testBit_cellSet, decide_eq_true h]; simp
      case isFalse h => rw [testBit_withCount _ _ (by norm_num), decide_eq_false h, Bool.or_false]
  · refine ⟨fun hnan => ⟨fun h3 => ?_, fun h3 => ?_⟩, fun hnan h1 => cellValue_infinity hnan false h1,
      fun hnan h2 => cellValue_infinity hnan true h2⟩
    · exact (cellValue_nan hnan).trans (congrArg _ (if_pos h3))
    · exact (cellValue_nan hnan).trans (congrArg _ (if_neg h3))

end Sys2Proof.Machine

/-! Proofs: what the reductions work on and write (R125, R142). -/

namespace Sys2Proof.Machine

/-! ### The elements that a reduction gathers -/

/-- Element i of the gathered register, its modifier applied. -/
def gathered (x : RegForm) (s : State) (i : Nat) : Nat :=
  modSrc x.t x.m1 (elem x.t.bits i (rowAt s s.cur x.s1 0).toNat)

theorem gathered_int {x : RegForm} (ht : x.t.isInt = true) (s : State) (i : Nat) :
    BitVec.ofNat x.t.bits (gathered x s i) = intMod x.t x.m1 (lane x.t (rowAt s s.cur x.s1 0) i) := by
  rw [gathered, ofNat_modSrc _ _ _ (Ty.isFloat_of_isInt ht), lane_eq]

theorem gathered_float {x : RegForm} (hF : x.t.isF = true) (s : State) (i : Nat) :
    BitVec.ofNat x.t.bits (gathered x s i) = floatMod x.t x.m1 (lane x.t (rowAt s s.cur x.s1 0) i) := by
  rw [gathered, ofNat_modSrc_float (Ty.isFloat_of_isF hF), lane_eq]

theorem srcElems_row (x : RegForm) (s : State) :
    srcElems x.t x.m1 (s.readV x.s1 1) = (List.range (lanes x.t)).map (gathered x s) := by
  rw [srcElems, elems, List.map_map, readV_one]
  rfl

theorem activity_row (x : RegForm) (s : State) :
    s.cur.activity x.g x.t.bits (lanes x.t) = (List.range (lanes x.t)).map (active s.cur x.g x.t.bits) :=
  activity_eq _ _ _ _ (Nat.div_mul_le_self 512 x.t.bits)

/-- An element is at most eight bytes and a power of two of them. -/
theorem elemBytes_dvd (t : Ty) : max 1 (t.bits / 8) ∣ 8 := by cases t <;> decide

/-- What a reduction makes of the row of its source. -/
def gatherOut (x : RegForm) (s : State) (f : Thread → List Bool → List Nat → Word × Flags) : Word × Flags :=
  f s.cur ((List.range (lanes x.t)).map (active s.cur x.g x.t.bits)) ((List.range (lanes x.t)).map (gathered x s))

section Streams
variable {x : RegForm} {s : State} (h : x.incs.Nodup) {g : Thread → Thread} (hq : (g s.cur).q = s.cur.q)
include h hq

/-- R53: but for the streams' steps, an act on the thread alone and the move of the code index. -/
theorem samePointers_afterVec : samePointers s (afterVec x (s.modCur g)) = (s.modCur g).advance := by
  have hstep := (stepStreams_spec h (g s.cur)).1
  change ({ s with cur := { (g s.cur).stepStreams x with q := s.cur.q, pc := ((g s.cur).stepStreams x).pc + 1 } } : State) =
    { s with cur := { g s.cur with pc := (g s.cur).pc + 1 } }
  generalize g s.cur = H at hq hstep ⊢
  generalize H.stepStreams x = T at hstep ⊢
  rw [hstep, ← hq]

theorem pointers_afterVec : Pointers x s (afterVec x (s.modCur g)) := by
  intro n
  have hreg (m : BitVec 3) : (g s.cur).qreg m = s.cur.qreg m := by rw [Thread.qreg, hq, Thread.qreg]
  have hn := (stepStreams_spec h (g s.cur)).2 n
  rwa [hreg] at hn

end Streams

theorem Thread.setS_raise_q (h : Thread) (d : BitVec 5) (v : Word) (f : Flags) : ((h.setS d v).raise f).q = h.q := by
  unfold Thread.setS
  split <;> rfl

theorem wroteSF_gather {x : RegForm} {s : State} (h : x.incs.Nodup) (d : BitVec 5) (v : Word) (f : Flags) :
    let t := afterVec x (s.modCur fun h => (h.setS d v).raise f)
    WroteSF s (samePointers s t) d v f ∧ Pointers x s t := by
  have hq := Thread.setS_raise_q s.cur d v f
  refine ⟨?_, pointers_afterVec (g := fun h => (h.setS d v).raise f) h hq⟩
  rw [samePointers_afterVec (g := fun h => (h.setS d v).raise f) h hq]
  exact wroteSF_putSF s d v f

/-- R125: a gathering instruction writes its scalar register and its flags, and its streams step. -/
theorem gather_spec {op : Nat} {x : RegForm} {s : State} (f : Thread → List Bool → List Nat → Word × Flags)
    (h : VecReady op x s) : ∃ t, gather op x s f = .next t ∧
      WroteSF s (samePointers s t) x.dst.num5 (gatherOut x s f).1 (gatherOut x s f).2 ∧ Pointers x s t := by
  refine ⟨_, vec_ready _ h ⟨Nat.zero_le 4, show 1 ≤ 4 by decide, Nat.zero_le 4, Nat.zero_le 4⟩ (elemBytes_dvd x.t)
    (elemBytes_dvd x.t), ?_⟩
  rw [vecIn, activity_row, srcElems_row]
  exact wroteSF_gather h.once _ _ _

/-- Without flags only the scalar register is written. -/
theorem WroteSF.quiet {s t : State} {d : BitVec 5} {v : Word} {f : Flags} (h : WroteSF s t d v f) (hf : f = 0) :
    WroteS s t d v := by
  subst hf
  refine ⟨h.value, h.others, ?_⟩
  have hr := h.rest
  rwa [flags_or_zero] at hr

theorem gathers_of {op : Nat} {mk : RegForm → Instr} {f : RegForm → Thread → List Bool → List Nat → Word × Flags}
    {p : (x : RegForm) → (Nat → Bool) → (Nat → BitVec x.t.bits) → Word → Prop}
    (hexec : ∀ x s, exec (mk x) s = gather op x s (f x))
    (hp : ∀ (x : RegForm) (h : Thread) (A : Nat → Bool) (N : Nat → Nat), x.t.isInt = true →
      let r := f x h ((List.range (lanes x.t)).map A) ((List.range (lanes x.t)).map N)
      r.2 = 0 ∧ p x A (fun i => BitVec.ofNat x.t.bits (N i)) r.1) : Gathers op mk p := by
  intro x s h ht
  obtain ⟨t, hrun, hwrote, hptr⟩ := gather_spec (f x) h
  obtain ⟨hquiet, hval⟩ := hp x s.cur (active s.cur x.g x.t.bits) (gathered x s) ht
  refine ⟨t, (hexec x s).trans hrun, _, hwrote.quiet hquiet, hptr, ?_⟩
  simp only [gathered_int ht] at hval
  exact hval

theorem gathersFloat_of {op : Nat} {mk : RegForm → Instr} {f : RegForm → Thread → List Bool → List Nat → Word × Flags}
    {p : (x : RegForm) → Nat → (Nat → Bool) → (Nat → BitVec x.t.bits) → Word → Flags → Prop}
    (hexec : ∀ x s, exec (mk x) s = gather op x s (f x))
    (hp : ∀ (x : RegForm) (h : Thread) (A : Nat → Bool) (N : Nat → Nat), x.t.isF = true →
      let r := f x h ((List.range (lanes x.t)).map A) ((List.range (lanes x.t)).map N)
      p x (h.rmode.toNat % 4) A (fun i => BitVec.ofNat x.t.bits (N i)) r.1 r.2) : GathersFloat op mk p := by
  intro x s h hF
  obtain ⟨t, hrun, hwrote, hptr⟩ := gather_spec (f x) h
  have hval := hp x s.cur (active s.cur x.g x.t.bits) (gathered x s) hF
  refine ⟨t, (hexec x s).trans hrun, _, _, hwrote, hptr, ?_⟩
  simp only [gathered_float hF] at hval
  exact hval

end Sys2Proof.Machine

/-! Proofs: the pairwise tree of R117, of integers and of floats. -/

namespace Sys2Proof.Machine

/-! ### Rows as lists -/

/-- The active elements of a row. -/
theorem activeOnly_map {α : Type} (A : α → Bool) (N : α → Nat) (l : List α) :
    activeOnly (l.map A) (l.map N) = (l.filter A).map N := by
  induction l with
  | nil => rfl
  | cons i l ih =>
    rw [List.map_cons, List.map_cons]
    cases h : A i
    · rw [activeOnly, ih, List.filter_cons_of_neg (by simp [h])]
    · rw [activeOnly, ih, List.filter_cons_of_pos h, List.map_cons]

/-- What the tree adds: an active element, or the unit of addition. -/
def addend (t : Ty) (A : Nat → Bool) (N : Nat → Nat) (i : Nat) : Nat := if A i = true then N i else addUnit t

/-- The elements of a register are a power of two of them. -/
theorem two_pow_log2_lanes (t : Ty) : 2 ^ Nat.log2 (lanes t) = lanes t := by cases t <;> decide

theorem redAdd_row (t : Ty) (mode : RM) (A : Nat → Bool) (N : Nat → Nat) :
    redAdd t mode ((List.range (lanes t)).map A) ((List.range (lanes t)).map N) =
      treeSum t mode (Nat.log2 (lanes t)) ((List.range (2 ^ Nat.log2 (lanes t))).map (addend t A N)) := by
  rw [two_pow_log2_lanes]
  unfold redAdd
  rw [List.map_map, mergeElems_map, List.length_map, List.length_range]
  rfl

/-! ### A level of the tree -/

/-- What one addition of the tree gives, of elements 2i and 2i + 1 of a row. -/
def pairSum (t : Ty) (mode : RM) (U : Nat → Nat) (i : Nat) : Nat × Flags := addT t mode .none 0 (U (2 * i)) (U (2 * i + 1))

theorem range_two_mul_succ (m : Nat) : List.range (2 * (m + 1)) = 0 :: 1 :: (List.range (2 * m)).map (· + 2) := by
  rw [show 2 * (m + 1) = 2 * m + 1 + 1 by ring, List.range_succ_eq_map, List.range_succ_eq_map, List.map_cons, List.map_map]
  rfl

theorem treeLevel_map (t : Ty) (mode : RM) (m : Nat) (U : Nat → Nat) : treeLevel t mode ((List.range (2 * m)).map U) =
    ((List.range m).map fun i => (pairSum t mode U i).1, ((List.range m).map fun i => (pairSum t mode U i).2).foldr (· ||| ·) 0) := by
  induction m generalizing U with
  | zero => rfl
  | succ m ih =>
    have hshift : (List.range (2 * m)).map (U ∘ (· + 2)) = (List.range (2 * m)).map fun i => U (i + 2) := rfl
    rw [range_two_mul_succ, List.map_cons, List.map_cons, List.map_map, treeLevel, hshift, ih, List.range_succ_eq_map,
      List.map_cons, List.map_cons, List.foldr_cons, List.map_map, List.map_map]
    rfl

/-- Flags joined in either order. -/
theorem foldl_or_flags (l : List Flags) (f : Flags) : l.foldl (· ||| ·) f = l.foldr (· ||| ·) 0 ||| f := by
  induction l generalizing f with
  | nil => exact (flags_zero_or f).symm
  | cons g l ih => rw [List.foldl_cons, ih, List.foldr_cons, BitVec.or_comm f g, ← BitVec.or_assoc, BitVec.or_comm g]

theorem treeSum_succ (t : Ty) (mode : RM) (k : Nat) (U : Nat → Nat) :
    treeSum t mode (k + 1) ((List.range (2 ^ (k + 1))).map U) =
      let r := treeSum t mode k ((List.range (2 ^ k)).map fun i => (pairSum t mode U i).1)
      (r.1, ((List.range (2 ^ k)).map fun i => (pairSum t mode U i).2).foldl (· ||| ·) r.2) := by
  dsimp only
  rw [foldl_or_flags, Nat.pow_succ', treeSum, treeLevel_map]

/-! ### Sums of integers -/

/-- Codes of w bits, summed modulo 2^w. -/
def codeSum (t : Ty) (n : Nat) (U : Nat → Nat) : BitVec t.bits := ((List.range n).map fun i => BitVec.ofNat t.bits (U i)).sum

theorem ofInt_reads (t : Ty) (r : BitVec t.bits) : BitVec.ofInt t.bits (reads t r) = r := by
  unfold reads
  split
  · exact BitVec.ofInt_toInt
  · rw [BitVec.ofInt_natCast, BitVec.ofNat_toNat, BitVec.setWidth_eq]

theorem addT_int {t : Ty} (ht : t.isInt = true) (mode : RM) (a b : Nat) :
    BitVec.ofNat t.bits (addT t mode .none 0 a b).1 = BitVec.ofNat t.bits a + BitVec.ofNat t.bits b ∧
      (addT t mode .none 0 a b).2 = 0 := by
  have hadd : addT t mode .none 0 a b = (addI t .none a b, 0) := by
    rw [addT, if_neg (by rw [Ty.isFloat_of_isInt ht]; exact Bool.false_ne_true)]
  rw [hadd]
  refine ⟨?_, rfl⟩
  have hnarrow (i : Int) : narrow t .none i = BitVec.ofInt t.bits i := by rw [narrow, if_neg (by decide)]
  rw [ofNat_addI, hnarrow, BitVec.ofInt_add, ofInt_reads, ofInt_reads]

theorem codeSum_pairs {t : Ty} (ht : t.isInt = true) (mode : RM) (m : Nat) (U : Nat → Nat) :
    codeSum t m (fun i => (pairSum t mode U i).1) = codeSum t (2 * m) U := by
  unfold codeSum
  induction m generalizing U with
  | zero => rfl
  | succ m ih =>
    have h := ih (U ∘ (· + 2))
    rw [range_two_mul_succ, List.range_succ_eq_map]
    simp only [List.map_cons, List.sum_cons, List.map_map] at h ⊢
    rw [← add_assoc]
    exact congrArg₂ _ (addT_int ht mode _ _).1 h

/-- R117: of integers the tree gives the sum modulo 2^w, and no flag. -/
theorem treeSum_int {t : Ty} (ht : t.isInt = true) (mode : RM) (k : Nat) (U : Nat → Nat) :
    BitVec.ofNat t.bits (treeSum t mode k ((List.range (2 ^ k)).map U)).1 = codeSum t (2 ^ k) U ∧
      (treeSum t mode k ((List.range (2 ^ k)).map U)).2 = 0 := by
  induction k generalizing U with
  | zero => exact ⟨by simp [treeSum, codeSum], rfl⟩
  | succ k ih =>
    obtain ⟨hsum, hflags⟩ := ih fun i => (pairSum t mode U i).1
    rw [treeSum_succ]
    refine ⟨hsum.trans ?_, ?_⟩
    · rw [codeSum_pairs ht, Nat.pow_succ']
    · dsimp only
      rw [hflags]
      have hquiet (l : List Nat) : (l.map fun i => (pairSum t mode U i).2).foldl (· ||| ·) (0 : Flags) = 0 := by
        induction l with
        | nil => rfl
        | cons i l ih => rw [List.map_cons, List.foldl_cons, pairSum, (addT_int ht mode _ _).2, flags_or_zero]; exact ih
      exact hquiet _

/-- The sum of the integers at the active places. -/
theorem sum_active {t : Ty} (ht : t.isInt = true) (A : Nat → Bool) (N : Nat → Nat) (l : List Nat) :
    (l.map fun i => BitVec.ofNat t.bits (addend t A N i)).sum =
      BitVec.ofInt t.bits (((l.filter A).map fun i => reads t (BitVec.ofNat t.bits (N i))).sum) := by
  induction l with
  | nil => simp
  | cons i l ih =>
    rw [List.map_cons, List.sum_cons, ih, addend]
    cases h : A i
    · have hunit : addUnit t = 0 := by rw [addUnit, Ty.isFloat_of_isInt ht]; rfl
      rw [List.filter_cons_of_neg (by simp [h]), if_neg Bool.false_ne_true, hunit]
      exact zero_add _
    · rw [List.filter_cons_of_pos h, List.map_cons, List.sum_cons, BitVec.ofInt_add, ofInt_reads, if_pos rfl]

/-! ### Sums of floats -/

/-- A form of type t without SCALE and CLAMP. -/
def plainForm (t : Ty) : RegForm := { zeroReg with t := t }

/-- R76, R77: one addition of the tree. -/
theorem addT_addsTo {t : Ty} (hF : t.isF = true) {n : Nat} (hn : n < 4) (a b : Nat) :
    AddsTo t n (BitVec.ofNat t.bits a) (BitVec.ofNat t.bits b) (BitVec.ofNat t.bits (addT t (rmOf n) .none 0 a b).1)
      (addT t (rmOf n) .none 0 a b).2 := by
  have ht := Ty.isFloat_of_isF hF
  have hadd : addT t (rmOf n) .none 0 a b =
      finishF t (rmOf n) .none 0 (faddV (rmOf n) (val t (BitVec.ofNat t.bits a)) (val t (BitVec.ofNat t.bits b))) := by
    rw [addT, if_pos ht, valF_eq, valF_eq]
  rw [hadd]
  refine ⟨sum_specials (x := plainForm t) hF _ _, fun ha hb => ?_⟩
  obtain ⟨v, hround, hclamp⟩ := sum_finishes (x := plainForm t) hF _ _ hn ha hb
  rw [show (plainForm t).scale.toInt = 0 from rfl, zpow_zero, mul_one] at hround
  have hsame := hclamp.same (.inl rfl)
  rw [← hsame] at hround
  exact hround

/-- R117: of floats the tree makes each addition of its levels, with its flags. -/
theorem treeSum_float {t : Ty} (hF : t.isF = true) {n : Nat} (hn : n < 4) (k : Nat) (U : Nat → Nat) :
    TreeSum t n k (fun i => BitVec.ofNat t.bits (U i))
      (BitVec.ofNat t.bits (treeSum t (rmOf n) k ((List.range (2 ^ k)).map U)).1)
      (treeSum t (rmOf n) k ((List.range (2 ^ k)).map U)).2 := by
  induction k generalizing U with
  | zero => exact ⟨rfl, rfl⟩
  | succ k ih =>
    rw [treeSum_succ]
    exact ⟨fun i => BitVec.ofNat t.bits (pairSum t (rmOf n) U i).1, fun i => (pairSum t (rmOf n) U i).2, _,
      fun i _ => addT_addsTo hF hn _ _, ih fun i => (pairSum t (rmOf n) U i).1, rfl⟩

/-- −0 is what an inactive float adds. -/
theorem ofNat_addend_float {t : Ty} (ht : t.isFloat = true) (A : Nat → Bool) (N : Nat → Nat) (i : Nat) :
    BitVec.ofNat t.bits (addend t A N i) = if A i = true then BitVec.ofNat t.bits (N i) else zeroOf t true := by
  rw [addend, addUnit, if_pos ht, fmtOf_signBit ht, zeroOf, Bool.toNat_true, one_mul]
  split <;> rfl

end Sys2Proof.Machine

/-! Proofs: the largest and the smallest of a row, and the place of the largest (R142). -/

namespace Sys2Proof.Machine

/-! ### The best of a list -/

/-- A fold that keeps the better of two ends with one of its operands, at least as good as each. -/
theorem foldl_best {β : Type} {key : β → Int} {better : Int → Int → Prop} [DecidableRel better] [IsTrans Int better]
    [Std.Total better] {P : β → Prop} {f : β → β → β} (hf : ∀ a b, P a → P b → f a b = if better (key b) (key a) then a else b)
    (e : Nat → β) (l : List Nat) (he : ∀ i ∈ l, P (e i)) (m : β) (hm : P m) :
    ((l.map e).foldl f m = m ∨ ∃ i ∈ l, (l.map e).foldl f m = e i) ∧ better (key m) (key ((l.map e).foldl f m)) ∧
      ∀ j ∈ l, better (key (e j)) (key ((l.map e).foldl f m)) := by
  have hrefl (a : Int) : better a a := (Std.Total.total (r := better) a a).elim id id
  induction l generalizing m with
  | nil => exact ⟨.inl rfl, hrefl _, fun j hj => by cases hj⟩
  | cons i l ih =>
    have hi := he i (by simp)
    have hl (j : Nat) (hj : j ∈ l) : P (e j) := he j (by simp [hj])
    rw [List.map_cons, List.foldl_cons, hf m (e i) hm hi]
    split
    case isTrue h =>
      obtain ⟨hmem, hbetter, hall⟩ := ih hl m hm
      refine ⟨hmem.imp_right fun ⟨j, hj, hr⟩ => ⟨j, by simp [hj], hr⟩, hbetter, fun j hj => ?_⟩
      rcases List.mem_cons.mp hj with rfl | hj
      · exact IsTrans.trans _ _ _ h hbetter
      · exact hall j hj
    case isFalse h =>
      obtain ⟨hmem, hbetter, hall⟩ := ih hl (e i) hi
      refine ⟨.inr ?_, IsTrans.trans _ _ _ ((Std.Total.total _ _).resolve_right h) hbetter, fun j hj => ?_⟩
      · rcases hmem with hr | ⟨j, hj, hr⟩
        · exact ⟨i, by simp, hr⟩
        · exact ⟨j, by simp [hj], hr⟩
      · rcases List.mem_cons.mp hj with rfl | hj
        · exact hbetter
        · exact hall j hj

/-! ### Of integers -/

/-- The larger or the smaller of two integers, as a reduction folds them. -/
def pickInt (t : Ty) (larger : Bool) (a b : BitVec t.bits) : BitVec t.bits :=
  if larger then (if reads t b ≤ reads t a then a else b) else (if reads t b ≥ reads t a then a else b)

theorem ofNat_foldl_pickInt (t : Ty) (larger : Bool) (N : Nat → Nat) (l : List Nat) (m : Nat) :
    BitVec.ofNat t.bits ((l.map N).foldl (fun m y => if larger then maxI t m y else minI t m y) m) =
      (l.map fun i => BitVec.ofNat t.bits (N i)).foldl (pickInt t larger) (BitVec.ofNat t.bits m) := by
  induction l generalizing m with
  | nil => rfl
  | cons i l ih =>
    rw [List.map_cons, List.foldl_cons, ih, List.map_cons, List.foldl_cons]
    congr 1
    unfold pickInt
    cases larger
    · simp only [Bool.false_eq_true, if_false, ofNat_minI, ge_iff_le, ← not_lt, ite_not]
    · simp only [if_true, ofNat_maxI, ← not_lt, ite_not]

theorem reads_bounds (t : Ty) (r : BitVec t.bits) : lowest t ≤ reads t r ∧ reads t r ≤ highest t := by
  unfold lowest highest reads
  split
  · exact ⟨BitVec.le_toInt r, by have := BitVec.toInt_lt (x := r); omega⟩
  · refine ⟨Int.natCast_nonneg _, ?_⟩
    have := r.isLt
    have hcast : ((2 ^ t.bits : Nat) : Int) = 2 ^ t.bits := by push_cast; rfl
    omega

theorem reads_injective {t : Ty} {a b : BitVec t.bits} (h : reads t a = reads t b) : a = b := by
  rw [← ofInt_reads t a, h, ofInt_reads]

/-- R142: the best of the integers at some places; the end of the range where there is none. -/
theorem bestInt_foldl {t : Ty} {better : Int → Int → Prop} [DecidableRel better] [IsTrans Int better] [Std.Total better]
    [Std.Antisymm better] {f : BitVec t.bits → BitVec t.bits → BitVec t.bits}
    (hf : ∀ a b, f a b = if better (reads t b) (reads t a) then a else b) {least : Int} (hlow : lowest t ≤ least)
    (hhigh : least ≤ highest t) (hleast : ∀ r : BitVec t.bits, better least (reads t r)) (e : Nat → BitVec t.bits)
    (places : List Nat) : BestInt t places e least better ((places.map e).foldl f (BitVec.ofInt t.bits least)) := by
  obtain ⟨hmem, -, hall⟩ := foldl_best (P := fun _ => True) (fun a b _ _ => hf a b) e places (fun _ _ => trivial)
    (BitVec.ofInt t.bits least) trivial
  refine ⟨fun h => by rw [h]; rfl, fun h => ?_⟩
  rcases hmem with hr | ⟨i, hi, hr⟩
  · obtain ⟨i, hi⟩ := List.exists_mem_of_ne_nil _ h
    have hbest := hall i hi
    rw [hr, reads_ofInt hlow hhigh] at hbest
    have hsame : reads t (e i) = least := Std.Antisymm.antisymm _ _ hbest (hleast _)
    refine ⟨i, hi, ?_, fun j hj => ?_⟩
    · rw [hr, ← hsame, ofInt_reads]
    · have hj' := hall j hj
      rwa [hr, reads_ofInt hlow hhigh, ← hsame] at hj'
  · exact ⟨i, hi, hr, fun j hj => hr ▸ hall j hj⟩

theorem redMinMax_int {t : Ty} (ht : t.isInt = true) (larger : Bool) (A : Nat → Bool) (N : Nat → Nat) (l : List Nat) :
    (redMinMax t larger (l.map A) (l.map N)).2 = 0 ∧
      BitVec.ofNat t.bits (redMinMax t larger (l.map A) (l.map N)).1 =
        ((l.filter A).map fun i => BitVec.ofNat t.bits (N i)).foldl (pickInt t larger)
          (BitVec.ofInt t.bits (if larger then lowest t else highest t)) := by
  have hred : redMinMax t larger (l.map A) (l.map N) =
      (((l.filter A).map N).foldl (fun m y => if larger then maxI t m y else minI t m y)
        (wrapTo t.bits (if larger then intMin t else intMax t)), 0) := by
    unfold redMinMax
    rw [activeOnly_map]
    dsimp only
    rw [if_neg (by rw [Ty.isFloat_of_isInt ht]; exact Bool.false_ne_true)]
  rw [hred]
  refine ⟨rfl, ?_⟩
  rw [ofNat_foldl_pickInt, ofNat_wrapTo, intMin_eq, intMax_eq]

/-! ### Of floats -/

/-- The larger or the smaller of two floats, as a reduction folds them. -/
def pickFloat (t : Ty) (larger : Bool) (a b : BitVec t.bits) : BitVec t.bits :=
  BitVec.ofNat t.bits (fminmax (fmtOf t) larger a.toNat b.toNat).1

theorem fminmax_toNat {t : Ty} (ht : t.isFloat = true) (larger : Bool) (a b : BitVec t.bits) :
    (fminmax (fmtOf t) larger a.toNat b.toNat).1 = (pickFloat t larger a b).toNat := by
  have hlt : (fminmax (fmtOf t) larger a.toNat b.toNat).1 < 2 ^ t.bits := by
    have hn := (canonical t).isLt
    rw [← canonical_toNat ht] at hn
    unfold fminmax
    dsimp only
    split_ifs
    · exact hn
    · exact b.isLt
    · exact a.isLt
    · exact b.isLt
    · exact a.isLt
    · exact b.isLt
    · exact a.isLt
  rw [pickFloat, BitVec.toNat_ofNat, Nat.mod_eq_of_lt hlt]

theorem foldl_fminmax {t : Ty} (ht : t.isFloat = true) (larger : Bool) (e : Nat → BitVec t.bits) (l : List Nat)
    (m : BitVec t.bits) : (l.map fun i => (e i).toNat).foldl (fun m y => (fminmax (fmtOf t) larger m y).1) m.toNat =
      ((l.map e).foldl (pickFloat t larger) m).toNat := by
  induction l generalizing m with
  | nil => rfl
  | cons i l ih => rw [List.map_cons, List.foldl_cons, fminmax_toNat ht, ih, List.map_cons, List.foldl_cons]

theorem pickFloat_larger {t : Ty} (hF : t.isF = true) (a b : BitVec t.bits) (ha : isNaN t a = false) (hb : isNaN t b = false) :
    pickFloat t true a b = if place t b ≤ place t a then a else b := by
  have h := (extreme_fminmax hF true a b).2
  simp only [ha, hb, Bool.false_eq_true, and_self, if_false, if_true] at h
  simp only [pickFloat, h, ← not_lt, ite_not]

theorem pickFloat_smaller {t : Ty} (hF : t.isF = true) (a b : BitVec t.bits) (ha : isNaN t a = false) (hb : isNaN t b = false) :
    pickFloat t false a b = if place t b ≥ place t a then a else b := by
  have h := (extreme_fminmax hF false a b).2
  simp only [ha, hb, Bool.false_eq_true, and_self, if_false] at h
  simp only [pickFloat, h, ge_iff_le, ← not_lt, ite_not]

theorem noneCode_eq {t : Ty} (hF : t.isF = true) (larger : Bool) :
    BitVec.ofNat t.bits ((if larger then (fmtOf t).signBit else 0) + (fmtOf t).inf.getD (fmtOf t).maxFin) = infinity t larger := by
  revert hF larger
  cases t <;> decide

/-- The places that hold numbers. -/
def numbersAt (t : Ty) (e : Nat → BitVec t.bits) (places : List Nat) : List Nat := places.filter fun i => !isNaN t (e i)

section FloatRow
variable {t : Ty} (ht : t.isFloat = true) (N : Nat → Nat) (places : List Nat)

theorem map_lowBits : (places.map N).map (fun y => lowBits t.bits y) = places.map fun i => (BitVec.ofNat t.bits (N i)).toNat := by
  rw [List.map_map]
  exact List.map_congr_left fun i _ => (toNat_ofNat_lowBits _ _).symm

include ht

theorem filter_numbers (e : Nat → BitVec t.bits) : (places.map fun i => (e i).toNat).filter (fun y => !((fmtOf t).decode y).isNan) =
    (numbersAt t e places).map fun i => (e i).toNat := by
  rw [List.filter_map, numbersAt]
  congr 1
  exact List.filter_congr fun i _ => congrArg _ (decode_isNan_sign ht (e i)).1

theorem sigFlags_row (e : Nat → BitVec t.bits) :
    sigFlags ((places.map fun i => (e i).toNat).map (fmtOf t).decode) = signals t (places.map e) := by
  rw [← sigFlags_eq ht, List.map_map, List.map_map]
  rfl

end FloatRow

/-- What a reduction of floats to the largest or the smallest gives, of the codes at the active places. -/
def bestCode (t : Ty) (larger : Bool) (e : Nat → BitVec t.bits) (places : List Nat) : BitVec t.bits :=
  if places = [] then infinity t larger
  else match numbersAt t e places with
    | [] => canonical t
    | i :: rest => (rest.map e).foldl (pickFloat t larger) (e i)

theorem redMinMax_float {t : Ty} (hF : t.isF = true) (larger : Bool) (A : Nat → Bool) (N : Nat → Nat) (l : List Nat) :
    let e (i : Nat) := BitVec.ofNat t.bits (N i)
    BitVec.ofNat t.bits (redMinMax t larger (l.map A) (l.map N)).1 = bestCode t larger e (l.filter A) ∧
      (redMinMax t larger (l.map A) (l.map N)).2 = signals t ((l.filter A).map e) := by
  intro e
  have ht := Ty.isFloat_of_isF hF
  have hcode (r : BitVec t.bits) : BitVec.ofNat t.bits r.toNat = r := by simp
  unfold redMinMax
  rw [activeOnly_map]
  dsimp only
  rw [if_pos ht, map_lowBits, sigFlags_row ht, filter_numbers ht]
  cases hp : l.filter A with
  | nil => exact ⟨noneCode_eq hF larger, rfl⟩
  | cons i ps =>
    cases hn : numbersAt t e (i :: ps) with
    | nil =>
      have hbest : bestCode t larger e (i :: ps) = canonical t := by rw [bestCode, if_neg (List.cons_ne_nil _ _), hn]
      rw [hbest]
      refine ⟨?_, rfl⟩
      change BitVec.ofNat t.bits (fmtOf t).nanCode = _
      rw [canonical_toNat ht, hcode]
    | cons j rest =>
      have hbest : bestCode t larger e (i :: ps) = (rest.map e).foldl (pickFloat t larger) (e j) := by
        rw [bestCode, if_neg (List.cons_ne_nil _ _), hn]
      rw [hbest]
      refine ⟨?_, rfl⟩
      change BitVec.ofNat t.bits ((rest.map fun i => (e i).toNat).foldl (fun m y => (fminmax (fmtOf t) larger m y).1) (e j).toNat) = _
      rw [foldl_fminmax ht, hcode]

/-- R142: the best of the numbers at some places, without the NaNs. -/
theorem bestFloat_bestCode {t : Ty} {better : Int → Int → Prop} [DecidableRel better] [IsTrans Int better] [Std.Total better]
    {larger : Bool} (hf : ∀ a b : BitVec t.bits, isNaN t a = false → isNaN t b = false →
      pickFloat t larger a b = if better (place t b) (place t a) then a else b) (e : Nat → BitVec t.bits) (places : List Nat) :
    BestFloat t places e (infinity t larger) better (bestCode t larger e places) (signals t (places.map e)) := by
  have hreal (i : Nat) (hi : i ∈ numbersAt t e places) : i ∈ places ∧ isNaN t (e i) = false := by
    simpa [numbersAt, List.mem_filter] using hi
  refine ⟨rfl, fun h => if_pos h, fun h hnone => ?_, fun hsome => ?_⟩
  · change numbersAt t e places = [] at hnone
    rw [bestCode, if_neg h, hnone]
  · change numbersAt t e places ≠ [] at hsome
    change ∃ i ∈ numbersAt t e places, _ ∧ ∀ j ∈ numbersAt t e places, _
    cases hn : numbersAt t e places with
    | nil => exact absurd hn hsome
    | cons i rest =>
      rw [hn] at hreal
      have hne : places ≠ [] := List.ne_nil_of_mem (hreal i (by simp)).1
      obtain ⟨hmem, hfirst, hall⟩ := foldl_best (P := fun r => isNaN t r = false) hf e rest
        (fun j hj => (hreal j (by simp [hj])).2) (e i) (hreal i (by simp)).2
      rw [bestCode, if_neg hne, hn]
      dsimp only
      have hbest (j : Nat) (hj : j ∈ i :: rest) :
          better (place t (e j)) (place t ((rest.map e).foldl (pickFloat t larger) (e i))) := by
        rcases List.mem_cons.mp hj with rfl | hj
        · exact hfirst
        · exact hall j hj
      rcases hmem with hr | ⟨k, hk, hr⟩
      · exact ⟨i, by simp, hr, fun j hj => hr ▸ hbest j hj⟩
      · exact ⟨k, by simp [hk], hr, fun j hj => hr ▸ hbest j hj⟩

end Sys2Proof.Machine

/-! Proofs: the place of the largest of a row (R142). -/

namespace Sys2Proof.Machine

/-! ### The place of the largest -/

section ArgMax
variable (t : Ty) (A : Nat → Bool) (N : Nat → Nat)

/-- The places that count for the largest: the active ones but for NaNs. -/
def contends (i : Nat) : Bool := A i && !(t.isFloat && (valF t (N i)).isNan)

/-- A place's order among the values: the integer, or the place of the float's code. -/
def argKey (i : Nat) : Int := if t.isFloat then place t (BitVec.ofNat t.bits (N i)) else reads t (BitVec.ofNat t.bits (N i))

/-- The first largest of the places below i that count, as the walk holds it. -/
def ArgBest (seen : List Nat) (best : Option (Nat × Nat)) : Prop :=
  (best = none ∧ seen = []) ∨ ∃ k ∈ seen, best = some (lowBits t.bits (N k), k) ∧
    ∀ j ∈ seen, argKey t N j ≤ argKey t N k ∧ (argKey t N j = argKey t N k → k ≤ j)

/-- What the walk holds after place i. -/
def argStep (i : Nat) (best : Option (Nat × Nat)) : Option (Nat × Nat) :=
  let better := match best with
    | none => contends t A N i
    | some (b, _) => contends t A N i && (if t.isFloat then ltV (valF t b) (valF t (N i)) else intVal t b < intVal t (N i))
  if better then some (lowBits t.bits (N i), i) else best

theorem argGo_cons (as : List Bool) (xs : List Nat) (i : Nat) (best : Option (Nat × Nat)) :
    argGo t (A i :: as) (N i :: xs) i best = argGo t as xs (i + 1) (argStep t A N i best) := by
  cases best <;> rfl

variable {t A N}

theorem beats_iff {k i : Nat} (hk : contends t A N k = true) (hi : contends t A N i = true) :
    (if t.isFloat then ltV (valF t (lowBits t.bits (N k))) (valF t (N i))
      else decide (intVal t (lowBits t.bits (N k)) < intVal t (N i))) = decide (argKey t N k < argKey t N i) := by
  unfold argKey
  cases ht : t.isFloat with
  | true =>
    have hreal {j : Nat} (hj : contends t A N j = true) : isNaN t (BitVec.ofNat t.bits (N j)) = false := by
      simp only [contends, ht, Bool.true_and, Bool.and_eq_true, Bool.not_eq_true', valF_eq] at hj
      exact (decode_isNan_sign ht _).1.symm.trans hj.2
    rw [if_pos rfl, if_pos rfl, if_pos rfl, valF_eq, valF_eq, ofNat_lowBits, ltV_iff ht (hreal hk) (hreal hi)]
  | false => simp only [Bool.false_eq_true, if_false, intVal_eq, ofNat_lowBits]

/-- Places in order are seen in order. -/
theorem argBest_step {i : Nat} {best : Option (Nat × Nat)} {seen : List Nat} (hlt : ∀ j ∈ seen, j < i)
    (hc : ∀ j ∈ seen, contends t A N j = true) (h : ArgBest t N seen best) :
    ArgBest t N (seen ++ if contends t A N i = true then [i] else []) (argStep t A N i best) := by
  cases hi : contends t A N i with
  | false =>
    have hkeep : argStep t A N i best = best := by
      unfold argStep
      cases best <;> simp [hi]
    simpa [hkeep] using h
  | true =>
    rw [if_pos rfl]
    rcases h with ⟨rfl, rfl⟩ | ⟨k, hk, rfl, hall⟩
    · have hfirst : argStep t A N i none = some (lowBits t.bits (N i), i) := by simp [argStep, hi]
      exact .inr ⟨i, by simp, hfirst, by simp⟩
    · have hstep : argStep t A N i (some (lowBits t.bits (N k), k)) =
          if argKey t N k < argKey t N i then some (lowBits t.bits (N i), i) else some (lowBits t.bits (N k), k) := by
        have hb := beats_iff (hc k hk) hi
        unfold argStep
        simp only [hi, Bool.true_and, hb, decide_eq_true_eq]
      rw [hstep]
      split
      case isTrue hlater =>
        refine .inr ⟨i, by simp, rfl, fun j hj => ?_⟩
        rcases List.mem_append.mp hj with hj | hj
        · have := (hall j hj).1
          omega
        · obtain rfl : j = i := by simpa using hj
          exact ⟨le_rfl, fun _ => le_rfl⟩
      case isFalse hkeep =>
        refine .inr ⟨k, by simp [hk], rfl, fun j hj => ?_⟩
        rcases List.mem_append.mp hj with hj | hj
        · exact hall j hj
        · obtain rfl : j = i := by simpa using hj
          exact ⟨not_lt.mp hkeep, fun _ => (hlt k hk).le⟩

theorem argBest_argGo (n i : Nat) (best : Option (Nat × Nat))
    (h : ArgBest t N ((List.range i).filter (contends t A N)) best) :
    ArgBest t N ((List.range (i + n)).filter (contends t A N))
      (argGo t ((List.range' i n).map A) ((List.range' i n).map N) i best) := by
  induction n generalizing i best with
  | zero => exact h
  | succ n ih =>
    have hseen : (List.range (i + 1)).filter (contends t A N) =
        (List.range i).filter (contends t A N) ++ if contends t A N i = true then [i] else [] := by
      rw [List.range_succ, List.filter_append]
      cases hi : contends t A N i <;> simp [hi]
    have hstep := argBest_step (i := i) (fun j hj => List.mem_range.mp (List.mem_filter.mp hj).1)
      (fun j hj => (List.mem_filter.mp hj).2) h
    rw [← hseen] at hstep
    rw [List.range'_succ, List.map_cons, List.map_cons, argGo_cons, show i + (n + 1) = i + 1 + n by omega]
    exact ih (i + 1) _ hstep

end ArgMax

/-- R142: the first largest of a row. -/
theorem argGo_row (t : Ty) (A : Nat → Bool) (N : Nat → Nat) (n : Nat) :
    ArgBest t N ((List.range n).filter (contends t A N)) (argGo t ((List.range n).map A) ((List.range n).map N) 0 none) := by
  have h := argBest_argGo (t := t) (A := A) (N := N) n 0 none (.inl ⟨rfl, rfl⟩)
  rwa [Nat.zero_add, ← List.range_eq_range'] at h

/-- How the first largest stands in a scalar register, by its place. -/
theorem argMaxOf_row (t : Ty) (A : Nat → Bool) (N : Nat → Nat) (n : Nat) :
    let v := (argMaxOf t ((List.range n).map A) ((List.range n).map N)).1
    let seen := (List.range n).filter (contends t A N)
    (seen = [] → v = 0x0000FFFF00000000) ∧ (seen ≠ [] → ∃ i ∈ seen,
      v = BitVec.ofNat 64 ((BitVec.ofNat t.bits (N i)).toNat + i * 2 ^ 32) ∧
        ∀ j ∈ seen, argKey t N j ≤ argKey t N i ∧ (argKey t N j = argKey t N i → i ≤ j)) := by
  intro v seen
  have hv : v = (argMaxOf t ((List.range n).map A) ((List.range n).map N)).1 := rfl
  unfold argMaxOf at hv
  rcases argGo_row t A N n with ⟨hbest, hnone⟩ | ⟨k, hk, hbest, hall⟩
  · rw [hbest] at hv
    exact ⟨fun _ => hv, fun h => absurd hnone h⟩
  · rw [hbest] at hv
    refine ⟨fun h => absurd h (List.ne_nil_of_mem hk), fun _ => ⟨k, hk, ?_, hall⟩⟩
    rw [hv, toNat_ofNat_lowBits]

end Sys2Proof.Machine

/-! Proofs: running sums (R118), and the reductions put together (R142). -/

namespace Sys2Proof.Machine

/-! ### Running sums -/

section Scan
variable (t : Ty) (mode : RM)

/-- The running sum at place i, and the flags of the addition that makes it. -/
def scanAt (U : Nat → Nat) : Nat → Nat × Flags
  | 0 => (U 0, 0)
  | i + 1 => addT t mode .none 0 (scanAt U i).1 (U (i + 1))

/-- What a scan adds at a place: an active element, or the unit of addition. -/
def scanTerm (A : Nat → Bool) (N : Nat → Nat) (i : Nat) : Nat := if A i then lowBits t.bits (N i) else addUnit t

variable (A : Nat → Bool) (N : Nat → Nat)

theorem scanGo_from (n i : Nat) :
    scanGo t mode ((List.range' (i + 1) n).map A) ((List.range' (i + 1) n).map N) (some (scanAt t mode (scanTerm t A N) i).1) =
      ((List.range' (i + 1) n).map fun j => (scanAt t mode (scanTerm t A N) j).1,
        ((List.range' (i + 1) n).map fun j => (scanAt t mode (scanTerm t A N) j).2).foldr (· ||| ·) 0) := by
  induction n generalizing i with
  | zero => rfl
  | succ n ih =>
    have hnext : scanAt t mode (scanTerm t A N) (i + 1) =
        addT t mode .none 0 (scanAt t mode (scanTerm t A N) i).1 (if A (i + 1) then lowBits t.bits (N (i + 1)) else addUnit t) := rfl
    rw [List.range'_succ, List.map_cons, List.map_cons, scanGo]
    dsimp only
    rw [← hnext, ih (i + 1)]
    rfl

theorem scanGo_row (n : Nat) : scanGo t mode ((List.range (n + 1)).map A) ((List.range (n + 1)).map N) none =
    ((List.range (n + 1)).map fun j => (scanAt t mode (scanTerm t A N) j).1,
      ((List.range (n + 1)).map fun j => (scanAt t mode (scanTerm t A N) j).2).foldr (· ||| ·) 0) := by
  have hfrom := scanGo_from t mode A N n 0
  rw [List.range_eq_range', List.range'_succ, List.map_cons, List.map_cons, scanGo]
  dsimp only
  rw [Nat.zero_add] at hfrom ⊢
  rw [show (if A 0 then lowBits t.bits (N 0) else addUnit t) = (scanAt t mode (scanTerm t A N) 0).1 from rfl, hfrom]
  rfl

end Scan

/-- Element i of a scan's row, and its flags. -/
def scanNew (x : RegForm) (s : State) (i : Nat) : Nat × Flags :=
  scanAt x.t s.cur.rm (scanTerm x.t (active s.cur x.g x.t.bits) (gathered x s)) i

/-- The row that merges new elements at the active places into the old destination. -/
def mergedRow (x : RegForm) (s : State) (R : Nat → Nat) : Nat :=
  packElems x.t.bits ((List.range (lanes x.t)).map fun i =>
    if active s.cur x.g x.t.bits i = true then R i else elem x.t.bits i (s.readV x.dst 1))

/-- R124: a merged row written to the destination, with flags. -/
theorem mergedRow_written {op : Nat} {x : RegForm} {s : State} (R : Nat → Nat) (f : Flags) (h : VecReady op x s)
    (hop : op ≠ 0x1C7 ∧ op ≠ 0x1C2 ∧ op ≠ 0x185) (ht : x.t.isInt = true ∨ x.t.isF = true) :
    let t := afterWrite x x.t.bits (s.cur.activity x.g x.t.bits (lanes x.t)) (mergedRow x s R) f s
    VecFrame op x 1 s t ∧ t.cur.fflags = s.cur.fflags ||| f ∧ ∀ i, i < laneCount x.t → lane x.t (rowAt t s.cur x.dst 0) i =
      if active s.cur x.g x.t.bits i = true then BitVec.ofNat x.t.bits (R i) else lane x.t (rowAt s s.cur x.dst 0) i := by
  obtain ⟨-, -, -, hlanes⟩ := bits_of_arith ht
  have hrow : (BitVec.ofNat 512 (mergedRow x s R)).toNat = mergedRow x s R := by
    have hlen := packElems_lt x.t.bits ((List.range (lanes x.t)).map fun i =>
      if active s.cur x.g x.t.bits i = true then R i else elem x.t.bits i (s.readV x.dst 1))
    rw [List.length_map, List.length_range, Nat.mul_comm, hlanes] at hlen
    exact (toNat_ofNat_lowBits 512 _).trans (Nat.mod_eq_of_lt hlen)
  have helem (i : Nat) (hi : i < lanes x.t) : elem x.t.bits i (mergedRow x s R) =
      (if active s.cur x.g x.t.bits i = true then R i else elem x.t.bits i (s.readV x.dst 1)) % 2 ^ x.t.bits := by
    rw [mergedRow, elem_packElems _ _ _ (by simpa using hi)]
    simp
  have hw := rowWritten (row := mergedRow x s R) f h hop ht fun i hi hoff => by
    rw [helem i hi, hoff, if_neg Bool.false_ne_true]
    exact Nat.mod_eq_of_lt (elem_lt _ _ _)
  refine ⟨hw.frame, hw.flags, fun i hi => ?_⟩
  rw [hw.row, lane_eq, hrow, helem i hi, lane_eq x.t (rowAt s s.cur x.dst 0), ← readV_one]
  split <;> exact ofNat_lowBits _ _

theorem activeFlags_quiet (as : List Bool) (rs : List Nat) : activeFlags as (rs.map fun r => (r, 0)) = 0 := by
  induction rs generalizing as with
  | nil =>
    cases as with
    | nil => rfl
    | cons a as => cases a <;> rfl
  | cons r rs ih =>
    cases as with
    | nil => rfl
    | cons a as =>
      cases a
      · exact ih as
      · exact (flags_zero_or _).trans (ih as)

/-- Elements put into a row's active places, with flags. -/
theorem putRow_raise (x : RegForm) (s : State) (sp : VSpec) (R : Nat → Nat) (f : Flags) (hd : sp.gd = 1)
    (hw : sp.gw = x.t.bits) (hn : sp.n = lanes x.t) :
    afterVec x ((s.putRow x (vecIn x sp s) ((List.range (lanes x.t)).map R)).modCur fun h => h.raise f) =
      afterWrite x x.t.bits (s.cur.activity x.g x.t.bits (lanes x.t)) (mergedRow x s R) f s := by
  have hraise (g : Flags) (u : State) : g = 0 → ((u.modCur fun h => h.raise g).modCur fun h => h.raise f) =
      u.modCur fun h => h.raise f := by
    rintro rfl
    unfold State.modCur Thread.raise
    simp only [flags_or_zero]
  unfold State.putRow State.putV afterWrite
  dsimp only
  rw [hraise _ _ (activeFlags_quiet _ _), List.map_map]
  unfold vecIn
  dsimp only
  rw [hd, hw, hn]
  unfold mergedRow elems
  rw [activity_row, List.map_map, mergeElems_map]
  rfl

theorem vscan_run {x : RegForm} {s : State} (h : VecReady 0x1CE x s) (ht : x.t.isInt = true ∨ x.t.isF = true) :
    exec (.vscan x) s = .next (afterWrite x x.t.bits (s.cur.activity x.g x.t.bits (lanes x.t))
      (mergedRow x s fun i => (scanNew x s i).1) (((List.range (lanes x.t)).map fun i => (scanNew x s i).2).foldr (· ||| ·) 0) s) := by
  obtain ⟨-, -, hsize, hlanes⟩ := bits_of_arith ht
  have hexec : exec (.vscan x) s = execVscan x s := by simp only [exec]
  obtain ⟨n, hn⟩ := Nat.exists_eq_succ_of_ne_zero (show lanes x.t ≠ 0 by rintro h0; rw [h0] at hlanes; omega)
  have hscan := scanGo_row x.t s.cur.rm (active s.cur x.g x.t.bits) (gathered x s) n
  rw [← Nat.succ_eq_add_one, ← hn] at hscan
  rw [hexec, execVscan]
  refine (vec_ready _ h ⟨show 1 ≤ 4 by decide, show 1 ≤ 4 by decide, Nat.zero_le 4, Nat.zero_le 4⟩ hsize hsize).trans ?_
  have hin : scanGo x.t s.cur.rm (s.cur.activity x.g x.t.bits (lanes x.t)) (srcElems x.t x.m1 (s.readV x.s1 1)) none =
      ((List.range (lanes x.t)).map fun i => (scanNew x s i).1,
        ((List.range (lanes x.t)).map fun i => (scanNew x s i).2).foldr (· ||| ·) 0) := by
    rw [activity_row, srcElems_row]
    exact hscan
  rw [← putRow_raise x s ⟨1, 1, 0, 0, x.t.bits, x.t.bits, lanes x.t, x.t.bits⟩ (fun i => (scanNew x s i).1) _ rfl rfl rfl]
  dsimp only [vecIn]
  rw [hin]

/-- R118, R124: a scan completes, with the running sums at its active places and the flags of every addition. -/
theorem vscan_spec {x : RegForm} {s : State} (h : VecReady 0x1CE x s) (ht : x.t.isInt = true ∨ x.t.isF = true) :
    ∃ t, exec (.vscan x) s = .next t ∧ VecFrame 0x1CE x 1 s t ∧
      FlagsOf s t (fun _ => true) (laneCount x.t) (fun i => (scanNew x s i).2) ∧
      ∀ i, i < laneCount x.t → lane x.t (rowAt t s.cur x.dst 0) i =
        if active s.cur x.g x.t.bits i = true then BitVec.ofNat x.t.bits (scanNew x s i).1
        else lane x.t (rowAt s s.cur x.dst 0) i := by
  obtain ⟨hframe, hflags, hlane⟩ := mergedRow_written (fun i => (scanNew x s i).1)
    (((List.range (lanes x.t)).map fun i => (scanNew x s i).2).foldr (· ||| ·) 0) h (by decide) ht
  refine ⟨_, vscan_run h ht, hframe, ?_, hlane⟩
  rw [FlagsOf, hflags, BitVec.or_comm, ← foldl_or_flags, List.foldl_map, List.filter_eq_self.mpr fun _ _ => rfl]
  rfl

/-- Without flags the sticky flags stay. -/
theorem FlagsOf.fflags_eq {s t : State} {act : Nat → Bool} {n : Nat} {f : Nat → Flags} (h : FlagsOf s t act n f)
    (hf : ∀ i, f i = 0) : t.cur.fflags = s.cur.fflags := by
  have hfold (l : List Nat) (y : Flags) : l.foldl (fun y i => y ||| f i) y = y := by
    induction l generalizing y with
    | nil => rfl
    | cons i l ih => rw [List.foldl_cons, hf, flags_or_zero, ih]
  exact h.trans (hfold _ _)

/-- R118: the running sum of integers, modulo 2^w, without flags. -/
theorem scanAt_int {t : Ty} (ht : t.isInt = true) (mode : RM) (A : Nat → Bool) (N : Nat → Nat) (i : Nat) :
    BitVec.ofNat t.bits (scanAt t mode (scanTerm t A N) i).1 =
        BitVec.ofInt t.bits ((((List.range (i + 1)).filter A).map fun j => reads t (BitVec.ofNat t.bits (N j))).sum) ∧
      (scanAt t mode (scanTerm t A N) i).2 = 0 := by
  have hterm (j : Nat) : BitVec.ofNat t.bits (scanTerm t A N j) = BitVec.ofNat t.bits (addend t A N j) := by
    rw [scanTerm, addend]
    split
    · exact ofNat_lowBits _ _
    · rfl
  rw [← sum_active ht]
  induction i with
  | zero => exact ⟨by simp [scanAt, hterm], rfl⟩
  | succ i ih =>
    obtain ⟨hsum, hquiet⟩ := addT_int ht mode (scanAt t mode (scanTerm t A N) i).1 (scanTerm t A N (i + 1))
    refine ⟨?_, hquiet⟩
    rw [scanAt, hsum, ih.1, hterm, List.range_succ (n := i + 1), List.map_append, List.sum_append]
    simp

/-- What a float scan adds at a place. -/
theorem ofNat_scanTerm_float {t : Ty} (ht : t.isFloat = true) (A : Nat → Bool) (N : Nat → Nat) (i : Nat) :
    BitVec.ofNat t.bits (scanTerm t A N i) = if A i = true then BitVec.ofNat t.bits (N i) else zeroOf t true := by
  rw [← ofNat_addend_float ht A N i, scanTerm, addend]
  split
  · exact ofNat_lowBits _ _
  · rfl

/-! ### The scalar forms -/

theorem redWord_int (t : Ty) (r : Nat × Flags) : (redWord t r).1 = standing t (BitVec.ofNat t.bits r.1) := extendInt_eq t r.1

theorem redWord_float {t : Ty} (hF : t.isF = true) (r : Nat × Flags) : (redWord t r).1 = (BitVec.ofNat t.bits r.1).setWidth 64 := by
  rw [redWord_int, standing, if_neg]
  revert hF
  cases t <;> decide

/-- Of integers every contending place is an active one. -/
theorem contends_int {t : Ty} (ht : t.isInt = true) (A : Nat → Bool) (N : Nat → Nat) : contends t A N = A := by
  funext i
  simp [contends, Ty.isFloat_of_isInt ht]

theorem filter_contends_float {t : Ty} (ht : t.isFloat = true) (A : Nat → Bool) (N : Nat → Nat) (l : List Nat) :
    l.filter (contends t A N) = (l.filter A).filter fun i => !isNaN t (BitVec.ofNat t.bits (N i)) := by
  rw [List.filter_filter]
  refine List.filter_congr fun i _ => ?_
  rw [contends, ht, Bool.true_and, valF_eq, val, (decode_isNan_sign ht _).1, Bool.and_comm]

theorem argMaxOf_flags {t : Ty} (A : Nat → Bool) (N : Nat → Nat) (l : List Nat) : (argMaxOf t (l.map A) (l.map N)).2 =
    if t.isFloat then signals t ((l.filter A).map fun i => BitVec.ofNat t.bits (N i)) else 0 := by
  have hsig : (argMaxOf t (l.map A) (l.map N)).2 =
      if t.isFloat then sigFlags ((activeOnly (l.map A) (l.map N)).map (valF t)) else 0 := by
    unfold argMaxOf
    dsimp only
    split <;> rfl
  rw [hsig, activeOnly_map]
  cases ht : t.isFloat with
  | false => rfl
  | true =>
    rw [if_pos rfl, if_pos rfl, ← sigFlags_eq ht, List.map_map, List.map_map]
    exact congrArg _ (List.map_congr_left fun i _ => valF_eq t (N i))

/-- R117, R142: the sum of the integers at the active places, modulo 2^w. -/
theorem redAdd_int {t : Ty} (ht : t.isInt = true) (mode : RM) (A : Nat → Bool) (N : Nat → Nat) :
    let r := redAdd t mode ((List.range (lanes t)).map A) ((List.range (lanes t)).map N)
    r.2 = 0 ∧ BitVec.ofNat t.bits r.1 =
      BitVec.ofInt t.bits ((((List.range (lanes t)).filter A).map fun i => reads t (BitVec.ofNat t.bits (N i))).sum) := by
  obtain ⟨hsum, hquiet⟩ := treeSum_int ht mode (Nat.log2 (lanes t)) (addend t A N)
  rw [redAdd_row]
  refine ⟨hquiet, hsum.trans ?_⟩
  rw [two_pow_log2_lanes, ← sum_active ht]
  rfl

/-- R117, R142: the tree over the floats at the active places, −0 elsewhere. -/
theorem redAdd_float {t : Ty} (hF : t.isF = true) (h : Thread) (A : Nat → Bool) (N : Nat → Nat) :
    let r := redAdd t h.rm ((List.range (lanes t)).map A) ((List.range (lanes t)).map N)
    TreeSum t (h.rmode.toNat % 4) (Nat.log2 (lanes t))
      (fun i => if A i = true then BitVec.ofNat t.bits (N i) else zeroOf t true) (BitVec.ofNat t.bits r.1) r.2 := by
  have htree := treeSum_float hF (mode_lt h) (Nat.log2 (lanes t)) (addend t A N)
  rw [redAdd_row, h.rm_eq]
  simpa only [ofNat_addend_float (Ty.isFloat_of_isF hF)] using htree

/-- A gathering instruction completes, whatever the type. -/
theorem completes_of_gather {op : Nat} {i : Instr} {x : RegForm} {s : State}
    {f : Thread → List Bool → List Nat → Word × Flags} (hexec : exec i s = gather op x s f) (h : VecReady op x s) :
    Completes i s fun t => ∃ v f, WroteSF s (samePointers s t) x.dst.num5 v f ∧ Pointers x s t := by
  obtain ⟨t, hrun, hwrote, hptr⟩ := gather_spec f h
  exact ⟨t, hexec.trans hrun, _, _, hwrote, hptr⟩

theorem exec_vredadd (x : RegForm) (s : State) :
    exec (.vredadd x) s = gather 0x1CA x s fun h act es => redWord x.t (redAdd x.t h.rm act es) := by
  simp only [exec]
  rfl

theorem exec_vredmax (x : RegForm) (s : State) :
    exec (.vredmax x) s = gather 0x1CB x s fun _ act es => redWord x.t (redMinMax x.t true act es) := by
  simp only [exec]
  rfl

theorem exec_vredmin (x : RegForm) (s : State) :
    exec (.vredmin x) s = gather 0x1CC x s fun _ act es => redWord x.t (redMinMax x.t false act es) := by
  simp only [exec]
  rfl

theorem exec_vargmax (x : RegForm) (s : State) :
    exec (.vargmax x) s = gather 0x1CD x s fun _ act es => argMaxOf x.t act es := by
  simp only [exec]
  rfl

/-- Settles O27: the rows are lists of elements, over which the tree, the folds and the walk are followed element by element. -/
theorem vectorReductions : Obligations.VectorReductions := by
  unfold Obligations.VectorReductions
  refine ⟨gathers_of exec_vredadd fun x h A N ht => ?sum, gathers_of exec_vredmax fun x h A N ht => ?largest,
    gathers_of exec_vredmin fun x h A N ht => ?smallest, gathers_of exec_vargmax fun x h A N ht => ?place,
    fun x s h ht => ?scan,
    ⟨gathersFloat_of exec_vredadd fun x h A N hF => ?sumF, gathersFloat_of exec_vredmax fun x h A N hF => ?largestF,
      gathersFloat_of exec_vredmin fun x h A N hF => ?smallestF, gathersFloat_of exec_vargmax fun x h A N hF => ?placeF⟩,
    fun x s h hF => ?scanF, fun p hp x s h => ?completes⟩
  case sum =>
    obtain ⟨hquiet, hsum⟩ := redAdd_int ht h.rm A N
    exact ⟨hquiet, (redWord_int _ _).trans (congrArg _ hsum)⟩
  case largest =>
    obtain ⟨hquiet, hfold⟩ := redMinMax_int ht true A N (List.range (lanes x.t))
    refine ⟨hquiet, _, (redWord_int _ _).trans (congrArg _ hfold), ?_⟩
    exact bestInt_foldl (fun _ _ => rfl) le_rfl (lowest_le_highest x.t) (fun r => (reads_bounds x.t r).1) _ _
  case smallest =>
    obtain ⟨hquiet, hfold⟩ := redMinMax_int ht false A N (List.range (lanes x.t))
    refine ⟨hquiet, _, (redWord_int _ _).trans (congrArg _ hfold), ?_⟩
    exact bestInt_foldl (fun _ _ => rfl) (lowest_le_highest x.t) le_rfl (fun r => (reads_bounds x.t r).2) _ _
  case place =>
    have hplace := argMaxOf_row x.t A N (lanes x.t)
    have hkey (i : Nat) : argKey x.t N i = reads x.t (BitVec.ofNat x.t.bits (N i)) := by
      rw [argKey, Ty.isFloat_of_isInt ht, if_neg Bool.false_ne_true]
    simp only [contends_int ht, hkey] at hplace
    refine ⟨?_, fun _ => hplace⟩
    rw [argMaxOf_flags, Ty.isFloat_of_isInt ht, if_neg Bool.false_ne_true]
  case scan =>
    obtain ⟨t, hrun, hframe, hflags, hlane⟩ := vscan_spec h (.inl ht)
    have hint := scanAt_int ht s.cur.rm (active s.cur x.g x.t.bits) (gathered x s)
    refine ⟨t, hrun, hframe, ?_, fun i hi => ?_⟩
    · exact hflags.fflags_eq fun i => (hint i).2
    · rw [hlane i hi, scanNew, (hint i).1]
      simp only [gathered_int ht]
  case sumF =>
    refine ⟨_, redWord_float hF _, redAdd_float hF h A N⟩
  case largestF =>
    obtain ⟨hcode, hflags⟩ := redMinMax_float hF true A N (List.range (lanes x.t))
    refine ⟨_, (redWord_float hF _).trans (congrArg _ hcode), ?_⟩
    rw [redWord, hflags]
    exact bestFloat_bestCode (pickFloat_larger hF) _ _
  case smallestF =>
    obtain ⟨hcode, hflags⟩ := redMinMax_float hF false A N (List.range (lanes x.t))
    refine ⟨_, (redWord_float hF _).trans (congrArg _ hcode), ?_⟩
    rw [redWord, hflags]
    exact bestFloat_bestCode (pickFloat_smaller hF) _ _
  case placeF =>
    have ht := Ty.isFloat_of_isF hF
    have hplace := argMaxOf_row x.t A N (lanes x.t)
    have hkey (i : Nat) : argKey x.t N i = place x.t (BitVec.ofNat x.t.bits (N i)) := by rw [argKey, if_pos ht]
    simp only [filter_contends_float ht, hkey] at hplace
    refine ⟨?_, hplace⟩
    rw [argMaxOf_flags, if_pos ht]
    rfl
  case scanF =>
    have ht := Ty.isFloat_of_isF hF
    obtain ⟨t, hrun, hframe, hflags, hlane⟩ := vscan_spec h (.inr hF)
    have hterm (i : Nat) := ofNat_scanTerm_float ht (active s.cur x.g x.t.bits) (gathered x s) i
    simp only [gathered_float hF] at hterm
    refine ⟨t, hrun, hframe, fun i => BitVec.ofNat x.t.bits (scanNew x s i).1, fun i => (scanNew x s i).2, hterm 0, rfl,
      fun i _ => ?_, hflags, hlane⟩
    have hadd := addT_addsTo hF (mode_lt s.cur) (scanNew x s i).1
      (scanTerm x.t (active s.cur x.g x.t.bits) (gathered x s) (i + 1))
    rw [hterm, ← s.cur.rm_eq] at hadd
    exact hadd
  case completes =>
    simp only [List.mem_cons, List.not_mem_nil, or_false] at hp
    rcases hp with rfl | rfl | rfl | rfl
    · exact completes_of_gather (exec_vredadd x s) h
    · exact completes_of_gather (exec_vredmax x s) h
    · exact completes_of_gather (exec_vredmin x s) h
    · exact completes_of_gather (exec_vargmax x s) h

end Sys2Proof.Machine

/-! Proofs: predicate registers element by element (R130, R143, R144). -/

namespace Sys2Proof.Machine

/-! ### The types of rows -/

/-- The types of the moves and predicates have elements of whole bytes (R55, R123). -/
theorem bits_of_isM {t : Ty} (ht : t.isM = true) :
    8 ∣ t.bits ∧ 8 ≤ t.bits ∧ max 1 (t.bits / 8) ∣ 8 ∧ lanes t * t.bits = 512 := by
  revert ht
  cases t <;> decide

theorem isM_of_isInt {t : Ty} (ht : t.isInt = true) : t.isM = true := by
  revert ht
  cases t <;> decide

theorem isM_of_isF {t : Ty} (ht : t.isF = true) : t.isM = true := by
  revert ht
  cases t <;> decide

/-! ### The bits of an element -/

/-- R130, R144: the bits that belong to an element take its new value, and no others. -/
theorem getLsbD_setPred {w : Nat} (h8 : 8 ∣ w) (hw : 8 ≤ w) (p : Word) (i : Nat) (b : Bool) {j : Nat} (hj : j < 64) :
    (setPred w p i b).getLsbD j = if j * 8 / w = i then b else p.getLsbD j := by
  obtain ⟨m, rfl⟩ := h8
  have hm : 0 < m := by omega
  have hmask : (BitVec.ofNat 64 ((2 ^ max 1 (8 * m / 8) - 1) * 2 ^ predBit (8 * m) i)).getLsbD j = decide (j * 8 / (8 * m) = i) := by
    have hbit : predBit (8 * m) i = i * m := by rw [predBit, show i * (8 * m) = 8 * (i * m) by ring]; omega
    have hplace : j * 8 / (8 * m) = i ↔ i * m ≤ j ∧ j < i * m + m := by
      rw [Nat.mul_comm j, Nat.mul_div_mul_left _ _ (by decide), Nat.div_eq_iff hm]
      omega
    rw [hbit, show max 1 (8 * m / 8) = m by omega, BitVec.getLsbD_ofNat, Nat.testBit_mul_two_pow, Nat.testBit_two_pow_sub_one,
      Bool.eq_iff_iff, decide_eq_true_eq, hplace]
    simp only [hj, decide_true, Bool.true_and, Bool.and_eq_true, decide_eq_true_eq]
    omega
  unfold setPred
  dsimp only
  split
  case isTrue hb =>
    rw [BitVec.getLsbD_or, hmask, hb]
    split <;> simp_all
  case isFalse hb =>
    rw [BitVec.getLsbD_and, BitVec.getLsbD_not, hmask]
    split <;> simp_all

/-- The elements from place i on, each with its new bit where it is active. -/
theorem getLsbD_mergePred {w : Nat} (h8 : 8 ∣ w) (hw : 8 ≤ w) (A B : Nat → Bool) (n i : Nat) (p : Word) {j : Nat} (hj : j < 64) :
    (mergePred w ((List.range' i n).map A) ((List.range' i n).map B) i p).getLsbD j =
      if i ≤ j * 8 / w ∧ j * 8 / w < i + n ∧ A (j * 8 / w) = true then B (j * 8 / w) else p.getLsbD j := by
  induction n generalizing i p with
  | zero =>
    rw [if_neg (by omega)]
    rfl
  | succ n ih =>
    rw [List.range'_succ, List.map_cons, List.map_cons, mergePred, ih]
    generalize he : j * 8 / w = e
    have hset : (if A i = true then setPred w p i (B i) else p).getLsbD j =
        if e = i ∧ A i = true then B i else p.getLsbD j := by
      split
      case isTrue hA => rw [getLsbD_setPred h8 hw _ _ _ hj, he]; simp [hA]
      case isFalse hA => simp [hA]
    rw [hset]
    by_cases hei : e = i
    · subst hei
      simp [show ¬e + 1 ≤ e by omega]
    · simp only [hei, false_and, if_false]
      exact if_congr (by constructor <;> rintro ⟨h1, h2, h3⟩ <;> exact ⟨by omega, by omega, h3⟩) rfl rfl

/-- R130, R144: a predicate whose elements take new bits where they are active. -/
theorem getLsbD_mergePred_row {t : Ty} (ht : t.isM = true) (h : Thread) (g : Guard) (B : Nat → Bool) (old : Word) {j : Nat}
    (hj : j < 64) : (mergePred t.bits (h.activity g t.bits (lanes t)) ((List.range (lanes t)).map B) 0 old).getLsbD j =
      predOf h g t.bits old B j := by
  obtain ⟨h8, hw, -, hlanes⟩ := bits_of_isM ht
  have hlt : j * 8 / t.bits < lanes t := by
    rw [Nat.div_lt_iff_lt_mul (by omega)]
    omega
  rw [activity_eq h g _ _ hlanes.le, List.range_eq_range', getLsbD_mergePred h8 hw _ _ _ _ _ hj, predOf, Nat.zero_add]
  exact if_congr ⟨fun h => h.2.2, fun h => ⟨Nat.zero_le _, hlt, h⟩⟩ rfl rfl

/-! ### What a predicate instruction writes -/

theorem wroteP_putPred (s : State) (d : BitVec 3) (w : Nat) (act bits : List Bool) :
    WroteP s (s.putPred d w act bits 0).advance d (mergePred w act bits 0 (s.cur.preg d)) := by
  have hraise (h : Thread) : h.raise 0 = h := by rw [Thread.raise, flags_or_zero]
  have h := wroteP_setP s d (mergePred w act bits 0 (s.cur.preg d))
  unfold State.putPred
  simp only [hraise]
  exact h

/-- R143: the bits that the guard selects are written. -/
theorem predBits_spec {i : Instr} {x : RegForm} {s : State} {f : Word → Word → Word} {g : Bool → Bool → Bool}
    (hexec : exec i s = predBits x s f) (hf : ∀ a b : Word, ∀ j, j < 64 → (f a b).getLsbD j = g (a.getLsbD j) (b.getLsbD j)) :
    Completes i s fun t => ∃ v, WroteP s t (x.dst.num5.setWidth 3) v ∧ ∀ j, j < 64 → v.getLsbD j =
      if ((s.cur.preg x.g.p).getLsbD j != x.g.inv) = true
        then g ((s.cur.preg (x.s1.num5.setWidth 3)).getLsbD j) ((s.cur.preg (x.s2.num5.setWidth 3)).getLsbD j)
        else (s.cur.preg (x.dst.num5.setWidth 3)).getLsbD j := by
  refine ⟨_, hexec, _, wroteP_setP s _ _, fun j hj => ?_⟩
  have hmask : (guardMask x.g.inv (s.cur.preg x.g.p)).getLsbD j = ((s.cur.preg x.g.p).getLsbD j != x.g.inv) := by
    unfold guardMask
    cases x.g.inv <;> simp [hj]
  rw [BitVec.getLsbD_or, BitVec.getLsbD_and, BitVec.getLsbD_and, BitVec.getLsbD_not, hmask, hf _ _ j hj]
  cases (s.cur.preg x.g.p).getLsbD j != x.g.inv <;> simp [hj]

/-- R144: an instruction that writes a bit for each active element. -/
theorem perElement_spec {i : Instr} {x : RegForm} {s : State} {B : Nat → Bool} (ht : x.t.isM = true)
    (hexec : exec i s = .next (s.putPred (x.dst.num5.setWidth 3) x.t.bits (s.cur.activity x.g x.t.bits (lanes x.t))
      ((List.range (lanes x.t)).map B) 0).advance) :
    Completes i s fun t => ∃ v, WroteP s t (x.dst.num5.setWidth 3) v ∧ ∀ j, j < 64 → v.getLsbD j =
      predOf s.cur x.g x.t.bits (s.cur.preg (x.dst.num5.setWidth 3)) B j :=
  ⟨_, hexec, _, wroteP_putPred s _ _ _ _, fun _ hj => getLsbD_mergePred_row ht _ _ _ _ hj⟩

/-! ### The active elements whose bit is set -/

/-- Is element i active and its bit of a predicate set (R144)? -/
def hitAt (x : RegForm) (s : State) (i : Nat) : Bool :=
  active s.cur x.g x.t.bits i && (s.cur.preg (x.s1.num5.setWidth 3)).getLsbD (i * x.t.bits / 8)

/-- The elements that a predicate instruction counts and tests. -/
theorem hits_row (x : RegForm) (s : State) :
    (s.cur.activity x.g x.t.bits (lanes x.t)).zipWith (· && ·) (predElems x.t (s.cur.preg (x.s1.num5.setWidth 3))) =
      (List.range (lanes x.t)).map (hitAt x s) := by
  rw [activity_row, predElems, actives, List.zipWith_map, List.zipWith_self]
  rfl

/-- The first place where both hold is the first of the places where both hold. -/
theorem firstBoth_range (A B : Nat → Bool) (n i : Nat) :
    firstBoth ((List.range' i n).map A) ((List.range' i n).map B) i = ((List.range' i n).filter fun k => A k && B k).head? := by
  induction n generalizing i with
  | zero => rfl
  | succ n ih =>
    rw [List.range'_succ, List.map_cons, List.map_cons, firstBoth, ih]
    cases h : A i && B i <;> simp [h]

theorem firstBoth_row (x : RegForm) (s : State) :
    firstBoth (s.cur.activity x.g x.t.bits (lanes x.t)) (predElems x.t (s.cur.preg (x.s1.num5.setWidth 3))) 0 =
      ((List.range (lanes x.t)).filter (hitAt x s)).head? := by
  rw [activity_row, predElems, actives, List.range_eq_range']
  exact firstBoth_range _ _ _ _

theorem count_map_true {α : Type} (p : α → Bool) (l : List α) : (l.map p).count true = (l.filter p).length := by
  rw [List.count, List.countP_map, List.countP_eq_length_filter]
  congr 2
  funext a
  simp

theorem any_map_id {α : Type} (p : α → Bool) (l : List α) : (l.map p).any id = !(l.filter p).isEmpty := by
  induction l with
  | nil => rfl
  | cons a l ih => cases h : p a <;> simp_all

/-- Every place that A holds at is one that both hold at, just if the two lists of places are one. -/
theorem map_and_beq {α : Type} [BEq α] [LawfulBEq α] (A B : α → Bool) (l : List α) :
    (l.map (fun i => A i && B i) == l.map A) = (l.filter (fun i => A i && B i) == l.filter A) := by
  rw [Bool.eq_iff_iff, beq_iff_eq, beq_iff_eq, List.map_inj_left]
  have hsplit : l.filter (fun i => A i && B i) = (l.filter A).filter B := by
    rw [List.filter_filter]
    exact List.filter_congr fun i _ => Bool.and_comm _ _
  rw [hsplit, List.filter_eq_self]
  refine forall_congr' fun i => ?_
  rw [List.mem_filter]
  cases A i <;> simp

theorem wroteC_putC (s : State) {n : Nat} (hn : n < 16) (b : Bool) (f : Flags) : WroteC s (s.putC n b f) n b f where
  bits m := Thread.cbit_setCbit s.cur n m b hn
  rest := rfl

end Sys2Proof.Machine

/-! Proofs: vector compares (R79, R130), and the predicate instructions put together. -/

namespace Sys2Proof.Machine

/-! ### The relations -/

theorem icond_eq {code : Nat} (hc : code ≤ 5) (a b : Int) : icond code a b = relation code a b := by
  unfold relation
  interval_cases code
  · exact beq_eq_decide a b
  · exact (Bool.eq_iff_iff.mpr (by simp) : (a != b) = decide (a ≠ b))
  all_goals rfl

/-- A float code's place on the line of values, the zeros in one place (R79). -/
def signedMagnitude (t : Ty) (r : BitVec t.bits) : Int := if r.msb then -(magnitude t r : Int) else magnitude t r

theorem compare_congr {α β : Type} [LinearOrder α] [LinearOrder β] {a b : α} {c d : β} (h1 : a < b ↔ c < d) (h2 : b < a ↔ d < c) :
    compare a b = compare c d := by
  rcases lt_trichotomy a b with h | h | h
  · rw [compare_lt_iff_lt.mpr h, compare_lt_iff_lt.mpr (h1.mp h)]
  · have hcd : c = d := le_antisymm (not_lt.mp fun hd => h.not_gt (h2.mpr hd)) (not_lt.mp fun hd => h.not_lt (h1.mpr hd))
    rw [compare_eq_iff_eq.mpr h, compare_eq_iff_eq.mpr hcd]
  · rw [compare_gt_iff_gt.mpr h, compare_gt_iff_gt.mpr (h2.mp h)]

/-- The conditions of R79 on the order of two numbers. -/
theorem fcond_order {code : Nat} (hc : code ≤ 6) {x y : FVal} (hx : x.isNan = false) (hy : y.isNan = false) {i j : Int}
    (h : cmpV x y = compare i j) : fcond code x y = (code != 6 && relation code i j, 0) := by
  have heq : (compare i j == .eq) = decide (i = j) := by rw [Bool.eq_iff_iff, beq_iff_eq, compare_eq_iff_eq, decide_eq_true_eq]
  have hlt : (compare i j == .lt) = decide (i < j) := by rw [Bool.eq_iff_iff, beq_iff_eq, compare_lt_iff_lt, decide_eq_true_eq]
  have hgt : (compare i j == .gt) = decide (j < i) := by rw [Bool.eq_iff_iff, beq_iff_eq, compare_gt_iff_gt, decide_eq_true_eq]
  unfold fcond relation
  simp only [hx, hy, Bool.or_false, Bool.false_eq_true, if_false, h, bne, heq, hlt, hgt]
  have hnle (i j : Int) : (!decide (i ≤ j)) = decide (j < i) := by rw [Bool.eq_iff_iff]; simp
  interval_cases code <;> simp [hnle]

section Compare
variable {t : Ty} (ht : t.isFloat = true) {a b : BitVec t.bits}
include ht

theorem number_lt_iff_signed (a b : BitVec t.bits) : number t a < number t b ↔ signedMagnitude t a < signedMagnitude t b := by
  rw [number_lt_iff ht, signedMagnitude, signedMagnitude]
  cases a.msb <;> cases b.msb <;> simp; omega

/-- The magnitude of every infinity is the same, above every number's. -/
theorem infinite_magnitude {r : BitVec t.bits} (h : isInfinite t r = true) : (fmtOf t).inf = some (magnitude t r) := by
  have hi := isNaN_eq ht (special_of_isInfinite h)
  rw [not_isNaN_of_isInfinite h] at hi
  simpa using hi.symm

/-- R79: the model compares two codes that are no NaNs by their places on the line. -/
theorem cmpV_val (ha : isNaN t a = false) (hb : isNaN t b = false) :
    cmpV (val t a) (val t b) = compare (signedMagnitude t a) (signedMagnitude t b) := by
  have hinf {r : BitVec t.bits} (h : isInfinite t r = true) : topCode t < magnitude t r := by
    simpa [special] using special_of_isInfinite h
  have hfin {r : BitVec t.bits} (h : isNaN t r = false) (hi : ¬isInfinite t r = true) : special t r = false := by
    simpa [isInfinite, h] using hi
  have lt {i j : Int} (h : i < j) : Ordering.lt = compare i j := (compare_lt_iff_lt.mpr h).symm
  have gt {i j : Int} (h : j < i) : Ordering.gt = compare i j := (compare_gt_iff_gt.mpr h).symm
  by_cases hia : isInfinite t a = true
  · have hta := hinf hia
    by_cases hib : isInfinite t b = true
    · have hab : magnitude t a = magnitude t b :=
        Option.some.inj ((infinite_magnitude ht hia).symm.trans (infinite_magnitude ht hib))
      rw [val_inf ht hia, val_inf ht hib, signedMagnitude, signedMagnitude, ← hab]
      cases a.msb <;> cases b.msb
      · exact (compare_eq_iff_eq.mpr rfl).symm
      · exact gt (by simp; omega)
      · exact lt (by simp; omega)
      · exact (compare_eq_iff_eq.mpr rfl).symm
    · have hb' := special_eq_false.mp (hfin hb hib)
      obtain ⟨m, e, hv, -, -⟩ := val_fin ht (hfin hb hib)
      rw [val_inf ht hia, hv, signedMagnitude, signedMagnitude]
      cases a.msb
      · exact gt (by simp; split <;> omega)
      · exact lt (by simp; split <;> omega)
  · by_cases hib : isInfinite t b = true
    · have htb := hinf hib
      have ha' := special_eq_false.mp (hfin ha hia)
      obtain ⟨m, e, hv, -, -⟩ := val_fin ht (hfin ha hia)
      rw [val_inf ht hib, hv, signedMagnitude, signedMagnitude]
      cases b.msb
      · exact lt (by simp; split <;> omega)
      · exact gt (by simp; split <;> omega)
    · obtain ⟨m1, e1, hva, hna, -⟩ := val_fin ht (hfin ha hia)
      obtain ⟨m2, e2, hvb, hnb, -⟩ := val_fin ht (hfin hb hib)
      rw [hva, hvb, compare_units, ← hna, ← hnb]
      exact compare_congr (number_lt_iff_signed ht a b) (number_lt_iff_signed ht b a)

/-- R79, R130: the model's condition on two codes, and its flag. -/
theorem fcond_val {code : Nat} (hc : code ≤ 6) (a b : BitVec t.bits) :
    fcond code (val t a) (val t b) = floatRelation t code a b := by
  have hna : (val t a).isNan = isNaN t a := (decode_isNan_sign ht a).1
  have hnb : (val t b).isNan = isNaN t b := (decode_isNan_sign ht b).1
  unfold floatRelation
  split
  case isTrue hnan =>
    have hor : ((val t a).isNan || (val t b).isNan) = true := by rw [hna, hnb, Bool.or_eq_true]; exact hnan
    have hsig : sigFlags [val t a, val t b] =
        if isSignalling t a = true ∨ isSignalling t b = true then Fl.nv else 0 := by
      simpa [signals] using sigFlags_eq ht [a, b]
    unfold fcond
    rw [if_pos hor, hsig]
    interval_cases code <;> simp
  case isFalse hnan =>
    rw [not_or, Bool.not_eq_true, Bool.not_eq_true] at hnan
    exact fcond_order hc (hna.trans hnan.1) (hnb.trans hnan.2) (cmpV_val ht hnan.1 hnan.2)

end Compare

/-! ### The vector compare -/

theorem srcElems_laneSrc (x : RegForm) (s : State) (m : SrcMod) (o : Opnd) :
    srcElems x.t m (s.readV o 1) = (List.range (lanes x.t)).map (laneSrc x s .v m o) := by
  rw [srcElems, elems, List.map_map]
  rfl

/-- What a compare finds of element i, and its flags. -/
def cmpAt (x : RegForm) (s : State) (i : Nat) : Bool × Flags :=
  condT x.t x.s3.num5.toNat (laneSrc x s .v x.m1 x.s1 i) (laneSrc x s .v x.m2 x.s2 i)

theorem cmpAt_int {x : RegForm} (ht : x.t.isInt = true) (hc : x.s3.num5.toNat ≤ 5) (s : State) (i : Nat) :
    cmpAt x s i = (relation x.s3.num5.toNat (reads x.t (intMod x.t x.m1 (lane x.t (rowAt s s.cur x.s1 0) i)))
      (reads x.t (intMod x.t x.m2 (lane x.t (rowAt s s.cur x.s2 0) i))), 0) := by
  rw [cmpAt, condT, Ty.isFloat_of_isInt ht, if_neg Bool.false_ne_true, icond_eq hc, intVal_eq, intVal_eq,
    laneSrc_int ht rfl, laneSrc_int ht rfl]

theorem cmpAt_float {x : RegForm} (hF : x.t.isF = true) (hc : x.s3.num5.toNat ≤ 6) (s : State) (i : Nat) :
    cmpAt x s i = floatRelation x.t x.s3.num5.toNat (floatMod x.t x.m1 (lane x.t (rowAt s s.cur x.s1 0) i))
      (floatMod x.t x.m2 (lane x.t (rowAt s s.cur x.s2 0) i)) := by
  rw [cmpAt, condT, Ty.isFloat_of_isF hF, if_pos rfl, valF_eq, valF_eq, fcond_val (Ty.isFloat_of_isF hF) hc,
    laneSrc_float hF rfl, laneSrc_float hF rfl]

/-- The flags that a compare joins. -/
def cmpFlags (x : RegForm) (s : State) : Flags :=
  activeFlags ((List.range (lanes x.t)).map (active s.cur x.g x.t.bits)) ((List.range (lanes x.t)).map fun i => (0, (cmpAt x s i).2))

/-- The predicate that a compare writes. -/
def cmpPred (x : RegForm) (s : State) : Word :=
  mergePred x.t.bits (s.cur.activity x.g x.t.bits (lanes x.t)) ((List.range (lanes x.t)).map fun i => (cmpAt x s i).1) 0
    (s.cur.preg (x.dst.num5.setWidth 3))

theorem exec_vcmp {x : RegForm} {s : State} (h : VecReady 0x113 x s) : exec (.vcmp x) s =
    .next (afterVec x (s.modCur fun h => (h.setP (x.dst.num5.setWidth 3) (cmpPred x s)).raise (cmpFlags x s))) := by
  have hexec : exec (.vcmp x) s = execVcmp x s := by simp only [exec]
  rw [hexec, execVcmp]
  refine (vec_ready _ h ⟨Nat.zero_le 4, show 1 ≤ 4 by decide, show 1 ≤ 4 by decide, Nat.zero_le 4⟩ (elemBytes_dvd x.t)
    (elemBytes_dvd x.t)).trans ?_
  unfold vecIn State.putPred
  dsimp only
  rw [srcElems_laneSrc, srcElems_laneSrc, List.zipWith_map, List.zipWith_self, List.map_map, List.map_map, activity_row]
  unfold cmpPred cmpFlags
  rw [activity_row]
  rfl

theorem Thread.setP_raise_q (h : Thread) (d : BitVec 3) (v : Word) (f : Flags) : ((h.setP d v).raise f).q = h.q := by
  unfold Thread.setP
  split <;> rfl

theorem Thread.setP_raise_fflags (h : Thread) (d : BitVec 3) (v : Word) (f : Flags) :
    ((h.setP d v).raise f).fflags = h.fflags ||| f := by
  unfold Thread.setP
  split <;> rfl

/-- But for the flags and the streams' steps, a compare writes its predicate. -/
theorem wroteP_vcmp {x : RegForm} {s : State} (hnd : x.incs.Nodup) (d : BitVec 3) (v : Word) (f : Flags) :
    let t := afterVec x (s.modCur fun h => (h.setP d v).raise f)
    WroteP s { samePointers s t with cur := { (samePointers s t).cur with fflags := s.cur.fflags } } d v ∧ Pointers x s t ∧
      t.cur.fflags = s.cur.fflags ||| f := by
  intro t
  have hq := Thread.setP_raise_q s.cur d v f
  have hflags : t.cur.fflags = ((s.cur.setP d v).raise f).fflags := by
    have hstep := (stepStreams_spec hnd ((s.cur.setP d v).raise f)).1
    change (((s.cur.setP d v).raise f).stepStreams x).fflags = _
    rw [hstep]
  refine ⟨?_, pointers_afterVec (g := fun h => (h.setP d v).raise f) hnd hq, hflags.trans (Thread.setP_raise_fflags _ _ _ _)⟩
  rw [samePointers_afterVec (g := fun h => (h.setP d v).raise f) hnd hq]
  have hp := wroteP_setP s d v
  have heq : ({ (s.modCur fun h => (h.setP d v).raise f).advance with
      cur := { (s.modCur fun h => (h.setP d v).raise f).advance.cur with fflags := s.cur.fflags } } : State) =
      (s.modCur fun h => h.setP d v).advance := by
    unfold Thread.setP
    simp only [State.modCur, State.advance, Thread.raise]
    split <;> rfl
  rw [heq]
  exact hp

/-- R111, R130: a compare completes: its predicate, its flags and its streams' steps. -/
theorem vcmp_spec {x : RegForm} {s : State} (h : VecReady 0x113 x s) : ∃ t, exec (.vcmp x) s = .next t ∧
    FlagsOf s t (active s.cur x.g x.t.bits) (laneCount x.t) (fun i => (cmpAt x s i).2) ∧
    WroteP s { samePointers s t with cur := { (samePointers s t).cur with fflags := s.cur.fflags } }
      (x.dst.num5.setWidth 3) (cmpPred x s) ∧ Pointers x s t := by
  obtain ⟨hwrote, hptr, hflags⟩ := wroteP_vcmp h.once (x.dst.num5.setWidth 3) (cmpPred x s) (cmpFlags x s)
  refine ⟨_, exec_vcmp h, ?_, hwrote, hptr⟩
  rw [FlagsOf, hflags]
  exact activeFlags_map _ _ _ _

/-- Without flags the sticky flags need no putting back. -/
theorem WroteP.of_same_flags {s t : State} {d : BitVec 3} {v : Word} (hf : t.cur.fflags = s.cur.fflags)
    (h : WroteP s { samePointers s t with cur := { (samePointers s t).cur with fflags := s.cur.fflags } } d v) :
    WroteP s (samePointers s t) d v := by
  rw [← hf] at h
  exact h

theorem cmpPred_row {x : RegForm} (ht : x.t.isM = true) (s : State) {j : Nat} (hj : j < 64) : (cmpPred x s).getLsbD j =
    predOf s.cur x.g x.t.bits (s.cur.preg (x.dst.num5.setWidth 3)) (fun i => (cmpAt x s i).1) j :=
  getLsbD_mergePred_row ht _ _ _ _ hj

/-- Settles O28: the bits of each element are written where it is active, and the bitwise forms go bit by bit. -/
theorem predicates : Obligations.Predicates := by
  unfold Obligations.Predicates
  intro x s d a b w old act hit hits bitwise perElement
  have hhits : hits = (List.range (lanes x.t)).filter (hitAt x s) := rfl
  refine ⟨predBits_spec (f := (· &&& ·)) (by simp only [exec]; rfl) fun a b j _ => BitVec.getLsbD_and,
    predBits_spec (f := (· ||| ·)) (by simp only [exec]; rfl) fun a b j _ => BitVec.getLsbD_or,
    predBits_spec (f := (· ^^^ ·)) (by simp only [exec]; rfl) fun a b j _ => BitVec.getLsbD_xor,
    predBits_spec (f := fun a _ => ~~~a) (g := fun p _ => !p) (by simp only [exec]; rfl) fun a b j hj => by simp [hj],
    fun ht => ⟨perElement_spec ht (by simp only [exec]; rfl), perElement_spec ht ?first, ?count, fun hdst => ?test⟩,
    fun h ht hc => ?int, fun h hF hc => ?float, fun h => ?any⟩
  case first =>
    rw [hhits, ← firstBoth_row]
    simp only [exec]
    rfl
  case count =>
    have hrun : exec (.pcount x) s = .next (s.putS x.dst.num5 (BitVec.ofNat 64 hits.length)) := by
      rw [hhits, ← count_map_true, ← hits_row]
      simp only [exec]
      rfl
    exact ⟨_, hrun, wroteS_putS _ _ _⟩
  case test =>
    have hrun : exec (.ptest x) s = .next (s.putC x.dst.num5.toNat
        (if x.s3.num5 = 0 then !hits.isEmpty else hits == (List.range (laneCount x.t)).filter act) 0) := by
      have hzero : (x.s3.num5 = 0) = ((x.s3.num5.toNat == 0) = true) := by
        rw [beq_iff_eq, eq_iff_iff, ← BitVec.toNat_inj]; rfl
      have hall : (hits == (List.range (laneCount x.t)).filter act) =
          ((List.range (lanes x.t)).map (hitAt x s) == s.cur.activity x.g x.t.bits (lanes x.t)) := by
        rw [activity_row]
        exact (map_and_beq _ _ _).symm
      rw [hall, hhits, ← any_map_id, ← hits_row]
      simp only [hzero, exec]
      rfl
    exact ⟨_, hrun, wroteC_putC s hdst _ _⟩
  case int =>
    obtain ⟨t, hrun, hflags, hwrote, hptr⟩ := vcmp_spec h
    have hquiet : t.cur.fflags = s.cur.fflags := hflags.fflags_eq fun i => by rw [cmpAt_int ht hc]
    refine ⟨t, hrun, ⟨_, hwrote.of_same_flags hquiet, fun j hj => ?_⟩, hptr⟩
    rw [cmpPred_row (isM_of_isInt ht) s hj]
    simp only [cmpAt_int ht hc]
    rfl
  case float =>
    obtain ⟨t, hrun, hflags, hwrote, -⟩ := vcmp_spec h
    simp only [cmpAt_float hF hc] at hflags
    refine ⟨t, hrun, hflags, _, hwrote, fun j hj => ?_⟩
    rw [cmpPred_row (isM_of_isF hF) s hj]
    simp only [cmpAt_float hF hc]
    rfl
  case any =>
    obtain ⟨t, hrun, -, hwrote, hptr⟩ := vcmp_spec h
    exact ⟨t, hrun, _, hwrote, hptr⟩

end Sys2Proof.Machine

/-! Proofs: groups of registers as rows of elements, read and written (R44, R52, R124, R194). -/

namespace Sys2Proof.Machine

/-! ### The registers of a group -/

theorem leVal_append (xs ys : List Byte) : leVal (xs ++ ys) = leVal xs + 2 ^ (8 * xs.length) * leVal ys := by
  induction xs with
  | nil => simp [leVal]
  | cons b xs ih =>
    rw [List.cons_append, leVal, leVal, ih, List.length_cons, Nat.mul_succ, Nat.pow_add]
    ring

/-- The bytes of an on-chip memory, the first m and the rest. -/
theorem State.chip_add (s : State) (a m n : Nat) : s.chip .tcm a (m + n) = s.chip .tcm a m ++ s.chip .tcm (a + m) n := by
  unfold State.chip Context.chip
  cases s.ctx? s.curCtx with
  | none => exact List.replicate_add m n 0
  | some c =>
    dsimp only
    rw [readBytes_eq, readBytes_eq, readBytes_eq, List.range_add, List.map_append, List.map_map]
    simp only [Function.comp_def, Nat.add_assoc]

theorem State.chip_length (s : State) (a n : Nat) : (s.chip .tcm a n).length = n := by
  unfold State.chip Context.chip
  cases s.ctx? s.curCtx with
  | none => exact List.length_replicate
  | some c =>
    dsimp only
    rw [readBytes_eq, List.length_map, List.length_range]

theorem State.chip_row_lt (s : State) (a : Nat) : leVal (s.chip .tcm a 64) < 2 ^ 512 :=
  (leVal_lt (s.chip .tcm a 64)).trans_eq (congrArg (2 ^ ·) (by rw [State.chip_length]))

theorem packElems_cons {w e : Nat} (he : e < 2 ^ w) (es : List Nat) : packElems w (e :: es) = e + 2 ^ w * packElems w es := by
  change packElems w es * 2 ^ w + e % 2 ^ w = _
  rw [Nat.mod_eq_of_lt he]
  ring

/-- R44: a group of registers is its registers in order. -/
theorem vgroup_eq_pack (h : Thread) (n : BitVec 5) (g : Nat) :
    h.vgroup n g = packElems 512 ((List.range g).map fun k => (h.vreg (n + BitVec.ofNat 5 k)).toNat) := by
  induction g generalizing n with
  | zero => rfl
  | succ g ih =>
    have hnext (k : Nat) : n + BitVec.ofNat 5 (k + 1) = n + 1 + BitVec.ofNat 5 k := by
      rw [BitVec.add_assoc, Nat.add_comm, BitVec.ofNat_add]
      rfl
    rw [Thread.vgroup, ih, List.range_succ_eq_map, List.map_cons, List.map_map, packElems_cons (BitVec.isLt _), BitVec.add_zero]
    simp only [Function.comp_def, Nat.succ_eq_add_one, hnext]

/-- R52: a stream's bytes are its registers in order. -/
theorem streamVal_eq_pack (s : State) (a g : Nat) : leVal (s.chip .tcm a (64 * g)) =
    packElems 512 ((List.range g).map fun k => (BitVec.ofNat 512 (leVal (s.chip .tcm (a + 64 * k) 64))).toNat) := by
  have hfit (a : Nat) : (BitVec.ofNat 512 (leVal (s.chip .tcm a 64))).toNat = leVal (s.chip .tcm a 64) :=
    (toNat_ofNat_lowBits 512 _).trans (Nat.mod_eq_of_lt (s.chip_row_lt a))
  simp only [hfit]
  induction g generalizing a with
  | zero => exact congrArg leVal (List.eq_nil_of_length_eq_zero (s.chip_length a 0))
  | succ g ih =>
    have hnext (k : Nat) : a + 64 * (k + 1) = a + 64 + 64 * k := by ring
    rw [show 64 * (g + 1) = 64 + 64 * g by ring, State.chip_add, leVal_append, State.chip_length, ih, List.range_succ_eq_map,
      List.map_cons, List.map_map, show a + 64 * 0 = a from rfl, packElems_cons (s.chip_row_lt a)]
    simp only [Function.comp_def, Nat.succ_eq_add_one, hnext]

/-- R44, R52: a vector operand is its registers in order. -/
theorem readV_eq_pack (s : State) (o : Opnd) (g : Nat) :
    s.readV o g = packElems 512 ((List.range g).map fun k => (rowAt s s.cur o k).toNat) := by
  cases o with
  | reg n => exact vgroup_eq_pack _ _ _
  | inc q => exact streamVal_eq_pack _ _ _
  | str q => exact streamVal_eq_pack _ _ _

/-! ### Elements counted through a group -/

/-- Element i of register k is one of the group's elements. -/
theorem elem_elem {w n : Nat} (hn : n * w = 512) (v k : Nat) {i : Nat} (hi : i < n) :
    elem w i (elem 512 k v) = elem w (k * n + i) v := by
  have hlast : i * w + w ≤ 512 := by
    calc i * w + w = (i + 1) * w := by ring
      _ ≤ n * w := Nat.mul_le_mul_right _ hi
      _ = 512 := hn
  apply Nat.eq_of_testBit_eq
  intro b
  simp only [testBit_elem]
  by_cases hb : b < w
  · rw [decide_eq_true (show i * w + b < 512 by omega), Bool.true_and]
    congr 2
    rw [Nat.add_mul, Nat.mul_assoc, hn]
    omega
  · simp [hb]

/-- Element i of register k of an operand that is read as a group. -/
theorem lane_rowAt {t : Ty} (ht : t.isM = true) (s : State) (o : Opnd) {g k i : Nat} (hk : k < g) (hi : i < laneCount t) :
    lane t (rowAt s s.cur o k) i = BitVec.ofNat t.bits (elem t.bits (k * lanes t + i) (s.readV o g)) := by
  obtain ⟨-, -, -, hlanes⟩ := bits_of_isM ht
  rw [lane_eq, readV_eq_pack, ← elem_elem hlanes _ _ hi, elem_packElems _ _ _ (by simpa using hk)]
  simp only [List.getElem_map, List.getElem_range]
  rw [Nat.mod_eq_of_lt (BitVec.isLt _)]

/-! ### Registers written as a group -/

theorem setVgroup_frame (h : Thread) (n : BitVec 5) (v g : Nat) : h.setVgroup n v g = { h with v := (h.setVgroup n v g).v } := by
  induction g generalizing h n v with
  | zero => rfl
  | succ g ih => exact ih (h.setV n (BitVec.ofNat 512 v)) (n + 1) (v / 2 ^ 512)

theorem vreg_setVgroup_ne (h : Thread) (n m : BitVec 5) (v g : Nat) (hm : ∀ i, i < g → m ≠ n + BitVec.ofNat 5 i) :
    (h.setVgroup n v g).vreg m = h.vreg m := by
  induction g generalizing h n v with
  | zero => rfl
  | succ g ih =>
    have hrest := ih (h.setV n (BitVec.ofNat 512 v)) (n + 1) (v / 2 ^ 512) fun i hi => by
      have hne := hm (i + 1) (by omega)
      rwa [Nat.add_comm, BitVec.ofNat_add, ← BitVec.add_assoc] at hne
    refine hrest.trans (Thread.vreg_setV_ne _ _ _ _ ?_)
    have hne := hm 0 (by omega)
    rwa [BitVec.add_zero] at hne

theorem vreg_setVgroup_at (h : Thread) (n : BitVec 5) (v : Nat) {g k : Nat} (hk : k < g) (hg : g ≤ 32) :
    (h.setVgroup n v g).vreg (n + BitVec.ofNat 5 k) = BitVec.ofNat 512 (v / 2 ^ (512 * k)) := by
  induction g generalizing h n v k with
  | zero => omega
  | succ g ih =>
    rw [Thread.setVgroup]
    cases k with
    | zero =>
      have hfar (i : Nat) (hi : i < g) : n ≠ n + 1 + BitVec.ofNat 5 i := by
        have hn := n.isLt
        intro heq
        have hnat := congrArg BitVec.toNat heq
        simp only [BitVec.toNat_add, BitVec.toNat_ofNat, show BitVec.toNat (1 : BitVec 5) = 1 from rfl] at hnat
        omega
      rw [BitVec.add_zero, vreg_setVgroup_ne _ _ _ _ _ hfar, Thread.vreg_setV_same, Nat.mul_zero, Nat.pow_zero, Nat.div_one]
    | succ k =>
      rw [Nat.add_comm k, BitVec.ofNat_add, ← BitVec.add_assoc]
      refine (ih (h.setV n (BitVec.ofNat 512 v)) (n + 1) (v / 2 ^ 512) (by omega) (by omega)).trans ?_
      rw [Nat.div_div_eq_div_mul, ← Nat.pow_add, Nat.mul_add, Nat.mul_one]

/-! ### Bytes written to a stream -/

/-- R49, R124, R194: a row's touched bytes in TCM, as one change of the issuing thread's context: those bytes, and the error
marks of the lines written whole. -/
theorem writeRow_spec (s : State) (a n row : Nat) (ts : List Bool) (hlen : ts.length = n) :
    let lo := coreKey s.cur.cluster s.cur.core + a
    let writes (k : Nat) : Bool := decide (lo ≤ k ∧ k < lo + n) && ts.getD (k - lo) false
    ∃ f : Context → Cells, s.writeRow a n row ts = s.modCtx s.curCtx (fun c => { c with
        tcm := f c, tcmBad := c.tcmBad.filter fun l => !(List.range 64).all fun i => writes (64 * l + i) }) ∧
      ∀ c k, readByte (f c) k = if writes k = true then BitVec.ofNat 8 (row / 2 ^ (8 * (k - lo))) else readByte c.tcm k := by
  intro lo writes
  have hruns := (runsOf_touchedRuns 0 (leBytes n row) ts (by rw [leBytes_length, hlen])).1
  generalize hR : touchedRuns 0 (leBytes n row) ts = R at hruns
  have hcov (j : Nat) : Covered R j ↔ j < n ∧ ts.getD j false = true := by
    rw [hruns.covered, Nat.sub_zero, List.getD_eq_getElem?_getD]
    by_cases hj : j < n
    · rw [List.getElem?_eq_getElem (by omega)]
      simp [hj]
    · rw [List.getElem?_eq_none (by omega)]
      simp [hj]
  have hwrites (k : Nat) : writes k = true ↔ ∃ j, k = lo + j ∧ Covered R j := by
    simp only [writes, Bool.and_eq_true, decide_eq_true_eq, hcov]
    constructor
    · rintro ⟨hk, ht⟩
      exact ⟨k - lo, by omega, by omega, ht⟩
    · rintro ⟨j, rfl, hj, ht⟩
      rw [Nat.add_sub_cancel_left]
      exact ⟨by omega, ht⟩
  have hbytes (r : Nat × List Byte) (hr : r ∈ R) (k : Nat) (h1 : r.1 ≤ k) (h2 : k < r.1 + r.2.length) :
      r.2[k - r.1]? = some (BitVec.ofNat 8 (row / 2 ^ (8 * k))) := by
    obtain ⟨hkn, -⟩ := (hcov k).mp ⟨r, hr, h1, h2⟩
    rw [(hruns.bytes r hr k h1 h2).2, Nat.sub_zero, leBytes_getElem? _ _ _ hkn]
  refine ⟨fun c => R.foldl (fun m r => writeBytes m (lo + r.1) r.2) c.tcm, ?_, fun c k => ?_⟩
  · rw [State.writeRow_eq, hR]
    congr 1
    funext c
    rw [foldl_setChip]
    congr 1
    refine List.filter_congr fun l _ => ?_
    rw [Bool.eq_iff_iff, wholeLine_iff hruns, Bool.not_eq_true', Bool.eq_false_iff, ne_eq, List.all_eq_true]
    refine not_congr (forall_congr' fun i => ?_)
    rw [List.mem_range, hwrites]
  · rcases readByte_writeRuns c.tcm lo (fun j => BitVec.ofNat 8 (row / 2 ^ (8 * j))) R hbytes k with ⟨j, rfl, hc, hb⟩ | ⟨hno, hb⟩
    · rw [if_pos ((hwrites _).mpr ⟨j, rfl, hc⟩), Nat.add_sub_cancel_left]
      exact hb
    · rw [if_neg (mt (hwrites k).mp hno)]
      exact hb

end Sys2Proof.Machine

/-! Proofs: a vector instruction's write of a group of registers, register by register and element by element (R49, R53, R124,
R140, R194). -/

namespace Sys2Proof.Machine

/-! ### A group written -/

/-- A group that went to the destination: the frame of the instruction, no flags, and the registers. -/
structure GroupWritten (op : Nat) (x : RegForm) (g row : Nat) (s t : State) : Prop where
  frame : VecFrame op x g s t
  flags : t.cur.fflags = s.cur.fflags
  rcount : t.cur.rcount = s.cur.rcount
  rows : ∀ k, k < g → rowAt t s.cur x.dst k = BitVec.ofNat 512 (row / 2 ^ (512 * k))

theorem flags_self (y : Flags) : y &&& y = y := BitVec.and_self

/-- R53, R124: a group written to registers. -/
theorem groupWritten_reg {op : Nat} {x : RegForm} {s : State} {d : BitVec 5} {g : Nat} (w row : Nat) (act : List Bool)
    (h : VecReady op x s) (hd : x.dst = .reg d) (hg : g ≤ 4) : GroupWritten op x g row s (afterVec x (s.writeV x.dst g w act row)) := by
  have hcur : (afterVec x (s.writeV x.dst g w act row)).cur =
      { (s.cur.setVgroup d row g).stepStreams x with pc := ((s.cur.setVgroup d row g).stepStreams x).pc + 1 } := by
    rw [hd]; rfl
  have hst : afterVec x (s.writeV x.dst g w act row) = { s with cur := (afterVec x (s.writeV x.dst g w act row)).cur } := by
    rw [hd]; rfl
  generalize afterVec x (s.writeV x.dst g w act row) = t at hcur hst ⊢
  obtain ⟨hstep, hq⟩ := stepStreams_spec h.once (s.cur.setVgroup d row g)
  have hset := setVgroup_frame s.cur d row g
  have hv (n : BitVec 5) : t.cur.vreg n = (s.cur.setVgroup d row g).vreg n := by rw [hcur, hstep]; rfl
  have hfar (m : BitVec 5) := vreg_setVgroup_ne s.cur d m row g
  have hat (k : Nat) (hk : k < g) := vreg_setVgroup_at s.cur d row hk (by omega)
  generalize s.cur.setVgroup d row g = H at *
  generalize H.stepStreams x = T at *
  refine ⟨⟨by rw [hcur, hstep, hset], by rw [hcur, hstep, hset]; exact flags_self _, fun n => ?_, fun n hn => ?_, fun _ => hst, ?_⟩,
    by rw [hcur, hstep, hset], by rw [hcur, hstep, hset], fun k hk => ?_⟩
  · rw [hcur]
    refine (hq n).trans ?_
    rw [hset]
    rfl
  · exact (hv n).trans (hfar n fun i hi => hn d i hd hi)
  · intro hs; rw [hd] at hs; cases hs
  · rw [hd]
    exact (hv _).trans (hat k hk)

/-- Byte k of register r of an operand in TCM. -/
theorem readBytes_register {m : Cells} {lo n row : Nat} (h : ∀ i, i < n → readByte m (lo + i) = BitVec.ofNat 8 (row / 2 ^ (8 * i)))
    {k : Nat} (hk : 64 * k + 64 ≤ n) : readBytes m (lo + 64 * k) 64 = leBytes 64 (row / 2 ^ (512 * k)) :=
  readBytes_of_row fun i hi => by
    rw [Nat.add_assoc, h _ (by omega), Nat.div_div_eq_div_mul, ← Nat.pow_add, Nat.mul_add, ← Nat.mul_assoc]

/-- A stream's registers, in its context's TCM. -/
theorem rowAt_tcm {s : State} {c : Context} (hc : s.ctx? s.curCtx = some c) (h : Thread) {o : Opnd} (ho : Opnd.isStream o = true)
    (k : Nat) : rowAt s h o k = BitVec.ofNat 512
      (leVal (readBytes c.tcm (coreKey s.cur.cluster s.cur.core + h.qaddr (Opnd.q o) + 64 * k) 64)) := by
  have hrow : rowAt s h o k = BitVec.ofNat 512 (leVal (s.chip .tcm (h.qaddr (Opnd.q o) + 64 * k) 64)) := by
    cases o with
    | reg n => cases ho
    | inc q => rfl
    | str q => rfl
  rw [hrow, chip_stream hc, Nat.add_assoc]

theorem readV_tcm {s : State} {c : Context} (hc : s.ctx? s.curCtx = some c) {o : Opnd} (ho : Opnd.isStream o = true) (g : Nat) :
    s.readV o g = leVal (readBytes c.tcm (coreKey s.cur.cluster s.cur.core + s.cur.qaddr (Opnd.q o)) (64 * g)) := by
  have hrow : s.readV o g = leVal (s.chip .tcm (s.cur.qaddr (Opnd.q o)) (64 * g)) := by
    cases o with
    | reg n => cases ho
    | inc q => rfl
    | str q => rfl
  rw [hrow]
  unfold State.chip
  rw [hc]
  rfl

/-- R49, R53, R124, R194: a group written to a stream, whose row has the old bytes where it does not write. -/
theorem groupWritten_stream {op : Nat} {x : RegForm} {s : State} {g w row : Nat} {act : List Bool} (h : VecReady op x s)
    (hd : Opnd.isStream x.dst = true)
    (hact : ∀ b, b < 64 * g → (touchedBytes w (64 * g) act).getD b false = writesByte op x s b)
    (hold : ∀ b, b < 64 * g → writesByte op x s b = false →
      BitVec.ofNat 8 (row / 2 ^ (8 * b)) = BitVec.ofNat 8 (s.readV x.dst g / 2 ^ (8 * b))) :
    GroupWritten op x g row s (afterVec x (s.writeV x.dst g w act row)) := by
  obtain ⟨c, hc⟩ := h.home
  have hlen : (touchedBytes w (64 * g) act).length = 64 * g := by simp [touchedBytes]
  have hwrite : s.writeV x.dst g w act row = s.writeRow (s.cur.qaddr (Opnd.q x.dst)) (64 * g) row (touchedBytes w (64 * g) act) := by
    cases hdst : x.dst with
    | reg n => rw [hdst] at hd; cases hd
    | inc q => rfl
    | str q => rfl
  obtain ⟨f, hst, hf⟩ := writeRow_spec s (s.cur.qaddr (Opnd.q x.dst)) (64 * g) row _ hlen
  rw [← hwrite] at hst
  rw [readV_tcm hc hd] at hold
  generalize hlo : coreKey s.cur.cluster s.cur.core + s.cur.qaddr (Opnd.q x.dst) = lo at *
  -- the bytes touched are those the frame says are written
  have hsame (k : Nat) : (decide (lo ≤ k ∧ k < lo + 64 * g) && (touchedBytes w (64 * g) act).getD (k - lo) false) =
      (decide (lo ≤ k ∧ k < lo + 64 * g) && writesByte op x s (k - lo)) := by
    by_cases hk : lo ≤ k ∧ k < lo + 64 * g
    · rw [hact _ (by omega)]
    · rw [decide_eq_false hk, Bool.false_and, Bool.false_and]
  simp only [hsame] at hst hf
  have hnew (b : Nat) (hb : b < 64 * g) : readByte (f c) (lo + b) = BitVec.ofNat 8 (row / 2 ^ (8 * b)) := by
    rw [hf, Nat.add_sub_cancel_left]
    split
    case isTrue => rfl
    case isFalse hno =>
      have hoff : writesByte op x s b = false := by simpa [hb] using hno
      rw [hold b hb hoff, row_bytes _ _ _ _ hb]
  have hcur : (afterVec x (s.writeV x.dst g w act row)).cur =
      { s.cur.stepStreams x with pc := (s.cur.stepStreams x).pc + 1 } := by
    rw [hst]; rfl
  have hframe : afterVec x (s.writeV x.dst g w act row) =
      { s.writeV x.dst g w act row with cur := (afterVec x (s.writeV x.dst g w act row)).cur } := rfl
  rw [hst] at hframe hcur ⊢
  generalize afterVec x _ = t at hcur hframe ⊢
  obtain ⟨hstep, hq⟩ := stepStreams_spec h.once s.cur
  generalize s.cur.stepStreams x = T at *
  refine ⟨⟨by rw [hcur, hstep], by rw [hcur, hstep]; exact flags_self _, fun n => ?_, fun n _ => ?_, fun hs => ?_,
    fun _ => ⟨f, ?_, ?_⟩⟩, by rw [hcur, hstep], by rw [hcur, hstep], fun k hk => ?_⟩
  · rw [hcur]; exact hq n
  · rw [hcur, hstep]; rfl
  · rw [hd] at hs; cases hs
  · rw [hlo]
    exact hframe
  · intro c k hk
    rw [hlo] at hk
    exact (hf c k).trans (if_neg (ne_true_of_eq_false hk))
  · have hid : t.curCtx = s.curCtx := by unfold State.curCtx; rw [hcur, hstep]
    have hctx : ∃ c', t.ctx? t.curCtx = some c' ∧ c'.tcm = f c := by
      rw [hid, hframe]
      refine ⟨_, (s.ctx?_modCtx s.curCtx _ ?_).trans (congrArg (Option.map _) hc), rfl⟩
      exact fun _ => rfl
    obtain ⟨c', hc', htcm⟩ := hctx
    have hplace : t.cur.cluster = s.cur.cluster ∧ t.cur.core = s.cur.core := by rw [hcur, hstep]; exact ⟨rfl, rfl⟩
    rw [rowAt_tcm hc' s.cur hd, hplace.1, hplace.2, hlo, htcm, readBytes_register hnew (by omega), leVal_leBytes]
    exact ofNat_lowBits 512 _

/-! ### Elements merged into a group -/

/-- The group that has new elements R where W holds, and the old ones elsewhere. -/
def mergedGroup (x : RegForm) (s : State) (g : Nat) (W : Nat → Bool) (R : Nat → Nat) : Nat :=
  packElems x.t.bits ((List.range (g * lanes x.t)).map fun i =>
    if W i = true then R i else elem x.t.bits i (s.readV x.dst g))

theorem elem_mergedGroup (x : RegForm) (s : State) {g i : Nat} (W : Nat → Bool) (R : Nat → Nat) (hi : i < g * lanes x.t) :
    elem x.t.bits i (mergedGroup x s g W R) =
      if W i = true then R i % 2 ^ x.t.bits else elem x.t.bits i (s.readV x.dst g) := by
  rw [mergedGroup, elem_packElems _ _ _ (by simpa using hi)]
  simp only [List.getElem_map, List.getElem_range]
  split
  · rfl
  · exact Nat.mod_eq_of_lt (elem_lt _ _ _)

/-- R124: what a write of merged elements leaves: the frame of the instruction, no flags, and each element. -/
structure ElemsWritten (op : Nat) (x : RegForm) (g : Nat) (W : Nat → Bool) (R : Nat → Nat) (s t : State) : Prop where
  frame : VecFrame op x g s t
  flags : t.cur.fflags = s.cur.fflags
  rcount : t.cur.rcount = s.cur.rcount
  lanes : ∀ k i, k < g → i < laneCount x.t → lane x.t (rowAt t s.cur x.dst k) i =
    if W (k * lanes x.t + i) = true then BitVec.ofNat x.t.bits (R (k * lanes x.t + i)) else lane x.t (rowAt s s.cur x.dst k) i

/-- R49, R124, R140: merged elements written to a destination of g registers, where W tells the bytes that the instruction
writes. -/
theorem elemsWritten {op : Nat} {x : RegForm} {s : State} {g : Nat} {act : List Bool} {W : Nat → Bool} (R : Nat → Nat)
    (h : VecReady op x s) (ht : x.t.isM = true) (hg : g ≤ 4) (hact : ∀ i, i < g * lanes x.t → act.getD i false = W i)
    (hW : ∀ b, b < 64 * g → writesByte op x s b = W (8 * b / x.t.bits)) :
    ElemsWritten op x g W R s (afterVec x (s.writeV x.dst g x.t.bits act (mergedGroup x s g W R))) := by
  obtain ⟨h8, hw, -, hlanes⟩ := bits_of_isM ht
  have hin {b : Nat} (hb : b < 64 * g) : 8 * b / x.t.bits < g * lanes x.t := by
    rw [Nat.div_lt_iff_lt_mul (by omega), Nat.mul_assoc, hlanes]
    omega
  have hgroup : GroupWritten op x g (mergedGroup x s g W R) s
      (afterVec x (s.writeV x.dst g x.t.bits act (mergedGroup x s g W R))) := by
    cases hd : Opnd.isStream x.dst with
    | false =>
      cases hdst : x.dst with
      | reg d => exact hdst ▸ groupWritten_reg _ _ _ h hdst hg
      | inc q => rw [hdst] at hd; cases hd
      | str q => rw [hdst] at hd; cases hd
    | true =>
      refine groupWritten_stream h hd (fun b hb => ?_) fun b hb hoff => ?_
      · rw [hW b hb, ← hact _ (hin hb), touchedBytes, List.getD_eq_getElem?_getD, List.getElem?_map, List.getElem?_range hb]
        simp [show ¬x.t.bits < 8 by omega]
      · rw [hW b hb] at hoff
        refine byte_of_elem h8 (by omega) ?_ rfl
        rw [elem_mergedGroup x s W R (hin hb), if_neg (ne_true_of_eq_false hoff)]
  refine ⟨hgroup.frame, hgroup.flags, hgroup.rcount, fun k i hk hi => ?_⟩
  have hki : k * lanes x.t + i < g * lanes x.t := by
    calc k * lanes x.t + i < (k + 1) * lanes x.t := by rw [Nat.add_mul, Nat.one_mul]; exact Nat.add_lt_add_left hi _
      _ ≤ g * lanes x.t := Nat.mul_le_mul_right _ hk
  rw [hgroup.rows k hk, lane_rowAt ht s x.dst hk hi, lane_eq, toNat_ofNat_lowBits]
  have hreg (v : Nat) : lowBits 512 (v / 2 ^ (512 * k)) = elem 512 k v := by rw [lowBits, elem, Nat.mul_comm]
  rw [hreg, elem_elem hlanes _ _ hi, elem_mergedGroup x s W R hki]
  split
  · exact ofNat_lowBits _ _
  · rfl

end Sys2Proof.Machine

/-! Proofs: the moves among elements as functions of the element's place (R131, R139 to R141). -/

namespace Sys2Proof.Machine

/-! ### Rows as lists of elements -/

theorem pick2_row (a b : Nat → Nat) (n j : Nat) : pick2 ((List.range n).map a) ((List.range n).map b) j =
    if j < n then a j else if j < 2 * n then b (j - n) else 0 := by
  have hget (f : Nat → Nat) (k : Nat) (hk : k < n) : ((List.range n).map f).getD k 0 = f k := by
    rw [List.getD_eq_getElem?_getD, List.getElem?_map, List.getElem?_range hk]
    rfl
  unfold pick2
  dsimp only
  rw [List.length_map, List.length_range]
  split
  case isTrue h => exact hget a j h
  case isFalse h =>
    split
    case isTrue h2 => exact hget b _ (by omega)
    case isFalse => rfl

theorem zipElems_range (a b : Nat → Nat) (n i : Nat) : zipElems ((List.range' i n).map a) ((List.range' i n).map b) =
    (List.range' (2 * i) (2 * n)).map fun j => if j % 2 = 0 then a (j / 2) else b (j / 2) := by
  induction n generalizing i with
  | zero => rfl
  | succ n ih =>
    rw [List.range'_succ, List.map_cons, List.map_cons, zipElems, ih, show 2 * (n + 1) = 2 * n + 1 + 1 by omega, List.range'_succ, List.range'_succ,
      List.map_cons, List.map_cons, if_pos (by omega), if_neg (by omega), show 2 * i / 2 = i by omega,
      show (2 * i + 1) / 2 = i by omega, show 2 * (i + 1) = 2 * i + 1 + 1 by omega]

theorem evens_range (a : Nat → Nat) (n i : Nat) :
    evens ((List.range' (2 * i) (2 * n)).map a) = (List.range' i n).map fun j => a (2 * j) := by
  induction n generalizing i with
  | zero => rfl
  | succ n ih =>
    rw [Nat.mul_succ, List.range'_succ, List.range'_succ, List.map_cons, List.map_cons, evens,
      show 2 * i + 1 + 1 = 2 * (i + 1) by omega, ih, List.range'_succ, List.map_cons]

theorem odds_range (a : Nat → Nat) (n i : Nat) :
    odds ((List.range' (2 * i) (2 * n)).map a) = (List.range' i n).map fun j => a (2 * j + 1) := by
  induction n generalizing i with
  | zero => rfl
  | succ n ih =>
    rw [Nat.mul_succ, List.range'_succ, List.range'_succ, List.map_cons, List.map_cons, odds,
      show 2 * i + 1 + 1 = 2 * (i + 1) by omega, ih, List.range'_succ, List.map_cons]

/-- The even places, then the odd ones. -/
theorem unzip_range (a : Nat → Nat) (n : Nat) : evens ((List.range (2 * n)).map a) ++ odds ((List.range (2 * n)).map a) =
    (List.range (2 * n)).map fun i => a (if i < n then 2 * i else 2 * (i - n) + 1) := by
  have heven := evens_range a n 0
  have hodd := odds_range a n 0
  rw [Nat.mul_zero, ← List.range_eq_range', ← List.range_eq_range'] at heven hodd
  rw [heven, hodd, Nat.two_mul n, List.range_add, List.map_append, List.map_map]
  congr 1
  · exact List.map_congr_left fun i hi => by rw [if_pos (List.mem_range.mp hi)]
  · exact List.map_congr_left fun i _ => by simp

/-! ### Places counted among the active ones (R141) -/

/-- How many places from i on and below j have A. -/
def countFrom (A : Nat → Bool) (i j : Nat) : Nat := ((List.range' i (j - i)).filter A).length

theorem countFrom_self (A : Nat → Bool) (i : Nat) : countFrom A i i = 0 := by rw [countFrom, Nat.sub_self]; rfl

theorem countFrom_step (A : Nat → Bool) {i j : Nat} (h : i < j) : countFrom A i j = (A i).toNat + countFrom A (i + 1) j := by
  obtain ⟨n, rfl⟩ := Nat.exists_eq_add_of_lt h
  rw [countFrom, countFrom, show i + n + 1 - i = n + 1 by omega, show i + n + 1 - (i + 1) = n by omega, List.range'_succ]
  cases hA : A i
  · simp [hA]
  · simp [hA, Nat.add_comm]

theorem rank_eq (h : Thread) (g : Guard) (t : Ty) (i : Nat) : rank h g t i = countFrom (active h g t.bits) 0 i := by
  rw [rank, countFrom, List.range_eq_range']
  rfl

/-- R141: consecutive elements at the active places. -/
theorem expand_range (A : Nat → Bool) (N O : Nat → Nat) (n i k m : Nat) (hm : n ≤ m) :
    expand ((List.range' i n).map A) ((List.range' k m).map N) ((List.range' i n).map O) =
      (List.range' i n).map fun j => if A j = true then N (k + countFrom A i j) else O j := by
  induction n generalizing i k m with
  | zero => cases m <;> rfl
  | succ n ih =>
    obtain ⟨m, rfl⟩ := Nat.exists_eq_succ_of_ne_zero (show m ≠ 0 by omega)
    have hrest (k : Nat) : (List.range' (i + 1) n).map (fun j => if A j = true then N (k + (A i).toNat + countFrom A (i + 1) j) else O j) =
        (List.range' (i + 1) n).map fun j => if A j = true then N (k + countFrom A i j) else O j :=
      List.map_congr_left fun j hj => by rw [countFrom_step A (List.mem_range'_1.mp hj).1, Nat.add_assoc]
    rw [List.range'_succ (s := i), List.map_cons, List.map_cons, List.map_cons, ← hrest]
    cases hA : A i
    · rw [expand, ih (i + 1) k (m + 1) (by omega)]
      simp
    · rw [List.range'_succ, List.map_cons, expand, ih (i + 1) (k + 1) m (by omega), if_pos rfl, countFrom_self]
      rfl

/-- R141: the running count of active places. -/
theorem iota_range (w : Nat) (A : Nat → Bool) (n i k : Nat) :
    iota w ((List.range' i n).map A) k = (List.range' i n).map fun j => (k + countFrom A i j) % 2 ^ w := by
  induction n generalizing i k with
  | zero => rfl
  | succ n ih =>
    have hstep : (if A i = true then k + 1 else k) = k + (A i).toNat := by cases A i <;> rfl
    rw [List.range'_succ, List.map_cons, List.map_cons, iota, hstep, ih, countFrom_self, Nat.add_zero]
    congr 1
    exact List.map_congr_left fun j hj => by rw [countFrom_step A (List.mem_range'_1.mp hj).1, Nat.add_assoc]

/-- The place with as many active places below it stands there in the list of active places. -/
theorem filter_getElem?_countFrom (A : Nat → Bool) {n i : Nat} (hi : i < n) (hA : A i = true) :
    ((List.range n).filter A)[countFrom A 0 i]? = some i := by
  obtain ⟨m, rfl⟩ := Nat.exists_eq_add_of_lt hi
  have hcount : countFrom A 0 i = ((List.range i).filter A).length := by rw [countFrom, List.range_eq_range']; rfl
  rw [hcount, show i + m + 1 = i + (m + 1) by omega, List.range_add, List.filter_append, List.getElem?_append_right le_rfl,
    Nat.sub_self, List.range_succ_eq_map, List.map_cons, Nat.add_zero, List.filter_cons_of_pos hA]
  rfl

/-- R141: the active elements first, the rest as they were. -/
theorem compress_row (A : Nat → Bool) (N O : Nat → Nat) (n : Nat) :
    compress ((List.range n).map A) ((List.range n).map N) ((List.range n).map O) =
      (List.range n).map fun i => if decide (i < countFrom A 0 n) = true then N (((List.range n).filter A).getD i 0) else O i := by
  have hcount : countFrom A 0 n = ((List.range n).filter A).length := by rw [countFrom, List.range_eq_range']; rfl
  have hle : ((List.range n).filter A).length ≤ n := by
    conv_rhs => rw [← List.length_range (n := n)]
    exact List.length_filter_le _ _
  unfold compress
  dsimp only
  rw [activeOnly_map, hcount]
  generalize (List.range n).filter A = ks at hle ⊢
  apply List.ext_getElem
  · simp; omega
  · intro i h1 h2
    rw [List.length_map] at h2
    rw [List.getElem_append]
    simp only [List.length_map, List.getElem_map, List.getElem_range, List.getElem_drop, decide_eq_true_eq]
    split
    case isTrue hi => rw [List.getD_eq_getElem _ _ hi]
    case isFalse hi => rw [Nat.add_sub_cancel' (by omega)]

end Sys2Proof.Machine

/-! Proofs: the moving instructions (R131, R139 to R141). -/

namespace Sys2Proof.Machine

/-! ### Elements read and merged -/

/-- Element i of a register or stream as the model reads it. -/
def readElem (x : RegForm) (s : State) (o : Opnd) (i : Nat) : Nat := elem x.t.bits i (s.readV o 1)

theorem ofNat_readElem (x : RegForm) (s : State) (o : Opnd) (i : Nat) :
    BitVec.ofNat x.t.bits (readElem x s o i) = lane x.t (rowAt s s.cur o 0) i := by rw [readElem, readV_one, lane_eq]

theorem elems_row (x : RegForm) (s : State) (o : Opnd) :
    elems x.t.bits (lanes x.t) (s.readV o 1) = (List.range (lanes x.t)).map (readElem x s o) := rfl

/-- Is the place of element i of a group active (R140)? -/
def groupActive (x : RegForm) (s : State) (i : Nat) : Bool := active s.cur x.g x.t.bits (i % lanes x.t)

theorem writesByte_active {op : Nat} (x : RegForm) (s : State) (hop : op ≠ 0x1C7 ∧ op ≠ 0x1C2 ∧ op ≠ 0x185) (b : Nat) :
    writesByte op x s b = groupActive x s (8 * b / x.t.bits) := by
  obtain ⟨h1, h2, h3⟩ := hop
  unfold writesByte
  simp only [h1, h2, h3, if_false]
  rfl

theorem activity_one (x : RegForm) (s : State) :
    s.cur.activity x.g x.t.bits (lanes x.t) = (List.range (1 * lanes x.t)).map (groupActive x s) := by
  rw [activity_row, Nat.one_mul]
  exact List.map_congr_left fun i hi => by rw [groupActive, Nat.mod_eq_of_lt (List.mem_range.mp hi)]

theorem activity_two (x : RegForm) (s : State) :
    s.cur.activity x.g x.t.bits (lanes x.t) ++ s.cur.activity x.g x.t.bits (lanes x.t) =
      (List.range (2 * lanes x.t)).map (groupActive x s) := by
  rw [Nat.two_mul, List.range_add, List.map_append, List.map_map, activity_one, Nat.one_mul]
  congr 1
  exact List.map_congr_left fun i _ => by rw [Function.comp_apply, groupActive, groupActive, Nat.add_mod_left]

/-- R124: elements put into the places where W holds raise no flag. -/
theorem putV_merged (x : RegForm) (s : State) {g n : Nat} (W : Nat → Bool) (R : Nat → Nat) (a b c : Nat) (hn : n = g * lanes x.t)
    {act : List Bool} {rs : List Nat} (hact : act = (List.range n).map W) (hrs : rs = (List.range n).map R) :
    s.putV x.dst g x.t.bits n ⟨a, b, c, s.readV x.dst g, act⟩ (rs.map fun r => (r, 0)) =
      s.writeV x.dst g x.t.bits act (mergedGroup x s g W R) := by
  have hraise (u : State) : (u.modCur fun h => h.raise 0) = u := by
    unfold State.modCur Thread.raise
    simp only [flags_or_zero]
  unfold State.putV
  dsimp only
  rw [activeFlags_quiet, hraise, List.map_map, hrs]
  simp only [Function.comp_def, List.map_id', hact]
  rw [elems, mergeElems_map, hn]
  rfl

/-! ### A moving instruction -/

/-- A vector instruction with any activity, all in order, acts (R52, R124). -/
theorem vecWith_ready {op : Nat} {x : RegForm} {sp : VSpec} {s : State} (act : List Bool) (k : State → VIn → State)
    (h : VecReady op x s) (hg : sp.gd ≤ 4 ∧ sp.g1 ≤ 4 ∧ sp.g2 ≤ 4 ∧ sp.g3 ≤ 4) (hd : max 1 (sp.wd / 8) ∣ 8)
    (hs : max 1 (sp.ws / 8) ∣ 8) :
    vecWith op x sp act s k = .next (afterVec x (k s { vecIn x sp s with act := act })) := by
  obtain ⟨hgd, hg1, hg2, hg3⟩ := hg
  have hfit := h.fit
  unfold StreamsFit at hfit
  unfold vecWith
  rw [alloc_pass _ _ _ h.alloc]
  dsimp only
  rw [streamFault_none _ _ (by simpa using hfit) (by simp [hgd, hg1, hg2, hg3, hd, hs]), streamHeld_none h.free]
  simp only [ite_self]
  rfl

/-- What an instruction that moves elements does: at the active places of its g registers it writes R. -/
def MovesElems (i : Instr) (x : RegForm) (s : State) (g : Nat) (R : Nat → Nat) : Prop :=
  exec i s = .next (afterVec x (s.writeV x.dst g x.t.bits ((List.range (g * lanes x.t)).map (groupActive x s))
    (mergedGroup x s g (groupActive x s) R)))

/-- R139 to R141: an instruction that writes R at the active places, where R is f. -/
theorem permutes_of {op g : Nat} {mk : RegForm → Instr} {f : (x : RegForm) → State → Nat → BitVec x.t.bits}
    {R : RegForm → State → Nat → Nat} (hop : op ≠ 0x1C7 ∧ op ≠ 0x1C2 ∧ op ≠ 0x185) (hg : g ≤ 4)
    (hrun : ∀ x s, VecReady op x s → MovesElems (mk x) x s g (R x s))
    (hf : ∀ (x : RegForm) (s : State) (i : Nat), x.t.isM = true → i < g * lanes x.t → groupActive x s i = true →
      BitVec.ofNat x.t.bits (R x s i) = f x s i) : Permutes op g mk f := by
  intro x s h ht
  have hact (i : Nat) (hi : i < g * lanes x.t) :
      ((List.range (g * lanes x.t)).map (groupActive x s)).getD i false = groupActive x s i := by
    rw [List.getD_eq_getElem?_getD, List.getElem?_map, List.getElem?_range hi]
    rfl
  have hw := elemsWritten (R x s) h ht hg hact fun b _ => writesByte_active x s hop b
  refine ⟨_, hrun x s h, hw.frame, hw.flags, hw.rcount, fun k i hk hi => ?_⟩
  have hplace : groupActive x s (k * lanes x.t + i) = active s.cur x.g x.t.bits i := by
    rw [groupActive, Nat.mul_comm, Nat.mul_add_mod, Nat.mod_eq_of_lt (show i < lanes x.t from hi)]
  have hin : k * lanes x.t + i < g * lanes x.t := by
    calc k * lanes x.t + i < (k + 1) * lanes x.t := by rw [Nat.add_mul, Nat.one_mul]; exact Nat.add_lt_add_left hi _
      _ ≤ g * lanes x.t := Nat.mul_le_mul_right _ hk
  rw [hw.lanes k i hk hi, hplace]
  split
  case isTrue hon => exact hf x s _ ht hin (hplace.trans hon)
  case isFalse => rfl

section Runs
variable {op : Nat} {x : RegForm} {s : State} (h : VecReady op x s)
include h

/-- An instruction of one destination register whose new elements are R. -/
theorem moves_row {i : Instr} {g1 g2 g3 : Nat} {E : State → VIn → List Nat} {R : Nat → Nat}
    (hexec : exec i s = vec op x ⟨1, g1, g2, g3, x.t.bits, x.t.bits, lanes x.t, x.t.bits⟩ s fun s vi => s.putRow x vi (E s vi))
    (hg : g1 ≤ 4 ∧ g2 ≤ 4 ∧ g3 ≤ 4)
    (hE : E s (vecIn x ⟨1, g1, g2, g3, x.t.bits, x.t.bits, lanes x.t, x.t.bits⟩ s) = (List.range (lanes x.t)).map R) :
    MovesElems i x s 1 R := by
  rw [MovesElems, hexec, vec_ready _ h ⟨show 1 ≤ 4 by decide, hg⟩ (elemBytes_dvd x.t) (elemBytes_dvd x.t), ← activity_one]
  exact congrArg (fun u => Host.Outcome.next (afterVec x u))
    (putV_merged x s (groupActive x s) R _ _ _ (Nat.one_mul _).symm (by rw [activity_one, Nat.one_mul]) hE)

/-- An instruction of two destination registers whose new elements are R. -/
theorem moves_pair {i : Instr} {g1 g2 : Nat} {E : VIn → List Nat} {R : Nat → Nat}
    (hexec : exec i s = vec op x ⟨2, g1, g2, 0, x.t.bits, x.t.bits, lanes x.t, x.t.bits⟩ s fun s vi =>
      s.putV x.dst 2 x.t.bits (2 * lanes x.t) ⟨vi.a, vi.b, vi.c, vi.old, vi.act ++ vi.act⟩ ((E vi).map fun r => (r, 0)))
    (hg : g1 ≤ 4 ∧ g2 ≤ 4)
    (hE : E (vecIn x ⟨2, g1, g2, 0, x.t.bits, x.t.bits, lanes x.t, x.t.bits⟩ s) = (List.range (2 * lanes x.t)).map R) :
    MovesElems i x s 2 R := by
  rw [MovesElems, hexec, vec_ready _ h ⟨show 2 ≤ 4 by decide, hg.1, hg.2, Nat.zero_le 4⟩ (elemBytes_dvd x.t) (elemBytes_dvd x.t),
    ← activity_two]
  exact congrArg (fun u => Host.Outcome.next (afterVec x u))
    (putV_merged x s (groupActive x s) R _ _ _ rfl (activity_two x s) hE)

end Runs

end Sys2Proof.Machine

/-! Proofs: the moving instructions put together (R131, R139 to R141). -/

namespace Sys2Proof.Machine

/-! ### Each instruction's new elements -/

section Moves
variable (x : RegForm) (s : State)

/-- R131. -/
def selectElem (i : Nat) : Nat :=
  if activeAt (s.cur.preg (x.s3.num5.setWidth 3)) x.t.bits i = true then readElem x s x.s1 i else readElem x s x.s2 i

/-- Element j of the first two sources in a row (R139). -/
def pairElem (j : Nat) : Nat :=
  if j < lanes x.t then readElem x s x.s1 j else if j < 2 * lanes x.t then readElem x s x.s2 (j - lanes x.t) else 0

theorem ofNat_pairElem (j : Nat) :
    BitVec.ofNat x.t.bits (pairElem x s j) = ofPair x.t (rowAt s s.cur x.s1 0) (rowAt s s.cur x.s2 0) j := by
  unfold pairElem ofPair
  rw [lanes_eq]
  split_ifs
  · exact ofNat_readElem _ _ _ _
  · exact ofNat_readElem _ _ _ _
  · rfl

theorem pick2_rows (j : Nat) :
    pick2 (elems x.t.bits (lanes x.t) (s.readV x.s1 1)) (elems x.t.bits (lanes x.t) (s.readV x.s2 1)) j = pairElem x s j :=
  pick2_row _ _ _ _

/-- R140: the sources' elements in turn. -/
def zipElem (i : Nat) : Nat := if i % 2 = 0 then readElem x s x.s1 (i / 2) else readElem x s x.s2 (i / 2)

/-- R140: the even elements of the source's two registers, then the odd ones. -/
def unzipElem (i : Nat) : Nat :=
  elem x.t.bits (if i < lanes x.t then 2 * i else 2 * (i - lanes x.t) + 1) (s.readV x.s1 2)

variable {x s}

theorem vsel_moves (h : VecReady 0x114 x s) : MovesElems (.vsel x) x s 1 (selectElem x s) := by
  refine moves_row h (E := fun s vi => mergeElems (actives (s.cur.preg (x.s3.num5.setWidth 3)) x.t.bits (lanes x.t))
    (elems x.t.bits (lanes x.t) vi.a) (elems x.t.bits (lanes x.t) vi.b)) (g1 := 1) (g2 := 1) (g3 := 0) ?_ (by decide) ?_
  · simp only [exec]; rfl
  · dsimp only [vecIn]
    rw [elems_row, elems_row, actives, mergeElems_map]
    rfl

theorem vbcast_moves (h : VecReady 0x1C0 x s) :
    MovesElems (.vbcast x) x s 1 (fun _ => lowBits x.t.bits (s.cur.sreg x.s1.num5).toNat) := by
  refine moves_row h (E := fun s _ => List.replicate (lanes x.t) (lowBits x.t.bits (s.cur.sreg x.s1.num5).toNat))
    (g1 := 0) (g2 := 0) (g3 := 0) ?_ (by decide) ?_
  · simp only [exec]; rfl
  · rw [List.map_const', List.length_range]

theorem vperm_moves (h : VecReady 0x1C3 x s) : MovesElems (.vperm x) x s 1 (fun i => pairElem x s (readElem x s x.s3 i)) := by
  refine moves_row h (E := fun _ vi => (elems x.t.bits (lanes x.t) vi.c).map
    (pick2 (elems x.t.bits (lanes x.t) vi.a) (elems x.t.bits (lanes x.t) vi.b))) (g1 := 1) (g2 := 1) (g3 := 1) ?_ (by decide) ?_
  · simp only [exec]; rfl
  · dsimp only [vecIn]
    rw [elems_row x s x.s3, List.map_map]
    exact List.map_congr_left fun i _ => pick2_rows x s _

theorem vslide_moves (h : VecReady 0x1C4 x s) :
    MovesElems (.vslide x) x s 1 (fun i => pairElem x s (i + (s.cur.sreg x.s3.num5).toNat)) := by
  refine moves_row h (E := fun s vi => (List.range (lanes x.t)).map fun i => pick2 (elems x.t.bits (lanes x.t) vi.a)
    (elems x.t.bits (lanes x.t) vi.b) (i + (s.cur.sreg x.s3.num5).toNat)) (g1 := 1) (g2 := 1) (g3 := 0) ?_ (by decide) ?_
  · simp only [exec]; rfl
  · exact List.map_congr_left fun i _ => pick2_rows x s _

theorem vzip_moves (h : VecReady 0x1C5 x s) : MovesElems (.vzip x) x s 2 (zipElem x s) := by
  refine moves_pair h (E := fun vi => zipElems (elems x.t.bits (lanes x.t) vi.a) (elems x.t.bits (lanes x.t) vi.b))
    (g1 := 1) (g2 := 1) ?_ (by decide) ?_
  · simp only [exec]; rfl
  · dsimp only [vecIn]
    rw [elems_row, elems_row, List.range_eq_range', zipElems_range, List.range_eq_range']
    rfl

theorem vunzip_moves (h : VecReady 0x1C6 x s) : MovesElems (.vunzip x) x s 2 (unzipElem x s) := by
  refine moves_pair h (E := fun vi => evens (elems x.t.bits (2 * lanes x.t) vi.a) ++ odds (elems x.t.bits (2 * lanes x.t) vi.a))
    (g1 := 2) (g2 := 0) ?_ (by decide) ?_
  · simp only [exec]; rfl
  · exact unzip_range (fun i => elem x.t.bits i (s.readV x.s1 2)) (lanes x.t)

theorem viota_moves (h : VecReady 0x1C9 x s) :
    MovesElems (.viota x) x s 1 (fun i => rank s.cur x.g x.t i % 2 ^ x.t.bits) := by
  refine moves_row h (E := fun _ vi => iota x.t.bits vi.act 0) (g1 := 0) (g2 := 0) (g3 := 0) ?_ (by decide) ?_
  · simp only [exec]; rfl
  · dsimp only [vecIn]
    rw [activity_row, List.range_eq_range', iota_range]
    exact List.map_congr_left fun i _ => by rw [Nat.zero_add, rank_eq]

theorem vexpand_moves (h : VecReady 0x1C8 x s) :
    MovesElems (.vexpand x) x s 1 (fun i => readElem x s x.s1 (rank s.cur x.g x.t i)) := by
  have hrow : expand (s.cur.activity x.g x.t.bits (lanes x.t)) (elems x.t.bits (lanes x.t) (s.readV x.s1 1))
      (elems x.t.bits (lanes x.t) (s.readV x.dst 1)) = (List.range (1 * lanes x.t)).map fun i =>
        if groupActive x s i = true then readElem x s x.s1 (rank s.cur x.g x.t i) else elem x.t.bits i (s.readV x.dst 1) := by
    rw [activity_row, elems_row, elems_row, List.range_eq_range', expand_range _ _ _ _ _ _ _ le_rfl, ← List.range_eq_range', Nat.one_mul]
    refine List.map_congr_left fun i hi => ?_
    rw [groupActive, Nat.mod_eq_of_lt (List.mem_range.mp hi), Nat.zero_add, rank_eq]
    rfl
  have hexec : exec (.vexpand x) s = vec 0x1C8 x ⟨1, 1, 0, 0, x.t.bits, x.t.bits, lanes x.t, x.t.bits⟩ s fun s vi =>
      s.writeV x.dst 1 x.t.bits vi.act (packElems x.t.bits
        (expand vi.act (elems x.t.bits (lanes x.t) vi.a) (elems x.t.bits (lanes x.t) vi.old))) := by simp only [exec]; rfl
  rw [MovesElems, hexec, vec_ready _ h ⟨show 1 ≤ 4 by decide, show 1 ≤ 4 by decide, Nat.zero_le 4, Nat.zero_le 4⟩ (elemBytes_dvd x.t)
    (elemBytes_dvd x.t), ← activity_one]
  dsimp only [vecIn]
  rw [hrow]
  rfl

/-! ### Compress, extract and insert (R139, R141) -/

/-- R141: the first places are written, as many as are active. -/
theorem vcompress_spec (h : VecReady 0x1C7 x s) (ht : x.t.isM = true) : ∃ t, exec (.vcompress x) s = .next t ∧
    ElemsWritten 0x1C7 x 1 (fun i => decide (i < rank s.cur x.g x.t (lanes x.t)))
      (fun i => readElem x s x.s1 (((List.range (lanes x.t)).filter (active s.cur x.g x.t.bits)).getD i 0)) s t := by
  have hrow : compress (s.cur.activity x.g x.t.bits (lanes x.t)) (elems x.t.bits (lanes x.t) (s.readV x.s1 1))
      (elems x.t.bits (lanes x.t) (s.readV x.dst 1)) = (List.range (1 * lanes x.t)).map fun i =>
        if decide (i < rank s.cur x.g x.t (lanes x.t)) = true
          then readElem x s x.s1 (((List.range (lanes x.t)).filter (active s.cur x.g x.t.bits)).getD i 0)
          else elem x.t.bits i (s.readV x.dst 1) := by
    rw [activity_row, elems_row, elems_row, compress_row, rank_eq, Nat.one_mul]
    rfl
  have hcount : (s.cur.activity x.g x.t.bits (lanes x.t)).count true = rank s.cur x.g x.t (lanes x.t) := by
    rw [activity_row, count_map_true]
    rfl
  have hexec : exec (.vcompress x) s = vec 0x1C7 x ⟨1, 1, 0, 0, x.t.bits, x.t.bits, lanes x.t, x.t.bits⟩ s fun s vi =>
      s.writeV x.dst 1 x.t.bits (List.replicate (vi.act.count true) true) (packElems x.t.bits
        (compress vi.act (elems x.t.bits (lanes x.t) vi.a) (elems x.t.bits (lanes x.t) vi.old))) := by simp only [exec]; rfl
  refine ⟨_, hexec.trans (vec_ready _ h ⟨show 1 ≤ 4 by decide, show 1 ≤ 4 by decide, Nat.zero_le 4, Nat.zero_le 4⟩
    (elemBytes_dvd x.t) (elemBytes_dvd x.t)), ?_⟩
  dsimp only [vecIn]
  rw [hrow, hcount]
  refine elemsWritten _ h ht (by decide) (fun i _ => ?_) fun b _ => rfl
  rw [List.getD_eq_getElem?_getD, List.getElem?_replicate]
  split
  case isTrue hi => rw [decide_eq_true hi]; rfl
  case isFalse hi => rw [decide_eq_false hi]; rfl

/-- R139: one element to a scalar register. -/
theorem vext_spec (h : VecReady 0x1C1 x s) (hg : s.cur.guardOk x.g = true) : ∃ t, exec (.vext x) s = .next t ∧
    WroteS s (samePointers s t) x.dst.num5
      (standing x.t (lane x.t (rowAt s s.cur x.s1 0) ((s.cur.sreg x.s2.num5).toNat % laneCount x.t))) ∧ Pointers x s t := by
  have hexec : exec (.vext x) s = execVext x s := by simp only [exec]
  rw [hexec, execVext, alloc_pass _ _ _ h.alloc, scalar_pass _ _ _ hg]
  refine ⟨_, vecWith_ready _ _ h ⟨Nat.zero_le 4, show 1 ≤ 4 by decide, Nat.zero_le 4, Nat.zero_le 4⟩
    (elemBytes_dvd x.t) (elemBytes_dvd x.t), ?_⟩
  dsimp only [vecIn]
  have hq (v : Word) : (s.cur.setS x.dst.num5 v).q = s.cur.q := by
    unfold Thread.setS
    split <;> rfl
  rw [samePointers_afterVec (g := fun h => h.setS x.dst.num5 _) h.once (hq _)]
  refine ⟨?_, pointers_afterVec (g := fun h => h.setS x.dst.num5 _) h.once (hq _)⟩
  rw [extendInt_eq, readV_one, ← lane_eq]
  exact wroteS_putS s _ _

/-- R139: the bytes of element j, each whole. -/
theorem writesByte_insert (ht : x.t.isM = true) (b : Nat) : writesByte 0x1C2 x s b =
    (8 * b / x.t.bits == (s.cur.sreg x.s2.num5).toNat % lanes x.t) := by
  obtain ⟨h8, hw, -, -⟩ := bits_of_isM ht
  unfold writesByte
  simp only [show ¬(0x1C2 = 0x1C7) by decide, if_false, if_true]
  rw [lanes_eq, beq_eq_decide, decide_eq_decide]
  generalize (s.cur.sreg x.s2.num5).toNat % lanes x.t = j
  obtain ⟨m, hm⟩ := h8
  rw [hm, Nat.mul_div_mul_left _ _ (by decide), Nat.div_eq_iff (by omega), Nat.mul_assoc, Nat.mul_assoc, Nat.mul_succ, Nat.mul_comm m j]
  omega

/-- R139: one element from a scalar register. -/
theorem vins_spec (h : VecReady 0x1C2 x s) (ht : x.t.isM = true) (hg : s.cur.guardOk x.g = true) :
    ∃ t, exec (.vins x) s = .next t ∧ ElemsWritten 0x1C2 x 1 (· == (s.cur.sreg x.s2.num5).toNat % lanes x.t)
      (fun _ => lowBits x.t.bits (s.cur.sreg x.s1.num5).toNat) s t := by
  have hexec : exec (.vins x) s = execVins x s := by simp only [exec]
  rw [hexec, execVins, alloc_pass _ _ _ h.alloc, scalar_pass _ _ _ hg]
  refine ⟨_, vecWith_ready _ _ h ⟨show 1 ≤ 4 by decide, Nat.zero_le 4, Nat.zero_le 4, Nat.zero_le 4⟩
    (elemBytes_dvd x.t) (elemBytes_dvd x.t), ?_⟩
  dsimp only [vecIn, State.putRow]
  rw [putV_merged x s (· == (s.cur.sreg x.s2.num5).toNat % lanes x.t) (fun _ => lowBits x.t.bits (s.cur.sreg x.s1.num5).toNat)
    _ _ _ (Nat.one_mul _).symm rfl (by rw [List.map_const', List.length_range])]
  refine elemsWritten _ h ht (by decide) (fun i hi => ?_) fun b _ => writesByte_insert ht b
  rw [List.getD_eq_getElem?_getD, List.getElem?_map, List.getElem?_range (by omega)]
  rfl

end Moves

/-- Settles O26: each instruction's new elements, place by place. -/
theorem vectorPermutes : Obligations.VectorPermutes := by
  unfold Obligations.VectorPermutes
  intro src count
  refine ⟨permutes_of (by decide) (by decide) (fun x s h => vsel_moves h) fun x s i _ _ _ => ?sel,
    permutes_of (by decide) (by decide) (fun x s h => vbcast_moves h) fun x s i _ _ _ => ?bcast,
    permutes_of (by decide) (by decide) (fun x s h => vperm_moves h) fun x s i _ _ _ => ?perm,
    permutes_of (by decide) (by decide) (fun x s h => vslide_moves h) fun x s i _ _ _ => ofNat_pairElem x s _,
    permutes_of (by decide) (by decide) (fun x s h => vzip_moves h) fun x s i _ _ _ => ?zip,
    permutes_of (by decide) (by decide) (fun x s h => vunzip_moves h) fun x s i ht hi _ => ?unzip,
    permutes_of (by decide) (by decide) (fun x s h => vexpand_moves h) fun x s i _ _ _ => ofNat_readElem x s _ _,
    permutes_of (by decide) (by decide) (fun x s h => viota_moves h) fun x s i _ _ _ => ofNat_lowBits _ _,
    fun x s h ht => ?compress, fun x s h ht hg => ?ext, fun x s h ht hg => ?ins⟩
  case sel =>
    have hsel : active s.cur ⟨false, x.s3.num5.setWidth 3⟩ x.t.bits i = activeAt (s.cur.preg (x.s3.num5.setWidth 3)) x.t.bits i :=
      Bool.bne_false _
    rw [selectElem, hsel]
    split <;> exact ofNat_readElem _ _ _ _
  case bcast => rw [ofNat_lowBits, BitVec.ofNat_toNat]
  case perm =>
    have hidx : (lane x.t (src s x.s3) i).toNat = readElem x s x.s3 i := by
      rw [← ofNat_readElem, toNat_ofNat_lowBits]
      exact Nat.mod_eq_of_lt (elem_lt _ _ _)
    rw [hidx]
    exact ofNat_pairElem x s _
  case zip =>
    unfold zipElem
    split <;> exact ofNat_readElem _ _ _ _
  case unzip =>
    obtain ⟨-, hw, -, hlanes⟩ := bits_of_isM ht
    have hpos : 0 < lanes x.t := Nat.pos_of_ne_zero fun h0 => by rw [h0] at hlanes; omega
    unfold unzipElem
    dsimp only
    rw [lanes_eq]
    generalize hj : (if i < lanes x.t then 2 * i else 2 * (i - lanes x.t) + 1) = j
    have hlt : j < lanes x.t * 2 := by rw [← hj]; split <;> omega
    have hlane := lane_rowAt ht s x.s1 (Nat.div_lt_of_lt_mul hlt) (Nat.mod_lt j hpos)
    rw [lanes_eq, Nat.div_add_mod'] at hlane
    exact hlane.symm
  case compress =>
    obtain ⟨t, hrun, hw⟩ := vcompress_spec h ht
    have hlane (i : Nat) (hi : i < laneCount x.t) := hw.lanes 0 i (by decide) hi
    simp only [Nat.zero_mul, Nat.zero_add, decide_eq_true_eq] at hlane
    refine ⟨t, hrun, hw.frame, fun i hi hon => ?_, fun i hcount hi => ?_⟩
    · have hget := filter_getElem?_countFrom (active s.cur x.g x.t.bits) hi hon
      rw [← rank_eq] at hget
      have hlt := (List.getElem?_eq_some_iff.mp hget).1
      have hle : ((List.range (laneCount x.t)).filter (active s.cur x.g x.t.bits)).length ≤ laneCount x.t := by
        conv_rhs => rw [← List.length_range (n := laneCount x.t)]
        exact List.length_filter_le _ _
      rw [hlane _ (by omega), if_pos (show rank s.cur x.g x.t i < rank s.cur x.g x.t (lanes x.t) from hlt),
        List.getD_eq_getElem?_getD, ← lanes_eq, hget, Option.getD_some]
      exact ofNat_readElem _ _ _ _
    · rw [hlane i hi, if_neg (by rw [← lanes_eq]; exact not_lt.mpr hcount)]
  case ext =>
    obtain ⟨t, hrun, hwrote, hptr⟩ := vext_spec h hg
    exact ⟨t, hrun, hwrote, hptr⟩
  case ins =>
    obtain ⟨t, hrun, hw⟩ := vins_spec h ht hg
    refine ⟨t, hrun, hw.frame, fun i hi => ?_⟩
    have hlane := hw.lanes 0 i (by decide) hi
    simp only [Nat.zero_mul, Nat.zero_add, beq_iff_eq, ofNat_lowBits, BitVec.ofNat_toNat] at hlane
    exact hlane

end Sys2Proof.Machine

/-! Proofs: magnitudes that every rounding to a float type takes alike (R107, R111). -/

namespace Sys2Proof.Machine

/-! ### Where a rounding can change -/

/-- The points where the rounding to a type can change, and more: few bits, none far below the grid's unit, none above the
point after the largest code. -/
def BreakPoint (t : Ty) (T : Rat) : Prop := ∃ (j : Nat) (k : Int), T = j * 2 ^ k ∧ j < 2 ^ (mantBits t + 3) ∧ unitExp t - 2 ≤ k ∧
  T ≤ gridVal t (topCode t + 1)

/-- Two magnitudes with no such point between them. -/
def Alike (t : Ty) (x y : Rat) : Prop := ∀ T, BreakPoint t T → (x < T ↔ y < T) ∧ (T < x ↔ T < y)

theorem Alike.refl (t : Ty) (x : Rat) : Alike t x x := fun _ _ => ⟨Iff.rfl, Iff.rfl⟩

theorem Alike.eq_iff {t : Ty} {x y T : Rat} (h : Alike t x y) (hT : BreakPoint t T) : x = T ↔ y = T := by
  obtain ⟨h1, h2⟩ := h T hT
  constructor
  · rintro rfl
    exact le_antisymm (not_lt.mp (mt h2.mpr (lt_irrefl _))) (not_lt.mp (mt h1.mpr (lt_irrefl _)))
  · rintro rfl
    exact le_antisymm (not_lt.mp (mt h2.mp (lt_irrefl _))) (not_lt.mp (mt h1.mp (lt_irrefl _)))

/-- A code's point as a count of the unit of its binade. -/
theorem gridVal_count (t : Ty) (c : Nat) : ∃ m : Nat, m < 2 ^ (mantBits t + 1) ∧
    gridVal t c = m * 2 ^ (unitExp t + (c / 2 ^ mantBits t - 1 : Nat)) := by
  have hfrac : c % 2 ^ mantBits t < 2 ^ mantBits t := Nat.mod_lt _ (by positivity)
  refine ⟨(if c / 2 ^ mantBits t = 0 then 0 else 2 ^ mantBits t) + c % 2 ^ mantBits t, ?_, (gridVal_eq_field t c).trans ?_⟩
  · rw [pow_succ]
    split <;> omega
  · congr 2
    omega

theorem breakPoint_gridVal {t : Ty} {c : Nat} (hc : c ≤ topCode t + 1) : BreakPoint t (gridVal t c) := by
  obtain ⟨m, hm, hv⟩ := gridVal_count t c
  refine ⟨m, _, hv, hm.trans (Nat.pow_lt_pow_right (by decide) (by omega)), by omega, (gridVal_strictMono t).monotone hc⟩

/-- The middle between two codes' points. -/
theorem breakPoint_middle {t : Ty} {c : Nat} (hc : c ≤ topCode t) : BreakPoint t ((gridVal t c + gridVal t (c + 1)) / 2) := by
  have hnext : gridVal t (c + 1) ≤ gridVal t (topCode t + 1) := (gridVal_strictMono t).monotone (by omega)
  have hlt : gridVal t c < gridVal t (c + 1) := gridVal_strictMono t (Nat.lt_succ_self c)
  obtain ⟨m, hm, hv⟩ := gridVal_count t c
  refine ⟨2 * m + 1, unitExp t + (c / 2 ^ mantBits t - 1 : Nat) - 1, ?_, ?_, by omega, by linarith⟩
  · rw [gridVal_succ, hv, zpow_sub_one₀ (by norm_num)]
    push_cast
    ring
  · rw [pow_succ] at hm ⊢
    rw [pow_succ, pow_succ]
    omega

/-- The least normal magnitude is a point of the grid. -/
theorem least_eq (t : Ty) : (2 : Rat) ^ (1 - biasOf t) = 2 ^ mantBits t * 2 ^ unitExp t := by
  rw [← zpow_natCast, ← zpow_add₀ (by norm_num)]
  congr 1
  rw [unitExp]
  omega

theorem least_le_top {t : Ty} (ht : t.isFloat = true) : (2 : Rat) ^ (1 - biasOf t) ≤ gridVal t (topCode t + 1) := by
  have hfield : 2 ^ mantBits t ≤ topCode t := by
    have := topCode_field ht
    rwa [Nat.one_le_div_iff (by positivity)] at this
  have hg := grid_field (mantBits t) 1 0 (by positivity)
  have hval : gridVal t (2 ^ mantBits t) = 2 ^ (1 - biasOf t) := by
    rw [least_eq, gridVal, ← one_mul (2 ^ mantBits t), ← Nat.add_zero (1 * 2 ^ mantBits t), hg]
    simp
  rw [← hval]
  exact (gridVal_strictMono t).monotone (by omega)

/-- The least normal magnitude less a part of a step (R111). -/
theorem breakPoint_tiny {t : Ty} (ht : t.isFloat = true) {i : Nat} (hi : i ≤ 2 ^ (mantBits t + 2)) :
    BreakPoint t (2 ^ (1 - biasOf t) - i * 2 ^ (unitExp t - 2)) := by
  have hfour : (2 : Rat) ^ unitExp t = 4 * 2 ^ (unitExp t - 2) := by
    rw [zpow_sub₀ (by norm_num)]
    norm_num
    ring
  have hleast : (2 : Rat) ^ (1 - biasOf t) = (2 ^ (mantBits t + 2) : Nat) * 2 ^ (unitExp t - 2) := by
    rw [least_eq, hfour]
    push_cast
    ring
  have hpos : (0 : Rat) ≤ i * 2 ^ (unitExp t - 2) := by positivity
  refine ⟨2 ^ (mantBits t + 2) - i, unitExp t - 2, ?_, ?_, le_rfl, by linarith [least_le_top ht]⟩
  · rw [hleast, Nat.cast_sub hi]
    ring
  · have : 2 ^ (mantBits t + 3) = 2 * 2 ^ (mantBits t + 2) := by rw [pow_succ]; ring
    have : 0 < 2 ^ (mantBits t + 2) := by positivity
    omega

/-! ### Magnitudes that are alike round alike -/

/-- A magnitude rounds in its gap as one that is alike. -/
theorem RoundsInto.alike {t : Ty} {mode : RM} {neg odd up ix : Bool} {c : Nat} {x y : Rat} (hc : c ≤ topCode t) (ha : Alike t x y)
    (h : RoundsInto mode neg odd (gridVal t c) (gridVal t (c + 1)) y up ix) :
    RoundsInto mode neg odd (gridVal t c) (gridVal t (c + 1)) x up ix := by
  have hlo := ha _ (breakPoint_gridVal (t := t) (c := c) (by omega))
  have hhi := ha _ (breakPoint_gridVal (t := t) (c := c + 1) (by omega))
  have hmid := ha _ (breakPoint_middle hc)
  have heq := ha.eq_iff (breakPoint_gridVal (t := t) (c := c) (by omega))
  have hmideq := ha.eq_iff (breakPoint_middle hc)
  have hstays := h.stays
  have hraises := h.raises
  have hle := h.le
  have hlt := h.lt
  have hix := h.inexact
  generalize gridVal t c = lo at *
  generalize gridVal t (c + 1) = hi at *
  have below (z : Rat) : z - lo < hi - z ↔ z < (lo + hi) / 2 := by constructor <;> intro h <;> linarith
  have above (z : Rat) : hi - z < z - lo ↔ (lo + hi) / 2 < z := by constructor <;> intro h <;> linarith
  have middle (z : Rat) : z - lo = hi - z ↔ z = (lo + hi) / 2 := by constructor <;> intro h <;> linarith
  have hs : Stays mode neg odd (x - lo) (hi - x) ↔ Stays mode neg odd (y - lo) (hi - y) := by
    cases mode <;> simp only [Stays, below, middle, sub_eq_zero, hmid, hmideq, heq]
  have hr : Raises mode neg odd (x - lo) (hi - x) ↔ Raises mode neg odd (y - lo) (hi - y) := by
    cases mode <;> simp only [Raises, above, middle, ne_eq, sub_eq_zero, hmid, hmideq, heq]
  refine ⟨not_lt.mp (mt hlo.1.mp (not_lt.mpr hle)), hhi.1.mpr hlt, fun hu => hs.mpr (hstays hu), fun hu => hr.mpr (hraises hu), ?_⟩
  rw [hix]
  simp only [ne_eq, heq]

/-- R111: tininess is the same of magnitudes that are alike. -/
theorem tiny_alike {t : Ty} (ht : t.isFloat = true) (n : Nat) (neg : Bool) {x y : Rat} (hx : 0 < x) (hy : 0 < y)
    (ha : Alike t x y) : tiny t n (sgn neg * y) ↔ tiny t n (sgn neg * x) := by
  rw [tiny_iff t n neg hx, tiny_iff t n neg hy]
  have hstep : (2 : Rat) ^ (1 - biasOf t) / 2 ^ (mantBits t + 1) = 2 * 2 ^ (unitExp t - 2) := by
    rw [least_eq, zpow_sub₀ (by norm_num), pow_succ]
    field_simp
  have hpow : 2 ≤ 2 ^ (mantBits t + 2) := by
    rw [pow_succ]
    have : 0 < 2 ^ (mantBits t + 1) := by positivity
    omega
  have h0 := ha _ (breakPoint_tiny ht (i := 0) (by omega))
  have h1 := ha _ (breakPoint_tiny ht (i := 1) (by omega))
  have h2 := ha _ (breakPoint_tiny ht (i := 2) (by omega))
  rw [Nat.cast_zero, zero_mul, sub_zero] at h0
  rw [Nat.cast_one, one_mul] at h1
  rw [Nat.cast_ofNat] at h2
  unfold RoundsBelow
  rw [hstep, mul_div_cancel_left₀ _ (by norm_num)]
  split
  · exact h1.1.symm
  · split
    · rw [← not_lt, ← not_lt, h2.2]
    · exact h0.1.symm

/-- R107: what a value beyond the range gives. -/
theorem roundedBy_beyond {t : Ty} (ht : t.isFloat = true) {n : Nat} (hn : n < 4) (sat neg : Bool) {x : Rat} (hx : 0 < x)
    (hov : overflows t n (sgn neg * x)) :
    RoundedBy sat t n (sgn neg * x) (beyondCode t sat (awayMode (rmOf n) neg) neg) (Fl.of ||| Fl.nx) := by
  rw [← overflowed_eq hn sat neg hx]
  refine ⟨fun _ => ⟨rfl, rfl⟩, fun h => absurd hov h, fun h => absurd hov h, fun h => absurd hov h,
    fun h => absurd hov h, fun h => absurd hov h, fun h => absurd hov h, fun h => absurd hov h, fun _ h => ?_⟩
  rw [overflowed_eq hn sat neg hx, msb_beyond ht _ _ _ (h.resolve_right (fun hno => hno hov)), sgn_neg_iff neg hx]

/-- A magnitude from the point after the largest code on is beyond the range. -/
theorem overflows_of_top_le {t : Ty} (ht : t.isFloat = true) (n : Nat) (neg : Bool) {x : Rat} (hx : 0 < x)
    (h : gridVal t (topCode t + 1) ≤ x) : overflows t n (sgn neg * x) := by
  have htop := gridVal_strictMono t (Nat.lt_succ_self (topCode t))
  rw [overflows_eq ht, abs_sgn_mul, abs_of_pos hx]
  split
  · split <;> linarith
  · split <;> linarith

/-- R106, R107, R111: the model's rounding of a magnitude is the rounding of every one that is alike. -/
theorem round_alike {t : Ty} (ht : t.isFloat = true) {n : Nat} (hn : n < 4) (sat neg : Bool) {m : Nat} (hm : m ≠ 0) (e : Int)
    {x : Rat} (hx : 0 < x) (ha : Alike t x (m * 2 ^ e)) : ∃ (v : BitVec t.bits) (f : Flags),
      (fmtOf t).round (rmOf n) sat neg m e = (v.toNat, f) ∧ RoundedBy sat t n (sgn neg * x) v f := by
  obtain ⟨c, up, ix, hr, heq⟩ := round_eq ht (rmOf n) sat neg hm e
  have hy : (0 : Rat) < m * 2 ^ e := by positivity
  rw [heq]
  by_cases hc : c ≤ topCode t
  · have hr' := hr.alike hc ha
    have hov := overflows_iff ht hn (neg := neg) hx hr'
    split
    case isTrue hbeyond => exact ⟨_, _, by rw [overflow_toNat ht], roundedBy_beyond ht hn sat neg hx (hov.mpr hbeyond)⟩
    case isFalse hwithin =>
      have hle := not_lt.mp hwithin
      refine ⟨_, _, by rw [toNat_codeOf_sign t neg (lt_of_le_of_lt hle (topCode_lt ht))], ?_⟩
      exact roundedBy_within ht hn hx.le hr' hle (fun h => hwithin (hov.mp h))
        (fun _ => (tinyAfter_iff ht hn neg hm e).trans (tiny_alike ht n neg hx hy ha))
  · rw [if_pos (by omega)]
    refine ⟨_, _, by rw [overflow_toNat ht], roundedBy_beyond ht hn sat neg hx (overflows_of_top_le ht n neg hx ?_)⟩
    have hty : gridVal t (topCode t + 1) ≤ m * 2 ^ e := le_trans ((gridVal_strictMono t).monotone (by omega)) hr.le
    exact not_lt.mp (mt (ha _ (breakPoint_gridVal le_rfl)).1.mp (not_lt.mpr hty))

/-! ### A last bit that stands for a remainder -/

/-- The count m of 2^e stands for the magnitude x: its bits but the last are those of x, many of them, and the last one says
whether more of x follows. -/
def StandsFor (m : Nat) (e : Int) (x : Rat) : Prop := ∃ q : Nat, 2 ^ 40 ≤ q ∧
  (m = 2 * q ∧ x = q * 2 ^ (e + 1) ∨ m = 2 * q + 1 ∧ q * 2 ^ (e + 1) < x ∧ x < (q + 1) * 2 ^ (e + 1))

theorem StandsFor.ne_zero {m : Nat} {e : Int} {x : Rat} (h : StandsFor m e x) : m ≠ 0 := by
  obtain ⟨q, hq, ⟨rfl, -⟩ | ⟨rfl, -⟩⟩ := h <;> omega

theorem StandsFor.pos {m : Nat} {e : Int} {x : Rat} (h : StandsFor m e x) : 0 < x := by
  obtain ⟨q, hq, ⟨-, rfl⟩ | ⟨-, hlo, -⟩⟩ := h
  · have : (0 : Rat) < q := by exact_mod_cast lt_of_lt_of_le (by decide) hq
    positivity
  · exact lt_of_le_of_lt (by positivity) hlo

/-- Scaling by a power of two. -/
theorem StandsFor.scale {m : Nat} {e : Int} {x : Rat} (h : StandsFor m e x) (k : Int) : StandsFor m (e + k) (x * 2 ^ k) := by
  have hpow : (2 : Rat) ^ (e + k + 1) = 2 ^ (e + 1) * 2 ^ k := by rw [← zpow_add₀ (by norm_num)]; congr 1; omega
  have hk : (0 : Rat) < 2 ^ k := by positivity
  obtain ⟨q, hq, ⟨hm, hx⟩ | ⟨hm, hlo, hhi⟩⟩ := h
  · exact ⟨q, hq, .inl ⟨hm, by rw [hx, hpow, mul_assoc]⟩⟩
  · refine ⟨q, hq, .inr ⟨hm, ?_, ?_⟩⟩ <;> rw [hpow, ← mul_assoc]
    · exact mul_lt_mul_of_pos_right hlo hk
    · exact mul_lt_mul_of_pos_right hhi hk

theorem mantBits_le (t : Ty) : mantBits t ≤ 23 := by cases t <;> decide

/-- No point of few bits lies strictly between two neighbouring counts of many bits. -/
theorem BreakPoint.off_gap {t : Ty} {T : Rat} (hT : BreakPoint t T) {q : Nat} (hq : 2 ^ 40 ≤ q) (k : Int) :
    T ≤ q * 2 ^ k ∨ (q + 1) * 2 ^ k ≤ T := by
  obtain ⟨j, l, rfl, hj, -, -⟩ := hT
  have hk : (0 : Rat) < 2 ^ k := by positivity
  rcases le_or_gt k l with hkl | hkl
  · -- T is a count of 2^k too
    have hcount : (j : Rat) * 2 ^ l = (j * 2 ^ (l - k).toNat : Nat) * 2 ^ k := by
      push_cast
      rw [mul_assoc, ← zpow_natCast, ← zpow_add₀ (by norm_num)]
      congr 2
      omega
    rw [hcount]
    rcases Nat.lt_or_ge q (j * 2 ^ (l - k).toNat) with h | h
    · exact .inr (mul_le_mul_of_nonneg_right (by exact_mod_cast h) hk.le)
    · exact .inl (mul_le_mul_of_nonneg_right (by exact_mod_cast h) hk.le)
  · refine .inl (mul_le_mul ?_ (zpow_le_zpow_right₀ (by norm_num) hkl.le) (by positivity) (by positivity))
    have hfew : 2 ^ (mantBits t + 3) ≤ 2 ^ 40 := Nat.pow_le_pow_right (by decide) (by have := mantBits_le t; omega)
    exact_mod_cast (hj.le.trans hfew).trans hq

/-- A count stands for magnitudes that are alike. -/
theorem StandsFor.alike {m : Nat} {e : Int} {x : Rat} (h : StandsFor m e x) (t : Ty) : Alike t x (m * 2 ^ e) := by
  obtain ⟨q, hq, ⟨rfl, rfl⟩ | ⟨rfl, hlo, hhi⟩⟩ := h
  · have heq : (q : Rat) * 2 ^ (e + 1) = (2 * q : Nat) * 2 ^ e := by rw [zpow_add_one₀ (by norm_num)]; push_cast; ring
    rw [heq]
    exact .refl t _
  · intro T hT
    have he : (0 : Rat) < 2 ^ e := by positivity
    have hylo : (q : Rat) * 2 ^ (e + 1) < (2 * q + 1 : Nat) * 2 ^ e := by rw [zpow_add_one₀ (by norm_num)]; push_cast; linarith
    have hyhi : ((2 * q + 1 : Nat) : Rat) * 2 ^ e < (q + 1) * 2 ^ (e + 1) := by rw [zpow_add_one₀ (by norm_num)]; push_cast; linarith
    rcases hT.off_gap hq (e + 1) with hside | hside
    · exact ⟨iff_of_false (by linarith) (by linarith), iff_of_true (by linarith) (by linarith)⟩
    · exact ⟨iff_of_true (by linarith) (by linarith), iff_of_false (by linarith) (by linarith)⟩

end Sys2Proof.Machine

/-! Proofs: results that no clamp changes, and quotients whose last bit stands for a remainder (R106, R107, R128). -/

namespace Sys2Proof.Machine

/-! ### Results without a clamp -/

theorem Clamped.eq_of_none {t : Ty} {v r : BitVec t.bits} (h : Clamped t .none v r) : r = v := h.same (.inl rfl)

section Plain
variable {t : Ty} (hF : t.isF = true) (sc : Int)
include hF

theorem result_nan (mode : RM) (fl : Flags) : floatResult t mode .none sc (.nan false, fl) = (canonical t, fl) := by
  obtain ⟨hr, hf⟩ := floatResult_nan hF mode .none sc fl
  exact Prod.ext (Clamped.eq_of_none hr) hf

theorem result_inf (mode : RM) (neg : Bool) (fl : Flags) : floatResult t mode .none sc (.inf neg, fl) = (infinity t neg, fl) := by
  obtain ⟨hr, hf⟩ := floatResult_inf hF mode .none sc neg fl
  exact Prod.ext (Clamped.eq_of_none hr) hf

theorem result_zero (mode : RM) (neg : Bool) (e : Int) (fl : Flags) :
    floatResult t mode .none sc (.fin neg 0 e, fl) = (zeroOf t neg, fl) := by
  obtain ⟨hr, hf⟩ := floatResult_zero hF mode .none sc neg e fl
  exact Prod.ext (Clamped.eq_of_none hr) hf

/-- An exact result, scaled and rounded once. -/
theorem result_exact {n : Nat} (hn : n < 4) (neg : Bool) (m : Nat) (e : Int) : Rounded t n (sgn neg * (m * 2 ^ e) * 2 ^ sc)
    (floatResult t (rmOf n) .none sc (.fin neg m e, 0)).1 (floatResult t (rmOf n) .none sc (.fin neg m e, 0)).2 := by
  obtain ⟨v, hb, hc⟩ := floatResult_fin hF hn .none sc neg m e
  rw [hc.eq_of_none]
  exact hb

/-- A result whose magnitude is, scaled, alike the exact one. -/
theorem result_alike {n : Nat} (hn : n < 4) (neg : Bool) {m : Nat} (hm : m ≠ 0) (e : Int) {x : Rat} (hx : 0 < x)
    (ha : Alike t (x * 2 ^ sc) (m * 2 ^ (e + sc))) : Rounded t n (sgn neg * x * 2 ^ sc)
      (floatResult t (rmOf n) .none sc (.fin neg m e, 0)).1 (floatResult t (rmOf n) .none sc (.fin neg m e, 0)).2 := by
  obtain ⟨v, f, hround, hb⟩ := round_alike (Ty.isFloat_of_isF hF) hn false neg hm (e + sc) (by positivity) ha
  have hconv : (fmtOf t).convert (rmOf n) .none sc (.fin neg m e) = (v.toNat, f) := hround
  rw [floatResult_of_convert hconv, flags_or_zero, mul_assoc]
  exact hb

/-- R128: a result whose last bit stands for a remainder is the exact one, scaled and rounded once. -/
theorem result_standsFor {n : Nat} (hn : n < 4) (neg : Bool) {m : Nat} {e : Int} {x : Rat} (h : StandsFor m e x) :
    Rounded t n (sgn neg * x * 2 ^ sc)
      (floatResult t (rmOf n) .none sc (.fin neg m e, 0)).1 (floatResult t (rmOf n) .none sc (.fin neg m e, 0)).2 :=
  result_alike hF sc hn neg h.ne_zero e h.pos ((h.scale sc).alike t)

end Plain

/-! ### Values of numbers and zeros -/

theorem sgn_xor (a b : Bool) : sgn (a != b) = sgn a * sgn b := by cases a <;> cases b <;> norm_num [sgn]

section Values
variable {t : Ty} (ht : t.isFloat = true) {r : BitVec t.bits}

theorem eq_zeroOf_of_isZero (h : isZero t r = true) : r = zeroOf t r.msb := by
  simp only [isZero, decide_eq_true_eq] at h
  rw [zeroOf_eq, ← h, codeOf_parts]

include ht

theorem val_zero (h : isZero t r = true) : val t r = .fin r.msb 0 (unitExp t) := by
  simp only [isZero, decide_eq_true_eq] at h
  unfold val Fmt.decode
  simp [decode_sign ht, decode_magnitude ht, h, fmtOf_lsbMin ht]

theorem val_finite (h : special t r = false ∧ isZero t r = false) : ∃ (m : Nat) (e : Int), val t r = .fin r.msb m e ∧ m ≠ 0 ∧
    number t r = sgn r.msb * (m * 2 ^ e) := by
  obtain ⟨m, e, hv, hnum, hz⟩ := val_fin ht h.1
  exact ⟨m, e, hv, fun h0 => by simp [hz.mp h0] at h, hnum⟩

/-- The infinity of each sign is one code. -/
theorem eq_infinity_of_isInfinite (h : isInfinite t r = true) : r = infinity t r.msb := by
  have hmag := infinite_magnitude ht h
  have hcode : infinity t r.msb = codeOf t r.msb ((2 ^ expBits t - 1) * 2 ^ mantBits t) := rfl
  have heq : magnitude t r = (2 ^ expBits t - 1) * 2 ^ mantBits t := by
    revert hmag
    generalize magnitude t r = k
    obtain rfl | rfl | rfl | rfl | rfl | rfl := float_cases ht <;>
      simp [fmtOf, Fmt.fp32, Fmt.bf16, Fmt.fp16, Fmt.e4m3, Fmt.e5m2, Fmt.e2m1, mantBits, expBits, Ty.bits, eq_comm]
  rw [hcode, ← heq, codeOf_parts]

/-- The flag of signalling NaNs among two operands. -/
theorem sigFlags_pair (a b : BitVec t.bits) : sigFlags [val t a, val t b] =
    if isSignalling t a = true ∨ isSignalling t b = true then Fl.nv else 0 := by
  simpa [signals] using sigFlags_eq ht [a, b]

end Values

/-! ### Quotients -/

theorem divMag_zero (b : Nat) : (divMag 0 b).1 = 0 := by simp [divMag]

/-- R128: the model's quotient of two magnitudes stands for the exact one. -/
theorem divMag_standsFor {a b : Nat} (ha : a ≠ 0) (hb : b ≠ 0) : StandsFor (divMag a b).1 (divMag a b).2 (a / b) := by
  generalize hs : 80 + Nat.log2 b = s
  generalize hn : a * 2 ^ s = n
  have hmag : divMag a b = (2 * (n / b) + if n % b == 0 then 0 else 1, -(s : Int) - 1) := by
    unfold divMag
    simp only [hs, hn]
  have hbpos : (0 : Rat) < b := by exact_mod_cast Nat.pos_of_ne_zero hb
  have hspos : (0 : Rat) < 2 ^ (-(s : Int)) := by positivity
  have hx : (a : Rat) / b = n / b * 2 ^ (-(s : Int)) := by
    rw [← hn, zpow_neg, zpow_natCast]
    push_cast
    field_simp
  have hlarge : 2 ^ 40 ≤ n / b := by
    rw [Nat.le_div_iff_mul_le (Nat.pos_of_ne_zero hb), ← hn]
    calc 2 ^ 40 * b ≤ 2 ^ 40 * 2 ^ (Nat.log2 b + 1) := Nat.mul_le_mul_left _ (lt_log2 hb).le
      _ = 2 ^ (41 + Nat.log2 b) := by rw [← pow_add]; congr 1; omega
      _ ≤ 2 ^ s := Nat.pow_le_pow_right (by decide) (by omega)
      _ ≤ a * 2 ^ s := Nat.le_mul_of_pos_left _ (Nat.pos_of_ne_zero ha)
  have hdiv : (n : Rat) = (n / b : Nat) * b + (n % b : Nat) := by exact_mod_cast (Nat.div_add_mod' n b).symm
  have hmod : ((n % b : Nat) : Rat) < b := by exact_mod_cast Nat.mod_lt n (Nat.pos_of_ne_zero hb)
  rw [hmag, hx]
  refine ⟨n / b, hlarge, ?_⟩
  dsimp only
  rw [show -(s : Int) - 1 + 1 = -(s : Int) by omega]
  by_cases h0 : n % b = 0
  · refine .inl ⟨by simp [h0], ?_⟩
    rw [h0, Nat.cast_zero, add_zero] at hdiv
    rw [hdiv, mul_div_cancel_right₀ _ hbpos.ne']
  · have hrem : (0 : Rat) < (n % b : Nat) := by exact_mod_cast Nat.pos_of_ne_zero h0
    refine .inr ⟨by simp [h0], mul_lt_mul_of_pos_right ?_ hspos, mul_lt_mul_of_pos_right ?_ hspos⟩
    · rw [lt_div_iff₀ hbpos]
      linarith
    · rw [div_lt_iff₀ hbpos, add_mul, one_mul]
      linarith

theorem fdivV_fin (n1 n2 : Bool) (m1 : Nat) {m2 : Nat} (e1 e2 : Int) (h : m2 ≠ 0) : fdivV (.fin n1 m1 e1) (.fin n2 m2 e2) =
    (.fin (n1 != n2) (divMag m1 m2).1 (e1 - e2 + (divMag m1 m2).2), 0) := by
  simp only [fdivV, beq_iff_eq, h, if_false]

/-- R128: a quotient of two magnitudes with exponents. -/
theorem quotient_standsFor {m1 m2 : Nat} (h1 : m1 ≠ 0) (h2 : m2 ≠ 0) (e1 e2 : Int) :
    StandsFor (divMag m1 m2).1 (e1 - e2 + (divMag m1 m2).2) (m1 * 2 ^ e1 / (m2 * 2 ^ e2)) := by
  have h := (divMag_standsFor h1 h2).scale (e1 - e2)
  have hx : (m1 : Rat) * 2 ^ e1 / (m2 * 2 ^ e2) = m1 / m2 * 2 ^ (e1 - e2) := by rw [zpow_sub₀ (by norm_num), mul_div_mul_comm]
  rwa [hx, add_comm]

end Sys2Proof.Machine

/-! Proofs: square roots whose last bit stands for a remainder (R128). -/

namespace Sys2Proof.Machine

/-! ### The integer square root -/

/-- The root found so far is not too large, and less than what the bits to come can add too small. -/
theorem isqrtGo_spec (n : Nat) : ∀ (k r : Nat), r * r ≤ n → n < (r + 2 ^ k) * (r + 2 ^ k) →
    isqrtGo n k r * isqrtGo n k r ≤ n ∧ n < (isqrtGo n k r + 1) * (isqrtGo n k r + 1)
  | 0, r, hlo, hhi => ⟨hlo, by simpa [isqrtGo] using hhi⟩
  | k + 1, r, hlo, hhi => by
    rw [isqrtGo]
    split
    case isTrue hle =>
      refine isqrtGo_spec n k _ hle ?_
      rwa [add_assoc, ← two_mul, ← pow_succ']
    case isFalse hgt => exact isqrtGo_spec n k r hlo (not_le.mp hgt)

theorem isqrt_spec (n : Nat) : isqrt n * isqrt n ≤ n ∧ n < (isqrt n + 1) * (isqrt n + 1) := by
  refine isqrtGo_spec n _ 0 (Nat.zero_le n) ?_
  rcases Nat.eq_zero_or_pos n with rfl | hpos
  · simp
  · rw [zero_add, ← pow_add]
    exact (lt_log2 hpos.ne').trans_le (Nat.pow_le_pow_right (by decide) (by omega))

theorem le_isqrt {n k : Nat} (h : k * k ≤ n) : k ≤ isqrt n := by
  by_contra hlt
  exact absurd ((isqrt_spec n).2.trans_le (Nat.mul_self_le_mul_self (not_le.mp hlt))) (not_lt.mpr h)

/-! ### Roots -/

/-- The count m of 2^e stands for magnitudes on both sides of the root of q. -/
def StandsForRoot (m : Nat) (e : Int) (q : Rat) : Prop := ∃ lo hi : Rat, 0 < lo ∧ lo ^ 2 ≤ q ∧ 0 < hi ∧ q ≤ hi ^ 2 ∧
  StandsFor m e lo ∧ StandsFor m e hi

/-- Between two neighbouring squares the root of a number stands between two rationals that do. -/
theorem root_between {r : Nat} {q : Rat} (hlo : (r : Rat) ^ 2 < q) (hhi : q < (r + 1) ^ 2) :
    ∃ lo hi : Rat, r < lo ∧ lo < r + 1 ∧ r < hi ∧ hi < r + 1 ∧ lo ^ 2 ≤ q ∧ q ≤ hi ^ 2 := by
  have hr : (0 : Rat) ≤ r := r.cast_nonneg
  have hstep : (r + 1 : Rat) ^ 2 = r ^ 2 + (2 * r + 1) := by ring
  -- the chord from below and the tangent from above
  obtain ⟨d, hd⟩ : ∃ d, d = (q - r ^ 2) / (2 * r + 1) := ⟨_, rfl⟩
  obtain ⟨c, hc⟩ : ∃ c, c = ((r + 1) ^ 2 - q) / (2 * r + 2) := ⟨_, rfl⟩
  have hd0 : 0 < d := by rw [hd]; exact div_pos (by linarith) (by linarith)
  have hd1 : d < 1 := by rw [hd, div_lt_one (by linarith)]; linarith
  have hc0 : 0 < c := by rw [hc]; exact div_pos (by linarith) (by linarith)
  have hc1 : c < 1 := by rw [hc, div_lt_one (by linarith)]; linarith
  have hchord : d * (2 * r + 1) = q - r ^ 2 := by rw [hd, div_mul_cancel₀ _ (by linarith)]
  have htangent : c * (2 * r + 2) = (r + 1) ^ 2 - q := by rw [hc, div_mul_cancel₀ _ (by linarith)]
  refine ⟨r + d, r + 1 - c, by linarith, by linarith, by linarith, by linarith, ?_, ?_⟩
  · have : d * d ≤ d * 1 := mul_le_mul_of_nonneg_left hd1.le hd0.le
    calc (r + d) ^ 2 = r ^ 2 + (d * (2 * r + 1) - d * 1 + d * d) := by ring
      _ ≤ q := by linarith
  · calc q = (r + 1) ^ 2 - c * (2 * r + 2) := by linarith
      _ ≤ (r + 1) ^ 2 - c * (2 * r + 2) + c ^ 2 := le_add_of_nonneg_right (sq_nonneg c)
      _ = (r + 1 - c) ^ 2 := by ring

/-- An integer root with a last bit for the remainder stands for the root. -/
theorem standsForRoot_of_square {m r : Nat} {q : Rat} (hr : 2 ^ 40 ≤ r) (hlo : (r : Rat) ^ 2 ≤ q) (hhi : q < (r + 1) ^ 2)
    (hm : m = 2 * r + if (r : Rat) ^ 2 = q then 0 else 1) (e : Int) : StandsForRoot m e (q * (2 ^ (e + 1)) ^ 2) := by
  have hk : (0 : Rat) < 2 ^ (e + 1) := by positivity
  have hrpos : (0 : Rat) < r := by exact_mod_cast lt_of_lt_of_le (by decide) hr
  by_cases heq : (r : Rat) ^ 2 = q
  · have hexact : StandsFor m e (r * 2 ^ (e + 1)) := ⟨r, hr, .inl ⟨by simpa [heq] using hm, rfl⟩⟩
    have hsq : (r * 2 ^ (e + 1) : Rat) ^ 2 = q * (2 ^ (e + 1)) ^ 2 := by rw [mul_pow, heq]
    exact ⟨_, _, by positivity, hsq.le, by positivity, hsq.ge, hexact, hexact⟩
  · obtain ⟨lo, hi, hlo1, hlo2, hhi1, hhi2, hlosq, hhisq⟩ := root_between (lt_of_le_of_ne hlo heq) hhi
    have stands {x : Rat} (h1 : r < x) (h2 : x < r + 1) : StandsFor m e (x * 2 ^ (e + 1)) :=
      ⟨r, hr, .inr ⟨by simpa [heq] using hm, mul_lt_mul_of_pos_right h1 hk, mul_lt_mul_of_pos_right h2 hk⟩⟩
    have hsq : (0 : Rat) ≤ (2 ^ (e + 1)) ^ 2 := by positivity
    refine ⟨lo * 2 ^ (e + 1), hi * 2 ^ (e + 1), mul_pos (hrpos.trans hlo1) hk, ?_, mul_pos (hrpos.trans hhi1) hk, ?_,
      stands hlo1 hlo2, stands hhi1 hhi2⟩
    · rw [mul_pow]
      exact mul_le_mul_of_nonneg_right hlosq hsq
    · rw [mul_pow]
      exact mul_le_mul_of_nonneg_right hhisq hsq

/-- A magnitude with an even exponent. -/
theorem even_exponent {m : Nat} (hm : m ≠ 0) (e : Int) : ∃ (m1 : Nat) (e1 : Int), m1 ≠ 0 ∧
    (if (e % 2 != 0) = true then 2 * m else m) = m1 ∧ (if (e % 2 != 0) = true then e - 1 else e) = 2 * e1 ∧
    (m : Rat) * 2 ^ e = m1 * (2 ^ e1) ^ 2 := by
  have hsq (k : Int) : ((2 : Rat) ^ k) ^ 2 = 2 ^ (2 * k) := by rw [← zpow_natCast, ← zpow_mul, mul_comm]; rfl
  by_cases hodd : e % 2 = 0
  · refine ⟨m, e / 2, hm, by simp [hodd], ?_, ?_⟩
    · simp [hodd]; omega
    · rw [hsq]; congr 2; omega
  · refine ⟨2 * m, e / 2, by omega, by simp [hodd], ?_, ?_⟩
    · simp [hodd]; omega
    · rw [hsq, show e = 2 * (e / 2) + 1 by omega, zpow_add_one₀ (by norm_num)]
      rw [show (2 * (e / 2) + 1) / 2 = e / 2 by omega]
      push_cast
      ring

/-- R128: the model's root of a magnitude. -/
theorem sqrtMag_standsForRoot {m : Nat} (hm : m ≠ 0) (e : Int) : StandsForRoot (sqrtMag m e).1 (sqrtMag m e).2 (m * 2 ^ e) := by
  obtain ⟨m1, e1, hm1, hmant, hexp, hval⟩ := even_exponent hm e
  have hmag : sqrtMag m e = (2 * isqrt (m1 * 2 ^ 160) +
      (if isqrt (m1 * 2 ^ 160) * isqrt (m1 * 2 ^ 160) == m1 * 2 ^ 160 then 0 else 1), 2 * e1 / 2 - 80 - 1) := by
    simp only [sqrtMag, hmant, hexp]
  generalize hn : m1 * 2 ^ 160 = n at hmag
  obtain ⟨hlo, hhi⟩ := isqrt_spec n
  have hlarge : 2 ^ 40 ≤ isqrt n := le_isqrt (by rw [← hn, ← pow_add]; omega)
  have hroot := standsForRoot_of_square (m := (sqrtMag m e).1) (q := n) hlarge (by rw [sq]; exact_mod_cast hlo)
    (by rw [sq]; exact_mod_cast hhi) (by rw [hmag, sq]; norm_cast; simp) (2 * e1 / 2 - 80 - 1)
  have hq : (n : Rat) * (2 ^ (2 * e1 / 2 - 80 - 1 + 1)) ^ 2 = m * 2 ^ e := by
    rw [hval, ← hn, show 2 * e1 / 2 - 80 - 1 + 1 = e1 - 80 by omega, zpow_sub₀ (by norm_num)]
    push_cast
    ring
  rw [hq] at hroot
  rwa [hmag] at hroot ⊢

/-- The reciprocal root of R128 before rounding. -/
theorem frsqV_fin {m : Nat} (hm : m ≠ 0) (e : Int) : ∃ (q : Nat) (k : Int), frsqV (.fin false m e) = (.fin false q k, 0) ∧
    StandsForRoot q k (1 / (m * 2 ^ e)) := by
  obtain ⟨m1, e1, hm1, hmant, hexp, hval⟩ := even_exponent hm e
  generalize hk : 96 + Nat.log2 m1 = k
  generalize hr : isqrt (2 ^ (2 * k) / m1) = r
  have hm1pos : (0 : Rat) < m1 := by exact_mod_cast Nat.pos_of_ne_zero hm1
  have hV : frsqV (.fin false m e) = (.fin false (2 * r + if r * r * m1 == 2 ^ (2 * k) then 0 else 1)
      (-(2 * e1 / 2) - k - 1), 0) := by
    simp only [frsqV, beq_iff_eq, hm, if_false, Bool.false_eq_true, hmant, hexp, hk, hr]
  refine ⟨_, _, hV, ?_⟩
  obtain ⟨hlo, hhi⟩ := isqrt_spec (2 ^ (2 * k) / m1)
  rw [hr] at hlo hhi
  have hlarge : 2 ^ 40 ≤ r := by
    rw [← hr]
    refine le_isqrt ((Nat.le_div_iff_mul_le (Nat.pos_of_ne_zero hm1)).mpr ?_)
    calc 2 ^ 40 * 2 ^ 40 * m1 ≤ 2 ^ 40 * 2 ^ 40 * 2 ^ (Nat.log2 m1 + 1) := Nat.mul_le_mul_left _ (lt_log2 hm1).le
      _ = 2 ^ (81 + Nat.log2 m1) := by rw [← pow_add, ← pow_add]; congr 1; omega
      _ ≤ 2 ^ (2 * k) := Nat.pow_le_pow_right (by decide) (by omega)
  rw [Nat.le_div_iff_mul_le (Nat.pos_of_ne_zero hm1)] at hlo
  rw [Nat.div_lt_iff_lt_mul (Nat.pos_of_ne_zero hm1)] at hhi
  have hexact : (r : Rat) ^ 2 = 2 ^ (2 * k) / m1 ↔ r * r * m1 = 2 ^ (2 * k) := by
    rw [eq_div_iff hm1pos.ne', sq]
    norm_cast
  have hroot := standsForRoot_of_square (q := 2 ^ (2 * k) / m1) hlarge
    (by rw [le_div_iff₀ hm1pos, sq]; exact_mod_cast hlo) (by rw [div_lt_iff₀ hm1pos, sq]; exact_mod_cast hhi)
    (m := 2 * r + if r * r * m1 == 2 ^ (2 * k) then 0 else 1)
    (by simp only [hexact, beq_iff_eq]) (-(2 * e1 / 2) - k - 1)
  have hq : (2 ^ (2 * k) / m1 : Rat) * (2 ^ (-(2 * e1 / 2) - (k : Int) - 1 + 1)) ^ 2 = 1 / (m * 2 ^ e) := by
    rw [hval, show -(2 * e1 / 2) - (k : Int) - 1 + 1 = -e1 + -k by omega, zpow_add₀ (by norm_num), zpow_neg, zpow_neg,
      zpow_natCast, pow_mul']
    field_simp
  rwa [hq] at hroot

end Sys2Proof.Machine

/-! Proofs: whole numbers and exponents as float values (R132, R135). -/

namespace Sys2Proof.Machine

/-! ### Numbers of the grid -/

theorem isF_cases {t : Ty} (h : t.isF = true) : t = .fp32 ∨ t = .bf16 ∨ t = .fp16 := by
  revert h
  cases t <;> decide

/-- The power of two after the largest number of a type. -/
theorem gridVal_top {t : Ty} (hF : t.isF = true) : gridVal t (topCode t + 1) = 2 ^ (biasOf t + 1) := by
  have htop : topCode t + 1 = (2 ^ expBits t - 1) * 2 ^ mantBits t + 0 := by obtain rfl | rfl | rfl := isF_cases hF <;> decide
  have hexp : ((2 ^ expBits t - 1 - 1 : Nat) : Int) = 2 * biasOf t := by obtain rfl | rfl | rfl := isF_cases hF <;> decide
  have hfield : 2 ^ expBits t - 1 ≠ 0 := by obtain rfl | rfl | rfl := isF_cases hF <;> decide
  rw [gridVal, htop, grid_field _ _ _ (by positivity), if_neg hfield, add_zero, Nat.cast_mul, Nat.cast_pow, Nat.cast_pow,
    Nat.cast_ofNat, ← zpow_natCast, ← zpow_natCast, hexp, ← zpow_add₀ (by norm_num), ← zpow_add₀ (by norm_num)]
  congr 1
  rw [unitExp]
  omega

/-- A whole number of few bits is a number of the type. -/
theorem whole_on_grid {t : Ty} (hF : t.isF = true) {k : Nat} (hk : k < 2 ^ (mantBits t + 1)) :
    ∃ c, c ≤ topCode t ∧ gridVal t c = k * 2 ^ (0 : Int) := by
  have hunit : unitExp t ≤ 0 := by obtain rfl | rfl | rfl := isF_cases hF <;> decide
  have hbias : (mantBits t + 1 : Nat) ≤ biasOf t + 1 := by obtain rfl | rfl | rfl := isF_cases hF <;> decide
  obtain ⟨c, hc⟩ := gridVal_of_count hk hunit
  refine ⟨c, Nat.lt_succ_iff.mp ((gridVal_strictMono t).lt_iff_lt.mp ?_), hc⟩
  calc gridVal t c = k := by rw [hc, zpow_zero, mul_one]
    _ < 2 ^ (mantBits t + 1) := by exact_mod_cast hk
    _ ≤ 2 ^ (biasOf t + 1) := by
      rw [← zpow_natCast]
      exact zpow_le_zpow_right₀ (by norm_num) hbias
    _ = gridVal t (topCode t + 1) := (gridVal_top hF).symm

/-- A result that is a number of the type keeps its value and its sign, without a flag. -/
theorem result_on_grid {t : Ty} (hF : t.isF = true) {n : Nat} (hn : n < 4) (neg : Bool) {m c : Nat} {e : Int} (hc : c ≤ topCode t)
    (hval : gridVal t c = m * 2 ^ e) :
    number t (floatResult t (rmOf n) .none 0 (.fin neg m e, 0)).1 = sgn neg * (m * 2 ^ e) ∧
      (floatResult t (rmOf n) .none 0 (.fin neg m e, 0)).1.msb = neg ∧
      (floatResult t (rmOf n) .none 0 (.fin neg m e, 0)).2 = 0 := by
  have ht := Ty.isFloat_of_isF hF
  have hsmall : c < 2 ^ (t.bits - 1) := hc.trans_lt (topCode_lt ht)
  have hnum := number_codeOf ht neg hsmall
  rcases Nat.eq_zero_or_pos m with rfl | hm
  · rw [Nat.cast_zero, zero_mul, ← gridVal_zero t, (gridVal_strictMono t).injective.eq_iff] at hval
    subst hval
    rw [result_zero hF]
    exact ⟨by simpa [zeroOf_eq] using hnum, by rw [zeroOf_eq, msb_codeOf t neg hsmall], rfl⟩
  · have hr := result_exact hF 0 hn neg m e
    have hpos : (0 : Rat) < m * 2 ^ e := by positivity
    rw [zpow_zero, mul_one] at hr
    have hsign : _ = decide _ := hr.sign (by rw [ne_eq, mul_eq_zero]; cases neg <;> simp [sgn, hpos.ne'])
      (.inl (by rintro rfl; exact absurd hF (by decide)))
    rw [sgn_neg_iff neg hpos] at hsign
    rw [← hval, ← hnum] at hr ⊢
    obtain ⟨hv, hf⟩ := RoundedBy.exact_of_number ht hn (by rw [special_codeOf neg hsmall]; simpa using hc) hr
    exact ⟨hv, hsign, hf⟩

/-! ### R132 -/

theorem frintMode_rmOf (m code : Nat) : frintMode (rmOf m) code = rmOf (if code < 4 then code else m) := by
  match code with
  | 0 | 1 | 2 | 3 => rfl
  | _ + 4 => rfl

/-- A whole number is rounded to itself. -/
theorem roundsTo_self (m : Nat) (n : Int) : RoundsTo m n n := by
  refine ⟨fun _ => ?_, fun _ => ?_, fun _ => ?_, fun _ => ?_⟩ <;> simp

/-- R132: a number rounded to a whole one. -/
theorem frint_fin {t : Ty} (hF : t.isF = true) {a : BitVec t.bits} (ha : special t a = false) {n k : Nat} (hn : n < 4) (hk : k < 4) :
    ∃ i : Int, RoundsTo k (number t a) i ∧ number t (floatResult t (rmOf n) .none 0 (frintV (rmOf k) (val t a))).1 = i ∧
      (floatResult t (rmOf n) .none 0 (frintV (rmOf k) (val t a))).1.msb = a.msb ∧
      (floatResult t (rmOf n) .none 0 (frintV (rmOf k) (val t a))).2 = 0 := by
  have ht := Ty.isFloat_of_isF hF
  obtain ⟨m, e, hv, hnum, -⟩ := val_fin ht ha
  obtain ⟨hm, hlow, -⟩ := val_fin_bounds ht hv
  rw [hv, hnum, frintV]
  by_cases he : e ≥ 0
  · have hgrid : gridVal t (magnitude t a) = m * 2 ^ e := by
      have h := number_eq ht a
      rw [hnum] at h
      exact (mul_left_cancel₀ (by cases a.msb <;> simp [sgn]) h).symm
    obtain ⟨hr, hs, hf⟩ := result_on_grid hF hn a.msb (special_eq_false.mp ha) hgrid
    have hwhole : sgn a.msb * (m * 2 ^ e) = (signedNat a.msb (m * 2 ^ e.toNat) : Rat) := by
      obtain ⟨j, rfl⟩ := Int.eq_ofNat_of_zero_le he
      rw [cast_signedNat, Nat.cast_mul, Nat.cast_pow, Nat.cast_ofNat, Int.toNat_natCast, zpow_natCast]
    rw [if_pos he]
    exact ⟨_, hwhole ▸ roundsTo_self k _, hr.trans hwhole, hs, hf⟩
  · rw [if_neg he]
    obtain ⟨q, up, hq, hround⟩ := roundAt_spec (rmOf k) a.msb m e 0
    rw [sub_zero] at hround
    have hlt : (q : Rat) < 2 ^ mantBits t := calc
      (q : Rat) ≤ m * 2 ^ e := hround.le
      _ ≤ m * 2 ^ (-1 : Int) := mul_le_mul_of_nonneg_left (zpow_le_zpow_right₀ (by norm_num) (by omega)) (by positivity)
      _ < 2 ^ (mantBits t + 1) * 2 ^ (-1 : Int) := mul_lt_mul_of_pos_right (by exact_mod_cast hm) (by positivity)
      _ = 2 ^ mantBits t := by rw [pow_succ, zpow_neg_one, mul_inv_cancel_right₀ (by norm_num)]
    have hcount : q + up.toNat < 2 ^ (mantBits t + 1) := by
      have hq' : q < 2 ^ mantBits t := by exact_mod_cast hlt
      have := Nat.one_le_two_pow (n := mantBits t)
      have := up.toNat_le
      rw [pow_succ]
      omega
    obtain ⟨c, hc, hgrid⟩ := whole_on_grid hF hcount
    obtain ⟨hr, hs, hf⟩ := result_on_grid hF hn a.msb hc hgrid
    rw [hq]
    exact ⟨_, hround.roundsTo hk, by rw [hr, cast_signedNat, zpow_zero, mul_one], hs, hf⟩

/-! ### R135 -/

/-- R135: the exponent of a number. -/
theorem fgetx_fin {t : Ty} (hF : t.isF = true) {a : BitVec t.bits} (ha : special t a = false ∧ isZero t a = false) {n : Nat}
    (hn : n < 4) : (floatResult t (rmOf n) .none 0 (fgetxV (val t a))).2 = 0 ∧
      ∃ i : Int, number t (floatResult t (rmOf n) .none 0 (fgetxV (val t a))).1 = i ∧
        2 ^ i ≤ |number t a| ∧ |number t a| < 2 ^ (i + 1) := by
  have ht := Ty.isFloat_of_isF hF
  obtain ⟨m, e, hv, hm, hnum⟩ := val_finite ht ha
  obtain ⟨hcount, hlow, hhigh⟩ := val_fin_bounds ht hv
  have hlog : Nat.log2 m < mantBits t + 1 := (Nat.log2_lt hm).mpr hcount
  have hsmall : (topExp m e).natAbs < 2 ^ (mantBits t + 1) := by
    have hlo : -(2 ^ (mantBits t + 1) : Nat) < unitExp t := by obtain rfl | rfl | rfl := isF_cases hF <;> decide
    have hhi : unitExp t + ((topCode t / 2 ^ mantBits t : Nat) - 1 : Int) + mantBits t < (2 ^ (mantBits t + 1) : Nat) := by
      obtain rfl | rfl | rfl := isF_cases hF <;> decide
    rw [topExp]
    omega
  obtain ⟨c, hc, hgrid⟩ := whole_on_grid hF hsmall
  obtain ⟨hr, -, hf⟩ := result_on_grid hF hn (decide (topExp m e < 0)) hc hgrid
  have hres : fgetxV (val t a) = (.fin (decide (topExp m e < 0)) (topExp m e).natAbs 0, 0) := by
    rw [hv, fgetxV, if_neg (by simpa using hm), FVal.ofInt]
  have hlead := leading_bounds hm e 0
  rw [sub_zero, sub_zero, sub_zero] at hlead
  rw [hres, hnum, abs_sgn_mul, abs_of_nonneg (by positivity)]
  exact ⟨hf, topExp m e, by rw [hr, zpow_zero, mul_one, sgn_mul_natAbs], hlead⟩

end Sys2Proof.Machine

/-! Proofs: a number scaled by a power of two that another number gives (R134). -/

namespace Sys2Proof.Machine

/-! ### Magnitudes beyond every point where a rounding changes -/

theorem Alike.of_beyond {t : Ty} {x y : Rat} (hx : gridVal t (topCode t + 1) < x) (hy : gridVal t (topCode t + 1) < y) :
    Alike t x y := fun _ ⟨_, _, _, _, _, htop⟩ =>
  ⟨iff_of_false (by linarith) (by linarith), iff_of_true (by linarith) (by linarith)⟩

theorem Alike.of_below {t : Ty} {x y : Rat} (hx0 : 0 < x) (hy0 : 0 < y) (hx : x < 2 ^ (unitExp t - 2)) (hy : y < 2 ^ (unitExp t - 2)) :
    Alike t x y := by
  rintro T ⟨j, k, rfl, -, hk, -⟩
  rcases Nat.eq_zero_or_pos j with rfl | hj
  · rw [Nat.cast_zero, zero_mul]
    exact ⟨iff_of_false (by linarith) (by linarith), iff_of_true hx0 hy0⟩
  · have hT : (2 : Rat) ^ (unitExp t - 2) ≤ j * 2 ^ k := calc
      (2 : Rat) ^ (unitExp t - 2) ≤ 2 ^ k := zpow_le_zpow_right₀ (by norm_num) hk
      _ ≤ j * 2 ^ k := le_mul_of_one_le_left (by positivity) (by exact_mod_cast hj)
    exact ⟨iff_of_true (by linarith) (by linarith), iff_of_false (by linarith) (by linarith)⟩

/-! ### R134 -/

/-- Rounding toward zero gives one whole number. -/
theorem RoundsTo.rz_unique {q : Rat} {i j : Int} (hi : RoundsTo 1 q i) (hj : RoundsTo 1 q j) : i = j :=
  (hi.2.1 rfl).trans (hj.2.1 rfl).symm

/-- The shift the model takes of a number: it, rounded toward zero, or cut to 4,096 either way. -/
theorem finsxV_fin (s : Bool) (m : Nat) (e : Int) {t : Ty} (ht : t.isFloat = true) {b : BitVec t.bits} (hb : special t b = false) :
    ∃ q : Nat, RoundsTo 1 (number t b) (signedNat b.msb q) ∧
      finsxV (.fin s m e) (val t b) = (.fin s m (e + signedNat b.msb (min q 4096)), 0) := by
  obtain ⟨nm, ne, hv, hnum, hz⟩ := val_fin ht hb
  obtain ⟨q, up, hq, hround⟩ := roundAt_spec .rz b.msb nm ne 0
  rw [sub_zero] at hround
  refine ⟨q + up.toNat, hnum ▸ hround.roundsTo (n := 1) (by decide), ?_⟩
  have hcut : min (if topExp (max nm 1) ne > 12 then 4096 else ((roundAt .rz b.msb nm ne 0).1 : Int)) 4096 =
      (min (q + up.toNat) 4096 : Nat) := by
    rw [hq]
    split
    case isFalse => push_cast; rfl
    case isTrue hbig =>
      have hnm : nm ≠ 0 := by
        rintro rfl
        have hexp : ne = unitExp t := by
          have h := (val_zero ht (hz.mp rfl)).symm.trans hv
          injection h with _ _ h
          exact h.symm
        have hunit : unitExp t ≤ 12 := by obtain rfl | rfl | rfl | rfl | rfl | rfl := float_cases ht <;> decide
        rw [topExp, hexp, show Nat.log2 (max 0 1) = 0 by decide] at hbig
        omega
      have hlarge : (2 : Rat) ^ (13 : Int) < q + 1 := calc
        (2 : Rat) ^ (13 : Int) ≤ 2 ^ topExp nm ne := zpow_le_zpow_right₀ (by norm_num) (by
          rw [max_eq_left (Nat.one_le_iff_ne_zero.mpr hnm)] at hbig
          omega)
        _ ≤ nm * 2 ^ ne := by simpa using (leading_bounds hnm ne 0).1
        _ < q + 1 := hround.lt
      have hcount : 4096 ≤ q := by
        have h : (4096 : Rat) < q := by norm_num at hlarge; linarith
        exact_mod_cast h.le
      omega
  rw [hv, finsxV, hcut]
  rfl

/-- A shift of more than 4,096 places rounds as one of 4,096. -/
theorem shift_alike {t : Ty} (hF : t.isF = true) {s : Bool} {a : BitVec t.bits} {m : Nat} {e : Int} (hv : val t a = .fin s m e)
    (hm : m ≠ 0) {sc : Int} (hsc : -8 ≤ sc ∧ sc < 8) (neg : Bool) (q : Nat) :
    Alike t (m * 2 ^ (e + signedNat neg q) * 2 ^ sc) (m * 2 ^ (e + signedNat neg (min q 4096) + sc)) := by
  obtain ⟨hcount, hlow, hhigh⟩ := val_fin_bounds (Ty.isFloat_of_isF hF) hv
  have hmpos : (1 : Rat) ≤ m := by exact_mod_cast Nat.one_le_iff_ne_zero.mpr hm
  rw [mul_assoc, ← zpow_add₀ (by norm_num)]
  rcases le_or_gt q 4096 with hq | hq
  · rw [min_eq_left hq]
    exact .refl t _
  · rw [min_eq_right hq.le]
    cases neg with
    | false =>
      have htop : biasOf t + 1 < unitExp t + 4088 := by obtain rfl | rfl | rfl := isF_cases hF <;> decide
      have beyond {k : Int} (hk : e + 4088 ≤ k) : gridVal t (topCode t + 1) < m * 2 ^ k := by
        rw [gridVal_top hF]
        calc (2 : Rat) ^ (biasOf t + 1) < 2 ^ k := zpow_lt_zpow_right₀ (by norm_num) (by omega)
          _ ≤ m * 2 ^ k := le_mul_of_one_le_left (by positivity) hmpos
      exact .of_beyond (beyond (by simp [signedNat]; omega)) (beyond (by simp [signedNat]; omega))
    | true =>
      have hbottom : mantBits t + 1 + (unitExp t + ((topCode t / 2 ^ mantBits t : Nat) - 1 : Int)) - 4088 < unitExp t - 2 := by
        obtain rfl | rfl | rfl := isF_cases hF <;> decide
      have below {k : Int} (hk : k ≤ e - 4088) : m * 2 ^ k < (2 : Rat) ^ (unitExp t - 2) := calc
        (m : Rat) * 2 ^ k ≤ 2 ^ (mantBits t + 1) * 2 ^ k := mul_le_mul_of_nonneg_right (by exact_mod_cast hcount.le) (by positivity)
        _ = 2 ^ ((mantBits t + 1 : Nat) + k) := by rw [zpow_add₀ (by norm_num), zpow_natCast]
        _ < 2 ^ (unitExp t - 2) := zpow_lt_zpow_right₀ (by norm_num) (by push_cast; omega)
      exact .of_below (by positivity) (by positivity) (below (by simp [signedNat]; omega)) (below (by simp [signedNat]; omega))

/-- R134: a number scaled by a power of two, rounded once. -/
theorem finsx_fin {t : Ty} (hF : t.isF = true) {a b : BitVec t.bits} (ha : special t a = false ∧ isZero t a = false)
    (hb : special t b = false) {n : Nat} (hn : n < 4) {sc : Int} (hsc : -8 ≤ sc ∧ sc < 8) {i : Int} (hi : RoundsTo 1 (number t b) i) :
    Rounded t n (number t a * 2 ^ (i + sc)) (floatResult t (rmOf n) .none sc (finsxV (val t a) (val t b))).1
      (floatResult t (rmOf n) .none sc (finsxV (val t a) (val t b))).2 := by
  have ht := Ty.isFloat_of_isF hF
  obtain ⟨m, e, hv, hm, hnum⟩ := val_finite ht ha
  obtain ⟨q, hq, hres⟩ := finsxV_fin a.msb m e ht hb
  have hval : number t a * 2 ^ (i + sc) = sgn a.msb * (m * 2 ^ (e + signedNat b.msb q)) * 2 ^ sc := by
    rw [hnum, hi.rz_unique hq, zpow_add₀ (by norm_num), zpow_add₀ (by norm_num)]
    ring
  rw [hv, hres, hval]
  exact result_alike hF sc hn a.msb hm _ (by positivity) (shift_alike hF hv hm hsc b.msb q)

end Sys2Proof.Machine

/-! Proofs: the Taylor sum of the exponent lane lies near the power of two (R133). -/

namespace Sys2Proof.Machine

/-! ### The Taylor sum -/

/-- The unit of the Taylor sum. -/
def expUnit : Nat := 2 ^ 192

theorem expUnit_pos : 0 < expUnit := by decide

theorem expGo_succ (x : Int) (k : Nat) (acc : Int) :
    expGo x (k + 1) acc = expGo x k (expUnit + acc * x / (expUnit * (k + 1 : Nat))) := rfl

/-- A floor's quotient is short of the exact one by less than one. -/
theorem floor_quotient (n : Int) {d : Nat} (hd : 0 < d) : ∃ r : ℝ, 0 ≤ r ∧ r < 1 ∧ ((n / d : Int) : ℝ) = n / d - r := by
  have hdpos : (0 : ℝ) < d := by exact_mod_cast hd
  have hz : (d : Int) ≠ 0 := by exact_mod_cast hd.ne'
  refine ⟨(n % d : Int) / d, ?_, ?_, ?_⟩
  · exact div_nonneg (by exact_mod_cast Int.emod_nonneg n hz) hdpos.le
  · rw [div_lt_one hdpos]
    exact_mod_cast Int.emod_lt_of_pos n (by exact_mod_cast hd)
  · have hdiv : (n : ℝ) = d * (n / d : Int) + (n % d : Int) := by exact_mod_cast (Int.mul_ediv_add_emod n d).symm
    rw [eq_sub_iff_add_eq, eq_comm, div_eq_iff hdpos.ne', add_mul, div_mul_cancel₀ _ hdpos.ne', mul_comm]
    exact hdiv

/-- The Taylor sum over the terms below k and the part of the k-th that has been summed. -/
noncomputable def taylor (y : ℝ) (k : Nat) (a : ℝ) : ℝ := ∑ i ∈ Finset.range k, y ^ i / i.factorial + a * (y ^ k / k.factorial)

theorem taylor_succ (y : ℝ) (k : Nat) (a : ℝ) : taylor y (k + 1) a = taylor y k (1 + a * (y / (k + 1))) := by
  unfold taylor
  rw [Finset.sum_range_succ, Nat.factorial_succ, pow_succ]
  push_cast
  field_simp
  ring

theorem taylor_near {y : ℝ} (hy : |y| ≤ 1) (k : Nat) (a b : ℝ) : |taylor y k a - taylor y k b| ≤ |a - b| := by
  have hterm : |y ^ k / k.factorial| ≤ 1 := by
    rw [abs_div, abs_pow, Nat.abs_cast, div_le_one (by positivity)]
    exact (pow_le_one₀ (abs_nonneg y) hy).trans (by exact_mod_cast k.factorial_pos)
  have hdiff : taylor y k a - taylor y k b = (a - b) * (y ^ k / k.factorial) := by unfold taylor; ring
  rw [hdiff, abs_mul]
  exact mul_le_of_le_one_right (abs_nonneg _) hterm

/-- Each step of the model's sum loses less than one unit. -/
theorem expGo_near_taylor {x : Int} (hx : |x / (expUnit : ℝ)| ≤ 1) : ∀ (k : Nat) (acc : Int),
    |expGo x k acc / (expUnit : ℝ) - taylor (x / expUnit) k (acc / expUnit)| ≤ k / expUnit
  | 0, acc => by simp [expGo, taylor]
  | k + 1, acc => by
    have hU : (0 : ℝ) < expUnit := by exact_mod_cast expUnit_pos
    obtain ⟨r, hr0, hr1, hr⟩ := floor_quotient (acc * x) (Nat.mul_pos expUnit_pos k.succ_pos)
    rw [expGo_succ, taylor_succ]
    have hstep : (expUnit + acc * x / (expUnit * (k + 1 : Nat)) : Int) / (expUnit : ℝ) -
        (1 + acc / expUnit * (x / expUnit / (k + 1))) = -(r / expUnit) := by
      rw [← Nat.cast_mul, Int.cast_add, hr]
      push_cast
      field_simp
      ring
    have hloss := taylor_near hx k ((expUnit + acc * x / (expUnit * (k + 1 : Nat)) : Int) / (expUnit : ℝ))
      (1 + acc / expUnit * (x / expUnit / (k + 1)))
    rw [hstep, abs_neg, abs_of_nonneg (div_nonneg hr0 hU.le)] at hloss
    have hsmall : r / (expUnit : ℝ) ≤ 1 / expUnit := div_le_div_of_nonneg_right hr1.le hU.le
    refine (abs_sub_le _ _ _).trans ((add_le_add (expGo_near_taylor hx k _) (hloss.trans hsmall)).trans_eq ?_)
    rw [← add_div, Nat.cast_succ]

/-- Sixty terms of the exponential. -/
theorem expGo_near_exp {x : Int} (hx : |x / (expUnit : ℝ)| ≤ 1) :
    |expGo x 60 expUnit / (expUnit : ℝ) - Real.exp (x / expUnit)| ≤ 1 / 10 ^ 12 := by
  have hU : (0 : ℝ) < expUnit := by exact_mod_cast expUnit_pos
  have hsum : taylor (x / expUnit) 60 ((expUnit : Int) / expUnit) = ∑ i ∈ Finset.range 61, (x / (expUnit : ℝ)) ^ i / i.factorial := by
    rw [Finset.sum_range_succ, taylor, Int.cast_natCast, div_self hU.ne', one_mul]
  have hgo := expGo_near_taylor hx 60 expUnit
  have htail := Real.exp_bound hx (n := 61) (by decide)
  have hpow : |x / (expUnit : ℝ)| ^ 61 ≤ 1 := pow_le_one₀ (abs_nonneg _) hx
  have hlast : ((Nat.succ 61 : Nat) / ((61 : Nat).factorial * (61 : Nat)) : ℝ) ≤ 1 / 10 ^ 13 := by norm_num [Nat.factorial]
  have hround : ((60 : Nat) : ℝ) / expUnit ≤ 1 / 10 ^ 13 := by norm_num [expUnit]
  rw [hsum] at hgo
  rw [abs_sub_comm] at htail
  have htail' := htail.trans (mul_le_of_le_one_left (by positivity) hpow)
  calc _ ≤ _ + _ := abs_sub_le _ _ _
    _ ≤ 1 / 10 ^ 13 + 1 / 10 ^ 13 := add_le_add (hgo.trans hround) (htail'.trans hlast)
    _ ≤ _ := by norm_num

/-- Of a positive exponent the sum is one at least. -/
theorem unit_le_expGo {x : Int} (hx : 0 ≤ x) : ∀ (k : Nat) (acc : Int), (expUnit : Int) ≤ acc → expUnit ≤ expGo x k acc
  | 0, _, h => h
  | k + 1, acc, h => by
    have : 0 ≤ acc * x := mul_nonneg (by omega) hx
    rw [expGo_succ]
    exact unit_le_expGo hx k _ (le_add_of_nonneg_right (Int.ediv_nonneg this (by positivity)))

/-- Of a negative exponent the sum is below one. -/
theorem expGo_lt_unit {x : Int} (hlo : -(expUnit : Int) ≤ x) (hx : x < 0) : ∀ (k : Nat) (acc : Int), 0 < acc → acc ≤ expUnit →
    expGo x (k + 1) acc < expUnit
  | k, acc, h0, h1 => by
    have hU := expUnit_pos
    have hneg : acc * x / (expUnit * (k + 1 : Nat)) < 0 :=
      Int.ediv_neg_of_neg_of_pos (mul_neg_of_pos_of_neg h0 hx) (by positivity)
    rw [expGo_succ]
    cases k with
    | zero => exact add_lt_of_neg_right _ hneg
    | succ k =>
      refine expGo_lt_unit hlo hx k _ ?_ (by omega)
      have hprod : -(expUnit * expUnit : Int) ≤ acc * x := by nlinarith
      have hhalf : -(expUnit : Int) < acc * x / (expUnit * (k + 1 + 1 : Nat)) := by
        rw [Int.lt_iff_add_one_le, Int.le_ediv_iff_mul_le (by positivity)]
        have hk : (2 : Int) ≤ (k + 1 + 1 : Nat) := by omega
        have hunit : (2 : Int) ≤ expUnit := by decide
        have hterm : (expUnit : Int) ≤ (expUnit - 1) * (k + 1 + 1 : Nat) := by nlinarith
        calc (-(expUnit : Int) + 1) * (expUnit * (k + 1 + 1 : Nat)) = -(expUnit * ((expUnit - 1) * (k + 1 + 1 : Nat))) := by ring
          _ ≤ -(expUnit * expUnit) := neg_le_neg (mul_le_mul_of_nonneg_left hterm (by positivity))
          _ ≤ acc * x := hprod
      omega

/-! ### The exponent -/

/-- The exponent of m / 2^j times ln 2, in units. -/
def expArg (neg : Bool) (m j : Nat) : Int := if neg then -((m * ln2q / 2 ^ (64 + j) : Nat) : Int) - 1 else (m * ln2q / 2 ^ (64 + j) : Nat)

theorem exp2Mag_eq (neg : Bool) (m : Nat) {j : Nat} (hj : j ≠ 0) :
    exp2Mag neg m (-(j : Int)) = 2 * (expGo (expArg neg m j) 60 expUnit).toNat + 1 := by
  unfold exp2Mag expArg
  rw [if_neg (by omega), neg_neg, Int.toNat_natCast]
  rfl

/-- The binary fraction the model takes for ln 2. -/
theorem ln2q_near : |(ln2q : ℝ) / 2 ^ 256 - Real.log 2| ≤ 11 / 10 ^ 11 := by
  have hfraction : |(ln2q : ℝ) / 2 ^ 256 - 287209 / 414355| ≤ 1 / 10 ^ 11 := by
    rw [abs_le]
    constructor <;> norm_num [ln2q]
  have hlog := Real.log_two_near_10
  rw [abs_sub_comm] at hlog
  calc _ ≤ _ + _ := abs_sub_le _ _ _
    _ ≤ 1 / 10 ^ 11 + 1 / 10 ^ 10 := add_le_add hfraction hlog
    _ ≤ _ := by norm_num

section Argument
variable {m j : Nat} (hm : m < 2 ^ j)
include hm

theorem expArg_lt : m * ln2q / 2 ^ (64 + j) < expUnit := by
  rw [Nat.div_lt_iff_lt_mul (by positivity), expUnit, ← pow_add, show 192 + (64 + j) = j + 256 by omega, pow_add]
  exact Nat.mul_lt_mul'' hm (by decide)

theorem expArg_nonneg : 0 ≤ expArg false m j ∧ |(expArg false m j : ℝ) / expUnit| ≤ 1 := by
  have hlt := expArg_lt hm
  have hU : (0 : ℝ) < expUnit := by exact_mod_cast expUnit_pos
  rw [expArg, if_neg (by decide)]
  refine ⟨by positivity, ?_⟩
  rw [Int.cast_natCast, abs_of_nonneg (by positivity), div_le_one hU]
  exact_mod_cast hlt.le

theorem expArg_neg : -(expUnit : Int) ≤ expArg true m j ∧ expArg true m j < 0 ∧ |(expArg true m j : ℝ) / expUnit| ≤ 1 := by
  have hlt := expArg_lt hm
  have hU : (0 : ℝ) < expUnit := by exact_mod_cast expUnit_pos
  rw [expArg, if_pos rfl]
  generalize m * ln2q / 2 ^ (64 + j) = x at hlt
  refine ⟨by omega, by omega, ?_⟩
  rw [abs_div, Nat.abs_cast, div_le_one hU, Int.cast_sub, Int.cast_neg, Int.cast_natCast, Int.cast_one, ← neg_add', abs_neg,
    abs_of_nonneg (by positivity)]
  exact_mod_cast hlt

theorem expArg_abs (neg : Bool) : |(expArg neg m j : ℝ) / expUnit| ≤ 1 := by
  cases neg with
  | false => exact (expArg_nonneg hm).2
  | true => exact (expArg_neg hm).2.2

/-- The exponent is within a unit and ln 2's error of the exact one. -/
theorem expArg_near (neg : Bool) :
    |(expArg neg m j : ℝ) / expUnit - (if neg then -1 else 1) * (m / 2 ^ j) * Real.log 2| ≤ 12 / 10 ^ 11 := by
  have hU : (0 : ℝ) < expUnit := by exact_mod_cast expUnit_pos
  have hm1 : (m : ℝ) / 2 ^ j ≤ 1 := by rw [div_le_one (by positivity)]; exact_mod_cast hm.le
  have hm0 : (0 : ℝ) ≤ m / 2 ^ j := by positivity
  obtain ⟨r, hr0, hr1, hr⟩ := floor_quotient (m * ln2q : Nat) (d := 2 ^ (64 + j)) (by positivity)
  have hfloor : ((m * ln2q / 2 ^ (64 + j) : Nat) : ℝ) / expUnit = m / 2 ^ j * (ln2q / 2 ^ 256) - r / expUnit := by
    have hcast : ((m * ln2q / 2 ^ (64 + j) : Nat) : ℝ) = ((m * ln2q : Nat) / (2 ^ (64 + j) : Nat) : Int) := by push_cast; rfl
    have hscale : (2 : ℝ) ^ 256 = 2 ^ 64 * expUnit := by norm_num [expUnit]
    rw [hcast, hr, pow_add, hscale]
    push_cast
    field_simp
    ring
  have hln : |m / 2 ^ j * (ln2q / 2 ^ 256) - m / 2 ^ j * Real.log 2| ≤ 11 / 10 ^ 11 := by
    rw [← mul_sub, abs_mul, abs_of_nonneg hm0]
    exact (mul_le_of_le_one_left (abs_nonneg _) hm1).trans ln2q_near
  have hunit : (1 : ℝ) / expUnit ≤ 1 / 10 ^ 11 := by norm_num [expUnit]
  have hr0' : 0 ≤ r / expUnit := by positivity
  have hr1' : r / expUnit ≤ 1 / expUnit := div_le_div_of_nonneg_right hr1.le hU.le
  rw [abs_le] at hln ⊢
  cases neg with
  | false =>
    rw [expArg, if_neg (by decide), if_neg (by decide), one_mul, Int.cast_natCast, hfloor]
    constructor <;> linarith
  | true =>
    rw [expArg, if_pos rfl, if_pos rfl, Int.cast_sub, Int.cast_neg, Int.cast_natCast, Int.cast_one, sub_div, neg_div, hfloor]
    constructor <;> linarith

end Argument

/-- Exponents near each other have powers near each other. -/
theorem exp_near {y z d : ℝ} (hd : d ≤ 1) (hyz : |y - z| ≤ d) : |Real.exp y - Real.exp z| ≤ 2 * d * Real.exp z := by
  have hdiff : Real.exp y - Real.exp z = Real.exp z * (Real.exp (y - z) - 1) := by rw [mul_sub, ← Real.exp_add]; ring_nf
  rw [hdiff, abs_mul, abs_of_pos (Real.exp_pos z), mul_comm]
  exact mul_le_mul_of_nonneg_right ((Real.abs_exp_sub_one_le (hyz.trans hd)).trans (by linarith)) (Real.exp_pos z).le

/-- R133: the model's sum lies near the power. -/
theorem expGo_near_power {m j : Nat} (hm : m < 2 ^ j) (neg : Bool) :
    |expGo (expArg neg m j) 60 expUnit / (expUnit : ℝ) - 2 ^ ((if neg then -1 else 1) * (m / 2 ^ j) : ℝ)| ≤ 6 / 10 ^ 10 := by
  have hexp : (2 : ℝ) ^ ((if neg then -1 else 1) * (m / 2 ^ j) : ℝ) =
      Real.exp ((if neg then -1 else 1) * (m / 2 ^ j) * Real.log 2) := by rw [Real.rpow_def_of_pos (by norm_num), mul_comm]
  have hpower : (2 : ℝ) ^ ((if neg then -1 else 1) * (m / 2 ^ j) : ℝ) ≤ 2 := by
    have hm1 : (m : ℝ) / 2 ^ j ≤ 1 := by rw [div_le_one (by positivity)]; exact_mod_cast hm.le
    have hm0 : (0 : ℝ) ≤ m / 2 ^ j := by positivity
    calc (2 : ℝ) ^ ((if neg then -1 else 1) * (m / 2 ^ j) : ℝ) ≤ 2 ^ (1 : ℝ) :=
          Real.rpow_le_rpow_of_exponent_le (by norm_num) (by cases neg <;> simp <;> linarith)
      _ = 2 := Real.rpow_one 2
  have hclose := exp_near (by norm_num) (expArg_near hm neg)
  rw [← hexp] at hclose
  calc _ ≤ _ + _ := abs_sub_le _ _ _
    _ ≤ 1 / 10 ^ 12 + 2 * (12 / 10 ^ 11) * 2 := add_le_add (expGo_near_exp (expArg_abs hm neg))
        (hclose.trans (mul_le_mul_of_nonneg_left hpower (by norm_num)))
    _ ≤ _ := by norm_num

end Sys2Proof.Machine

/-! Proofs: the exponent lane (R133). -/

namespace Sys2Proof.Machine

/-! ### A result that is inexact and in range -/

/-- A count of many bits that is odd is no number of the type, so a result that is neither tiny nor too large is just inexact. -/
theorem odd_result_flags {t : Ty} (hF : t.isF = true) {q : Nat} (hq : 2 ^ 40 ≤ q) {k : Int} {v : BitVec t.bits} {f : Flags}
    (hlow : (2 : Rat) ^ (1 - biasOf t) ≤ (2 * q + 1 : Nat) * 2 ^ k) (hhigh : (2 * q + 1 : Nat) * 2 ^ k ≤ (2 : Rat) ^ biasOf t)
    (h : Rounded t 0 ((2 * q + 1 : Nat) * 2 ^ k) v f) : f = Fl.nx := by
  have ht := Ty.isFloat_of_isF hF
  have hk : (0 : Rat) < 2 ^ k := by positivity
  have hy : (0 : Rat) < (2 * q + 1 : Nat) * 2 ^ k := by positivity
  have hgap : (q : Rat) * 2 ^ (k + 1) < (2 * q + 1 : Nat) * 2 ^ k ∧ (2 * q + 1 : Nat) * 2 ^ k < (q + 1 : Rat) * 2 ^ (k + 1) := by
    rw [zpow_add_one₀ (by norm_num)]
    push_cast
    constructor <;> linarith
  have hin : ¬overflows t 0 ((2 * q + 1 : Nat) * 2 ^ k) := by
    have htop := gridVal_top hF
    have hbelow := gridVal_strictMono t (Nat.lt_succ_self (topCode t))
    have hpos := gridVal_strictMono t (show 0 < topCode t by obtain rfl | rfl | rfl := isF_cases hF <;> decide)
    rw [zpow_add_one₀ (by norm_num)] at htop
    rw [gridVal_zero] at hpos
    rw [overflows_eq ht, if_pos rfl, if_neg (by rintro rfl; exact absurd hF (by decide)), abs_of_pos hy]
    linarith
  have hnottiny : ¬tiny t 0 ((2 * q + 1 : Nat) * 2 ^ k) := by
    have htiny := tiny_iff t 0 false hy
    rw [sgn, if_neg (by decide), one_mul, RoundsBelow, if_pos rfl] at htiny
    rw [htiny]
    have : (0 : Rat) < 2 ^ (1 - biasOf t) / 2 ^ (mantBits t + 1) := by positivity
    linarith
  have hne : number t v ≠ (2 * q + 1 : Nat) * 2 ^ k := by
    intro heq
    have hmag := special_eq_false.mp (h.finite hin)
    have hval : gridVal t (magnitude t v) = (2 * q + 1 : Nat) * 2 ^ k := by
      rw [← abs_of_pos hy, ← heq, number_eq ht, abs_sgn_mul, abs_of_nonneg (gridVal_nonneg t _)]
    rcases (breakPoint_gridVal (t := t) (c := magnitude t v) (by omega)).off_gap hq (k + 1) with hside | hside
    · linarith [hgap.1]
    · linarith [hgap.2]
  exact (h.inexact hin hne).2 hnottiny

/-! ### R133 -/

/-- R133: of the numbers −1 and 1 the power is exact. -/
theorem fexfV_unit (neg : Bool) {m : Nat} {e : Int} (h : (m : Rat) * 2 ^ e = 1) :
    fexfV (.fin neg m e) = (.fin false 1 (if neg then -1 else 1), 0) := by
  have hm : m ≠ 0 := by rintro rfl; simp at h
  have hcmp : cmpV (.fin false m e) (.fin false 1 0) = .eq := by rw [compare_units, h]; norm_num [sgn]
  simp only [fexfV, beq_iff_eq, hm, if_false, hcmp]

theorem fexfV_above (neg : Bool) {m : Nat} {e : Int} (h : 1 < (m : Rat) * 2 ^ e) : fexfV (.fin neg m e) = (.nan false, Fl.nv) := by
  have hm : m ≠ 0 := by rintro rfl; norm_num at h
  have hcmp : cmpV (.fin false m e) (.fin false 1 0) = .gt := by
    rw [compare_units, compare_gt_iff_gt]
    simpa [sgn] using h
  simp only [fexfV, beq_iff_eq, hm, if_false, hcmp]

/-- R133: below one the model takes the Taylor sum of a negative power of two's count. -/
theorem fexfV_below (neg : Bool) {m : Nat} (hm : m ≠ 0) {e : Int} (h : (m : Rat) * 2 ^ e < 1) : ∃ j : Nat, e = -(j : Int) ∧ m < 2 ^ j ∧
    fexfV (.fin neg m e) = (.fin false (2 * (expGo (expArg neg m j) 60 expUnit).toNat + 1) (-193), 0) := by
  have hm1 : (1 : Rat) ≤ m := by exact_mod_cast Nat.one_le_iff_ne_zero.mpr hm
  have he : e < 0 := by
    by_contra hge
    have := one_le_zpow₀ (a := (2 : Rat)) (by norm_num) (not_lt.mp hge)
    nlinarith
  obtain ⟨j, rfl⟩ : ∃ j : Nat, e = -(j : Int) := ⟨e.natAbs, by omega⟩
  have hcmp : cmpV (.fin false m (-(j : Int))) (.fin false 1 0) = .lt := by
    rw [compare_units, compare_lt_iff_lt]
    simpa [sgn] using h
  refine ⟨j, rfl, ?_, ?_⟩
  · rw [zpow_neg, zpow_natCast, ← div_eq_mul_inv, div_lt_one (by positivity)] at h
    exact_mod_cast h
  · simp only [fexfV, beq_iff_eq, hm, if_false, hcmp, exp2Mag_eq neg m (show j ≠ 0 by omega)]

/-- The sum with its last bit, as a number. -/
def expSum (neg : Bool) (m j : Nat) : Rat := (2 * (expGo (expArg neg m j) 60 expUnit).toNat + 1 : Nat) * 2 ^ (-193 : Int)

section Sum
variable {m j : Nat} (hm : m < 2 ^ j) (neg : Bool)
include hm

/-- A power of an exponent in the range. -/
theorem power_range : 1 / 2 ≤ (2 : ℝ) ^ ((if neg then -1 else 1) * (m / 2 ^ j) : ℝ) ∧
    (2 : ℝ) ^ ((if neg then -1 else 1) * (m / 2 ^ j) : ℝ) ≤ 2 := by
  have hm1 : (m : ℝ) / 2 ^ j ≤ 1 := by rw [div_le_one (by positivity)]; exact_mod_cast hm.le
  have hm0 : (0 : ℝ) ≤ m / 2 ^ j := by positivity
  have hrange : (-1 : ℝ) ≤ (if neg then -1 else 1) * (m / 2 ^ j) ∧ (if neg then -1 else 1) * (m / 2 ^ j : ℝ) ≤ 1 := by
    cases neg
    · simp; constructor <;> linarith
    · simp; constructor <;> linarith
  constructor
  · calc (1 / 2 : ℝ) = 2 ^ (-1 : ℝ) := by rw [Real.rpow_neg_one]; norm_num
      _ ≤ _ := Real.rpow_le_rpow_of_exponent_le (by norm_num) hrange.1
  · calc _ ≤ (2 : ℝ) ^ (1 : ℝ) := Real.rpow_le_rpow_of_exponent_le (by norm_num) hrange.2
      _ = 2 := Real.rpow_one 2

theorem two_pow_le_expGo : 2 ^ 190 ≤ expGo (expArg neg m j) 60 expUnit := by
  have hU : (0 : ℝ) < expUnit := by exact_mod_cast expUnit_pos
  have hnear := (abs_le.mp (expGo_near_power hm neg)).1
  have hquarter : (1 / 4 : ℝ) ≤ expGo (expArg neg m j) 60 expUnit / expUnit := by linarith [(power_range hm neg).1]
  rw [le_div_iff₀ hU] at hquarter
  have hunit : (1 / 4 : ℝ) * expUnit = 2 ^ 190 := by norm_num [expUnit]
  rw [hunit] at hquarter
  exact_mod_cast hquarter

theorem many_bits : 2 ^ 40 ≤ (expGo (expArg neg m j) 60 expUnit).toNat := by
  have := two_pow_le_expGo hm neg
  omega

theorem expSum_eq : (expSum neg m j : ℝ) = expGo (expArg neg m j) 60 expUnit / expUnit + 1 / (2 * expUnit) := by
  have hnonneg : 0 ≤ expGo (expArg neg m j) 60 expUnit := le_trans (by positivity) (two_pow_le_expGo hm neg)
  have hcast : ((expGo (expArg neg m j) 60 expUnit).toNat : ℝ) = expGo (expArg neg m j) 60 expUnit := by
    exact_mod_cast Int.toNat_of_nonneg hnonneg
  have hscale : (2 : ℝ) ^ (-193 : Int) = 1 / (2 * expUnit) := by norm_num [expUnit]
  rw [expSum]
  push_cast
  rw [hcast, hscale]
  field_simp

/-- R133: the sum is near enough to the power. -/
theorem expSum_near : |(expSum neg m j : ℝ) - 2 ^ ((if neg then -1 else 1) * (m / 2 ^ j) : ℝ)| ≤ 1 / 2 ^ 30 := by
  have hnear := expGo_near_power hm neg
  have hbit0 : (0 : ℝ) ≤ 1 / (2 * expUnit) := by positivity
  have hbit : (1 : ℝ) / (2 * expUnit) ≤ 1 / 10 ^ 10 := by norm_num [expUnit]
  rw [abs_le] at hnear
  rw [expSum_eq hm, abs_le]
  constructor <;> linarith

theorem expSum_range : 1 / 4 ≤ expSum neg m j ∧ expSum neg m j ≤ 4 := by
  have hnear := abs_le.mp (expSum_near hm neg)
  obtain ⟨hlo, hhi⟩ := power_range hm neg
  have hreal : ((1 / 4 : Rat) : ℝ) ≤ expSum neg m j ∧ (expSum neg m j : ℝ) ≤ ((4 : Rat) : ℝ) := by
    push_cast
    constructor <;> linarith
  exact ⟨Rat.cast_le.mp hreal.1, Rat.cast_le.mp hreal.2⟩

theorem one_lt_expSum : 1 < expSum false m j := by
  have hge := unit_le_expGo (expArg_nonneg hm).1 60 expUnit le_rfl
  have hcount : 2 ^ 193 < 2 * (expGo (expArg false m j) 60 expUnit).toNat + 1 := by
    rw [expUnit] at hge ⊢
    omega
  rw [expSum, zpow_neg, ← div_eq_mul_inv, one_lt_div (by positivity)]
  exact_mod_cast hcount

theorem expSum_lt_one : expSum true m j < 1 := by
  have hlt : expGo (expArg true m j) 60 expUnit < expUnit :=
    expGo_lt_unit (expArg_neg hm).1 (expArg_neg hm).2.1 59 expUnit (by decide) le_rfl
  have hcount : 2 * (expGo (expArg true m j) 60 expUnit).toNat + 1 < 2 ^ 193 := by
    rw [expUnit] at hlt ⊢
    omega
  rw [expSum, zpow_neg, ← div_eq_mul_inv, div_lt_one (by positivity)]
  exact_mod_cast hcount

end Sum

/-- R133: the power of a number between −1 and 1. -/
theorem fexf_fin {t : Ty} (hF : t.isF = true) {a : BitVec t.bits} (ha : special t a = false ∧ isZero t a = false)
    (hone : |number t a| < 1) {sc : Int} (hsc : -8 ≤ sc ∧ sc < 8) : (floatResult t .rne .none sc (fexfV (val t a))).2 = Fl.nx ∧
      ∃ q : Rat, Rounded t 0 (q * 2 ^ sc) (floatResult t .rne .none sc (fexfV (val t a))).1
          (floatResult t .rne .none sc (fexfV (val t a))).2 ∧
        |(q : ℝ) - (2 : ℝ) ^ ((number t a : Rat) : ℝ)| ≤ 1 / 2 ^ 30 ∧ (0 < number t a → 1 < q) ∧ (number t a < 0 → q < 1) := by
  have ht := Ty.isFloat_of_isF hF
  obtain ⟨m, e, hv, hm, hnum⟩ := val_finite ht ha
  have hpos : (0 : Rat) < m * 2 ^ e := by positivity
  rw [hnum, abs_sgn_mul, abs_of_pos hpos] at hone
  obtain ⟨j, rfl, hmj, hres⟩ := fexfV_below a.msb hm hone
  have hcast : ((number t a : Rat) : ℝ) = (if a.msb then -1 else 1) * (m / 2 ^ j) := by
    rw [hnum, sgn, zpow_neg, zpow_natCast]
    push_cast
    rw [← div_eq_mul_inv]
    cases a.msb <;> simp
  have hround := result_exact hF sc (n := 0) (by decide) false (2 * (expGo (expArg a.msb m j) 60 expUnit).toNat + 1) (-193)
  rw [show sgn false = 1 from rfl, one_mul] at hround
  obtain ⟨hlo, hhi⟩ := expSum_range hmj a.msb
  have hscale : (2 : Rat) ^ (-8 : Int) ≤ 2 ^ sc ∧ (2 : Rat) ^ sc ≤ 2 ^ (7 : Int) :=
    ⟨zpow_le_zpow_right₀ (by norm_num) hsc.1, zpow_le_zpow_right₀ (by norm_num) (by omega)⟩
  have hlow : (2 : Rat) ^ (1 - biasOf t) ≤ expSum a.msb m j * 2 ^ sc := calc
    (2 : Rat) ^ (1 - biasOf t) ≤ 2 ^ (-10 : Int) :=
      zpow_le_zpow_right₀ (by norm_num) (by obtain rfl | rfl | rfl := isF_cases hF <;> decide)
    _ = 1 / 4 * 2 ^ (-8 : Int) := by norm_num
    _ ≤ expSum a.msb m j * 2 ^ sc := mul_le_mul hlo hscale.1 (by positivity) (le_trans (by norm_num) hlo)
  have hhigh : expSum a.msb m j * 2 ^ sc ≤ (2 : Rat) ^ biasOf t := calc
    expSum a.msb m j * 2 ^ sc ≤ 4 * 2 ^ (7 : Int) := mul_le_mul hhi hscale.2 (by positivity) (by norm_num)
    _ = 2 ^ (9 : Int) := by norm_num
    _ ≤ 2 ^ biasOf t := zpow_le_zpow_right₀ (by norm_num) (by obtain rfl | rfl | rfl := isF_cases hF <;> decide)
  have hsum : expSum a.msb m j * 2 ^ sc = (2 * (expGo (expArg a.msb m j) 60 expUnit).toNat + 1 : Nat) * 2 ^ (-193 + sc) := by
    rw [expSum, zpow_add₀ (by norm_num), mul_assoc]
  have hflag : Rounded t 0 (expSum a.msb m j * 2 ^ sc) _ _ := hround
  rw [hsum] at hlow hhigh hflag
  rw [hv, hres]
  refine ⟨odd_result_flags hF (many_bits hmj a.msb) hlow hhigh hflag, expSum a.msb m j, hround, ?_, fun hsign => ?_, fun hsign => ?_⟩
  · rw [hcast]
    exact expSum_near hmj a.msb
  · have hmsb : a.msb = false := by
      rw [← sgn_neg_iff a.msb hpos, ← hnum, decide_eq_false_iff_not]
      exact not_lt.mpr hsign.le
    rw [hmsb]
    exact one_lt_expSum hmj
  · have hmsb : a.msb = true := by
      rw [← sgn_neg_iff a.msb hpos, ← hnum, decide_eq_true_eq]
      exact hsign
    rw [hmsb]
    exact expSum_lt_one hmj

end Sys2Proof.Machine

/-! Proofs: the special cases of division, root, exponent and rounding lanes (R128, R132 to R135). -/

namespace Sys2Proof.Machine

/-! ### Lanes that finish a value -/

/-- R127: a lane instruction of one or two sources that finishes, without a clamp, what a function of the sources' values gives. -/
theorem givesFloatLanes_of_value {op : Nat} {mk : RegForm → Instr} {ok : RegForm → Prop}
    {p : (x : RegForm) → Nat → BitVec x.t.bits → BitVec x.t.bits → BitVec x.t.bits → BitVec x.t.bits → Flags → Prop}
    (mode : RM → RM) (sc : RegForm → Int)
    (F : RegForm → RM → FVal → FVal → FVal × Flags) (hop : op ≠ 0x1C7 ∧ op ≠ 0x1C2 ∧ op ≠ 0x185) (h1 : (regSpec op).s1 = .v)
    (h2 : (regSpec op).s2 = .v ∨ ∀ x m a b b' c r f, p x m a b c r f → p x m a b' c r f)
    (hclamp : ∀ x, ok x → x.clamp = .none)
    (hexec : ∀ x s, exec (mk x) s = lane3 op x s fun h a b _ =>
      finishF x.t (mode h.rm) x.clamp (sc x) (F x h.rm (valF x.t a) (valF x.t b)))
    (hp : ∀ (x : RegForm) (n : Nat) (a b c : BitVec x.t.bits), x.t.isF = true → ok x → n < 4 →
      p x n a b c (floatResult x.t (mode (rmOf n)) .none (sc x) (F x (rmOf n) (val x.t a) (val x.t b))).1
        (floatResult x.t (mode (rmOf n)) .none (sc x) (F x (rmOf n) (val x.t a) (val x.t b))).2) : GivesFloatLanes op mk ok p := by
  intro x s h ht hok
  obtain ⟨t, hrun, hframe, hrc, hflags, hlane⟩ := lane3_spec (op := op) (x := x) (s := s)
    (fun h a b _ => finishF x.t (mode h.rm) x.clamp (sc x) (F x h.rm (valF x.t a) (valF x.t b))) h hop (.inr ht)
  refine ⟨t, (hexec x s).trans hrun, hframe, hrc, _, hflags, fun i hi => ⟨fun hact => ?_, fun hact => ?_⟩⟩
  · rw [hlane i hi, if_pos hact, ← laneSrc_float ht h1]
    have hout := hp x _ (BitVec.ofNat x.t.bits (laneSrc x s (regSpec op).s1 x.m1 x.s1 i))
      (BitVec.ofNat x.t.bits (laneSrc x s (regSpec op).s2 x.m2 x.s2 i))
      (floatMod x.t x.m3 (lane x.t (rowAt s s.cur x.s3 0) i)) ht hok (mode_lt s.cur)
    rw [← Thread.rm_eq, ← valF_eq, ← valF_eq, ← hclamp x hok] at hout
    rcases h2 with h2 | h2
    · rw [← laneSrc_float ht h2]
      exact hout
    · exact h2 _ _ _ _ _ _ _ _ hout
  · rw [hlane i hi, if_neg (by simp [hact])]

theorem scale_range (x : RegForm) : -8 ≤ x.scale.toInt ∧ x.scale.toInt < 8 := ⟨BitVec.le_toInt x.scale, BitVec.toInt_lt⟩

section Finish
variable {t : Ty} (hF : t.isF = true) {mode : RM} {sc : Int} {p : FVal × Flags} {fl : Flags}
include hF

theorem finish_nan (h : p = (.nan false, fl)) :
    (floatResult t mode .none sc p).1 = canonical t ∧ (floatResult t mode .none sc p).2 = fl := by
  rw [h, result_nan hF]
  exact ⟨rfl, rfl⟩

theorem finish_inf {neg : Bool} (h : p = (.inf neg, fl)) :
    (floatResult t mode .none sc p).1 = infinity t neg ∧ (floatResult t mode .none sc p).2 = fl := by
  rw [h, result_inf hF]
  exact ⟨rfl, rfl⟩

theorem finish_zero {neg : Bool} {e : Int} (h : p = (.fin neg 0 e, fl)) :
    (floatResult t mode .none sc p).1 = zeroOf t neg ∧ (floatResult t mode .none sc p).2 = fl := by
  rw [h, result_zero hF]
  exact ⟨rfl, rfl⟩

/-- An infinite operand that is the result. -/
theorem finish_same_inf {a : BitVec t.bits} (ha : isInfinite t a = true) (h : p = (val t a, fl)) :
    (floatResult t mode .none sc p).1 = a ∧ (floatResult t mode .none sc p).2 = fl := by
  have hinf := eq_infinity_of_isInfinite (Ty.isFloat_of_isF hF) ha
  rw [val_inf (Ty.isFloat_of_isF hF) ha] at h
  obtain ⟨h1, h2⟩ := finish_inf hF (mode := mode) (sc := sc) h
  exact ⟨h1.trans hinf.symm, h2⟩

/-- A zero operand that is the result. -/
theorem finish_same_zero {a : BitVec t.bits} (ha : isZero t a = true) (h : p = (val t a, fl)) :
    (floatResult t mode .none sc p).1 = a ∧ (floatResult t mode .none sc p).2 = fl := by
  have hzero := eq_zeroOf_of_isZero ha
  rw [val_zero (Ty.isFloat_of_isF hF) ha] at h
  obtain ⟨h1, h2⟩ := finish_zero hF (mode := mode) (sc := sc) h
  exact ⟨h1.trans hzero.symm, h2⟩

end Finish

/-! ### Values of special cases -/

theorem frcpV_inf (neg : Bool) : frcpV (.inf neg) = (.fin neg 0 0, 0) := by cases neg <;> rfl

theorem frcpV_nan (s : Bool) : frcpV (.nan s) = (.nan false, if s = true then Fl.nv else 0) := by cases s <;> rfl

theorem number_or_infinity {t : Ty} {a : BitVec t.bits} (h : isNaN t a = false) : isInfinite t a = true ∨ special t a = false := by
  rcases code_cases t a with ⟨hn, -, -⟩ | ⟨hi, -, -⟩ | ⟨hf, -, -⟩
  · exact absurd hn (by simp [h])
  · exact .inl hi
  · exact .inr hf

section Cases
variable {t : Ty} (ht : t.isFloat = true) {a b : BitVec t.bits}
include ht

/-! ### R128 -/

theorem fdivV_nan (h : isNaN t a = true ∨ isNaN t b = true) : fdivV (val t a) (val t b) =
    (.nan false, if isSignalling t a = true ∨ isSignalling t b = true then Fl.nv else 0) := by
  rw [← sigFlags_pair ht]
  rcases h with h | h
  · rw [val_nan ht h]; rfl
  · rw [val_nan ht h]; cases val t a <;> rfl

theorem fdivV_zero (h : isZero t a = true ∧ special t b = false ∧ isZero t b = false ∨ special t a = false ∧ isInfinite t b = true) :
    ∃ e : Int, fdivV (val t a) (val t b) = (.fin (a.msb != b.msb) 0 e, 0) := by
  rcases h with ⟨ha, hb⟩ | ⟨ha, hb⟩
  · obtain ⟨m, e, hv, hm, -⟩ := val_finite ht hb
    rw [val_zero ht ha, hv, fdivV_fin _ _ _ _ _ hm, divMag_zero]
    exact ⟨_, rfl⟩
  · obtain ⟨m, e, hv, -, -⟩ := val_fin ht ha
    rw [hv, val_inf ht hb]
    exact ⟨0, rfl⟩

theorem fdivV_inf (ha : isInfinite t a = true) (hb : special t b = false) :
    fdivV (val t a) (val t b) = (.inf (a.msb != b.msb), 0) := by
  obtain ⟨m, e, hv, -, -⟩ := val_fin ht hb
  rw [val_inf ht ha, hv]
  rfl

theorem fdivV_by_zero {n : Bool} {m : Nat} (hm : m ≠ 0) (e : Int) (hb : isZero t b = true) :
    fdivV (.fin n m e) (val t b) = (.inf (n != b.msb), Fl.dz) := by
  rw [val_zero ht hb]
  simp [fdivV, hm]

theorem fdivV_invalid (h : isZero t a = true ∧ isZero t b = true ∨ isInfinite t a = true ∧ isInfinite t b = true) :
    fdivV (val t a) (val t b) = (.nan false, Fl.nv) := by
  rcases h with ⟨ha, hb⟩ | ⟨ha, hb⟩
  · rw [val_zero ht ha, val_zero ht hb]; rfl
  · rw [val_inf ht ha, val_inf ht hb]; rfl

theorem fsqrtV_invalid (h : isNaN t a = false ∧ isZero t a = false ∧ a.msb = true) : fsqrtV (val t a) = (.nan false, Fl.nv) := by
  obtain ⟨hn, hz, hs⟩ := h
  rcases number_or_infinity hn with hi | hf
  · rw [val_inf ht hi, hs]; rfl
  · obtain ⟨m, e, hv, hm, -⟩ := val_finite ht ⟨hf, hz⟩
    simp [hv, fsqrtV, hm, hs]

theorem frsqV_invalid (h : isNaN t a = false ∧ isZero t a = false ∧ a.msb = true) : frsqV (val t a) = (.nan false, Fl.nv) := by
  obtain ⟨hn, hz, hs⟩ := h
  rcases number_or_infinity hn with hi | hf
  · rw [val_inf ht hi, hs]; rfl
  · obtain ⟨m, e, hv, hm, -⟩ := val_finite ht ⟨hf, hz⟩
    simp [hv, frsqV, hm, hs]

/-! ### R133 and R134 -/

theorem fexfV_of_unit {neg : Bool} (hf : special t a = false) (h : number t a = sgn neg) :
    fexfV (val t a) = (.fin false 1 (if neg then -1 else 1), 0) := by
  obtain ⟨m, e, hv, hnum, -⟩ := val_fin ht hf
  have hnonneg : (0 : Rat) ≤ m * 2 ^ e := by positivity
  have habs : (m : Rat) * 2 ^ e = 1 := by
    rw [← abs_of_nonneg hnonneg, ← abs_sgn_mul a.msb, ← hnum, h]
    cases neg <;> norm_num [sgn]
  have hmsb : a.msb = neg := by
    rw [hnum, habs, mul_one] at h
    revert h
    cases a.msb <;> cases neg <;> norm_num [sgn]
  rw [hv, hmsb, fexfV_unit neg habs]

theorem fexfV_invalid (h : isInfinite t a = true ∨ special t a = false ∧ 1 < |number t a|) : fexfV (val t a) = (.nan false, Fl.nv) := by
  rcases h with h | ⟨hf, habove⟩
  · rw [val_inf ht h]; rfl
  · obtain ⟨m, e, hv, hnum, -⟩ := val_fin ht hf
    rw [hnum, abs_sgn_mul, abs_of_nonneg (by positivity)] at habove
    rw [hv, fexfV_above _ habove]

theorem finsxV_nan (h : isNaN t a = true ∨ isNaN t b = true) : finsxV (val t a) (val t b) =
    (.nan false, if isSignalling t a = true ∨ isSignalling t b = true then Fl.nv else 0) := by
  rw [← sigFlags_pair ht]
  rcases h with h | h
  · rw [val_nan ht h]; rfl
  · rw [val_nan ht h]; cases val t a <;> rfl

theorem finsxV_zero (ha : isZero t a = true) (hb : special t b = false ∨ isInfinite t b = true ∧ b.msb = true) :
    ∃ e : Int, finsxV (val t a) (val t b) = (.fin a.msb 0 e, 0) := by
  rw [val_zero ht ha]
  rcases hb with hb | ⟨hb, hs⟩
  · obtain ⟨q, -, hres⟩ := finsxV_fin a.msb 0 (unitExp t) ht hb
    exact ⟨_, hres⟩
  · rw [val_inf ht hb, hs]
    exact ⟨_, rfl⟩

theorem finsxV_by_inf (ha : special t a = false ∧ isZero t a = false) (hb : isInfinite t b = true) :
    finsxV (val t a) (val t b) = (if b.msb then .fin a.msb 0 0 else .inf a.msb, 0) := by
  obtain ⟨m, e, hv, hm, -⟩ := val_finite ht ha
  rw [hv, val_inf ht hb]
  cases b.msb <;> simp [finsxV, hm]

theorem finsxV_inf (ha : isInfinite t a = true) (hb : special t b = false ∨ isInfinite t b = true ∧ b.msb = false) :
    finsxV (val t a) (val t b) = (val t a, 0) := by
  rw [val_inf ht ha]
  rcases hb with hb | ⟨hb, hs⟩
  · obtain ⟨m, e, hv, -, -⟩ := val_fin ht hb
    rw [hv]; rfl
  · rw [val_inf ht hb, hs]; rfl

theorem finsxV_invalid (h : isZero t a = true ∧ isInfinite t b = true ∧ b.msb = false ∨
    isInfinite t a = true ∧ isInfinite t b = true ∧ b.msb = true) : finsxV (val t a) (val t b) = (.nan false, Fl.nv) := by
  rcases h with ⟨ha, hb, hs⟩ | ⟨ha, hb, hs⟩
  · rw [val_zero ht ha, val_inf ht hb, hs]; rfl
  · rw [val_inf ht ha, val_inf ht hb, hs]; rfl

end Cases

/-! ### Results of quotients and roots -/

section Rounding
variable {t : Ty} (hF : t.isF = true) {n : Nat} (hn : n < 4) (sc : Int)
include hF hn

/-- R128: a quotient of numbers is rounded once. -/
theorem fdiv_fin (n1 : Bool) {m1 : Nat} (e1 : Int) (h1 : m1 ≠ 0) {b : BitVec t.bits} (hb : special t b = false ∧ isZero t b = false) :
    Rounded t n (sgn n1 * (m1 * 2 ^ e1) / number t b * 2 ^ sc) (floatResult t (rmOf n) .none sc (fdivV (.fin n1 m1 e1) (val t b))).1
      (floatResult t (rmOf n) .none sc (fdivV (.fin n1 m1 e1) (val t b))).2 := by
  obtain ⟨m, e, hv, hm, hnum⟩ := val_finite (Ty.isFloat_of_isF hF) hb
  have hquot : sgn n1 * (m1 * 2 ^ e1) / number t b = sgn (n1 != b.msb) * (m1 * 2 ^ e1 / (m * 2 ^ e)) := by
    have hinv : (sgn b.msb)⁻¹ = sgn b.msb := by cases b.msb <;> norm_num [sgn]
    rw [hnum, sgn_xor, mul_div_mul_comm, div_eq_mul_inv (sgn n1), hinv]
  rw [hv, fdivV_fin _ _ _ _ _ hm, hquot]
  exact result_standsFor hF sc hn _ (quotient_standsFor h1 hm e1 e)

/-- R128: a root is rounded as two rationals are that it lies between. -/
theorem root_result {m : Nat} {e : Int} {q : Rat} (h : StandsForRoot m e q) : ∃ lo hi : Rat,
    0 < lo ∧ lo ^ 2 ≤ q ∧ 0 < hi ∧ q ≤ hi ^ 2 ∧
      Rounded t n (lo * 2 ^ sc) (floatResult t (rmOf n) .none sc (.fin false m e, 0)).1
        (floatResult t (rmOf n) .none sc (.fin false m e, 0)).2 ∧
      Rounded t n (hi * 2 ^ sc) (floatResult t (rmOf n) .none sc (.fin false m e, 0)).1
        (floatResult t (rmOf n) .none sc (.fin false m e, 0)).2 := by
  obtain ⟨lo, hi, hlo0, hlo, hhi0, hhi, hl, hh⟩ := h
  have hrl := result_standsFor hF sc hn false hl
  have hrh := result_standsFor hF sc hn false hh
  rw [show sgn false = 1 from rfl, one_mul] at hrl hrh
  exact ⟨lo, hi, hlo0, hlo, hhi0, hhi, hrl, hrh⟩

end Rounding

end Sys2Proof.Machine

/-! Proofs: division, root, exponent and rounding lanes (R128, R132 to R135). -/

namespace Sys2Proof.Machine

/-- Settles O23: each lane finishes the value of a function of its sources' values, whose cases the lemmas above give. -/
theorem vectorSpecials : Obligations.VectorSpecials := by
  unfold Obligations.VectorSpecials
  intro plain nan quiet finite root
  refine ⟨
    givesFloatLanes_of_value id (fun x => scaleOf x.scale) (fun _ _ a b => fdivV a b) (by decide) rfl (.inl rfl) (fun _ h => h)
      (fun _ _ => rfl) fun x n a b _ hF _ hn => ?div,
    givesFloatLanes_of_value id (fun x => scaleOf x.scale) (fun _ _ a _ => frcpV a) (by decide) rfl
      (.inr fun _ _ _ _ _ _ _ _ h => h) (fun _ h => h) (fun _ _ => rfl) fun x n a _ _ hF _ hn => ?rcp,
    givesFloatLanes_of_value id (fun x => scaleOf x.scale) (fun _ _ a _ => frsqV a) (by decide) rfl
      (.inr fun _ _ _ _ _ _ _ _ h => h) (fun _ h => h) (fun _ _ => rfl) fun x n a _ _ hF _ hn => ?rsq,
    givesFloatLanes_of_value id (fun x => scaleOf x.scale) (fun _ _ a _ => fsqrtV a) (by decide) rfl
      (.inr fun _ _ _ _ _ _ _ _ h => h) (fun _ h => h) (fun _ _ => rfl) fun x n a _ _ hF _ hn => ?sqrt,
    givesFloatLanes_of_value id (fun _ => 0) (fun x rm a _ => frintV (frintMode rm x.s3.num5.toNat) a) (by decide) rfl
      (.inr fun _ _ _ _ _ _ _ _ h => h) (fun _ h => h.1) (fun _ _ => rfl) fun x n a _ _ hF _ hn => ?rint,
    givesFloatLanes_of_value (fun _ => .rne) (fun x => scaleOf x.scale) (fun _ _ a _ => fexfV a) (by decide) rfl
      (.inr fun _ _ _ _ _ _ _ _ h => h) (fun _ h => h) (fun _ _ => rfl) fun x n a _ _ hF _ _ => ?exf,
    givesFloatLanes_of_value id (fun x => scaleOf x.scale) (fun _ _ a b => finsxV a b) (by decide) rfl (.inl rfl) (fun _ h => h)
      (fun _ _ => rfl) fun x n a b _ hF _ hn => ?insx,
    givesFloatLanes_of_value id (fun _ => 0) (fun _ _ a _ => fgetxV a) (by decide) rfl
      (.inr fun _ _ _ _ _ _ _ _ h => h) (fun _ h => h) (fun _ _ => rfl) fun x n a _ _ hF _ hn => ?getx⟩
  case div =>
    have ht := Ty.isFloat_of_isF hF
    refine ⟨fun ha hb => ?_, fun ha hb => ?_, fun ha hb => ?_, fun ha hb => ?_, fun h => ?_, fun ha hb => ?_, fun h => ?_⟩
    · obtain ⟨m, e, hv, hm, hnum⟩ := val_finite ht ha
      rw [hv, hnum]
      exact fdiv_fin hF hn _ a.msb e hm hb
    · obtain ⟨e, hv⟩ := fdivV_zero ht (.inl ⟨ha, hb⟩)
      exact finish_zero hF (by rw [hv])
    · exact finish_inf hF (by rw [fdivV_inf ht ha hb])
    · obtain ⟨m, e, hv, hm, -⟩ := val_finite ht ha
      exact finish_inf hF (by rw [hv, fdivV_by_zero ht hm e hb])
    · exact finish_nan hF (by rw [fdivV_invalid ht h])
    · obtain ⟨e, hv⟩ := fdivV_zero ht (.inr ⟨ha, hb⟩)
      exact finish_zero hF (by rw [hv])
    · exact finish_nan hF (by rw [fdivV_nan ht h])
  case rcp =>
    have ht := Ty.isFloat_of_isF hF
    refine ⟨fun ha => ?_, fun ha => ?_, fun ha => ?_, fun ha => ?_⟩
    · have h := fdiv_fin hF hn x.scale.toInt false 0 one_ne_zero ha
      rw [show sgn false * ((1 : Nat) * 2 ^ (0 : Int)) = 1 by norm_num [sgn]] at h
      exact h
    · exact finish_inf hF (by rw [frcpV, fdivV_by_zero ht one_ne_zero 0 ha, Bool.false_bne])
    · exact finish_zero hF (by rw [val_inf ht ha, frcpV_inf])
    · exact finish_nan hF (by rw [val_nan ht ha, frcpV_nan])
  case rsq =>
    have ht := Ty.isFloat_of_isF hF
    refine ⟨fun ha hs => ?_, fun ha => ?_, fun ha hs => ?_, fun h => ?_, fun ha => ?_⟩
    · obtain ⟨m, e, hv, hm, hnum⟩ := val_finite ht ha
      obtain ⟨q, k, hres, hroot⟩ := frsqV_fin hm e
      rw [hv, hnum, hs, hres, show sgn false = 1 from rfl, one_mul]
      exact root_result hF hn _ hroot
    · exact finish_inf hF (by rw [val_zero ht ha]; rfl)
    · exact finish_zero hF (by rw [val_inf ht ha, hs]; rfl)
    · exact finish_nan hF (by rw [frsqV_invalid ht h])
    · exact finish_nan hF (by rw [val_nan ht ha]; rfl)
  case sqrt =>
    have ht := Ty.isFloat_of_isF hF
    refine ⟨fun ha hs => ?_, fun ha hs => ?_, fun ha => ?_, fun h => ?_, fun ha => ?_⟩
    · obtain ⟨m, e, hv, hm, hnum⟩ := val_finite ht ha
      have hres : fsqrtV (.fin false m e) = (.fin false (sqrtMag m e).1 (sqrtMag m e).2, 0) := by simp [fsqrtV, hm]
      rw [hv, hnum, hs, hres, show sgn false = 1 from rfl, one_mul]
      exact root_result hF hn _ (sqrtMag_standsForRoot hm e)
    · exact finish_same_inf hF ha (by rw [val_inf ht ha, hs]; rfl)
    · exact finish_same_zero hF ha (by rw [val_zero ht ha]; rfl)
    · exact finish_nan hF (by rw [fsqrtV_invalid ht h])
    · exact finish_nan hF (by rw [val_nan ht ha]; rfl)
  case rint =>
    have ht := Ty.isFloat_of_isF hF
    refine ⟨fun ha => ?_, fun ha => ?_, fun ha => ?_⟩
    · rw [frintMode_rmOf]
      exact frint_fin hF ha hn (by split <;> assumption)
    · exact finish_same_inf hF ha (by rw [val_inf ht ha]; rfl)
    · exact finish_nan hF (by rw [val_nan ht ha]; rfl)
  case exf =>
    have ht := Ty.isFloat_of_isF hF
    have hexact (m : Nat) (e : Int) := result_exact hF x.scale.toInt (n := 0) (by decide) false m e
    refine ⟨fun ha => ?_, fun ha h1 => ?_, fun ha h1 => ?_, fun ha h1 => ?_, fun h => ?_, fun ha => ?_⟩
    · have h := hexact 1 0
      rw [show sgn false * ((1 : Nat) * 2 ^ (0 : Int)) = 1 by norm_num [sgn]] at h
      rw [val_zero ht ha]
      exact h
    · have h := hexact 1 1
      rw [show sgn false * ((1 : Nat) * 2 ^ (1 : Int)) = 2 by norm_num [sgn]] at h
      rw [fexfV_of_unit ht (neg := false) ha h1]
      exact h
    · have h := hexact 1 (-1)
      rw [show sgn false * ((1 : Nat) * 2 ^ (-1 : Int)) = 1 / 2 by norm_num [sgn]] at h
      rw [fexfV_of_unit ht (neg := true) ha h1]
      exact h
    · exact fexf_fin hF ha h1 (scale_range x)
    · exact finish_nan hF (by rw [fexfV_invalid ht h])
    · exact finish_nan hF (by rw [val_nan ht ha]; rfl)
  case insx =>
    have ht := Ty.isFloat_of_isF hF
    refine ⟨fun i ha hb hi => ?_, fun ha hb => ?_, fun ha hb => ?_, fun h => ?_, fun ha hb => ?_, fun h => ?_⟩
    · exact finsx_fin hF ha hb hn (scale_range x) hi
    · rw [finsxV_by_inf ht ha hb]
      cases b.msb
      · exact finish_inf hF rfl
      · exact finish_zero hF rfl
    · obtain ⟨e, hv⟩ := finsxV_zero ht ha hb
      exact finish_zero hF (by rw [hv])
    · exact finish_nan hF (by rw [finsxV_nan ht h])
    · exact finish_same_inf hF ha (finsxV_inf ht ha hb)
    · exact finish_nan hF (by rw [finsxV_invalid ht h])
  case getx =>
    have ht := Ty.isFloat_of_isF hF
    refine ⟨fun ha => fgetx_fin hF ha hn, fun ha => ?_, fun ha => ?_, fun ha => ?_⟩
    · exact finish_inf hF (by rw [val_zero ht ha]; rfl)
    · exact finish_inf hF (by rw [val_inf ht ha]; rfl)
    · exact finish_nan hF (by rw [val_nan ht ha]; rfl)

end Sys2Proof.Machine
